-- ==== Sys2Proof/Word.lean ====
section
/-! DEFINITION. The word types of the device and their plainest arithmetic (R2, R5). -/

namespace Sys2Proof

/-- A general register of a tile engine or a Sedge hart: 64 bits (R25, R297). -/
abbrev Word := BitVec 64

/-- One byte of memory. -/
abbrev Byte := BitVec 8

/-- The bits `hi` down to `lo` of a natural number read as a bit string, as a number (R5: `x[hi:lo]`). -/
def fieldOf (n hi lo : Nat) : Nat := n / 2 ^ lo % 2 ^ (hi + 1 - lo)

/-- Bit `k` of a natural number. -/
def bitOf (n k : Nat) : Bool := n / 2 ^ k % 2 == 1

/-- The signed number that the low `w` bits of `n` hold (R5: `SInt`). -/
def signed (w n : Nat) : Int :=
  if n % 2 ^ w < 2 ^ (w - 1) then (n % 2 ^ w : Nat) else (n % 2 ^ w : Nat) - (2 ^ w : Nat)

/-- The low `w` bits of an integer, as a number (R5: stored modulo `2^w`). -/
def wrapTo (w : Nat) (v : Int) : Nat := (v % (2 ^ w : Nat)).toNat

/-- A Boolean as the number 0 or 1. -/
def bit (b : Bool) : Nat := if b then 1 else 0

end Sys2Proof
end

