-- ==== Sys2Proof/Config.lean ====
section
/-! DEFINITION. What an implementation fixes and the specification does not publish: free values. None of these constants has a
body that a proof can see, so a claim about them holds whatever they are (log 2). -/

namespace Sys2Proof.Config

/-- The free choices of the device (R4), drawn one by one: draw number `n` of the run. -/
opaque freeNat : Nat → Nat

/-- Where the special function number `fn` of the F32 input `x` lies among the F32 results that R176 admits (R176: a fixed function
of the input that is not published). -/
opaque specialPick : (fn x : Nat) → Nat

/-- What memory that loses its contents in a reset holds afterwards, as addresses and bytes (log 18). -/
opaque memoryAfter : Nat → List (Nat × BitVec 8)

/-- The on-package ports, by number in the table of ports, that failed their training at a boot (R460). -/
opaque failedPorts : Nat → List Nat

/-- Entropy words of the management core (R493). -/
opaque entropy : Nat → Nat

/-- Bytes of a response that the specification leaves to the identity of the part: certificates, signatures (R447). -/
opaque identity : Nat → Nat

end Sys2Proof.Config
end

