-- ==== Sys2Proof/Machine/Sparse.lean ====
section
/-! DEFINITION. Finite maps from numbers to data, as lists of pairs in one canonical form: keys strictly rising. Memory, register
files and the tables of agents are such maps; an unlisted key holds its reset value. -/

namespace Sys2Proof.Machine

/-- A map from numbers to `α`; a list of pairs with strictly rising keys. -/
abbrev Sparse (α : Type) := List (Nat × α)

/-- The entry at `k`, if one is listed. -/
def Sparse.find {α : Type} : Sparse α → Nat → Option α
  | [], _ => none
  | (j, v) :: m, k => if k = j then some v else if k < j then none else Sparse.find m k

/-- What key `k` holds, where an unlisted key holds `d`. -/
def Sparse.get {α : Type} (d : α) (m : Sparse α) (k : Nat) : α := (m.find k).getD d

/-- The map with key `k` unlisted. -/
def Sparse.del {α : Type} : Sparse α → Nat → Sparse α
  | [], _ => []
  | (j, v) :: m, k => if k = j then m else if k < j then (j, v) :: m else (j, v) :: Sparse.del m k

/-- The map with key `k` listed as `v`. -/
def Sparse.set {α : Type} : Sparse α → Nat → α → Sparse α
  | [], k, v => [(k, v)]
  | (j, u) :: m, k, v =>
    if k = j then (k, v) :: m else if k < j then (k, v) :: (j, u) :: m else (j, u) :: Sparse.set m k v

/-- The map in which key `k` holds `v`; a key that holds the unlisted value `d` is not listed. -/
def Sparse.put {α : Type} [DecidableEq α] (d : α) (m : Sparse α) (k : Nat) (v : α) : Sparse α :=
  if v = d then m.del k else m.set k v

/-- The map in which key `k` holds `f` of what it held. -/
def Sparse.upd {α : Type} (d : α) (m : Sparse α) (k : Nat) (f : α → α) : Sparse α := m.set k (f (m.get d k))

/-- Every key is at least `lo`, and the keys rise strictly. -/
def Sparse.sortedFrom {α : Type} : Nat → Sparse α → Bool
  | _, [] => true
  | lo, (k, _) :: m => decide (lo ≤ k) && Sparse.sortedFrom (k + 1) m

/-- The keys rise strictly. -/
def Sparse.sorted {α : Type} (m : Sparse α) : Bool := Sparse.sortedFrom 0 m

/-- The canonical form: the keys rise strictly, and no entry is the unlisted value. -/
def Sparse.canonical {α : Type} [DecidableEq α] (d : α) (m : Sparse α) : Bool :=
  m.sorted && m.all (fun e => decide (e.2 ≠ d))

/-- Memory bytes from address `a` on, `n` of them, lowest address first; an unlisted byte is 0. -/
def bytesAt (m : Sparse Byte) (a : Nat) : Nat → List Byte
  | 0 => []
  | n + 1 => m.get 0 a :: bytesAt m (a + 1) n

/-- The map with the bytes `bs` from address `a` on. -/
def putBytes (m : Sparse Byte) (a : Nat) : List Byte → Sparse Byte
  | [] => m
  | b :: bs => putBytes (m.put 0 a b) (a + 1) bs

/-- The number whose bytes, least significant first, are `bs` (R2: every quantity is little-endian). -/
def ofLE : List Byte → Nat
  | [] => 0
  | b :: bs => b.toNat + 256 * ofLE bs

/-- The `n` low bytes of a number, least significant first (R2). -/
def toLE (n : Nat) (v : Nat) : List Byte :=
  match n with
  | 0 => []
  | k + 1 => BitVec.ofNat 8 (v % 256) :: toLE k (v / 256)

/-- The `n`-byte little-endian number at address `a`. -/
def readLE (m : Sparse Byte) (a n : Nat) : Nat := ofLE (bytesAt m a n)

/-- The map with the `n`-byte little-endian number `v` at address `a`. -/
def writeLE (m : Sparse Byte) (a n v : Nat) : Sparse Byte := putBytes m a (toLE n v)

/-- Applies `f` to the entry at position `i` of a list. -/
def modifyAt {α : Type} : List α → Nat → (α → α) → List α
  | [], _, _ => []
  | x :: xs, 0, f => f x :: xs
  | x :: xs, i + 1, f => x :: modifyAt xs i f

/-- The list without the entry at position `i`. -/
def dropAt {α : Type} : List α → Nat → List α
  | [], _ => []
  | _ :: xs, 0 => xs
  | x :: xs, i + 1 => x :: dropAt xs i

/-- The position of the first entry that satisfies `p`. -/
def posOf {α : Type} (p : α → Bool) : List α → Option Nat
  | [] => none
  | x :: xs => if p x then some 0 else (posOf p xs).map (· + 1)

end Sys2Proof.Machine
end

