-- ==== Sys2Proof/Machine/Aes.lean ====
section
/-! DEFINITION. AES-256-XTS, in which a home encrypts a granule on the way to DRAM (R329): the cipher of FIPS 197 and the XTS mode of IEEE
1619, which the specification names (PRESUMED, log 7). Bytes are numbers below 256. -/

namespace Sys2Proof.Machine

/-- Byte `x` of a table of 256 bytes, 32 to a row. -/
def tableByte (t : List Nat) (x : Nat) : Nat := t.getD (x / 32) 0 / 2 ^ (8 * (x % 32)) % 256

/-- The substitution of AES. -/
def aesSub (x : Nat) : Nat := tableByte
  [0xc072a49cafa2d4adf04759fa7dc982ca76abd7fe2b670130c56f6bf27b777c63,
   0x75b227ebe28012079a059618c323c7041531d871f1e5a534ccf73f362693fdb7,
   0xcf584c4a39becb6a5bb1fc20ed00d153842fe329b3d63b52a05a6e1b1a2c8309,
   0xd2f3ff1021dab6bcf5389d928f40a351a89f3c507f02f94585334d43fbaaefd0,
   0xdb0b5ede14b8ee4688902a22dc4f816073195d643d7ea7c41744975fec130ccd,
   0x8ae7a65eaf4566ca94ed58d6d37c8e779e4959162acd3c25c2406490a3a32e0,
   0x9e1dc186b95735610ef6034866b53e708a8bbd4b1f74dde8c6b4a61c2e2578ba,
   0x16bb54b00f2d99416842e6bf0d89a18cdf2855cee9871e9b948ed9691198f8e1] x

/-- Its inverse. -/
def aesUnsub (x : Nat) : Nat := tableByte
  [0xcbe9dec444438e3487ff2f9b8239e37cfbd7f3819ea340bf38a53630d56a0952,
   0x25d18b6d49a25b76b224d92866a12e084ec3fa420b954cee3d23c2a632947b54,
   0x849d8da75746155edab9edfd5048706c92b6655dcc5ca4d41698688664f6f872,
   0x6b8a130103bdafc1020f3fca8f1e2cd00645b3b80558e4f70ad3bc8c00abd890,
   0x6edf751ce837f9e28535ade72274ac9673e6b4f0cecff297eadc674f4111913a,
   0xf45acd78fec0db9a2079d2c64b3e56fc1bbe18aa0e62b76f89c5291d711af147,
   0xef9cc9939f7ae52d0d4ab519a97f51605fec8027591012b131c7078833a8dd1f,
   0x7d0c2155631469e126d677ba7e042b17619953833cbbebc8b0f52aae4d3be0a0] x

/-- Multiplication by 2 in the field of AES. -/
def aesDouble (a : Nat) : Nat := if a < 128 then 2 * a else (2 * a % 256) ^^^ 0x1B

/-- Multiplication in the field; `n` counts the bits of `b`. -/
def aesMul (a b : Nat) : Nat → Nat
  | 0 => 0
  | n + 1 => (if b % 2 = 1 then a else 0) ^^^ aesMul (aesDouble a) (b / 2) n

def xorBytes (a b : List Nat) : List Nat := List.zipWith (fun x y => x ^^^ y) a b

/-- The next eight words of the key schedule from the last eight, with its round constant. -/
def aesNextKey (k : List Nat) (rc : Nat) : List Nat :=
  let w (i : Nat) : List Nat := (k.drop (4 * i)).take 4
  let last := (w 7).map aesSub
  let w0 := xorBytes (w 0) (xorBytes (last.drop 1 ++ last.take 1) [rc, 0, 0, 0])
  let w1 := xorBytes (w 1) w0
  let w2 := xorBytes (w 2) w1
  let w3 := xorBytes (w 3) w2
  let w4 := xorBytes (w 4) (w3.map aesSub)
  let w5 := xorBytes (w 5) w4
  let w6 := xorBytes (w 6) w5
  w0 ++ w1 ++ w2 ++ w3 ++ w4 ++ w5 ++ w6 ++ xorBytes (w 7) w6

/-- The key schedule: `n` more groups of eight words. -/
def aesSchedule (k : List Nat) (rc : Nat) : Nat → List Nat
  | 0 => k
  | n + 1 => k ++ aesSchedule (aesNextKey k rc) (aesDouble rc) n

/-- The fifteen round keys of a 32-byte key. -/
def aesRounds (key : List Nat) : List (List Nat) :=
  let w := aesSchedule key 1 7
  (List.range 15).map (fun i => (w.drop (16 * i)).take 16)

/-- Byte `i` of a block moved by the row shift: row `i mod 4` turns by `d` columns for each row. -/
def aesShift (d : Nat) (b : List Nat) : List Nat :=
  (List.range 16).map (fun i => b.getD ((i + 4 * (d * (i % 4))) % 16) 0)

/-- Each column times the circulant matrix with the given first row. -/
def aesMix (m b : List Nat) : List Nat :=
  (List.range 16).map (fun i =>
    ((List.range 4).map (fun j => aesMul (b.getD (i / 4 * 4 + j) 0) (m.getD ((j + 4 - i % 4) % 4) 0) 4)).foldl (fun x y => x ^^^ y) 0)

def aesForward (b : List Nat) : List (List Nat) → List Nat
  | [] => b
  | [k] => xorBytes (aesShift 1 (b.map aesSub)) k
  | k :: r => aesForward (xorBytes (aesMix [2, 3, 1, 1] (aesShift 1 (b.map aesSub))) k) r

/-- A block encrypted under a 32-byte key. -/
def aesEncrypt (key b : List Nat) : List Nat :=
  match aesRounds key with
  | [] => b
  | k :: r => aesForward (xorBytes b k) r

def aesBackward (b : List Nat) : List (List Nat) → List Nat
  | [] => b
  | [k] => xorBytes b k
  | k :: r => aesBackward ((aesShift 3 (aesMix [14, 11, 13, 9] (xorBytes b k))).map aesUnsub) r

/-- A block decrypted. -/
def aesDecrypt (key b : List Nat) : List Nat :=
  match (aesRounds key).reverse with
  | [] => b
  | k :: r => aesBackward ((aesShift 3 (xorBytes b k)).map aesUnsub) r

/-- The little-endian bytes of a number. -/
def natBytes (n v : Nat) : List Nat := (List.range n).map (fun i => v / 2 ^ (8 * i) % 256)

/-- The number of little-endian bytes. -/
def bytesNat : List Nat → Nat
  | [] => 0
  | b :: r => b + 256 * bytesNat r

/-- The tweak of the next block: times α. -/
def xtsNext (t : Nat) : Nat := (2 * t % 2 ^ 128) ^^^ (if 2 ^ 127 ≤ t then 0x87 else 0)

/-- The blocks of a data unit, each by a cipher `f` between two additions of its tweak. -/
def xtsBlocks (f : List Nat → List Nat) (t : Nat) : Nat → List Nat → List Nat
  | 0, _ => []
  | n + 1, bs => xorBytes (f (xorBytes (bs.take 16) (natBytes 16 t))) (natBytes 16 t) ++ xtsBlocks f (xtsNext t) n (bs.drop 16)

/-- A granule under a key pair, the first 32 bytes of the 64 for the data and the others for the tweak; the tweak is the number of the
granule (R329). -/
def xtsGranule (enc : Bool) (key gran plain : Nat) : Nat :=
  let k := natBytes 64 key
  let t := bytesNat (aesEncrypt (k.drop 32) (natBytes 16 gran))
  bytesNat (xtsBlocks (if enc then aesEncrypt (k.take 32) else aesDecrypt (k.take 32)) t 8 (natBytes 128 plain))

end Sys2Proof.Machine
end

