-- ==== Sys2Proof/Machine/Num.lean ====
section
/-! DEFINITION. Number formats, rounding and conversions (R52 to R81), and the random number generator (R44 to R46).
A real is an exact signed fraction; nothing is approximated but by the rounding the specification states. -/

namespace Sys2Proof.Machine

/-- An exact real with a signed zero, an infinity or NaN (R56, R68): `fin neg n d` is `±n/d`, with `d > 0`. -/
inductive Val where
  | nan
  | inf (neg : Bool)
  | fin (neg : Bool) (num den : Nat)
  deriving DecidableEq, Repr

/-- The integer `v` as a real. -/
def Val.ofInt (v : Int) : Val := .fin (decide (v < 0)) v.natAbs 1

/-- `2^e` as numerator and denominator. -/
def pow2 (e : Int) : Nat × Nat := if 0 ≤ e then (2 ^ e.toNat, 1) else (1, 2 ^ (-e).toNat)

/-- The value times `2^e`, exactly. -/
def Val.scale (x : Val) (e : Int) : Val :=
  match x with
  | .fin s n d => let (a, b) := pow2 e; .fin s (n * a) (d * b)
  | v => v

def Val.neg : Val → Val
  | .nan => .nan
  | .inf s => .inf (!s)
  | .fin s n d => .fin (!s) n d

def Val.abs : Val → Val
  | .nan => .nan
  | .inf _ => .inf false
  | .fin _ n d => .fin false n d

def Val.isNan (x : Val) : Bool := x == .nan

/-- Signed numerators over one denominator. -/
def commonDen (s1 : Bool) (n1 d1 : Nat) (s2 : Bool) (n2 d2 : Nat) : Int × Int × Nat :=
  let sg := fun (s : Bool) (n : Nat) => if s then -(n : Int) else (n : Int)
  if d2 % d1 = 0 then (sg s1 (n1 * (d2 / d1)), sg s2 n2, d2)
  else if d1 % d2 = 0 then (sg s1 n1, sg s2 (n2 * (d1 / d2)), d1)
  else (sg s1 (n1 * d2), sg s2 (n2 * d1), d1 * d2)

/-- The exact sum (R68); `down` says that the rounding mode is RDN, which gives an exact zero of opposite signs the sign minus. -/
def Val.add (down : Bool) (x y : Val) : Val :=
  match x, y with
  | .nan, _ => .nan
  | _, .nan => .nan
  | .inf s, .inf t => if s = t then .inf s else .nan
  | .inf s, .fin _ _ _ => .inf s
  | .fin _ _ _, .inf t => .inf t
  | .fin s1 n1 d1, .fin s2 n2 d2 =>
    let (a, b, d) := commonDen s1 n1 d1 s2 n2 d2
    if a + b = 0 then .fin (if s1 = s2 then s1 else down) 0 1
    else .fin (decide (a + b < 0)) (a + b).natAbs d

def Val.sub (down : Bool) (x y : Val) : Val := x.add down y.neg

/-- The exact product (R68). -/
def Val.mul (x y : Val) : Val :=
  match x, y with
  | .nan, _ => .nan
  | _, .nan => .nan
  | .inf s, .inf t => .inf (s != t)
  | .inf s, .fin t n _ => if n = 0 then .nan else .inf (s != t)
  | .fin s n _, .inf t => if n = 0 then .nan else .inf (s != t)
  | .fin s1 n1 d1, .fin s2 n2 d2 => .fin (s1 != s2) (n1 * n2) (d1 * d2)

/-- The exact quotient (R68). -/
def Val.div (x y : Val) : Val :=
  match x, y with
  | .nan, _ => .nan
  | _, .nan => .nan
  | .inf _, .inf _ => .nan
  | .inf s, .fin t _ _ => .inf (s != t)
  | .fin s _ _, .inf t => .fin (s != t) 0 1
  | .fin s1 n1 d1, .fin s2 n2 d2 =>
    if n2 = 0 then (if n1 = 0 then .nan else .inf (s1 != s2)) else .fin (s1 != s2) (n1 * d2) (d1 * n2)

/-- The integer square root, `fuel` bounding half the bits of the operand. -/
def isqrt : Nat → Nat → Nat
  | 0, _ => 0
  | fuel + 1, n => if n = 0 then 0 else
    let r := 2 * isqrt fuel (n / 4)
    if (r + 1) * (r + 1) ≤ n then r + 1 else r

/-- The square root, exact where it is rational on the grid `2^-256`, else a point strictly between the neighbouring multiples
of it; no rounding of R65 to any format, and no comparison of mode SR, separates that point from the root (DEDUCED, log 16). -/
def Val.sqrt (x : Val) : Val :=
  match x with
  | .nan => .nan
  | .inf s => if s then .nan else .inf false
  | .fin s n d =>
    if n = 0 then .fin s 0 1 else if s then .nan else
    let t := n * 2 ^ 512 / d
    let r := isqrt 1024 t
    if r * r * d = n * 2 ^ 512 then .fin false r (2 ^ 256) else .fin false (2 * r + 1) (2 ^ 257)

/-- The order of two reals, neither NaN: -1, 0 or 1; the zeros are equal. -/
def Val.cmp (x y : Val) : Int :=
  match x, y with
  | .nan, _ => 0
  | _, .nan => 0
  | .inf s, .inf t => if s = t then 0 else if s then -1 else 1
  | .inf s, _ => if s then -1 else 1
  | _, .inf t => if t then 1 else -1
  | .fin s1 n1 d1, .fin s2 n2 d2 =>
    let (a, b, _) := commonDen s1 n1 d1 s2 n2 d2
    if a < b then -1 else if a = b then 0 else 1

def Val.isZero : Val → Bool
  | .fin _ n _ => n == 0
  | _ => false

def Val.signBit : Val → Bool
  | .nan => false
  | .inf s => s
  | .fin s _ _ => s

/-- The lesser of two reals; -0 lies below +0; NaN gives the other (R136). -/
def Val.min2 (x y : Val) : Val :=
  if x.isNan then y else if y.isNan then x
  else if x.isZero && y.isZero then (if x.signBit then x else y)
  else if x.cmp y ≤ 0 then x else y

/-- The greater of two reals (R136). -/
def Val.max2 (x y : Val) : Val :=
  if x.isNan then y else if y.isNan then x
  else if x.isZero && y.isZero then (if x.signBit then y else x)
  else if x.cmp y ≥ 0 then x else y

/-! ### Float formats -/

/-- Mantissa bits M (R55). -/
def mantBits (f : Nat) : Nat := [23, 7, 10, 3, 2, 1].getD f 0
/-- Exponent bias (R55). -/
def biasOf (f : Nat) : Nat := [127, 127, 15, 7, 15, 1].getD f 0
/-- Exponent field width (R55). -/
def expBits (f : Nat) : Nat := [8, 8, 5, 4, 5, 2].getD f 0
/-- The greatest finite value (R55). -/
def maxFinite (f : Nat) : Nat :=
  match f with
  | 0 => (2 ^ 24 - 1) * 2 ^ 104
  | 1 => (2 ^ 8 - 1) * 2 ^ 120
  | 2 => 65504
  | 3 => 448
  | 4 => 57344
  | _ => 6
/-- The canonical NaN (R59). -/
def canonNan (f : Nat) : Nat := [0x7FC00000, 0x7FC0, 0x7E00, 0x7F, 0x7E, 0, 0xFF].getD f 0

/-- Element width in bits of a format code (R52); blocks give their element width, CE4M3 8. -/
def fmtWidth (f : Nat) : Nat :=
  [32, 16, 16, 8, 8, 4, 8, 8, 8, 4, 8, 0, 4, 8, 16, 32, 64, 4, 8, 16, 32, 64, 8, 16].getD f 0

def isFloat (f : Nat) : Bool := f ≤ 5
def isMx (f : Nat) : Bool := 7 ≤ f && f ≤ 9
def isBlock (f : Nat) : Bool := 7 ≤ f && f ≤ 10
def isSInt (f : Nat) : Bool := 12 ≤ f && f ≤ 16
def isNInt (f : Nat) : Bool := 17 ≤ f && f ≤ 21
def isInt (f : Nat) : Bool := 12 ≤ f && f ≤ 21
def isCplx (f : Nat) : Bool := f == 22 || f == 23
/-- The element format of an MX block format; CE4M3 holds E4M3 (R72, R75). -/
def elemFmt (f : Nat) : Nat := match f with
  | 7 => 3 | 8 => 4 | 9 => 5 | 10 => 3 | _ => f

/-- The value of a code of float format `f` (R55 to R57). -/
def floatVal (f code : Nat) : Val :=
  let M := mantBits f
  let W := expBits f
  let m := code % 2 ^ M
  let E := code / 2 ^ M % 2 ^ W
  let s := bitOf code (M + W)
  if E = 2 ^ W - 1 && f != 3 && f != 5 then (if m = 0 then .inf s else .nan)
  else if f = 3 && E = 15 && m = 7 then .nan
  else if E = 0 then Val.scale (.fin s m 1) (1 - (biasOf f : Int) - M)
  else Val.scale (.fin s (2 ^ M + m) 1) ((E : Int) - biasOf f - M)

/-- The value of a code of any element format that stands for a real: floats, E8M0, integers (R56, R58, R60). -/
def elemVal (f code : Nat) : Val :=
  if isFloat f then floatVal f code
  else if f = 6 then (if code % 256 = 255 then .nan else Val.scale (.fin false 1 1) ((code % 256 : Nat) - 127))
  else if isSInt f then .ofInt (signed (fmtWidth f) code)
  else .ofInt (code % 2 ^ fmtWidth f : Nat)

/-- `⌊log2 (n/d)⌋` for `n, d > 0`. -/
def floorLog2 (n d : Nat) : Int :=
  let k : Int := (Nat.log2 n : Int) - Nat.log2 d
  let (a, b) := pow2 k
  if n * b < a * d then k - 1 else k

/-- Whether a rounding goes away from zero: `r/D` is the fraction beyond the lower neighbour, `odd` its parity (R65). -/
def roundsUp (mode : Nat) (neg odd : Bool) (r D bits : Nat) : Bool :=
  match mode with
  | 0 => decide (D < 2 * r) || (decide (2 * r = D) && odd)
  | 1 => false
  | 2 => !neg
  | 3 => neg
  | 4 => decide (D ≤ 2 * r)
  | _ => decide (bits * D < r * 2 ^ 32)

/-- Rounds `n/d` of sign `neg` to a multiple of `2^t`, as a count of them (R65). -/
def roundUnits (mode : Nat) (neg : Bool) (n d : Nat) (t : Int) (bits : Nat) : Nat :=
  let (a, b) := pow2 t
  let N := n * b
  let D := d * a
  let lo := N / D
  if N % D = 0 then lo else if roundsUp mode neg (lo % 2 == 1) (N % D) D bits then lo + 1 else lo

/-- RoundGrid (R65): a finite value rounded to the grid of float format `f`, its exponent unbounded above. -/
def roundGrid (f mode : Nat) (bits : Nat) (x : Val) : Val :=
  match x with
  | .fin s n d =>
    if n = 0 then .fin s 0 1 else
    let e := max (floorLog2 n d) (1 - (biasOf f : Int))
    let t := e - mantBits f
    Val.scale (.fin s (roundUnits mode s n d t bits) 1) t
  | v => v

/-- Rounding to float format `f` with overflow, infinity and NaN as R67 gives them. A NaN of E2M1 is +0. -/
def roundTo (f mode : Nat) (sat : Bool) (bits : Nat) (x : Val) : Val :=
  match roundGrid f mode bits x with
  | .nan => if f = 5 then .fin false 0 1 else .nan
  | .inf s =>
    if f = 3 then (if sat then .fin s 448 1 else .nan)
    else if f = 5 then .fin s 6 1
    else if sat then .fin s (maxFinite f) 1 else .inf s
  | .fin s n d =>
    if n ≤ maxFinite f * d then .fin s n d
    else if f = 5 || sat || mode = 1 || (mode = 3 && !s) || (mode = 2 && s) then .fin s (maxFinite f) 1
    else if f = 3 then .nan else .inf s

/-- The code of a value that lies on the grid of float format `f` (R55, R59). -/
def floatCode (f : Nat) (x : Val) : Nat :=
  let M := mantBits f
  let W := expBits f
  let sg := fun (s : Bool) => if s then 2 ^ (M + W) else 0
  match x with
  | .nan => canonNan f
  | .inf s => sg s + (2 ^ W - 1) * 2 ^ M
  | .fin s n d =>
    if n = 0 then sg s else
    let e := floorLog2 n d
    let emin := 1 - (biasOf f : Int)
    if e < emin then
      let (a, b) := pow2 (emin - M); sg s + n * b / (d * a)
    else
      let (a, b) := pow2 (e - M)
      sg s + (e + biasOf f).toNat * 2 ^ M + (n * b / (d * a) - 2 ^ M)

/-- Rounding to an integer with clamping to `[lo, hi]` (R70). -/
def roundToInt (mode : Nat) (bits : Nat) (lo hi : Int) (x : Val) : Int :=
  match x with
  | .nan => 0
  | .inf s => if s then lo else hi
  | .fin s n d =>
    let u : Int := roundUnits mode s n d 0 bits
    max lo (min hi (if s then -u else u))

/-- The range of an integer format (R60). -/
def intLo (f : Nat) : Int := if isSInt f then -((2 ^ (fmtWidth f - 1) : Nat) : Int) else 0
def intHi (f : Nat) : Int := if isSInt f then (2 ^ (fmtWidth f - 1) : Nat) - 1 else (2 ^ fmtWidth f : Nat) - 1

/-- SatI and SatN: clamping to the range of an integer format. -/
def satTo (f : Nat) (v : Int) : Int := max (intLo f) (min (intHi f) v)
/-- SatI(v, w). -/
def satI (w : Nat) (v : Int) : Int := max (-((2 ^ (w - 1) : Nat) : Int)) (min ((2 ^ (w - 1) : Nat) - 1) v)
/-- SatN(v, w). -/
def satN (w : Nat) (v : Int) : Int := max 0 (min ((2 ^ w : Nat) - 1) v)

/-- Conversion of a float to an E8M0 code (R71). -/
def toE8M0 (mode : Nat) (sat : Bool) (bits : Nat) (x : Val) : Nat :=
  match x with
  | .nan => 255
  | .inf s => if s then 255 else if sat then 254 else 255
  | .fin s n d =>
    if n = 0 || s then 255 else
    let k := floorLog2 n d
    if k < -127 then 0 else
    let (a, b) := pow2 k
    let N := n * b
    let D := d * a
    let r := N - D
    let code := (k + 127).toNat
    let c := if r = 0 then code else if roundsUp mode false (code % 2 == 1) r D bits then code + 1 else code
    if c ≤ 254 then c else if sat then 254 else 255

/-! ### The generator (R44 to R46) -/

def rotl64 (x : BitVec 64) (k : Nat) : BitVec 64 := x.rotateLeft k

/-- RngNext: the value drawn and the next state (R44). -/
def rngNext (s0 s1 : BitVec 64) : BitVec 64 × BitVec 64 × BitVec 64 :=
  let t := s1 ^^^ s0
  (rotl64 (s0 + s1) 17 + s0, rotl64 s0 49 ^^^ t ^^^ (t <<< 21), rotl64 t 28)

/-- A state of the generator as one 128-bit vector, s0 in the low half. -/
def rngPack (s0 s1 : BitVec 64) : BitVec 128 := s1 ++ s0

/-- One draw forward, on packed states. -/
def rngStep (x : BitVec 128) : BitVec 128 :=
  let (_, a, b) := rngNext (x.extractLsb' 0 64) (x.extractLsb' 64 64); rngPack a b

/-- The accumulation of Jump over the bits of JC (R45). -/
def jumpGo (jc : Nat) : Nat → BitVec 128 → BitVec 128 → BitVec 128
  | 0, _, acc => acc
  | n + 1, x, acc =>
    jumpGo (jc / 2) n (rngStep x) (if jc % 2 = 1 then acc ^^^ x else acc)

/-- Jump (R45): JC[0] is the low half of the constant, so its bits come first. -/
def rngJump (x : BitVec 128) : BitVec 128 := jumpGo (0x0992CCAF6A6FCA05 * 2 ^ 64 + 0x2BD7A6A6E99C2DDC) 128 x 0

/-- A linear map of 128-bit vectors over GF(2), as the images of the unit vectors, bit 0 first. -/
def applyMat : List (BitVec 128) → BitVec 128 → BitVec 128
  | [], _ => 0
  | c :: cs, x => (if x.getLsbD 0 then c else 0) ^^^ applyMat cs (x >>> 1)

/-- The transform equal to Jump (R46). -/
def jumpMat : List (BitVec 128) := (List.range 128).map (fun i => rngJump (1#128 <<< i))

/-- The seed with Jump applied `n` times, by the transforms equal to Jump applied `2^i` times (R46); `k` bits of `n`. -/
def jumpTimes : Nat → List (BitVec 128) → Nat → BitVec 128 → BitVec 128
  | 0, _, _, x => x
  | k + 1, m, n, x =>
    if n = 0 then x else
    jumpTimes k (if n / 2 = 0 then m else m.map (applyMat m)) (n / 2) (if n % 2 = 1 then applyMat m x else x)

/-- The generator as an instruction uses it: its state and the unused high half of the last draw (R66). -/
structure Gen where
  s0   : BitVec 64
  s1   : BitVec 64
  half : Option Nat := none
  deriving DecidableEq, Repr

/-- One draw of 64 bits (R44). -/
def Gen.draw (g : Gen) : BitVec 64 × Gen :=
  let (v, a, b) := rngNext g.s0 g.s1; (v, { s0 := a, s1 := b, half := none })

/-- The 32 bits of the next rounding in mode `mode`; a mode other than SR takes none (R66). -/
def Gen.bits (g : Gen) (mode : Nat) : Nat × Gen :=
  if mode = 5 then
    match g.half with
    | some h => (h, { g with half := none })
    | none => let (v, g') := g.draw; (v.toNat % 2 ^ 32, { g' with half := some (v.toNat / 2 ^ 32) })
  else (0, g)

/-- The number of draws that `k` stochastic roundings take (R66). -/
def drawsFor (k : Nat) : Nat := (k + 1) / 2

/-- Rounding of a value to float format `f` with its bits drawn from the generator (R65 to R67). -/
def Gen.round (g : Gen) (f mode : Nat) (sat : Bool) (x : Val) : Val × Gen :=
  let (b, g') := g.bits mode; (roundTo f mode sat b x, g')

/-! ### Conversions between element formats (R69 to R71) -/

/-- A float value wider or equal in both range and precision is exact and takes no rounding (R69, first row). -/
def exactFloat (a b : Nat) : Bool :=
  a = b || b = 0 || (a = 3 && (b = 1 || b = 2)) || (a = 4 && (b = 1 || b = 2)) || a = 5

/-- Conversion of an element value to a non-block, non-complex format `b`, as a code (R69 to R71); the source format `a` is an
element format. Each conversion other than one between integers counts one rounding in mode SR (R66). A float into a format wider or
equal in range and precision is exact, an infinity too, whatever SAT says (R69, first row). -/
def Gen.convert (g : Gen) (a b mode : Nat) (sat : Bool) (code : Nat) : Nat × Gen :=
  if isInt a && isInt b then
    let v := if isSInt a then signed (fmtWidth a) code else (code % 2 ^ fmtWidth a : Nat)
    (wrapTo (fmtWidth b) (if sat then satTo b v else v), g)
  else
    let x := elemVal a code
    let (r, g') := g.bits mode
    if b = 6 then (if a = 6 then (code % 256, g') else (toE8M0 mode sat r x, g'))
    else if isFloat b then (floatCode b (roundTo b mode (sat && !(isFloat a && exactFloat a b)) r x), g')
    else (wrapTo (fmtWidth b) (roundToInt mode r (intLo b) (intHi b) x), g')

/-- Conversion of an exact value (an element of a block, R73, R76) to a float, integer or E8M0 code (R69). -/
def Gen.convertVal (g : Gen) (b mode : Nat) (sat : Bool) (x : Val) : Nat × Gen :=
  let (r, g') := g.bits mode
  if b = 6 then (toE8M0 mode sat r x, g')
  else if isFloat b then (floatCode b (roundTo b mode sat r x), g')
  else (wrapTo (fmtWidth b) (roundToInt mode r (intLo b) (intHi b) x), g')

/-! ### MX blocks (R72 to R74) -/

/-- The value of an element of an MX block with scale code `s` (R73). -/
def mxVal (f s code : Nat) : Val :=
  if s % 256 = 255 then .nan else (elemVal (elemFmt f) code).scale ((s % 256 : Nat) - 127)

def emaxOf (f : Nat) : Int := match elemFmt f with
  | 3 => 8 | 4 => 15 | _ => 2

/-- The greatest magnitude of a list of finite values. -/
def amax : List Val → Val
  | [] => .fin false 0 1
  | v :: vs => v.abs.max2 (amax vs)

def Val.isFinite : Val → Bool
  | .fin _ _ _ => true
  | _ => false

/-- The elements of a block rounded in ascending order (R74). -/
def mxElems (f mode : Nat) (x : Int) : Gen → List Val → List Nat × Gen
  | g, [] => ([], g)
  | g, v :: vs =>
    let (r, g1) := g.bits mode
    let e := elemFmt f
    let (cs, g2) := mxElems f mode x g1 vs
    (floatCode e (roundTo e mode true r (v.scale (-x))) :: cs, g2)

/-- Quantises the values of one block: the scale code and the element codes (R74). A block with a NaN or an infinity still takes
the bits of its roundings. -/
def mxQuant (f mode : Nat) (g : Gen) (vs : List Val) : Nat × List Nat × Gen :=
  if vs.all Val.isFinite then
    let x : Int := match amax vs with
      | .fin _ n d => if n = 0 then -127 else floorLog2 n d - emaxOf f
      | _ => -127
    let x := max (-127) (min 127 x)
    let (cs, g') := mxElems f mode x g vs
    ((x + 127).toNat, cs, g')
  else
    let g' := (mxElems f mode 0 g vs).2
    (255, vs.map (fun _ => 0), g')

/-! ### Coded E4M3 (R75 to R78) -/

/-- Bit `j` of the bytes. -/
def streamBit (bs : List Byte) (j : Nat) : Bool := ((bs.getD (j / 8) 0).toNat / 2 ^ (j % 8)) % 2 == 1

/-- The four bits from position `j`, most significant first. -/
def rawField (bs : List Byte) (j : Nat) : Nat :=
  8 * bit (streamBit bs j) + 4 * bit (streamBit bs (j + 1)) + 2 * bit (streamBit bs (j + 2)) + bit (streamBit bs (j + 3))

/-- The code strings of a table with their differences, in reading order (R76); the escape is `none`. -/
def ceCodes : Nat → List (List Bool × Option Int)
  | 0 => [([false], some 0), ([true, false], some (-1)), ([true, true, false], some 1), ([true, true, true, false], some (-2)),
          ([true, true, true, true], none)]
  | 1 => [([false, false], some 0), ([false, true], some (-1)), ([true, false, false], some 1),
          ([true, false, true], some (-2)), ([true, true, false], some (-3)), ([true, true, true], none)]
  | 2 => [([false, false], some 0), ([false, true], some (-1)), ([true, false, true], some 1),
          ([true, false, false], some (-2)), ([true, true, false, false], some (-3)), ([true, true, false, true], some (-4)),
          ([true, true, true], none)]
  | _ => [([], none)]

/-- Whether the stream holds the code string at position `j`. -/
def matchesAt (bs : List Byte) (j : Nat) : List Bool → Bool
  | [] => true
  | c :: cs => streamBit bs j == c && matchesAt bs (j + 1) cs

/-- The exponent at position `j` and the position after it; `none` where the difference leaves 0 to 15. -/
def ceExp (table base : Nat) (bs : List Byte) (j : Nat) : Option (Nat × Nat) :=
  match (ceCodes table).find? (fun e => matchesAt bs j e.1) with
  | some (c, some d) =>
    let v := (base : Int) + d
    if 0 ≤ v && v ≤ 15 then some (v.toNat, j + c.length) else none
  | some (c, none) => some (rawField bs (j + c.length), j + c.length + 4)
  | none => none

/-- The exponents of `n` elements from position `j`, and the position after the last. -/
def ceExps (table base : Nat) (bs : List Byte) : Nat → Nat → Option (List Nat × Nat)
  | 0, j => some ([], j)
  | n + 1, j =>
    match ceExp table base bs j with
    | none => none
    | some (e, j') => (ceExps table base bs n j').map (fun r => (e :: r.1, r.2))

/-- The 64 E4M3 codes of a CE4M3 block (R75 to R77); a malformed block gives 64 copies of 0x7F. `bs` are the bytes from the block's
start on. -/
def ceDecode (bs : List Byte) : List Nat :=
  let hdr := ofLE (bs.take 2)
  let units := fieldOf hdr 9 6
  let stream := (bs.take (16 * units)).drop 34
  let bad := List.replicate 64 0x7F
  if units < 3 || 8 < units then bad else
  match ceExps (fieldOf hdr 5 4) (fieldOf hdr 3 0) stream 64 0 with
  | none => bad
  | some (es, j) =>
    if 8 * (16 * units - 34) < j then bad else
    es.zipIdx.map (fun e =>
      let nib := ((bs.getD (2 + e.2 / 2) 0).toNat / 2 ^ (4 * (e.2 % 2))) % 16
      (nib / 8) * 128 + e.1 * 8 + nib % 8)

/-- The code string the encoder writes for exponent `e`: the shortest that names it. -/
def ceString (table base e : Nat) : List Bool :=
  let raw := [bitOf e 3, bitOf e 2, bitOf e 1, bitOf e 0]
  match (ceCodes table).find? (fun c => c.2 == some ((e : Int) - base)) with
  | some (c, _) => c
  | none => (((ceCodes table).find? (fun c => c.2 == none)).map (·.1)).getD [] ++ raw

/-- The stream of 64 exponents. -/
def ceStream (table base : Nat) (es : List Nat) : List Bool := (es.map (ceString table base)).flatten

/-- The (TABLE, BASE) pair of the shortest stream; a tie goes to the lower table, then to the lower base (R78). -/
def ceBest (es : List Nat) : List (Nat × Nat) → Nat × Nat × Nat → Nat × Nat × Nat
  | [], b => b
  | (t, b) :: r, best =>
    let l := (ceStream t b es).length
    ceBest es r (if l < best.2.2 then (t, b, l) else best)

/-- Bits, first bit in bit 0 of the first byte, as bytes. -/
def packBits : Nat → List Bool → List Byte
  | 0, _ => []
  | n + 1, bs =>
    BitVec.ofNat 8 ((bs.take 8).zipIdx.foldl (fun a e => a + bit e.1 * 2 ^ e.2) 0) :: packBits n (bs.drop 8)

/-- The bytes of the CE4M3 block that the device writes for 64 E4M3 codes (R78). -/
def ceEncode (codes : List Nat) : List Byte :=
  let es := codes.map (fun c => c / 8 % 16)
  let pairs := (List.range 64).map (fun i => (i / 16, i % 16))
  let (t, b, l) := ceBest es pairs (0, 0, 1000)
  let units := max 3 ((34 + (l + 7) / 8 + 15) / 16)
  let nib := fun c => (c / 128 % 2) * 8 + c % 8
  toLE 2 (b + t * 16 + units * 64) ++
    (List.range 32).map (fun i => BitVec.ofNat 8 (nib (codes.getD (2 * i) 0) + 16 * nib (codes.getD (2 * i + 1) 0))) ++
    packBits (16 * units - 34) (ceStream t b es)

/-! ### Register format (R63) -/

/-- The F32 code of a value exact in F32. -/
def f32Bits (x : Val) : Nat := floatCode 0 x

/-- A loaded element code of format `f` as a 64-bit register value (R63). -/
def toRegister (f code : Nat) : Nat :=
  if isFloat f || f = 6 then f32Bits (elemVal f code)
  else if isSInt f then wrapTo 64 (signed (fmtWidth f) code)
  else if isNInt f then code % 2 ^ fmtWidth f
  else
    let w := fmtWidth f / 2
    wrapTo 32 (signed w code) + 2 ^ 32 * wrapTo 32 (signed w (code / 2 ^ w))

end Sys2Proof.Machine
end

