-- ==== Sys2Proof/Syntax.lean ====
section
/-! DEFINITION. The instruction set as syntax: one constructor for each row of the opcode table (R82, R85, R106 to R109, R308,
and the events of the device's agents). -/

namespace Sys2Proof

/-- The header of a word of class A, C or S (R82): STOP, the four token bits and GUARD. -/
structure Hdr where
  stop  : Bool
  popu  : Bool
  popd  : Bool
  pushu : Bool
  pushd : Bool
  guard : BitVec 5
  deriving DecidableEq, Repr

/-- Operand form X: three registers (R85). -/
structure XForm where
  d   : BitVec 6
  a   : BitVec 6
  b   : BitVec 6
  c   : BitVec 6
  fmt : BitVec 5
  rm  : BitVec 3
  sat : Bool
  fn  : BitVec 11
  deriving DecidableEq, Repr

/-- Operand form I: a register and a 32-bit immediate (R85); bits [31:0] are `imm`. -/
structure IForm where
  d   : BitVec 6
  a   : BitVec 6
  imm : BitVec 32
  deriving DecidableEq, Repr

/-- Operand form L: a 38-bit immediate (R85). -/
structure LForm where
  d   : BitVec 6
  imm : BitVec 38
  deriving DecidableEq, Repr

/-- Operand form B: branches (R85). -/
structure BForm where
  cond : BitVec 5
  hint : Bool
  a    : BitVec 6
  imm  : BitVec 32
  deriving DecidableEq, Repr

/-- Operand form M: memory (R85). -/
structure MForm where
  d    : BitVec 6
  a    : BitVec 6
  b    : BitVec 6
  fmt  : BitVec 5
  mode : BitVec 5
  ofs  : BitVec 16
  deriving DecidableEq, Repr

/-- Operand form V: shapes (R85). -/
structure VForm where
  hd   : BitVec 4
  ha   : BitVec 4
  hb   : BitVec 4
  hc   : BitVec 4
  g    : BitVec 6
  fmt  : BitVec 5
  rm   : BitVec 3
  sat  : Bool
  mask : BitVec 5
  fn   : BitVec 8
  deriving DecidableEq, Repr

/-- Operand form T: the matrix unit (R85). -/
structure TForm where
  acc : BitVec 5
  ws  : BitVec 7
  ha  : BitVec 4
  hs  : BitVec 4
  fa  : BitVec 5
  fb  : BitVec 5
  rm  : BitVec 3
  sat : Bool
  fn  : BitVec 10
  deriving DecidableEq, Repr

/-- Operand form Y: synchronisation (R85). -/
structure YForm where
  d   : BitVec 6
  a   : BitVec 6
  b   : BitVec 6
  obj : BitVec 7
  sub : BitVec 3
  imm : BitVec 16
  deriving DecidableEq, Repr

/-- The rounding and the saturation that only an FMT prefix can give a converting store (R141, form M). -/
structure Cvt where
  rm  : BitVec 3
  sat : Bool
  deriving DecidableEq, Repr

/-- Without a prefix a converting store rounds to nearest even and does not saturate (R64). -/
def Cvt.none : Cvt := { rm := 0, sat := false }

/-- The register fields of a Sedge extension word (R308). -/
structure HForm where
  d : BitVec 5
  a : BitVec 5
  b : BitVec 5
  deriving DecidableEq, Repr


/-- The instructions of the device: Talquin words, Sedge extension words, and the events of its agents. -/
inductive Instr where
  /-- NOP (R143). Control-class no-operation executed by the front end; it has no effect. -/
  | nop (f : BForm)
  /-- BR (R144). Conditional branch to the 48-bit address held in a register, with a target check and a loop-exit check. -/
  | br (f : BForm)
  /-- BRI (R144). Conditional branch to PC plus a signed word offset. -/
  | bri (f : BForm)
  /-- CALL (R144). Conditional call to the address held in a register; it writes the return address to g63. -/
  | call (f : BForm)
  /-- CALLI (R144). Conditional call to PC plus a signed word offset; it writes the return address to g63. -/
  | calli (f : BForm)
  /-- RET (R144). Conditional return to the address held in g63. -/
  | ret (f : BForm)
  /-- LOOP (R145). Opens a hardware loop level whose count is taken from a register, or skips the body when the count is zero. -/
  | loop (f : BForm)
  /-- LOOPI (R145). Opens a hardware loop level whose count is an immediate, or skips the body when the count is zero. -/
  | loopi (f : BForm)
  /-- BRK (R149). Breakpoint: raises a replayable BREAK fault and parks the segment's resume record behind a future. -/
  | brk (f : BForm)
  /-- TRAP (R149). Raises a terminal ILLEGAL_STATE fault that carries a code. -/
  | trap (f : BForm)
  /-- HINT_WORD (R112). A word in the hint region executes as a no-operation; it still obeys its guard and pops and pushes its tokens. -/
  | hintWord (cls : BitVec 2) (opc : BitVec 4) (h : Hdr) (ops : BitVec 44)
  /-- ADD (R127). Integer add, wrapping or saturating as signed or unsigned. -/
  | add (h : Hdr) (f : XForm)
  /-- ADDI (R127). Integer add of a sign-extended immediate. -/
  | addi (h : Hdr) (f : IForm)
  /-- SUB (R127). Integer subtract, wrapping or saturating. -/
  | sub (h : Hdr) (f : XForm)
  /-- MUL (R127). Integer multiply, optionally saturating. -/
  | mul (h : Hdr) (f : XForm)
  /-- MULI (R127). Integer multiply by an immediate. -/
  | muli (h : Hdr) (f : IForm)
  /-- MULH (R127). High 64 bits of the signed 128-bit product. -/
  | mulh (h : Hdr) (f : XForm)
  /-- MULHN (R127). High 64 bits of the unsigned 128-bit product. -/
  | mulhn (h : Hdr) (f : XForm)
  /-- DIV (R127). Signed division rounding toward zero, with a defined result for division by zero. -/
  | div (h : Hdr) (f : XForm)
  /-- DIVN (R127). Unsigned division, with a defined result for division by zero. -/
  | divn (h : Hdr) (f : XForm)
  /-- REM (R127). Signed remainder. -/
  | rem (h : Hdr) (f : XForm)
  /-- REMN (R127). Unsigned remainder. -/
  | remn (h : Hdr) (f : XForm)
  /-- AND (R128). Bitwise AND of two registers. -/
  | and (h : Hdr) (f : XForm)
  /-- ANDI (R128). Bitwise AND with a sign-extended immediate. -/
  | andi (h : Hdr) (f : IForm)
  /-- OR (R128). Bitwise OR of two registers. -/
  | or (h : Hdr) (f : XForm)
  /-- ORI (R128). Bitwise OR with a sign-extended immediate. -/
  | ori (h : Hdr) (f : IForm)
  /-- XOR (R128). Bitwise XOR of two registers. -/
  | xor (h : Hdr) (f : XForm)
  /-- XORI (R128). Bitwise XOR with a sign-extended immediate. -/
  | xori (h : Hdr) (f : IForm)
  /-- SHL (R128). Logical shift left by a register amount. -/
  | shl (h : Hdr) (f : XForm)
  /-- SHLI (R128). Logical shift left by an immediate amount. -/
  | shli (h : Hdr) (f : IForm)
  /-- SHR (R128). Logical shift right by a register amount. -/
  | shr (h : Hdr) (f : XForm)
  /-- SHRI (R128). Logical shift right by an immediate amount. -/
  | shri (h : Hdr) (f : IForm)
  /-- SRA (R128). Arithmetic shift right by a register amount. -/
  | sra (h : Hdr) (f : XForm)
  /-- SRAI (R128). Arithmetic shift right by an immediate amount. -/
  | srai (h : Hdr) (f : IForm)
  /-- ROL (R128). Rotate left by a register amount. -/
  | rol (h : Hdr) (f : XForm)
  /-- ROLI (R128). Rotate left by an immediate amount. -/
  | roli (h : Hdr) (f : IForm)
  /-- CLZ (R128). Counts the leading zero bits. -/
  | clz (h : Hdr) (f : XForm)
  /-- CTZ (R128). Counts the trailing zero bits. -/
  | ctz (h : Hdr) (f : XForm)
  /-- POPC (R128). Counts the set bits. -/
  | popc (h : Hdr) (f : XForm)
  /-- MIN (R127). Signed minimum. -/
  | min (h : Hdr) (f : XForm)
  /-- MAX (R127). Signed maximum. -/
  | max (h : Hdr) (f : XForm)
  /-- MINN (R127). Unsigned minimum. -/
  | minn (h : Hdr) (f : XForm)
  /-- MAXN (R127). Unsigned maximum. -/
  | maxn (h : Hdr) (f : XForm)
  /-- ABS (R127). Absolute value, optionally saturating. -/
  | abs (h : Hdr) (f : XForm)
  /-- SEL (R131). Selects one of two registers by a predicate. -/
  | sel (h : Hdr) (f : XForm)
  /-- MOVI (R131). Moves a sign-extended 38-bit immediate into a register. -/
  | movi (h : Hdr) (f : LForm)
  /-- MOVHI (R131). Replaces bits [63:38] of a register with a 26-bit immediate. -/
  | movhi (h : Hdr) (f : LForm)
  /-- LEA (R131). Writes a PC-relative address plus an optional register. -/
  | lea (h : Hdr) (f : IForm)
  /-- SEXT (R131). Sign-extends from the named width. -/
  | sext (h : Hdr) (f : XForm)
  /-- ZEXT (R131). Zero-extends from the named width. -/
  | zext (h : Hdr) (f : XForm)
  /-- BFX (R131). Extracts a bit field. -/
  | bfx (h : Hdr) (f : XForm)
  /-- BFI (R131). Inserts a bit field into the destination. -/
  | bfi (h : Hdr) (f : XForm)
  /-- BSWAP (R131). Reverses the byte order of the named width. -/
  | bswap (h : Hdr) (f : XForm)
  /-- CMP (R133). Compares two registers under a condition code and writes a predicate. -/
  | cmp (h : Hdr) (f : XForm)
  /-- CMPI (R133). Compares a register with a 28-bit immediate and writes a predicate. -/
  | cmpi (h : Hdr) (f : IForm)
  /-- PAND (R133). Predicate AND. -/
  | pand (h : Hdr) (f : XForm)
  /-- POR (R133). Predicate OR. -/
  | por (h : Hdr) (f : XForm)
  /-- PXOR (R133). Predicate XOR. -/
  | pxor (h : Hdr) (f : XForm)
  /-- PNOT (R133). Predicate NOT. -/
  | pnot (h : Hdr) (f : XForm)
  /-- PSET (R133). Sets a predicate to an immediate bit. -/
  | pset (h : Hdr) (f : XForm)
  /-- PGET (R133). Copies one bit of a register into a predicate. -/
  | pget (h : Hdr) (f : XForm)
  /-- FADD (R136). Float add, rounded once to the named grid. -/
  | fadd (h : Hdr) (f : XForm)
  /-- FSUB (R136). Float subtract, rounded once. -/
  | fsub (h : Hdr) (f : XForm)
  /-- FMUL (R136). Float multiply, rounded once. -/
  | fmul (h : Hdr) (f : XForm)
  /-- FFMA (R136). Fused multiply-add, rounded once. -/
  | ffma (h : Hdr) (f : XForm)
  /-- FDIV (R136). Float divide, rounded once. -/
  | fdiv (h : Hdr) (f : XForm)
  /-- FSQRT (R136). Float square root, rounded once. -/
  | fsqrt (h : Hdr) (f : XForm)
  /-- FMIN (R136). Float minimum. -/
  | fmin (h : Hdr) (f : XForm)
  /-- FMAX (R136). Float maximum. -/
  | fmax (h : Hdr) (f : XForm)
  /-- FCMP (R137). Writes a one-hot mask of the relation between two floats. -/
  | fcmp (h : Hdr) (f : XForm)
  /-- FCVT (R139). Converts a register value between register formats. -/
  | fcvt (h : Hdr) (f : XForm)
  /-- FCLASS (R138). Classifies an F32 value. -/
  | fclass (h : Hdr) (f : XForm)
  /-- FMT (R100). Prefix word consumed at dispatch; it records a pending format, rounding and saturation override. -/
  | fmt (h : Hdr) (f : XForm)
  /-- RND (R142). Writes one 64-bit draw from the activation's generator. -/
  | rnd (h : Hdr) (f : XForm)
  /-- RNDF (R142). Writes a uniform float in [0, 1) from one draw. -/
  | rndf (h : Hdr) (f : XForm)
  /-- SHLD (R154). Loads a shape record from scratchpad into a shape register. -/
  | shld (h : Hdr) (f : MForm)
  /-- SHST (R154). Stores a shape register to scratchpad. -/
  | shst (h : Hdr) (f : MForm)
  /-- SHSET (R155). Replaces one field of a shape record. -/
  | shset (h : Hdr) (f : VForm)
  /-- SHOFS (R155). Adds an offset to BASE or SBASE of a shape record. -/
  | shofs (h : Hdr) (f : VForm)
  /-- VMOV (R166). Copies tensor elements, whole CE4M3 slots included. -/
  | vmov (h : Hdr) (f : VForm)
  /-- VFILL (R166). Fills a tensor with the value of a register. -/
  | vfill (h : Hdr) (f : VForm)
  /-- VADD (R166). Elementwise add with broadcast and mask. -/
  | vadd (h : Hdr) (f : VForm)
  /-- VSUB (R166). Elementwise subtract. -/
  | vsub (h : Hdr) (f : VForm)
  /-- VMUL (R166). Elementwise multiply. -/
  | vmul (h : Hdr) (f : VForm)
  /-- VFMA (R166). Elementwise fused multiply-add. -/
  | vfma (h : Hdr) (f : VForm)
  /-- VMIN (R166). Elementwise minimum. -/
  | vmin (h : Hdr) (f : VForm)
  /-- VMAX (R166). Elementwise maximum. -/
  | vmax (h : Hdr) (f : VForm)
  /-- VABS (R166). Elementwise absolute value. -/
  | vabs (h : Hdr) (f : VForm)
  /-- VNEG (R166). Elementwise negation. -/
  | vneg (h : Hdr) (f : VForm)
  /-- VAND (R168). Elementwise bitwise AND. -/
  | vand (h : Hdr) (f : VForm)
  /-- VOR (R168). Elementwise bitwise OR. -/
  | vor (h : Hdr) (f : VForm)
  /-- VXOR (R168). Elementwise bitwise XOR. -/
  | vxor (h : Hdr) (f : VForm)
  /-- VSHL (R169). Elementwise shift left. -/
  | vshl (h : Hdr) (f : VForm)
  /-- VSHR (R169). Elementwise shift right. -/
  | vshr (h : Hdr) (f : VForm)
  /-- VCMP (R170). Elementwise comparison written as 0 or 1. -/
  | vcmp (h : Hdr) (f : VForm)
  /-- VSEL (R171). Elementwise selection by a condition tensor. -/
  | vsel (h : Hdr) (f : VForm)
  /-- VCVT (R172). Converts a tensor between formats, block formats included. -/
  | vcvt (h : Hdr) (f : VForm)
  /-- VQUANT (R173). Quantises groups of elements with a scale per group. -/
  | vquant (h : Hdr) (f : VForm)
  /-- VRED (R174). Reduces the leading dimensions in a fixed order. -/
  | vred (h : Hdr) (f : VForm)
  /-- VSCAN (R175). Inclusive or exclusive scan along dimension 0. -/
  | vscan (h : Hdr) (f : VForm)
  /-- VEXP (R176). Elementwise e^x or 2^x within a stated error bound. -/
  | vexp (h : Hdr) (f : VForm)
  /-- VLOG (R176). Elementwise natural logarithm. -/
  | vlog (h : Hdr) (f : VForm)
  /-- VRCP (R176). Elementwise reciprocal. -/
  | vrcp (h : Hdr) (f : VForm)
  /-- VRSQ (R176). Elementwise reciprocal square root. -/
  | vrsq (h : Hdr) (f : VForm)
  /-- VTANH (R176). Elementwise hyperbolic tangent. -/
  | vtanh (h : Hdr) (f : VForm)
  /-- VERF (R176). Elementwise error function. -/
  | verf (h : Hdr) (f : VForm)
  /-- VCMUL (R178). Elementwise complex multiply. -/
  | vcmul (h : Hdr) (f : VForm)
  /-- VCMAC (R178). Elementwise complex multiply-accumulate into I32 pairs. -/
  | vcmac (h : Hdr) (f : VForm)
  /-- VGATH (R179). Gathers table elements by index. -/
  | vgath (h : Hdr) (f : VForm)
  /-- VSCAT (R180). Scatters elements to a table by index. -/
  | vscat (h : Hdr) (f : VForm)
  /-- VTRANS (R181). Permutes the dimensions of a tensor. -/
  | vtrans (h : Hdr) (f : VForm)
  /-- VRND (R182). Fills a tensor with random values, one draw per element. -/
  | vrnd (h : Hdr) (f : VForm)
  /-- MLDB (R237). Deferred matrix command that loads a weight slot from scratchpad. -/
  | mldb (h : Hdr) (f : TForm)
  /-- MMA (R238). Deferred matrix command that multiplies and accumulates one tile. -/
  | mma (h : Hdr) (f : TForm)
  /-- MMAC (R238). Deferred complex multiply-accumulate into an accumulator pair. -/
  | mmac (h : Hdr) (f : TForm)
  /-- MZERO (R239). Deferred command that clears accumulator tiles. -/
  | mzero (h : Hdr) (f : TForm)
  /-- MST (R240). Deferred command that stores an accumulator tile to scratchpad with conversion. -/
  | mst (h : Hdr) (f : TForm)
  /-- MBAR (R241). Deferred command that posts the completion of earlier commands to a barrier. -/
  | mbar (h : Hdr) (f : TForm)
  /-- MCFG_WEIGHT (R242). Sets the engine's arbiter weight. -/
  | mcfgWeight (h : Hdr) (f : TForm)
  /-- MCFG_GATE (R242). Sets a gate register to a barrier and a target phase. -/
  | mcfgGate (h : Hdr) (f : TForm)
  /-- MCFG_CLRSAT (R242). Clears SATM bits in queue order. -/
  | mcfgClrsat (h : Hdr) (f : TForm)
  /-- LD (R191). Typed scratchpad load. -/
  | ld (h : Hdr) (f : MForm)
  /-- ST (R192). Typed scratchpad store. -/
  | st (h : Hdr) (f : MForm) (o : Cvt)
  /-- LDG (R191). Typed global load through the data cache, with a view policy. -/
  | ldg (h : Hdr) (f : MForm)
  /-- STG (R192). Typed global store, deferred to COMMIT. -/
  | stg (h : Hdr) (f : MForm) (o : Cvt)
  /-- LDC (R194). Global load through the non-coherent constant cache. -/
  | ldc (h : Hdr) (f : MForm)
  /-- CINV_LINE (R194). Invalidates one constant-cache line. -/
  | cinvLine (h : Hdr) (f : MForm)
  /-- CINV_ALL (R194). Invalidates the whole constant cache. -/
  | cinvAll (h : Hdr) (f : MForm)
  /-- CINV_I (R195). Invalidates the whole instruction cache of the engine. -/
  | cinvI (h : Hdr) (f : MForm)
  /-- ATOM (R196). Atomic operation on one scratchpad word. -/
  | atom (h : Hdr) (f : MForm)
  /-- CPY (R205). Reserves a copy slot and defers the start of a copy. -/
  | cpy (h : Hdr) (f : YForm)
  /-- CPYM (R208). Reserves a copy slot and defers the start of a copy multicast to engines of the cluster. -/
  | cpym (h : Hdr) (f : YForm)
  /-- CPYQ (R212). Reads the engine's copy status. -/
  | cpyq (h : Hdr) (f : YForm)
  /-- PREF (R197). Prefetches a granule into the data cache or the cluster cache. -/
  | pref (h : Hdr) (f : MForm)
  /-- ATOMG (R348). Deferred global atomic, with an optional return to scratchpad. -/
  | atomg (h : Hdr) (f : MForm)
  /-- RED (R347). Deferred global reduction atomic with no return. -/
  | red (h : Hdr) (f : MForm)
  /-- LRW (R349). Yielding request for a queued reservation of a word at its home. -/
  | lrw (h : Hdr) (f : MForm)
  /-- SCH (R350). Deferred store of the held word and pass of it to the next waiter. -/
  | sch (h : Hdr) (f : MForm)
  /-- SCH_REL (R350). Deferred pass of the reservation without a store. -/
  | schRel (h : Hdr) (f : MForm)
  /-- COMMIT (R285). Performs the deferred effects, writes the resume record and begins a new segment. -/
  | commit (h : Hdr) (f : YForm)
  /-- YIELD (R286). Performs the deferred effects, queues a continuation on a channel of its own engine and frees the slot. -/
  | yield (h : Hdr) (f : YForm)
  /-- EXIT (R286). Performs the deferred effects, decrements JOIN and ends the activation. -/
  | exit (h : Hdr) (f : YForm)
  /-- SEND (R287). Deferred send of a handler message on a route. -/
  | send (h : Hdr) (f : YForm)
  /-- SENDI (R287). Deferred send of an inline-code message. -/
  | sendi (h : Hdr) (f : YForm)
  /-- SPAWN (R288). Deferred push of a task onto the engine's deque, with an increment of its join future. -/
  | spawn (h : Hdr) (f : YForm)
  /-- MIGRATE (R289). Sends the continuation to a cluster near the home of an address. -/
  | migrate (h : Hdr) (f : YForm)
  /-- FNEW (R290). Allocates a future entry. -/
  | fnew (h : Hdr) (f : YForm)
  /-- FRES (R291). Deferred resolution of a future with a value. -/
  | fres (h : Hdr) (f : YForm)
  /-- FDEC (R291). Deferred decrement of a future's count. -/
  | fdec (h : Hdr) (f : YForm)
  /-- FTEST (R292). Tests whether a future has reached a target phase. -/
  | ftest (h : Hdr) (f : YForm)
  /-- FTEST_V (R292). Reads a future's value. -/
  | ftestV (h : Hdr) (f : YForm)
  /-- FTEST_C (R292). Reads a future's count and phase. -/
  | ftestC (h : Hdr) (f : YForm)
  /-- FTEST_F (R292). Reads a future's flags. -/
  | ftestF (h : Hdr) (f : YForm)
  /-- AWAIT (R293). Files a continuation as a waiter on a future and frees the slot. -/
  | await (h : Hdr) (f : YForm)
  /-- FCALL (R294). Deferred binding of a future to a prefill queue and append of a call record. -/
  | fcall (h : Hdr) (f : YForm)
  /-- FFREE (R277). Deferred free of a future; its waiters are delivered with STATUS 2. -/
  | ffree (h : Hdr) (f : YForm)
  /-- RTMK (R295). Builds an on-package route to a target. -/
  | rtmk (h : Hdr) (f : YForm)
  /-- BINIT (R216). Deferred initialisation of a barrier. -/
  | binit (h : Hdr) (f : YForm)
  /-- BARR (R216). Deferred arrival of n at a barrier. -/
  | barr (h : Hdr) (f : YForm)
  /-- BARRX (R216). Deferred arrival at a barrier with an expected byte count. -/
  | barrx (h : Hdr) (f : YForm)
  /-- BEXP (R216). Deferred addition of expected bytes to a barrier. -/
  | bexp (h : Hdr) (f : YForm)
  /-- BWAIT (R217). Waits at the head of S until a barrier reaches a phase. -/
  | bwait (h : Hdr) (f : YForm)
  /-- BTEST (R217). Tests whether a barrier has reached a phase. -/
  | btest (h : Hdr) (f : YForm)
  /-- BTEST_S (R217). Reads a barrier's EXPECT, ARR and PHASE. -/
  | btestS (h : Hdr) (f : YForm)
  /-- BTEST_P (R217). Reads a barrier's PEND and OVERRUN. -/
  | btestP (h : Hdr) (f : YForm)
  /-- TDEF (R353). Defines a tile handle from a descriptor in scratchpad. -/
  | tdef (h : Hdr) (f : YForm)
  /-- TFREE (R354). Deferred free of a tile handle. -/
  | tfree (h : Hdr) (f : YForm)
  /-- TACQ (R355). Yielding acquisition of tenure over a tile. -/
  | tacq (h : Hdr) (f : YForm)
  /-- TREL (R356). Deferred release of one hold on a tile. -/
  | trel (h : Hdr) (f : YForm)
  /-- TQRY (R357). Reads the party's tenure record. -/
  | tqry (h : Hdr) (f : YForm)
  /-- FENCE (R358). Deferred scoped release or acquire fence. -/
  | fence (h : Hdr) (f : YForm)
  /-- SCOPE_RD (R359). Writes a scope mask to scratchpad. -/
  | scopeRd (h : Hdr) (f : YForm)
  /-- SCOPE_WR (R359). Loads a scope mask into every cluster. -/
  | scopeWr (h : Hdr) (f : YForm)
  /-- SRR (R403). Reads a special register. -/
  | srr (h : Hdr) (f : YForm)
  /-- SRW (R403). Writes a special register. -/
  | srw (h : Hdr) (f : YForm)
  /-- COLL_BCAST (R480). Deferred broadcast to the participants of a group. -/
  | collBcast (h : Hdr) (f : YForm)
  /-- COLL_REDUCE (R480). Deferred contribution to an in-switch reduction whose result goes to the root. -/
  | collReduce (h : Hdr) (f : YForm)
  /-- COLL_ALLRED (R480). Deferred contribution to an in-switch reduction whose result goes to every participant. -/
  | collAllred (h : Hdr) (f : YForm)
  /-- XSEND (R314). Sedge hart sends a 128-byte message on a route. -/
  | xsend (f : HForm)
  /-- XFRES (R318). Resolves a future with a value. -/
  | xfres (f : HForm)
  /-- XFRESTOK (R319). Injects reply tokens into a prefill queue and resolves the bound future. -/
  | xfrestok (f : HForm)
  /-- XFDEC (R318). Decrements a future's count. -/
  | xfdec (f : HForm)
  /-- XFTEST (R318). Tests or reads a future in one of four modes. -/
  | xftest (f : HForm) (m : BitVec 2)
  /-- XFWAIT (R320). The hart files a waiter on a future and waits. -/
  | xfwait (f : HForm) (n : BitVec 1)
  /-- XCQPOP (R321). Pops the oldest call record of the context's call queue. -/
  | xcqpop (f : HForm)
  /-- XFENCE (R322). Scoped fence of the hart's accesses. -/
  | xfence (f : HForm) (k : BitVec 2)
  /-- XCAPSET (R323). Writes and validates a capability register. -/
  | xcapset (f : HForm) (i : BitVec 4)
  /-- XCAPCLR (R323). Invalidates the capability registers named by a mask. -/
  | xcapclr (f : HForm)
  /-- XCPYR (R324). Asks an engine to replay a held page of a copy. -/
  | xcpyr (f : HForm)
  /-- XVREG (R409). Registers a derived view (OP 0). -/
  | xvreg (f : HForm)
  /-- XVREG_UNREGISTER (R410). Unregisters a view (OP 1). -/
  | xvregUnregister (f : HForm)
  /-- XVREG_RETRY (R410). Schedules recomputation of a block or of all FAULTED blocks (OP 2). -/
  | xvregRetry (f : HForm)
  /-- HART_MEMORY_ACCESS (R306). A Sedge hart access to physical memory, checked against capabilities in U mode. -/
  | hartMemoryAccess (h op va n v rd : Nat)
  /-- FLASH_ACCESS (R385). A server hart access to a flash-tier DPA through the flash controller. -/
  | flashAccess (h op a n v rd : Nat)
  /-- XFWAIT_INTERRUPTED (R320). A pending interrupt withdraws the hart's waiter, and XFWAIT completes with INTERRUPTED. -/
  | xfwaitInterrupted (h cause : Nat)
  /-- GROUP_DISPATCH (R89). The front end decodes, checks and dispatches one group into the issue queues. -/
  | groupDispatch (g k : Nat)
  /-- LOAD_RETURN (R95). Data of a load, or of a data-cache miss, reach the register, and the load's push is made. -/
  | loadReturn (g k i : Nat) (party : Bool) (code data : Nat)
  /-- TOKEN_DEADLOCK (R99). After 64 cc with no progress possible because of tokens, ILLEGAL_STATE is raised. -/
  | tokenDeadlock (g k : Nat)
  /-- DISPATCH (R264). A free slot takes an inbox entry, a deque task or a stolen task. -/
  | dispatch (g k : Nat)
  /-- ACTIVATION_LOAD (R33). The activation state is loaded from the record in 4 cc, and the first segment begins. -/
  | activationLoad (g k : Nat)
  /-- RNG_STATE_READY (R46). The background jump computation of the generator state completes. -/
  | rngStateReady (g k : Nat)
  /-- PREEMPTION (R265). An eligible ch0 entry pre-empts an activation of a higher channel. -/
  | preemption (g : Nat)
  /-- STALL_EVICTION (R266). An activation stalled longer than STALL is evicted and re-queued. -/
  | stallEviction (g k : Nat)
  /-- MATRIX_QUEUE_DEADLOCK (R222). When every matrix entry is reserved by waiting uncommitted segments, the highest slot is pre-empted. -/
  | matrixQueueDeadlock (g : Nat)
  /-- MESSAGE_ARRIVAL (R257). The cluster agent checks an arriving message and queues it, spills it or dead-letters it. -/
  | messageArrival (i : Nat)
  /-- STEAL (R270). An idle engine sends steal requests to victims in order. -/
  | steal (g : Nat)
  /-- STEAL_RESCAN (R270). After 64 cc a fruitless steal scan is repeated. -/
  | stealRescan (g : Nat)
  /-- CONTEXT_SWITCH (R281). The agent switches an engine to another context on slice expiry or idleness. -/
  | contextSwitch (g ctx : Nat)
  /-- FUTURE_OPERATION_ARRIVAL (R272). A future operation reaches the agent named by the handle and is applied. -/
  | futureOperationArrival (i : Nat)
  /-- WAITER_DEADLINE (R276). A waiter's deadline passes; it is delivered with STATUS 1, and its entry may become LAPSED. -/
  | waiterDeadline (c ix i : Nat)
  /-- PREFILL_TAIL_ADVANCE (R317). After the earlier reservations, an injection advances TAIL of a prefill queue. -/
  | prefillTailAdvance (i : Nat)
  /-- COPY_SECTOR_LAND (R207). A copy sector completes: its bytes are written and counted onto the barrier. -/
  | copySectorLand (g i j code : Nat) (data : List Byte)
  /-- COPY_PAGE_REPLAY (R210). The skipped sectors of a held page are issued again while the copy's context is current. -/
  | copyPageReplay (g i : Nat)
  /-- MATRIX_GRANT (R225). The arbiter grants the Ready head command of one engine. -/
  | matrixGrant (g : Nat)
  /-- MLDB_COMPLETE (R237). A weight load completes and sets READY. -/
  | mldbComplete (u i : Nat)
  /-- MMA_COMPLETE (R243). An MMA or MMAC finishes writing its accumulators. -/
  | mmaComplete (u i : Nat)
  /-- MST_COMPLETE (R240). An MST finishes its scratchpad writes. -/
  | mstComplete (u i : Nat)
  /-- MBAR_POST (R241). MBAR posts an arrival, or an OVERRUN, to the target barrier 1 cc after its grant. -/
  | mbarPost (u i : Nat)
  /-- GLOBAL_WRITE_PERFORM (R366). A performed write reaches its point of atomicity. -/
  | globalWritePerform (i code : Nat)
  /-- ATOMIC_AT_HOME (R346). A global atomic is performed at its point of atomicity and returns the old value. -/
  | atomicAtHome (i code old : Nat)
  /-- ATOMG_RETURN_LAND (R348). The returned old value lands in scratchpad and is counted on its barrier. -/
  | atomgReturnLand (i : Nat)
  /-- TENURE_REQUEST (R341). A tile acquisition request arrives at a home in ascending home order. -/
  | tenureRequest (i : Nat)
  /-- TENURE_GRANT (R340). A home grants a request that conflicts with nothing held or waiting. -/
  | tenureGrant (i : Nat)
  /-- TENURE_DEADLINE (R342). An acquisition's timeout passes, and its granted parts are released. -/
  | tenureDeadline (i : Nat)
  /-- TENURE_DRAIN (R337). A released or recalled write tenure drains its writes to the home. -/
  | tenureDrain (i : Nat)
  /-- RESERVATION_REQUEST (R349). The home grants, queues or refuses a reservation request. -/
  | reservationRequest (i : Nat)
  /-- RESERVATION_PASS (R350). An SCH reaches the home; it writes and grants the next waiter, or is dead-lettered. -/
  | reservationPass (i : Nat)
  /-- RESERVATION_HOLD_EXPIRY (R351). A holder's hold limit passes, and the word passes to the next waiter with STATUS 8. -/
  | reservationHoldExpiry (i : Nat)
  /-- HOST_LINE_REQUEST (R345). A host CXL line request is served through the bridge. -/
  | hostLineRequest (p a op : Nat) (data : List Byte)
  /-- HOST_SNOOP (R433). A host snoop of a host-homed line held by a device party is served as a recall. -/
  | hostSnoop (p a : Nat)
  /-- PAGE_TABLE_WRITE (R390). A page-table write is performed after its users are discarded or completed. -/
  | pageTableWrite (i : Nat)
  /-- CTX_CREATE (R397). HUB_CTX_CMD CREATE checks and latches a context record and makes the context LIVE. -/
  | ctxCreate (p c rcd : Nat)
  /-- CTX_TEARDOWN (R397). HUB_CTX_CMD TEARDOWN makes a LIVE context DYING. -/
  | ctxTeardown (p c : Nat)
  /-- CTX_TEARDOWN_COMPLETE (R397). Once every teardown effect is done, the context becomes FREE. -/
  | ctxTeardownComplete (c : Nat)
  /-- VIEW_RECOMPUTE (R412). Sluice recomputes a view block into the non-current buffer. -/
  | viewRecompute (v b : Nat)
  /-- VIEW_PUBLISH (R412). A recomputation switches CURRENT to the new version in one step. -/
  | viewPublish (v b : Nat)
  /-- VIEW_READ (R416). The block's slice serves a view read under its policy, waiting or faulting as needed. -/
  | viewRead (g k i : Nat)
  /-- LEASE_CLAIM (R424). A write to HUB_LEASE while no one holds it claims the lease. -/
  | leaseClaim (p v : Nat)
  /-- LEASE_RENEW (R424). A write from the holder renews the lease. -/
  | leaseRenew (p v : Nat)
  /-- LEASE_ARM (R424). A write from the other port sets only its ARM bit. -/
  | leaseArm (p v : Nat)
  /-- LEASE_EXPIRY (R425). REMAIN reaches 0, and a standby takes over or the lease is left with no holder. -/
  | leaseExpiry
  /-- HOST_WARM_RESTART (R425). A link-down or reset of a port ends the lease or clears ARM. -/
  | hostWarmRestart (p : Nat)
  /-- GRACE_EXPIRY (R426). GRACE passes with no claim, and the HELD contexts are torn down. -/
  | graceExpiry
  /-- FEATURE_ACCEPT_WRITE (R427). A write to HUB_FEAT_ACC stores the accepted features, or is ignored while locked. -/
  | featureAcceptWrite (p i v : Nat)
  /-- LAUNCH_QUEUE_ENABLE (R429). A write to HUB_LQ_CFG sets or clears EN, with configuration checks. -/
  | launchQueueEnable (p q v : Nat)
  /-- LAUNCH_QUEUE_TAIL_WRITE (R430). A write to HUB_LQ_TAIL posts entries and may stop an overflowing queue. -/
  | launchQueueTailWrite (p q v : Nat)
  /-- LAUNCH_INJECT (R430). The hub reads the entry at HEAD and injects it as a message. -/
  | launchInject (q : Nat)
  /-- MSIX_SEND (R432). A raised vector is sent to the lease holder after its earlier writes are accepted. -/
  | msixSend (i : Nat)
  /-- REGISTER_WRITE (R421). A write to a hub or management register with no behaviour of its own. -/
  | registerWrite (p ofs n v : Nat)
  /-- REMOTE_RESOLUTION (R437). The endpoint checks and applies a remote future resolution arriving over UET. -/
  | remoteResolution (payload : List Byte)
  /-- INGEST_ENABLE (R438). A write to UEE_ING_CFG enables or disables an ingest stream. -/
  | ingestEnable (p i v : Nat)
  /-- INGEST_DATAGRAM (R439). A matching UDP datagram lands in a ring slot or is dropped. -/
  | ingestDatagram (port dst : Nat) (payload : List Byte)
  /-- INGEST_PFC_TICK (R440). At each 1 µs tick a stream's pause state is evaluated. -/
  | ingestPfcTick (i : Nat)
  /-- PFC_PAUSE_REPEAT (R440). A paused stream repeats its pause frame every 20 µs. -/
  | pfcPauseRepeat (i : Nat)
  /-- DEVICE_RESET (R444). Device reset holds the engines and harts, and the ROM verifies stage 1. -/
  | deviceReset
  /-- BOOT_STAGE1 (R444). Stage 1 verifies the device image, trains memory, loads the configuration and opens the ports. -/
  | bootStage1 (trained : Bool)
  /-- MR_EXTEND (R493). A write to MR_CMD extends a measurement register. -/
  | mrExtend (v : Nat)
  /-- BOOT_SET (R493). A write to BOOT_SET updates MGT_BOOT. -/
  | bootSet (v : Nat)
  /-- RNG_READ (R493). A read of RNG waits for and returns 64 fresh bits. -/
  | rngRead
  /-- ED25519_VERIFY (R493). GO in ED_CTL starts a signature verification. -/
  | ed25519Verify (v : Nat)
  /-- ED25519_VERIFY_COMPLETE (R441). A verification finishes and writes RESULT valid or invalid. -/
  | ed25519VerifyComplete
  /-- GET_VERSION (R447). SPDM GET_VERSION request. -/
  | getVersion (req : List Byte)
  /-- GET_CAPABILITIES (R447). SPDM GET_CAPABILITIES request. -/
  | getCapabilities (req : List Byte)
  /-- NEGOTIATE_ALGORITHMS (R447). SPDM NEGOTIATE_ALGORITHMS request. -/
  | negotiateAlgorithms (req : List Byte)
  /-- GET_DIGESTS (R447). SPDM GET_DIGESTS request. -/
  | getDigests (req : List Byte)
  /-- GET_CERTIFICATE (R447). SPDM GET_CERTIFICATE request. -/
  | getCertificate (req : List Byte)
  /-- CHALLENGE (R447). SPDM CHALLENGE request. -/
  | challenge (req : List Byte)
  /-- GET_MEASUREMENTS (R495). SPDM GET_MEASUREMENTS request, answered with measurement blocks. -/
  | getMeasurements (req : List Byte)
  /-- SPDM_UNSUPPORTED_REQUEST (R447). Any other SPDM request is answered with ERROR UnsupportedRequest. -/
  | spdmUnsupportedRequest (req : List Byte)
  /-- KEY_LOAD (R448). MGT_KEY load: Bittern reads and zeroes the key, the homes write back, and the slot switches. -/
  | keyLoad (p slot a : Nat)
  /-- KEY_CLEAR (R448). MGT_KEY clear: write-back, then an all-zero key. -/
  | keyClear (p slot : Nat)
  /-- PLAN_LOAD (R454). MGT_PLAN checks and latches a clock plan and moves the PLLs. -/
  | planLoad (p a : Nat)
  /-- POWER_MEASURE (R449). Every 100 µs module power is measured, and each island's swallowed pulses are set. -/
  | powerMeasure (c n : Nat)
  /-- THERMAL_TRIP (R450). A sensor at TRIP starts an orderly reset. -/
  | thermalTrip (t : Nat)
  /-- ORDERLY_RESET (R433). Modified host-homed granules are written back before the reset. -/
  | orderlyReset
  /-- FATAL_RESET (R434). A reset without write-back; the bridge serves stale data and sets COH_LOSS. -/
  | fatalReset
  /-- CLUSTER_POWER_GATE (R451). After 1 ms idle, a cluster writes back its granules and is gated. -/
  | clusterPowerGate (c : Nat)
  /-- CLUSTER_WAKE (R451). An arrival for a gated cluster wakes it within 20 µs. -/
  | clusterWake (c : Nat)
  /-- ECC_CORRECTED (R455). A correctable error is corrected in place and counted. -/
  | eccCorrected (dram : Bool)
  /-- PATROL_SCRUB (R455). Patrol scrub reads DRAM granules. -/
  | patrolScrub (a : Nat)
  /-- ECC_CLEAR (R455). CLR in MGT_ECC clears the error counters. -/
  | eccClear (p : Nat)
  /-- UNCORRECTABLE_ERROR (R456). An uncorrectable error ends the affected contexts. -/
  | uncorrectableError (row src x a : Nat)
  /-- SWITCH_FORWARD (R465). A switch checks a packet's hop and forwards it. -/
  | switchForward (i : Nat)
  /-- ROUTE_RESPONSE_TIMEOUT (R467). After 2 ms with no response or route fault, the request is treated as faulted. -/
  | routeResponseTimeout (i : Nat)
  /-- LINK_ADMIN_WRITE (R460). A write to NZ_LINK_ADMIN disables or enables Nalornaz links. -/
  | linkAdminWrite (p v : Nat)
  /-- RECEIVER_LOCK (R460). Lock on all eight lanes moves a port from DOWN to TRAINING. -/
  | receiverLock (k : Nat)
  /-- TRAINING_COMPLETE (R460). Identity exchange and 10 µs of clean flits bring a port UP. -/
  | trainingComplete (k sw port dev delay : Nat)
  /-- LINK_DOWN (R460). Loss of lock, or excess replays, takes a port DOWN. -/
  | linkDown (k : Nat)
  /-- LINK_REPLAY (R459). A flit group that fails its CRC is replayed. -/
  | linkReplay (k : Nat)
  /-- TC0_SHAPER_RELEASE (R470). A TC0 packet leaves the token bucket once it holds its charge. -/
  | tc0ShaperRelease (i : Nat)
  /-- REMOTE_ACCESS (R477). The remote agent checks, translates and performs a remote request. -/
  | remoteAccess (peer rctx key op o n v : Nat)
  /-- COLL_REGISTER (R478). NZ_COLL_CMD REGISTER latches a group record. -/
  | collRegister (p grp ctx rcd : Nat)
  /-- COLL_RELEASE (R478). NZ_COLL_CMD RELEASE aborts the pending instance and frees the group. -/
  | collRelease (p grp : Nat)
  /-- COLL_COMBINE (R480). When all expected contributions have arrived, a switch combines them in port order. -/
  | collCombine (i : Nat)
  /-- COLL_CHUNK_LAND (R481). A result chunk lands on an engine and reduces PEND, or is dropped. -/
  | collChunkLand (i : Nat)
  /-- COLL_TIMEOUT (R482). An instance's timer expires, and the group is aborted. -/
  | collTimeout (i : Nat)
  /-- COPY_SECTOR_ISSUE (R209). The copy engine issues a sector in walk order and translates its global side; a sector that cannot be reached is skipped and held, and once the last sector has issued the page and drop records are written. -/
  | copySectorIssue (g i : Nat)
  /-- SEDGE_CSR_WRITE (R302). A standard CSR instruction on a Sedge hart writes CL_SEDGE_CTX or CL_SEDGE_UCTL, or faults by mode or read-only access, and the new value governs every later instruction. -/
  | sedgeCsrWrite (h csr op v rd : Nat)
  /-- BITTERN_MEMORY_ACCESS (R492). A Bittern load or store to its M-mode address map is served, with byte reversal through the reversed aliases, or raises an access fault. -/
  | bitternMemoryAccess (kind a n v : Nat)
  /-- HOST_LINK_UP (R425). A host port's CXL link comes up, which makes that port eligible to take over the lease and lets a window-1 access at the old bridge complete. -/
  | hostLinkUp (p : Nat)
  /-- ENDPOINT_MESSAGE_INJECT (R435). A UET message arriving on an Ultra Ethernet connection is injected by the endpoint into the fabric as a message with SRC 3, a release at PKG. -/
  | endpointMessageInject (msg route : List Byte)
  /-- KEY_SLOT_SWITCH (R448). Once every home has written back the granules of the key index under the old key, the slot switches to the new key and RESULT returns to done. -/
  | keySlotSwitch
  /-- PLL_MOVE_COMPLETE (R454). Every PLL reaches the values of the accepted plan, and MGT_PLAN RESULT reads done. -/
  | pllMoveComplete
  deriving DecidableEq, Repr

end Sys2Proof
end

