-- ==== Sys2Proof/Machine/State.lean ====
section
/-! DEFINITION. The state of the device, as plain data. A field's docstring names the rule that gives it; an unlisted key of a
`Sparse` map holds the reset value. Counts, indexes and addresses are natural numbers; the operations that write them reduce
them to the width the rule gives. -/

namespace Sys2Proof.Machine

/-! ### Activations (R25) -/

/-- A pending FMT prefix: each field is present when its valid bit is set (R100). -/
structure Pfx where
  f1  : Option Nat := none
  f2  : Option Nat := none
  rm  : Option Nat := none
  sat : Option Bool := none
  deriving DecidableEq, Repr

/-- A dispatched word: its address, its number in program order, the word, the prefix attached to it (R101) and whether it is the
last word of its group. -/
structure QEntry where
  pc   : Nat
  n    : Nat
  word : BitVec 64
  pfx  : Option Pfx := none
  last : Bool := true
  deriving DecidableEq, Repr

/-- One level of the loop stack: start, body length in words, remaining count (R25, R145). -/
structure Loop where
  start  : Nat
  len    : Nat
  remain : Nat
  deriving DecidableEq, Repr

/-- Where a translated global access goes: a device or host physical address with its key index, or an offset in a remote window. -/
inductive Target where
  | dpa (a key : Nat)
  | remote (w off : Nat)
  deriving DecidableEq, Repr

/-- A message, task or resume record: the words w0 to w15 (R31), the JOIN word and the CAUSE tag (R256), and the registers that a
delivery loads beside the runs (R274, R349). -/
structure Msg where
  words : List Nat
  join  : Nat := 0
  cause : Nat := 0
  vals  : List (Nat × Nat) := []
  /-- the release that a task carries: the number of effects performed before its SPAWN (R370) -/
  cover : Nat := 0
  /-- the observer that the record continues (R369), 0 for a new one -/
  obs   : Nat := 0
  deriving DecidableEq, Repr

/-- A command of the matrix unit with its captured operands (R224); shapes are 256-bit records. -/
inductive MxOp where
  | mldb (ws fb : Nat) (major : Bool) (ha hs : Nat)
  | mma (acc ws ha hs fa fb rm : Nat) (sat z : Bool)
  | mmac (acc ws ha fa fb : Nat) (sat z cj : Bool)
  | mzero (acc n : Nat)
  | mst (acc ha hs fa fb rm : Nat) (sat z t c sc : Bool)
  | mbar (bar x : Nat)
  | weight (v : Nat)
  | gate (i bar target : Nat)
  | clrsat (mask : Nat)
  deriving DecidableEq, Repr

/-- A matrix command in a queue, with its context and its gate (R235). -/
structure MxCmd where
  op   : MxOp
  ctx  : Nat
  gate : Option Nat := none
  /-- scratchpad writes noted on the engine when the COMMIT performed the command (R244) -/
  since : Nat := 0
  /-- the same when a gated command was granted: sectors landed before have been acquired (R246) -/
  acq   : Nat := 0
  deriving DecidableEq, Repr

/-- A deferred effect with its captured operands and translations (R36, R37). -/
inductive Effect where
  | store (t : Target) (va : Nat) (bytes : List Byte) (nib : Option Bool) (alloc : Bool)
  | copy (addr bar : Nat) (mcast : Bool)
  | atomic (t : Target) (va op fmt a cmp : Nat) (clu : Bool) (ret : Option (Nat × Nat))
  | sch (t : Target) (va fmt v ticket : Nat) (rel : Bool)
  | binit (bar e : Nat)
  | barUpd (bar darr : Nat) (dpend : Int)
  | send (route : Nat) (target ch : Nat) (toAct : Bool) (handler base : Nat) (regs : List Nat)
  | sendi (route : Nat) (target ch : Nat) (toAct : Bool) (code n x y : Nat)
  | spawn (join ch handler base : Nat) (regs : List Nat)
  | fres (h v : Nat)
  | fdec (h n : Nat)
  | ffree (h : Nat)
  | fcall (gc h pq : Nat)
  | tfree (h : Nat)
  | trel (h : Nat) (keep : Bool)
  | fence (scope kind : Nat)
  | matrix (c : MxCmd)
  | coll (group : Nat) (addr bar kind : Nat)
  deriving DecidableEq, Repr

/-- One entry of the deferred-effect buffer: the effect, the number in program order and the address of its instruction and the
page-table granules of its translation (R37, R390). -/
structure Deferred where
  n    : Nat
  pc   : Nat
  eff  : Effect
  uses : List Nat := []
  deriving DecidableEq, Repr

/-- A load in flight at the head of queue A (R40, R95, R191): its queue entry's address and number, the register, format and nibble, the
target, whether it goes through the constant cache, its view policy, the tokens it still pushes, and whether a miss allocates the line
(R193). -/
structure Load where
  pc     : Nat
  n      : Nat
  reg    : Nat
  fmt    : Nat
  hi     : Bool
  va     : Nat
  tgt    : Target
  const  : Bool
  policy : Nat
  pushu  : Bool
  pushd  : Bool
  alloc  : Bool := true
  /-- the bridge that its access of window 1 has reached (R425) -/
  port   : Option Nat := none
  /-- hub time at which it began (R467), and its ticket at the TC0 shaper (R470) -/
  since  : Nat := 0
  ticket : Nat := 0
  deriving DecidableEq, Repr

/-- A word that has taken effect in the cycle in progress and completes at its end (R96): queue, number, address, and its two pushes. -/
structure Owed where
  q : Nat
  n : Nat
  pc : Nat
  u : Bool
  d : Bool
  deriving DecidableEq, Repr

/-- A fault raised and not yet recorded (R105): program-order number, address, code, info word, faulting global address, XLATE
reason and SHARE (R399). -/
structure Raised where
  n      : Nat
  pc     : Nat
  code   : Nat
  info   : Nat
  addr   : Nat := 0
  reason : Nat := 0
  share  : Nat := 0
  /-- HUB_TIME at the fault (R399), where it is not that of its record -/
  time   : Option Nat := none
  deriving DecidableEq, Repr

/-- What an activation allocated in the current segment (R40): a future or a tile handle. -/
inductive Alloc where
  | future (h : Nat)
  | tile (h : Nat)
  deriving DecidableEq, Repr

/-- A version of a view block that a segment or a COMMIT has pinned (R415): the view (1,024 times its context plus its number), the block,
and the version's buffer and tag. -/
structure Pin where
  view  : Nat
  block : Nat
  buf   : Nat
  tag   : Nat
  deriving DecidableEq, Repr

/-- The state of an activation (R25). -/
structure Act where
  act      : Nat
  ctx      : Nat
  seq      : Nat
  kind     : Nat := 0
  status   : Nat := 0
  loading  : Bool := false
  pc       : Nat := 0
  g        : Sparse (BitVec 64) := []
  p        : BitVec 12 := 0
  h        : Sparse (BitVec 256) := []
  loops    : List Loop := []
  pfx      : Option Pfx := none
  tc       : Nat := 0
  ts       : Nat := 0
  ta       : Nat := 0
  s0       : BitVec 64 := 0
  s1       : BitVec 64 := 0
  rngReady : Bool := false
  deferred : List Deferred := []
  allocs   : List Alloc := []
  segCount : Nat := 0
  qa       : List QEntry := []
  qc       : List QEntry := []
  qs       : List QEntry := []
  front    : Option QEntry := none
  /-- the words of the end of a dispatched group that the front end executes after the one that it holds (R89, R100) -/
  rest     : List QEntry := []
  /-- words fetched ahead along the predicted path, with their addresses (R102) -/
  ahead    : List (Nat × BitVec 64) := []
  next     : Nat := 0
  loads    : List Load := []
  /-- words that complete when the cycle in progress ends (R96) -/
  owed     : List Owed := []
  faults   : List Raised := []
  /-- page-table granules whose entries the segment's uncommitted translations were taken from (R390) -/
  uses     : List Nat := []
  pins     : List Pin := []
  /-- an AWAIT, LRW or TACQ, or a COMMIT at a FENCE, that is performing its effects (R51, R358) -/
  busy     : Bool := false
  /-- what a yielding instruction captured at step 2 of R293 while its effects are performed: AWAIT the target, MIGRATE the home,
  LRW the DPA and the key index -/
  held     : List Nat := []
  /-- cycle since which nothing of the activation has progressed (R99) -/
  stall    : Option Nat := none
  /-- instructions that wait at a head, by number, with the cycle at which each began to wait (R266) -/
  stalls   : List (Nat × Nat) := []
  /-- heads that have begun to read the scratchpad, with the number of writes noted on the engine before (R97, R163): queue, number,
  count -/
  began    : List (Nat × Nat × Nat) := []
  /-- queues whose head was found to wait since the activation last made progress (R99, R105) -/
  blocked  : List Nat := []
  /-- cycle of dispatch, the order of dispatches that R265 compares -/
  dispatched : Nat := 0
  /-- the observer that the activation and its continuations are (R369) -/
  obs      : Nat := 0
  deriving DecidableEq, Repr

/-- An activation slot: its dispatch count (R29) and its occupant. -/
structure Slot where
  count : Nat := 0
  act   : Option Act := none
  deriving DecidableEq, Repr

/-- An inbox entry: the record, its arrival cycle, and the slot of the running activation that holds it (R35, R263); for a spilled
message, the slot of the spill ring whose bytes hold it. -/
structure Entry where
  msg     : Msg
  arrived : Nat := 0
  slot    : Option Nat := none
  home    : Nat := 0
  deriving DecidableEq, Repr

/-! ### Engine structures -/

/-- Who wrote a scratchpad element (R186): a word of an activation, a copy (its slot and id), the matrix unit, or an ATOMG return or a
result chunk that landed. -/
inductive SpadSrc where
  | word
  | copy (slot id : Nat)
  | matrix
  | landing
  deriving DecidableEq, Repr

/-- A write of one scratchpad element that an access still going on may see before or after (R97, R163, R186): its address and its bytes
before and after. -/
structure Cell where
  src : SpadSrc
  at_ : Nat
  old : List Byte
  new : List Byte
  deriving DecidableEq, Repr

/-- A named barrier (R213). -/
structure Bar where
  phase  : Nat := 0
  expect : Nat := 1
  arr    : Nat := 0
  pend   : Int := 0
  overrun : Bool := false
  /-- updates that reached the barrier in the cycle in progress, summed and not yet applied (R214) -/
  due    : Option (Nat × Int) := none
  deriving DecidableEq, Repr

/-- The matrix state of one engine (R221, R252). -/
structure Mx where
  queue  : List MxCmd := []
  acc    : Sparse (BitVec 32) := []
  gates  : Sparse (Nat × Nat) := []
  weight : Nat := 1
  credit : Nat := 1
  satm   : BitVec 32 := 0
  rej    : Bool := false
  /-- a command was rejected since the engine's previous MBAR (R241) -/
  rejSince : Bool := false
  /-- the command that left the queue last (R227) -/
  last   : Option MxOp := none
  deriving DecidableEq, Repr

/-- A sector by number, first element and number of elements, in walk order (R201). -/
structure SecRef where
  i     : Nat
  first : Nat
  len   : Nat
  deriving DecidableEq, Repr

/-- A faulted page of a copy (R209): base, code, info, reason and SHARE, whether it is held for replay or counted beyond the eighth
page, its skipped sectors, whether its record is written, and whether XCPYR has asked for its replay (R210). -/
structure HeldPage where
  page    : Nat
  code    : Nat
  info    : Nat := 0
  reason  : Nat := 0
  share   : Nat := 0
  held    : Bool := true
  ninth   : Bool := false
  sectors : List SecRef := []
  recorded : Bool := false
  asked   : Bool := false
  /-- HUB_TIME at which its first sector was skipped (R399) -/
  time    : Nat := 0
  deriving DecidableEq, Repr

/-- A run of global bytes within one granule and where it translates to. -/
structure Seg where
  va  : Nat
  n   : Nat
  tgt : Target
  /-- the bridge that its access of window 1 has reached (R425) -/
  port : Option Nat := none
  deriving DecidableEq, Repr

/-- A sector that has issued and not completed (R207): the translations of its global source and destination, the granules of the
page tables used, and the source bytes where they were read at issue (R415). -/
structure Sector where
  ref  : SecRef
  src  : List Seg := []
  dst  : List Seg := []
  uses : List Nat := []
  data : Option (List Byte) := none
  /-- hub time at which it issued (R467), and its ticket at the TC0 shaper (R470) -/
  since  : Nat := 0
  ticket : Nat := 0
  deriving DecidableEq, Repr

/-- A started copy (R206): slot, id, context, barrier, descriptor bytes, and its progress. -/
structure Copy where
  slot    : Nat
  id      : Nat
  ctx     : Nat
  bar     : Nat
  mcast   : Bool
  desc    : List Byte
  /-- first element and number of the next sector, in walk order -/
  next    : Nat := 0
  sectors : Nat := 0
  flying  : List Sector := []
  pages   : List HeldPage := []
  /-- sectors of the page being replayed that have not issued again (R210) -/
  replay  : List SecRef := []
  /-- 4-bit destination bytes that one sector has written and none has counted (R201), by destination (the engine that the byte stands
  in, R208; 0 for global memory) and half the index of their elements -/
  halves  : List (Nat × Nat) := []
  /-- scratchpad writes noted at the CopyStart on each engine of the cluster (R219) -/
  since   : List Nat := []
  /-- one of the four copies that the engine works on (R207) -/
  working : Bool := false
  /-- CPYM: engine-sectors dropped, and the engines that dropped one (R208) -/
  drops   : Nat := 0
  dropMask : Nat := 0
  /-- the COMMIT that performed it, and the views pinned for the copies of that COMMIT (R415) -/
  commit  : Nat := 0
  pins    : List Pin := []
  deriving DecidableEq, Repr

/-- A deque spill ring (R269): the slot of its oldest task, and the tasks, newest last; their bytes are in the context's memory. -/
structure Ring where
  base  : Nat := 0
  tasks : List Msg := []
  deriving DecidableEq, Repr

/-- A tile engine (R26, R184). -/
structure Engine where
  slots    : Sparse Slot := []
  spad     : Sparse Byte := []
  /-- element writes to the scratchpad, newest first, that an access still going on may see before or after (R97, R186) -/
  past     : List Cell := []
  /-- instruction-cache lines with the bytes they were filled with, at most 256 in 64 sets of 4 ways (R184, R195) -/
  icache   : Sparse (List Byte) := []
  /-- constant-cache lines with the values the line may return, at most 32 (R184, R194) -/
  ccache   : Sparse (List (List Byte)) := []
  /-- granules in the data cache, at most 64 in 16 sets of 4 ways; it is coherent, so no read shows it apart from memory (R184, R193) -/
  dcache   : List Nat := []
  inbox    : List Entry := []
  /-- message spill rings, oldest first (R263) -/
  spill    : List Entry := []
  deque    : List Msg := []
  /-- deque spill rings per context (R269) -/
  ring     : Sparse Ring := []
  /-- current context (R281) -/
  ctx      : Option Nat := none
  /-- the context that a switch in progress brings (R281) -/
  incoming : Option Nat := none
  since    : Nat := 0
  copies   : List Copy := []
  copyNext : Nat := 0
  commits  : Nat := 0
  bars     : Sparse Bar := []
  /-- steal scan: the next victim's position, or the cycle at which a fruitless scan ended (R270) -/
  scan     : Nat := 0
  rescan   : Option Nat := none
  /-- collective instance counters per group (R478) -/
  collSeq  : Sparse Nat := []
  mx       : Mx := {}
  /-- contexts whose SAVE area holds their state on this engine (R250, R282) -/
  saved    : List Nat := []
  deriving DecidableEq, Repr

/-- A weight slot (R221, R231). -/
structure WSlot where
  data  : Sparse Byte := []
  side  : Sparse Byte := []
  valid : Bool := false
  ctx   : Nat := 0
  fmt   : Nat := 0
  major : Bool := false
  ready : Bool := false
  deriving DecidableEq, Repr

/-- A granted command that has not completed (R225, R243). -/
structure Running where
  eng  : Nat
  cmd  : MxCmd
  /-- an MBAR before which a command was rejected (R241) -/
  late : Bool := false
  /-- elements of an MST that are stored before the command completes (R244) -/
  stored : List Nat := []
  deriving DecidableEq, Repr

/-- A matrix unit (R221). -/
structure MxUnit where
  slots   : Sparse WSlot := []
  running : List Running := []
  p       : Nat := 0
  deriving DecidableEq, Repr

/-! ### Clusters -/

/-- Who waits on a future: a continuation for an engine, or a hart in XFWAIT (R272, R320). -/
structure Waiter where
  msg      : Msg := { words := [] }
  eng      : Nat := 0
  hart     : Option Nat := none
  target   : Nat
  deadline : Option Nat := none
  lapse    : Bool := false
  valReg   : Nat := 0
  /-- a record parked behind a replayable fault (R50) -/
  parked   : Bool := false
  /-- the slot of the waiter spill ring that holds the record, where no waiter record was free (R273) -/
  spill    : Option Nat := none
  deriving DecidableEq, Repr

/-- The state of a future-table entry (R272). -/
inductive FutState where
  | free | live | lapsed
  deriving DecidableEq, Repr

/-- A waiter that an AWAIT has reserved and not filed (R293): engine and slot, context, and the slot of the spill ring where it is no
record of the cluster. -/
structure WaitHold where
  g     : Nat
  k     : Nat
  ctx   : Nat
  spill : Option Nat := none
  deriving DecidableEq, Repr

/-- A future-table entry (R272, R273). -/
structure Fut where
  state   : FutState := .free
  gen     : Nat := 1
  ctx     : Nat := 0
  phase   : Nat := 0
  count   : Int := 0
  value   : Nat := 0
  pq      : Option Nat := none
  flt     : Bool := false
  spilled : Bool := false
  waiters : List Waiter := []
  /-- effects performed before a resolution or decrement whose release was complete at the entry's cluster alone (R370): one more
  than the highest number -/
  cover   : Nat := 0
  deriving DecidableEq, Repr

/-- A cluster (R254). -/
structure Cluster where
  /-- TE_CYCLE (R403) -/
  cycles  : Nat := 0
  /-- CL_SCHED (R267) -/
  age     : Nat := 0x10000
  stall   : Nat := 0x4000
  slice   : Nat := 0
  futs    : Sparse Fut := []
  /-- waiters reserved and not filed (R293) -/
  holds   : List WaitHold := []
  /-- lines that PREF.L2 brought into the cluster cache (R197) -/
  l2      : List Nat := []
  /-- power gating (R451): the µs at which idleness began, and whether the cluster is gated -/
  idle    : Option Nat := none
  gated   : Bool := false
  /-- pulses swallowed in each window of 64 cycles (R449) -/
  swallowed : Nat := 0
  /-- the reading of the island's junction sensor in °C, and that it has reached THROT and not fallen by 3 since (R450) -/
  temp    : Nat := 0
  hot     : Bool := false
  deriving DecidableEq, Repr

/-- Privilege modes of a hart (R297). -/
inductive Mode where
  | u | s | m
  deriving DecidableEq, Repr

/-- What a hart does: held by the boot chain, running, waiting in XFWAIT with its handle and destination, stalled in XFRESTOK until
its injection is complete, or in WFI. -/
inductive HartRun where
  | held
  | run
  | wait (h rd : Nat)
  | inject (rd : Nat)
  | wfi
  deriving DecidableEq, Repr

/-- The trap registers of a hart that the RISC-V privileged architecture gives (R297). -/
structure Csrs where
  mstatus : Nat := 0
  medeleg : Nat := 0
  mtvec   : Nat := 0
  mepc    : Nat := 0
  mcause  : Nat := 0
  mtval   : Nat := 0
  stvec   : Nat := 0
  sepc    : Nat := 0
  scause  : Nat := 0
  stval   : Nat := 0
  satp    : Nat := 0
  mideleg : Nat := 0
  mie     : Nat := 0
  menvcfg : Nat := 0
  senvcfg : Nat := 0
  deriving DecidableEq, Repr

/-- A Sedge hart (R297, R301). -/
structure Hart where
  x    : Sparse (BitVec 64) := []
  pc   : Nat := 0
  mode : Mode := .m
  run  : HartRun := .held
  ctx  : Nat := 0
  key  : Nat := 0
  uctl : Nat := 0
  flt  : Nat := 0
  xst  : Nat := 0
  xval : Nat := 0
  /-- capability registers as 128-bit numbers, LO in the low half (R305) -/
  caps : Sparse Nat := []
  csr  : Csrs := {}
  resv : Option Nat := none
  /-- granules that the hart's caches hold, as its cluster's slice records them (R331) -/
  lines : List Nat := []
  deriving DecidableEq, Repr

/-! ### Contexts, tiles, tenure, reservations -/

/-- The states of a context (R397, R426). -/
inductive CtxState where
  | free | live | held | dying
  deriving DecidableEq, Repr

/-- An entry of the tile handle table (R334): generation, DEFINED, and the 32 bytes of the descriptor as a number. -/
structure Tile where
  gen  : Nat := 1
  defd : Bool := false
  desc : Nat := 0
  deriving DecidableEq, Repr

/-- A context (R395, R397): its state, the 256 latched bytes of its record, scope masks (R359) and tile handles. -/
structure Ctx where
  state : CtxState := .free
  rcd   : List Byte := []
  masks : Sparse Nat := []
  tiles : Sparse Tile := []
  /-- calls that an FCALL has appended per queue are in memory; CREATE's seed after the rule of R46 -/
  seed  : Nat := 0
  deriving DecidableEq, Repr

/-- The part of a tile in one super-granule: its number and the bounds of its granules (R339). -/
structure Span where
  g  : Nat
  lo : Nat
  hi : Nat
  deriving DecidableEq, Repr

/-- The five states of a tenure (R336). -/
inductive TState where
  | i | s | e | o | m
  deriving DecidableEq, Repr

/-- A tenure record of a cluster slice (R331, R338), or an implicit one-granule tile, which no handle names (R332). -/
structure Tenure where
  cl    : Nat
  ctx   : Nat
  tile  : Nat
  st    : TState
  hold  : Nat := 1
  split : Bool := false
  spans : List Span := []
  /-- granules written under the tenure that the home does not have yet, and whether a release drains them (R337) -/
  dirty : List Nat := []
  drain : Bool := false
  /-- the release that a draining TREL carries (R370): its engine, and the number of effects performed before it -/
  cover : Option (Nat × Nat) := none
  implicit : Bool := false
  deriving DecidableEq, Repr

/-- An acquisition request (R341): the party, the handle, write or read, the deadline, the continuation with its engine, the parts
granted so far, the homes still to ask with the window-0 addresses of the tile's granules there, whether it waits at the first of them,
and the part that it waits for; and whether a granted part was recalled (R343). -/
structure TReq where
  g        : Nat
  ctx      : Nat
  tile     : Nat
  write    : Bool
  deadline : Option Nat
  msg      : Msg
  got      : List Span := []
  homes    : List (Nat × List Nat) := []
  arrived  : Bool := false
  part     : List Span := []
  split    : Bool := false
  deriving DecidableEq, Repr

/-- What the drain of a recalled part releases (R343, R370): the party, the part, and the number of effects performed before. -/
structure DrainCover where
  cl    : Nat
  ctx   : Nat
  upto  : Nat
  spans : List Span
  deriving DecidableEq, Repr

/-- A holder of, or a waiter for, a reserved word (R349). -/
structure ResvUser where
  ctx    : Nat
  g      : Nat
  reg    : Nat := 0
  fmt    : Nat := 0
  limit  : Nat := 0
  msg    : Msg := { words := [] }
  deriving DecidableEq, Repr

/-- A reservation queue: the word, its holder with ticket and deadline, and the waiters in order (R349 to R351). -/
structure Resv where
  dpa      : Nat
  key      : Nat
  holder   : ResvUser
  ticket   : Nat
  deadline : Option Nat
  waiters  : List ResvUser := []
  /-- page-table granules of the translation (R390) -/
  uses     : List Nat := []
  /-- the holder has gone and the word passes with this STATUS as soon as it can be read (R351) -/
  passing  : Option Nat := none
  deriving DecidableEq, Repr

/-- A reservation request on its way to the home (R349). -/
structure ResvReq where
  dpa  : Nat
  key  : Nat
  user : ResvUser
  /-- activation, address of the LRW and the word's global address -/
  who  : Nat := 0
  pc   : Nat := 0
  va   : Nat := 0
  /-- page-table granules of the translation (R390) -/
  uses : List Nat := []
  deriving DecidableEq, Repr

/-! ### Memory traffic -/

/-- What a performed memory effect does at its point of atomicity (R346, R366). -/
inductive MemOp where
  | write (bytes : List Byte) (nib : Option Bool)
  | atomic (op fmt a cmp : Nat) (clu : Bool) (ret : Option (Nat × Nat))
  | sch (fmt v ticket : Nat) (rel : Bool)
  deriving DecidableEq, Repr

/-- A performed effect on its way to its point of atomicity: number, issuing engine and context, the activation and the address of its
instruction (R49), target. -/
structure InFlight where
  id  : Nat
  g   : Nat
  ctx : Nat
  who : Nat := 0
  pc  : Nat := 0
  tgt : Target
  va  : Nat := 0
  op  : MemOp
  uses : List Nat := []
  /-- the clusters at which a release has completed it (R364), as bits -/
  reach : Nat := 0
  /-- hub time at which it was performed (R467) -/
  since : Nat := 0
  /-- the bridge that its access of window 1 has reached (R425) -/
  port  : Option Nat := none
  /-- its ticket at the TC0 shaper (R470) -/
  ticket : Nat := 0
  /-- the observer that performed it (R369), and those whose releases at PKG cover it: their later effects come after it (R371) -/
  obs   : Nat := 0
  rel   : List Nat := []
  deriving DecidableEq, Repr

/-- The old value of an ATOMG on its way back (R348). -/
structure AtomRet where
  g    : Nat
  ctx  : Nat
  addr : Nat
  bar  : Nat
  v    : Nat
  w    : Nat
  deriving DecidableEq, Repr


/-- A future operation on its way to its agent (R271, R272). -/
inductive FutOp where
  | resolve (v : Nat)
  | dec (n : Nat) (flt : Bool)
  | inc (n : Nat)
  | free
  | bind (pq : Nat) (rcd : List Byte)
  deriving DecidableEq, Repr


/-- An injection that has reserved and written its tokens and waits for the earlier ones (R317): queue, first index, tokens, the future
with the VALUE to resolve, and the hart that waits, if one does. -/
structure Inject where
  ctx   : Nat
  q     : Nat
  start : Nat
  ntok  : Nat
  h     : Nat
  value : Nat
  hart  : Option Nat := none
  uses  : List Nat := []
  /-- the connection of a remote resolution (R435), and that it has been reset: the resolution is not applied (R426) -/
  conn  : Option Nat := none
  reset : Bool := false
  deriving DecidableEq, Repr

/-! ### Fabric (R458 to R482) -/

/-- Where a packet comes from: its source port's kind, for the order rule of R468. -/
inductive Source where
  | engine (c e : Nat)
  | hart (h : Nat)
  | agent (c : Nat)
  | hub
  | endpoint (conn : Nat)
  | remoteAgent
  deriving DecidableEq, Repr

/-- What a packet carries. -/
inductive Payload where
  | msg (m : Msg)
  /-- a migrated continuation on its way to a cluster agent (R289) -/
  | migrated (m : Msg)
  /-- a future operation with its handle (R271) -/
  | future (h : Nat) (op : FutOp)
  /-- the ROUTE info word, the header flit of the packet that failed, and what that packet carried (R467) -/
  | routeFault (info header : Nat) (of_ : Payload)
  /-- a memory request to the remote agent (R476): PEER, RCTX, KEY, what it asks for, offset, bytes, operand -/
  | request (peer rctx key op o n v : Nat)
  /-- the agent's answer (R477): code and data -/
  | answer (code v : Nat)
  /-- contents that the specification does not lay out -/
  | other (words : List Nat)
  deriving DecidableEq, Repr

/-- Where a packet stands: at a switch with its arrival port, waiting in the TC0 shaper of its source, or at an endpoint. -/
inductive Place where
  | shaper
  | switch (sw port : Nat)
  | endpoint (sw port : Nat)
  deriving DecidableEq, Repr

/-- A packet (R458): the fields of its header flit, its source, place and payload; `cover` is the release it carries (R370), `ticket` its
ticket at the TC0 shaper (R470). -/
structure Packet where
  route : Nat
  ptr   : Nat := 0
  tc    : Nat := 1
  cls   : Nat := 0
  kind  : Nat := 0
  len   : Nat := 4
  ctx   : Nat
  srcDev : Nat := 0
  /-- the KIND-specific bits of the header -/
  spec  : Nat := 0
  src   : Source
  place : Place
  body  : Payload
  cover : Nat := 0
  ticket : Nat := 0
  deriving DecidableEq, Repr

/-- The service of an output port (R471): flits that TC1, TC2 and TC3 have left in their round, and, by TC, whether COL was served last. -/
structure Arb where
  left : List Int := [8, 4, 1]
  col  : List Bool := [false, false, false, false]
  deriving DecidableEq, Repr

/-- The states of a port (R460, R473). -/
inductive PortState where
  | absent | disabled | down | training | up
  deriving DecidableEq, Repr

/-- A Nalornaz port: state, partner identity, delay and replay count (R460, R473). -/
structure Port where
  state    : PortState := .down
  peerSw   : Nat := 0
  peerPort : Nat := 0
  peerDev  : Nat := 0
  delay    : Nat := 0
  replays  : Nat := 0
  /-- hub times of the replays of the last ms (R460) -/
  replayed : List Nat := []
  /-- hub time since which the flits have been clean, in training (R460) -/
  clean    : Nat := 0
  deriving DecidableEq, Repr

/-- A TC0 packet that waits in the shaper (R470): its ticket, its source with its context (256 times the source's number plus the context),
and its charge in flits. -/
structure Shaped where
  ticket : Nat
  key    : Nat
  flits  : Nat
  deriving DecidableEq, Repr

/-- A TC0 token bucket (R470): flits held. -/
structure Bucket where
  flits : Nat
  deriving DecidableEq, Repr

/-- The states of a collective group (R478, R482). -/
inductive GroupState where
  | free | registered | aborted
  deriving DecidableEq, Repr

structure Group where
  state : GroupState := .free
  ctx   : Nat := 0
  mask  : Nat := 0
  root  : Nat := 0
  q     : Nat := 0
  u     : Nat := 0
  tmo   : Nat := 0
  deriving DecidableEq, Repr

/-- A contribution of one engine to an instance, or a broadcast (R480). -/
structure Contrib where
  eng  : Nat
  kind : Nat
  fmt  : Nat
  rop  : Nat
  len  : Nat
  dst  : Nat
  bar  : Nat
  data : List Byte
  /-- hub time at which it arrived (R482) -/
  since : Nat := 0
  /-- its ticket at the TC0 shaper (R470) -/
  ticket : Nat := 0
  deriving DecidableEq, Repr

/-- The contributions to one instance of a group. -/
structure CollRun where
  group : Nat
  seq   : Nat
  parts : List Contrib := []
  deriving DecidableEq, Repr

/-- A result chunk on its way to an engine (R481); `tag` numbers the instance or broadcast it belongs to. -/
structure Chunk where
  tag   : Nat
  group : Nat
  ctx   : Nat
  seq   : Nat
  kind  : Nat
  eng   : Nat
  addr  : Nat
  bar   : Nat
  data  : List Byte
  /-- its ticket at the TC0 shaper (R470) -/
  ticket : Nat := 0
  deriving DecidableEq, Repr

/-- Chunks dropped for an instance or broadcast (R481). -/
structure DropCount where
  tag : Nat
  n   : Nat
  deriving DecidableEq, Repr

/-! ### Views (R404 to R420) -/

/-- The version state of a view block (R412, R414). `cur` and `ret` name buffers: 0 view area, 1 alternate. -/
structure VBlock where
  gen     : Nat := 1
  tag     : Nat := 0
  faulted : Bool := false
  noVersion : Bool := true
  cur     : Nat := 0
  cause   : Nat := 0
  /-- tag of the RETAINED version, in the other buffer -/
  ret     : Option Nat := none
  /-- a recomputation is wanted; running with generation G and its groups done -/
  pending : Bool := false
  running : Option Nat := none
  deriving DecidableEq, Repr

structure View where
  ctx    : Nat
  num    : Nat
  master : Nat
  nrb    : Nat
  ncb    : Nat
  kind   : Nat
  mfmt   : Nat
  vfmt   : Nat
  rm     : Nat
  sat    : Bool
  mstride : Nat
  vbase  : Nat
  vstride : Nat
  sbase  : Nat
  sstride : Nat
  alt    : Nat
  /-- latched DPAs of the 64 KiB frames of the view and scale areas and of the master (R409): window-0 frame, DPA, key -/
  frames : List (Nat × Nat × Nat)
  blocks : Sparse VBlock := []
  deriving DecidableEq, Repr

/-- A write of a SHARD view that has been sent to the peer (R418): context, window, offset, bytes. -/
structure PeerWrite where
  ctx   : Nat
  w     : Nat
  off   : Nat
  bytes : List Byte
  deriving DecidableEq, Repr

/-! ### Hub, endpoint, management -/

structure LaunchQ where
  cfg  : Nat := 0
  head : Nat := 0
  tail : Nat := 0
  stat : Nat := 0
  deriving DecidableEq, Repr

structure Ingest where
  cfg    : Nat := 0
  ring   : Nat := 0
  state  : Nat := 0
  mark   : Nat := 0
  paused : Bool := false
  pausedAt : Nat := 0
  count  : Nat := 0
  deriving DecidableEq, Repr

/-- Registers of the hub window (R421 to R442, R483). -/
structure Hub where
  holder  : Nat := 2
  /-- a claim of port 1 in the cycle in progress (R424) -/
  lateClaim : Option Nat := none
  arm0    : Bool := false
  arm1    : Bool := false
  remain  : Nat := 0
  period  : Nat := 1000
  epoch   : Nat := 0
  grace   : Nat := 30000
  /-- hub time in µs at which the lease was left without a holder (R426) -/
  orphan  : Option Nat := none
  err     : Nat := 0
  featAcc : Nat := 1
  /-- the accepted vector before the first write of the cycle in progress (R22) -/
  featWas : Option Nat := none
  locked  : Bool := false
  ctxStat : Nat := 0
  irqSys  : Nat := 0
  irqCtx  : Sparse Nat := []
  /-- vectors raised and not sent, each with the number of effects performed before it was raised (R432), and vectors sent with their
  port, oldest first (R431) -/
  pendIrq : List (Nat × Nat) := []
  sentIrq : List (Nat × Nat) := []
  queues  : Sparse LaunchQ := []
  rkey    : Sparse Nat := []
  ingest  : Sparse Ingest := []
  /-- PFC frames sent: port mask, priority, quanta (R440) -/
  pfc     : List (Nat × Nat × Nat) := []
  link0   : Bool := false
  link1   : Bool := false
  bootState : Nat := 0
  bootStage : Nat := 0
  bootCode  : Nat := 0
  sramCe  : Nat := 0
  dramCe  : Nat := 0
  ue      : Nat := 0
  tmax    : Nat := 0
  throt   : Nat := 95
  /-- numbers of swallowed pulses that an island no longer has, each with the hub time at which it ended (R450) -/
  swallows : List (Nat × Nat) := []
  planRes : Nat := 0
  planAddr : Nat := 0
  keyRes  : Nat := 0
  /-- key load or clear in progress: slot and new key (R448) -/
  keyMove : Option (Nat × Nat) := none
  /-- key load whose key has not been read: slot and address (R448) -/
  keyWait : Option (Nat × Nat) := none
  mce     : Nat := 0
  mceTail : Nat := 0
  cwm     : Nat := 0
  hrt     : Nat := 0
  devid   : Nat := 0
  linkAdmin : Nat := 0xFFFFFFFF
  collStat : Nat := 0
  ctxTc   : Sparse Nat := []
  akey    : Sparse Nat := []
  /-- replies sent to remote resolutions: handle and status (R437) -/
  replies : List (Nat × Nat) := []
  /-- responses sent to remote requesters: code of R400, 0 for success, and data (R477) -/
  served  : List (Nat × Nat) := []
  /-- hub time in µs at which a sensor's TRIP began an orderly reset (R450) -/
  trip    : Option Nat := none
  /-- lines delivered to hosts as poisoned data: port and address (R456) -/
  poisoned : List (Nat × Nat) := []
  /-- an uncorrectable internal error stands in the CXL RAS capability of port 0 or 1 (R434) -/
  ras0    : Bool := false
  ras1    : Bool := false
  deriving DecidableEq, Repr

/-- The management core (R441 to R447, R492, R493): its registers, which are those of an RV64 hart in M mode, its memories, fuses and
management block, and the SPDM response last sent. -/
structure Bittern where
  pc      : Nat := 0
  x       : Sparse Nat := []
  mstatus : Nat := 0
  mtvec   : Nat := 0
  mepc    : Nat := 0
  mcause  : Nat := 0
  mtval   : Nat := 0
  /-- the address of its LR reservation -/
  resv    : Option Nat := none
  mr     : Sparse Nat := []
  sram   : Sparse Byte := []
  rom    : Sparse Byte := []
  part   : Sparse Byte := []
  rootKey : Nat := 0
  minVer1 : Nat := 0
  minVer2 : Nat := 0
  din    : Sparse Nat := []
  edA    : Nat := 0
  edS    : Nat := 0
  edM    : Nat := 0
  /-- operands of the verification in progress: key, signature, message bytes (R493) -/
  edRun  : Option (List Byte × List Byte × List Byte) := none
  edStat : Nat := 0
  /-- result of the last access of Bittern: the value, or none for an access fault (R492) -/
  lastLoad : Option Nat := none
  entropyNext : Nat := 0
  busy   : Bool := false
  resp   : List Byte := []
  deriving DecidableEq, Repr

/-! ### Agents and the state of the device -/

/-- An agent's turn (log 1): an event of the table, the front end of a slot, the head of an issue queue (0 A, 1 C, 2 S), a hart's next
instruction, a word fetched ahead (R102), a tick of the hub clock, cycles of a cluster, a refill or loss of a cached line, or the bounds
of turns that fall in one cycle (R214). -/
inductive Turn where
  | event (i : Instr)
  | front (g k : Nat)
  | issue (g k q : Nat)
  /-- the head of a queue begins to read the scratchpad (R163) -/
  | begin (g k q : Nat)
  | ahead (g k : Nat)
  | hart (h : Nat)
  | hubTick
  | cc (c n : Nat)
  /-- an implicit tile is evicted (R332) -/
  | evict (i : Nat)
  /-- a running MST stores one of its elements (R244) -/
  | mstElem (u i k : Nat)
  /-- a packet arrives over a Nalornaz link (R461): its header flit and its payload as 64-bit words -/
  | linkPacket (k header : Nat) (words : List Nat)
  /-- an instance of a collective is aborted at its TIMEOUT (R482) -/
  | collAbort (i : Nat)
  /-- a packet that is no message and no future operation reaches its endpoint -/
  | packetEnd (i : Nat)
  /-- the answer to a load, or to a sector of a copy, has not come in time (R467) -/
  | loadTimeout (g k i : Nat)
  | sectorTimeout (g i j : Nat)
  /-- a use has found bad check bits (R456): row, what was found, location -/
  | badUse (row x a : Nat)
  | constLine (g line : Nat)
  | instrLine (g line : Nat)
  | cycleStart
  | cycleEnd
  deriving DecidableEq, Repr

/-- The instruction that executes: engine `g = 16c + e`, slot `k`, address, number in program order, whether it ends its group; or the
hart. -/
structure Focus where
  g    : Nat := 0
  k    : Nat := 0
  pc   : Nat := 0
  n    : Nat := 0
  last : Bool := true
  hart : Nat := 0
  deriving DecidableEq, Repr

/-- The whole device. -/
structure State where
  agenda   : List Turn
  focus    : Focus
  free     : Nat
  /-- the turns from `cycleStart` on fall in one cycle -/
  sameCycle : Bool
  /-- messages that a cluster has taken in the cycle in progress: context, sender's context and the info word that a record would have, for
  those that are recorded when the context is torn down in the same cycle (R280) -/
  arrivals : List (Nat × Nat × Nat)
  hubTime  : Nat
  engines  : Sparse Engine
  units    : Sparse MxUnit
  clusters : Sparse Cluster
  harts    : Sparse Hart
  serverMask : Option Nat
  mem      : List Host.Cell
  granKey  : Sparse Nat
  /-- granules of DRAM whose data have bad check bits (R456) -/
  badBits  : List Nat
  keys     : Sparse Nat
  ctxs     : Sparse Ctx
  inflight : List InFlight
  nextId   : Nat
  returns  : List AtomRet
  injects  : List Inject
  packets  : List Packet
  tenures  : List Tenure
  requests : List TReq
  /-- drains of recalls whose covered effects may still be on their way (R370) -/
  drains   : List DrainCover
  resvs    : List Resv
  resvReqs : List ResvReq
  tickets  : Sparse Nat
  /-- page-table granules in use to which a write waits (R390) -/
  ptWrites : List Nat
  hostLines : List (Nat × Nat × Bool)
  /-- granules whose bridge buffer holds bytes that the home has not had: bridge state M (R345) -/
  buffers  : List (Nat × Nat)
  /-- the bytes last written back of a granule of host memory that a party of the device has modified (R434) -/
  hostBack : List (Nat × List Byte)
  views    : List View
  /-- writes of SHARD views sent to peers, oldest first (R418) -/
  peerWrites : List PeerWrite
  ports    : Sparse Port
  /-- DISCARDS and FAULTS of the switches (R473) -/
  switches : Sparse (Nat × Nat)
  /-- TC0 packets that wait for their buckets, oldest first (R470) -/
  shaper   : List Shaped
  buckets  : Sparse Bucket
  arbs     : Sparse Arb
  groups   : Sparse Group
  collRuns : List CollRun
  chunks   : List Chunk
  drops    : List DropCount
  hub      : Hub
  bittern  : Bittern
  plan     : List Byte
  deriving DecidableEq, Repr

/-- Why a step stops although the machine has an instruction. -/
inductive Fault where
  /-- raised by an instruction of a tile engine when no activation runs in the slot in focus: no word is executed there (R48). Safe:
  the device has no such step. -/
  | noActivation
  deriving DecidableEq, Repr

/-- Why an instruction has no meaning in the model. -/
inductive Refusal where
  /-- an instruction that the model gives no meaning yet, by its mnemonic. Safe: nothing is claimed of it. -/
  | notModelled (mnemonic : String)
  /-- raised by a hart's turn on a word that is no extension instruction: the standard RISC-V instructions are defined outside this
  specification (R297). Safe. -/
  | standardRiscv
  deriving DecidableEq, Repr

/-- The device right after reset. -/
def State.reset : State where
  agenda := []
  focus := {}
  free := 0
  sameCycle := false
  arrivals := []
  hubTime := 0
  engines := []
  units := []
  clusters := []
  harts := []
  serverMask := none
  mem := []
  granKey := []
  badBits := []
  keys := []
  ctxs := []
  inflight := []
  nextId := 0
  returns := []
  injects := []
  packets := []
  tenures := []
  requests := []
  drains := []
  resvs := []
  resvReqs := []
  tickets := []
  ptWrites := []
  hostLines := []
  buffers := []
  hostBack := []
  views := []
  peerWrites := []
  ports := []
  switches := []
  shaper := []
  buckets := []
  arbs := []
  groups := []
  collRuns := []
  chunks := []
  drops := []
  hub := {}
  bittern := {}
  plan := []

end Sys2Proof.Machine
end

