-- ==== Sys2Proof/Machine/Parts.lean ====
section
/-! DEFINITION. The parts of the device by number, the fields of the context record (R395), and physical memory: its tiers and homes
(R383), keys (R329), check bits (R456). -/

namespace Sys2Proof.Machine

/-! ### Parts by number -/

/-- Engine `g = 16c + e` (R395). -/
def State.eng (s : State) (g : Nat) : Engine := s.engines.get {} g
def State.setEng (s : State) (g : Nat) (E : Engine) : State := { s with engines := s.engines.set g E }
def State.modEng (s : State) (g : Nat) (f : Engine → Engine) : State := s.setEng g (f (s.eng g))
def Engine.slot (E : Engine) (k : Nat) : Slot := E.slots.get {} k
def Engine.act (E : Engine) (k : Nat) : Option Act := (E.slot k).act
def Engine.setAct (E : Engine) (k : Nat) (a : Option Act) : Engine :=
  { E with slots := E.slots.set k { E.slot k with act := a } }
/-- The activation in slot `k` of engine `g`. -/
def State.act (s : State) (g k : Nat) : Option Act := (s.eng g).act k
def State.setAct (s : State) (g k : Nat) (a : Act) : State := s.setEng g ((s.eng g).setAct k (some a))
def State.modAct (s : State) (g k : Nat) (f : Act → Act) : State :=
  match s.act g k with
  | some a => s.setAct g k (f a)
  | none => s
def State.cluster (s : State) (c : Nat) : Cluster := s.clusters.get {} c
def State.setCluster (s : State) (c : Nat) (x : Cluster) : State := { s with clusters := s.clusters.set c x }
def State.modCluster (s : State) (c : Nat) (f : Cluster → Cluster) : State := s.setCluster c (f (s.cluster c))
def State.ctx (s : State) (c : Nat) : Ctx := s.ctxs.get {} c
def State.setCtx (s : State) (c : Nat) (x : Ctx) : State := { s with ctxs := s.ctxs.set c x }
def State.modCtx (s : State) (c : Nat) (f : Ctx → Ctx) : State := s.setCtx c (f (s.ctx c))
/-- Hart `h = 4c + j` (R297). -/
def State.hart (s : State) (h : Nat) : Hart := s.harts.get {} h
def State.setHart (s : State) (h : Nat) (x : Hart) : State := { s with harts := s.harts.set h x }
def State.modHart (s : State) (h : Nat) (f : Hart → Hart) : State := s.setHart h (f (s.hart h))
/-- The matrix unit of engine `g`: unit 0 serves engines 0 to 7 of a cluster, unit 1 the others (R254). -/
def unitOf (g : Nat) : Nat := g / 8
def State.unit (s : State) (u : Nat) : MxUnit := s.units.get {} u
def State.setUnit (s : State) (u : Nat) (x : MxUnit) : State := { s with units := s.units.set u x }
def State.modHub (s : State) (f : Hub → Hub) : State := { s with hub := f s.hub }
def State.modBittern (s : State) (f : Bittern → Bittern) : State := { s with bittern := f s.bittern }
/-- Whether feature bit `k` is accepted (R22). -/
def State.feat (s : State) (k : Nat) : Bool := bitOf s.hub.featAcc k
/-- Cycles of the cluster of engine `g` (R403). -/
def State.now (s : State) (g : Nat) : Nat := (s.cluster (g / 16)).cycles

/-- The next free choice (R4), and the state after it. -/
def State.draw (s : State) : Nat × State := (Config.freeNat s.free, { s with free := s.free + 1 })

/-! ### The context record (R395) -/

/-- The `n`-byte field at byte `o` of the latched record. -/
def Ctx.field (x : Ctx) (o n : Nat) : Nat := ofLE ((x.rcd.drop o).take n)
def Ctx.ptRoot (x : Ctx) : Nat := x.field 0 8 % 2 ^ 48
def Ctx.winTab (x : Ctx) : Nat := x.field 8 8 % 2 ^ 48
def Ctx.winCnt (x : Ctx) : Nat := x.field 8 8 / 2 ^ 48
def Ctx.tileCnt (x : Ctx) : Nat := fieldOf (x.field 16 8) 62 48
def Ctx.handlerTab (x : Ctx) : Nat := x.field 24 8 % 2 ^ 48
def Ctx.seedOf (x : Ctx) : Nat := x.field 32 16
def Ctx.fqDesc (x : Ctx) : Nat := x.field 48 8 % 2 ^ 48
def Ctx.cqDesc (x : Ctx) : Nat := x.field 56 8 % 2 ^ 48
def Ctx.pqTab (x : Ctx) : Nat := x.field 64 8 % 2 ^ 48
def Ctx.pqCnt (x : Ctx) : Nat := fieldOf (x.field 64 8) 59 48
def Ctx.wlog (x : Ctx) : Nat := fieldOf (x.field 80 8) 52 48
def Ctx.mlog (x : Ctx) : Nat := fieldOf (x.field 88 8) 52 48
def Ctx.dlog (x : Ctx) : Nat := fieldOf (x.field 96 8) 52 48
def Ctx.quota (x : Ctx) : Nat := x.field 112 2 % 2 ^ 13
def Ctx.steal (x : Ctx) : Nat := x.field 114 1 % 4
def Ctx.priv (x : Ctx) : Bool := bitOf (x.field 114 1) 2
def Ctx.w1en (x : Ctx) : Bool := bitOf (x.field 115 1) 0
def Ctx.w1base (x : Ctx) : Nat := x.field 120 8 % 2 ^ 48
def Ctx.w1limit (x : Ctx) : Nat := x.field 128 8 % 2 ^ 48
/-- A context that exists and is not being torn down (R257, R280). -/
def Ctx.exists (x : Ctx) : Bool := x.state == .live || x.state == .held

/-! ### Physical memory (R383, R329) -/

/-- The home of a device physical address (R383). -/
def homeOf (a : Nat) : Option Nat :=
  if a < 2 ^ 40 then some (a / 65536 % 128)
  else if a < 3 * 2 ^ 40 then some (128 + a / 65536 % 16)
  else if 2 ^ 47 ≤ a && a < 2 ^ 48 then some (144 + a / 2 ^ 46 % 2)
  else none

/-- The `n` bytes at `a` lie in HBM or LPDDR (R383). -/
def inDram (a n : Nat) : Bool := a + n ≤ 3 * 2 ^ 40
/-- The `n` bytes at `a` lie on the flash tier (R383). -/
def inFlash (a n : Nat) : Bool := 2 ^ 45 ≤ a && a + n ≤ 2 ^ 46

/-- The canonical form of memory (log 9): addresses rising, and no entry equal to what an unlisted address reads as. -/
def Memory.wf (m : List Host.Cell) : Bool := Sparse.canonical 0 m
/-- The plaintext byte at a DPA. -/
def State.byte (s : State) (a : Nat) : Byte := Sparse.get 0 s.mem a

/-- A structure of the device in memory, read by DPA: its plaintext. -/
def State.rd (s : State) (a n : Nat) : Nat := readLE s.mem a n
/-- A structure of the device in memory, written by DPA. -/
def State.wr (s : State) (a n v : Nat) : State := { s with mem := writeLE s.mem a n v }
def State.wrBytes (s : State) (a : Nat) (bs : List Byte) : State := { s with mem := putBytes s.mem a bs }

/-- What DRAM holds of a granule written with key index `k`, and what a read of it with the index makes of that: index 0 is plaintext
(R329). -/
def State.crypt (s : State) (enc : Bool) (k g v : Nat) : Nat := if k = 0 then v else xtsGranule enc (s.keys.get 0 k) g v

/-- The 128 bytes of granule `g` as a read with key index `key` gets them (R329): where the index differs from the one of the last
write, the plaintext or the decryption of the stored ciphertext. -/
def State.granuleAs (s : State) (g key : Nat) : List Byte × State :=
  let plain := bytesAt s.mem (128 * g) 128
  let w := s.granKey.get 0 g
  if s.feat 13 && 128 * g < 3 * 2 ^ 40 && w != key then
    let (d, s') := s.draw
    if d % 2 = 0 then (plain, s') else (toLE 128 (s.crypt false key g (s.crypt true w g (ofLE plain))), s')
  else (plain, s)

/-- The `n` bytes at `a`, within one granule, read with key index `key` (R329). -/
def State.readKeyed (s : State) (a n key : Nat) : List Byte × State :=
  let w := s.granKey.get 0 (a / 128)
  if s.feat 13 && a < 3 * 2 ^ 40 && w != key then
    let (g, s') := s.granuleAs (a / 128) key
    ((g.drop (a % 128)).take n, s')
  else (bytesAt s.mem a n, s)

/-- The bytes with `bs` in place from position `i` on. -/
def overlay (base : List Byte) (i : Nat) (bs : List Byte) : List Byte :=
  base.take i ++ bs ++ base.drop (i + bs.length)

/-- A write of a granule recomputes its check bits (R456). -/
def State.repair (s : State) (gr : Nat) : State :=
  if s.badBits.isEmpty then s else { s with badBits := s.badBits.filter (fun g => g != gr) }

/-- Writes bytes within one granule with key index `key` (R329): a granule last written under another index is read, merged and
written whole. -/
def State.writeKeyed (s : State) (a key : Nat) (bs : List Byte) : State :=
  let s := s.repair (a / 128)
  if s.feat 13 && a < 3 * 2 ^ 40 && s.granKey.get 0 (a / 128) != key then
    let (g, s') := s.granuleAs (a / 128) key
    let s'' := s'.wrBytes (a / 128 * 128) (overlay g (a % 128) bs)
    { s'' with granKey := s''.granKey.put 0 (a / 128) key }
  else s.wrBytes a bs

/-- A use of `n` bytes at `a` finds an uncorrectable error (R456): its effects come next, for a row with what was found. -/
def State.findsBad (s : State) (a n row x : Nat) : Option State :=
  (s.badBits.find? (fun g => a / 128 ≤ g && g ≤ (a + n - 1) / 128)).map (fun g =>
    { s with agenda := .badUse row x (max a (128 * g)) :: s.agenda })

/-- Writes one nibble of a byte; the other keeps its value (R192). -/
def setNibble (old v : Byte) (hi : Bool) : Byte :=
  if hi then (v <<< 4) ||| (old &&& 0x0F) else (old &&& 0xF0) ||| (v &&& 0x0F)

/-- Whether the host of port `p` is there (R388). -/
def State.linkUp (s : State) (p : Nat) : Bool := if p = 0 then s.hub.link0 else s.hub.link1

/-- The number with bits `hi` to `lo` replaced by `v`. -/
def setField (x hi lo v : Nat) : Nat :=
  x - fieldOf x hi lo * 2 ^ lo + v % 2 ^ (hi + 1 - lo) * 2 ^ lo

end Sys2Proof.Machine
end

