-- ==== Sys2Proof/Machine/Marks.lean ====
section
/-! DEFINITION. What a home knows of views (R404 to R408, R411): where a byte of a view or of its alternate area lies, which granules are
marked, which master blocks a granule belongs to, and the generations that a drain advances. The layout of a block inside its alternate
buffer is the device's own (R414) and is the model's choice (log 30). -/

namespace Sys2Proof.Machine

/-! ### Geometry (R404, R407, R408) -/

/-- Blocks of a view. -/
def View.nb (v : View) : Nat := v.nrb * v.ncb
/-- Bytes of a master element. -/
def View.mw (v : View) : Nat := fmtWidth v.mfmt / 8
/-- Bytes of one row of a block in the view: a view row, or a view column for a transpose. -/
def View.rowBytes (v : View) : Nat :=
  match v.kind with
  | 1 => 128
  | 2 => 32 * fmtWidth v.vfmt / 8
  | _ => 64 * fmtWidth v.vfmt / 8
/-- Bytes of the alternate area (R408). -/
def View.altTable (v : View) : Nat := (8 * v.nb + 65535) / 65536 * 65536
def View.altLen (v : View) : Nat := v.altTable + 8192 * v.nb
/-- Where the scales of a block stand in its alternate buffer. -/
def scaleOfs : Nat := 4096

/-- The block and the place in its buffer of the view or scale byte at window-0 offset `o`. -/
def View.locate (v : View) (o : Nat) : Option (Nat × Nat) :=
  let rb := v.rowBytes
  if v.kind = 3 then none else
  let r := (o - v.vbase) / v.vstride
  let x := (o - v.vbase) % v.vstride
  if v.vbase ≤ o && v.kind != 2 && r < 32 * v.nrb && x < rb * v.ncb then
    some (r / 32 * v.ncb + x / rb, r % 32 * rb + x % rb)
  else if v.vbase ≤ o && v.kind == 2 && r < 64 * v.ncb && x < rb * v.nrb then
    some (x / rb * v.ncb + r / 64, r % 64 * rb + x % rb)
  else if v.kind = 0 && v.sbase ≤ o then
    let r := (o - v.sbase) / v.sstride
    let x := (o - v.sbase) % v.sstride
    if r < 32 * v.nrb && x < 2 * v.ncb then some (r / 32 * v.ncb + x / 2, scaleOfs + r % 32 * 2 + x % 2) else none
  else none

/-- The window-0 offset of a place of block `b`'s buffer when it is the one in the view area. -/
def View.place (v : View) (b ofs : Nat) : Nat :=
  let rb := v.rowBytes
  let i := b / v.ncb
  let j := b % v.ncb
  if v.kind = 0 && scaleOfs ≤ ofs then
    v.sbase + (32 * i + (ofs - scaleOfs) / 2) * v.sstride + 2 * j + (ofs - scaleOfs) % 2
  else if v.kind = 2 then v.vbase + (64 * j + ofs / rb) * v.vstride + i * rb + ofs % rb
  else v.vbase + (32 * i + ofs / rb) * v.vstride + j * rb + ofs % rb

/-- The window-0 offset of master element (r, c). -/
def View.element (v : View) (r c : Nat) : Nat := v.master + r * v.mstride + c * v.mw

/-- The latched device address and key index of a window-0 offset (R409). -/
def View.dpaOf (v : View) (o : Nat) : Option (Nat × Nat) :=
  (v.frames.find? (fun f => f.1 == o / 65536)).map (fun f => (f.2.1 * 65536 + o % 65536, f.2.2))

/-- The window-0 offsets that were latched for a device address. -/
def View.offsets (v : View) (a : Nat) : List Nat :=
  (v.frames.filter (fun f => f.2.1 == a / 65536)).map (fun f => f.1 * 65536 + a % 65536)

/-- The device address and key index of a place of block `b` in buffer `buf` (0 the view area, 1 the alternate buffer). -/
def View.bufDpa (v : View) (b ofs buf : Nat) : Nat × Nat :=
  if buf = 0 then (v.dpaOf (v.place b ofs)).getD (0, 0) else (v.alt + v.altTable + 8192 * b + ofs, 0)

/-- Names the view among those of all contexts (view numbers are per context, R409). -/
def View.uid (v : View) : Nat := v.ctx * 1024 + v.num
def View.block (v : View) (b : Nat) : VBlock := v.blocks.get {} b
def State.modView (s : State) (i : Nat) (f : View → View) : State := { s with views := modifyAt s.views i f }
def State.modBlock (s : State) (i b : Nat) (f : VBlock → VBlock) : State :=
  s.modView i (fun v => { v with blocks := v.blocks.set b (f (v.block b)) })

/-- The first of a list of values that a function gives. -/
def firstSome {α β : Type} (f : α → Option β) : List α → Option β
  | [] => none
  | x :: r => (f x).orElse (fun _ => firstSome f r)

/-- The view (by position), block and place of the byte at a device address, when it is a marked view or scale byte (R415). -/
def State.viewByte (s : State) (a : Nat) : Option (Nat × Nat × Nat) :=
  firstSome (fun e => firstSome (fun o => (e.1.locate o).map (fun l => (e.2, l.1, l.2))) (e.1.offsets a)) s.views.zipIdx

/-- The granule belongs to a view, scale or alternate area (R411). -/
def State.marked (s : State) (gr : Nat) : Bool :=
  s.views.any (fun v => v.alt ≤ 128 * gr && 128 * gr < v.alt + v.altLen) ||
    (List.range 128).any (fun i => (s.viewByte (128 * gr + i)).isSome)

/-- The master blocks that a granule belongs to (R404): view by position, block. -/
def State.masterBlocks (s : State) (gr : Nat) : List (Nat × Nat) :=
  (s.views.zipIdx.map (fun e =>
    let v := e.1
    (v.offsets (128 * gr)).filterMap (fun o =>
      let r := (o - v.master) / v.mstride
      let x := (o - v.master) % v.mstride
      if v.master ≤ o && r < 32 * v.nrb && x < 64 * v.ncb * v.mw then
        some (e.2, r / 32 * v.ncb + x / (64 * v.mw)) else none))).flatten

/-- One advance of a block's generation; it asks for a recomputation (R405, R412). -/
def State.bumpGen (s : State) : List (Nat × Nat) → State
  | [] => s
  | e :: r => (s.modBlock e.1 e.2 (fun b => { b with gen := (b.gen + 1) % 2 ^ 32, pending := true })).bumpGen r

/-- A drain of written granules (R405): every home-part advances each block it carries by one; what is written back to a host is no longer
at risk (R434). -/
def State.advance (s : State) (grans : List Nat) : State :=
  let parts := (grans.map (fun gr => (s.masterBlocks gr).map (fun e => (homeOf (128 * gr), e)))).flatten
  ({ s with hostBack := s.hostBack.filter (fun e => !grans.contains e.1) } : State).bumpGen (parts.eraseDups.map (fun p => p.2))

end Sys2Proof.Machine
end

