-- ==== Sys2Proof/Machine/Recall.lean ====
section
/-! DEFINITION. Tenure and the effects on their way as an access finds them: the point of atomicity and the order of effects (R346, R365,
R368), recalls and drains (R343, R345, R405), the tiles that an access acquires (R332). -/

namespace Sys2Proof.Machine

/-! ### Tenure seen by an access (R343) -/

/-- The tenure holds a write state. -/
def TState.isWrite : TState → Bool
  | .e => true
  | .m => true
  | _ => false

/-- The tenure's part in the granule's super-granule has bounds that hold the granule (R339). -/
def Tenure.covers (t : Tenure) (gr : Nat) : Bool :=
  t.spans.any (fun p => p.g == gr / 512 && p.lo ≤ gr % 512 && gr % 512 ≤ p.hi)

/-- An access by a party recalls this tenure (R343); `all` says that the issuer's own is recalled too (R346). -/
def Tenure.recalled (t : Tenure) (cl ctx gr : Nat) (write all : Bool) : Bool :=
  t.covers gr &&
    (if t.cl = cl && t.ctx = ctx then all && t.st.isWrite
     else if write then true else t.st.isWrite)

/-- The bytes of a target overlap a granule range. -/
def Target.touches (t : Target) (n lo hi : Nat) : Bool :=
  match t with
  | .dpa a _ => decide (lo ≤ (a + n - 1) / 128) && decide (a / 128 ≤ hi)
  | .remote _ _ => false

/-- Bytes that a performed effect acts on. -/
def MemOp.size : MemOp → Nat
  | .write bs _ => bs.length
  | .atomic _ f _ _ _ _ => fmtWidth f / 8
  | .sch f _ _ _ => fmtWidth f / 8

/-- The `k` bytes at `a` share a byte with the `n` bytes of a target. -/
def Target.meets (t : Target) (n a k : Nat) : Bool :=
  match t with
  | .dpa b _ => decide (b < a + k) && decide (a < b + n)
  | .remote _ _ => false

def MemOp.isWrite : MemOp → Bool
  | .write _ _ => true
  | _ => false

def Target.isRemote : Target → Bool
  | .remote _ _ => true
  | _ => false

/-! ### Observers and the effects on their way (R363 to R366) -/

/-- An observer of memory: its engine, where it is an activation, its cluster and its context. -/
structure Seer where
  eng : Option Nat := none
  cl  : Nat
  ctx : Nat
  deriving DecidableEq, Repr

/-- The number under which the hub accesses memory: it is no party. -/
def hubParty : Nat := 2048

def engineSeer (g ctx : Nat) : Seer := { eng := some g, cl := g / 16, ctx := ctx }
def hartSeer (h ctx : Nat) : Seer := { cl := h / 4, ctx := ctx }

/-- The effect is complete at the observer's level (R364): its own engine's, or one that a release has completed for its cluster. Releases
of the observer cover it (R370). -/
def InFlight.seen (f : InFlight) (o : Seer) : Bool := o.eng.any (fun g => g == f.g) || bitOf f.reach o.cl
/-- The effect is one of the observer's party (R330). -/
def InFlight.mine (f : InFlight) (o : Seer) : Bool := f.ctx == o.ctx && f.g / 16 == o.cl

/-- The access to `n` bytes at `a` waits: an effect that the observer must see has not reached its point of atomicity, and no cluster
cache holds its result (R366). -/
def State.heldFrom (s : State) (o : Seer) (a n : Nat) : Bool :=
  s.inflight.any (fun f => f.seen o && f.tgt.meets f.op.size a n && !(f.mine o && f.op.isWrite))

/-- Effects are complete for the clusters of a mask (R364). -/
def State.completeFor (s : State) (p : InFlight → Bool) (mask : Nat) : State :=
  { s with inflight := s.inflight.map (fun f => if p f then { f with reach := f.reach ||| mask } else f) }

/-- Writes of the party that a read returns are from now on seen by the whole party (R365). -/
def State.seenNow (s : State) (o : Seer) (a n : Nat) : State :=
  s.completeFor (fun f => f.mine o && f.op.isWrite && f.tgt.meets f.op.size a n) (2 ^ o.cl)

/-! ### Hosts' lines (R345) -/

/-- A host holds a line that an access to `n` bytes at `a`, within one granule, needs: a line it touches, exclusive or for a write; a
shared other half, for a write; and for another host's bridge any exclusive line of the granule, or any line for a write. The host gives
it up by HOST_LINE_REQUEST. An exclusive other half does not stop an access of the device: it is served at the bridge's buffer. -/
def State.hostBlocks (s : State) (cl a n : Nat) (write : Bool) : Bool :=
  s.hostLines.any (fun l => 1024 + l.1 != cl && l.2.1 / 128 == a / 128 &&
    (if (l.2.1 < a + n && a < l.2.1 + 64) || (1024 ≤ cl && cl < 1026) then l.2.2 || write else write && !l.2.2))

/-- The port whose bridge holds the granule in E or M. -/
def State.bridgeOf (s : State) (gr : Nat) : Option Nat :=
  (s.hostLines.find? (fun l => l.2.1 / 128 == gr && l.2.2)).map (fun l => l.1)

/-- A recall drains the effect (R343, R346): a write, or an atomic queued at the cluster cache. -/
def MemOp.drained : MemOp → Bool
  | .write _ _ => true
  | .atomic _ _ _ _ clu _ => clu
  | .sch _ _ _ _ => false

/-- The party holds the granule for writing (R337), under a tenure record or as an implicit tile (R332). -/
def State.holdsOwn (s : State) (cl ctx gr : Nat) : Bool :=
  s.tenures.any (fun t => t.cl == cl && t.ctx == ctx && t.st.isWrite && t.covers gr)

/-! ### The order of effects (R262, R365, R368) -/

/-- The destination of an effect (R368): the cluster cache of its party, a home or a bridge by its home number, a window. -/
inductive Dest where
  | cache
  | home (h : Nat)
  | window (w : Nat)
  deriving DecidableEq, Repr

/-- The point of atomicity of the effect as tenure stands now (R346, R368; DEDUCED, log 105). -/
def State.dest (s : State) (f : InFlight) : Dest :=
  match f.tgt with
  | .remote w _ => .window w
  | .dpa a _ =>
    if f.op.drained && s.holdsOwn (f.g / 16) f.ctx (a / 128) then .cache
    else match s.bridgeOf (a / 128) with
      | some p => .home (144 + p)
      | none => .home ((homeOf a).getD 0)

/-- The two are effects of one source: of one engine, or of one observer that has moved within its cluster (R262, R369). -/
def InFlight.fellow (x f : InFlight) : Bool := x.g == f.g || (x.obs == f.obs && x.obs != 0 && x.g / 16 == f.g / 16)

/-- An earlier effect comes before a later one: of one source and to one destination (R262, R368); where a release of the later one's
observer at PKG covers it (R371); or to bytes that they share where they are of one party or the later one's engine sees the earlier
(R365, R373). -/
def State.precedes (s : State) (x f : InFlight) : Bool :=
  (x.fellow f && s.dest x == s.dest f) || x.rel.contains f.obs ||
    ((x.mine (engineSeer f.g f.ctx) || x.seen (engineSeer f.g f.ctx)) &&
      (match f.tgt with
        | .dpa a _ => x.tgt.meets x.op.size a f.op.size
        | .remote _ _ => false))

/-- Effects that nothing but their cluster cache keeps from their point of atomicity, of a list in the order of performance; `held` are
those before them that it does not. -/
def State.drainable (s : State) (held : List InFlight) : List InFlight → List InFlight
  | [] => []
  | f :: r =>
    if s.dest f = .cache && !held.any (fun x => decide (x.id < f.id) && s.precedes x f) then f :: s.drainable held r
    else s.drainable (f :: held) r

/-- The party of a tenure has performed effects on their way into the part of the tenure in a super-granule; `by_` is the effect whose
access recalls it. One that an effect bound for a home holds back has not reached the cluster cache, and no recall waits for it. -/
def State.owes (s : State) (t : Tenure) (sg : Nat) (by_ : Option InFlight) : Bool :=
  let part := t.spans.filter (fun p => p.g == sg)
  s.inflight.any (fun f => f.g / 16 == t.cl && f.ctx == t.ctx && f.op.drained) &&
  (s.drainable by_.toList s.inflight).any (fun f => f.g / 16 == t.cl && f.ctx == t.ctx &&
    part.any (fun p => f.tgt.touches f.op.size (512 * sg + p.lo) (512 * sg + p.hi)))

/-! ### Recalls (R343) -/

/-- The cluster's caches give up the granules of a part of a tenure (R331, R343). -/
def State.dropCopies (s : State) (cl : Nat) (parts : List Span) : State :=
  let inPart := fun (gr : Nat) => parts.any (fun p => p.g == gr / 512 && p.lo ≤ gr % 512 && gr % 512 ≤ p.hi)
  { s with
    engines := s.engines.map (fun e => if e.1 / 16 = cl then (e.1, { e.2 with dcache := e.2.dcache.filter (fun x => !inPart x) }) else e)
    clusters := s.clusters.map (fun e => if e.1 = cl then (e.1, { e.2 with l2 := e.2.l2.filter (fun x => !inPart x) }) else e)
    harts := s.harts.map (fun e => if e.1 / 4 = cl then (e.1, { e.2 with lines := e.2.lines.filter (fun x => !inPart x) }) else e) }

/-- The recalled part leaves the tenure (R343): its written granules are drained, the party's copies dropped, SPLIT set; an implicit tile
ends. -/
def State.recallFrom (s : State) (sg : Nat) : List (Bool × Tenure) → State
  | [] => { s with tenures := [] }
  | (hit, t) :: r =>
    let s' := s.recallFrom sg r
    if hit then
      let gone := t.dirty.filter (fun x => x / 512 == sg)
      let t' := { t with
        split := true, spans := t.spans.filter (fun p => p.g != sg), dirty := t.dirty.filter (fun x => x / 512 != sg) }
      let s' := (s'.advance gone).dropCopies t.cl (t.spans.filter (fun p => p.g == sg))
      { s' with tenures := if t.implicit then s'.tenures else t' :: s'.tenures }
    else { s' with tenures := t :: s'.tenures }

/-- Written granules of the tenures that `p` names go home as one drain (R405); the tenures stay. -/
def State.flush (s : State) (p : Tenure → Bool) (grans : List Nat) : State :=
  let gone := grans.filter (fun g => s.tenures.any (fun t => p t && t.dirty.contains g))
  if gone.isEmpty then s
  else
    let u := s.advance gone
    { u with tenures := u.tenures.map (fun t => if p t then { t with dirty := t.dirty.filter (fun g => !grans.contains g) } else t) }

/-- All of their written granules go home, each in a write-back of its own (R405). -/
def State.writeBack (s : State) (p : Tenure → Bool) : State :=
  ((s.tenures.filter p).map (fun t => t.dirty)).flatten.eraseDups.foldl (fun t g => t.flush p [g]) s

/-- A release by an observer at PKG brings what its party has written home (R370, R417). -/
def State.homeward (s : State) (o : Seer) : State := s.writeBack (fun t => t.cl == o.cl && t.ctx == o.ctx)

/-- The tenures that `p` names end, each with a drain of its own (R337, R405), and the copies of its granules with it. -/
def State.endTenures (s : State) (p : Tenure → Bool) : State :=
  let t := (s.tenures.filter p).foldl (fun u t => (u.advance t.dirty).dropCopies t.cl t.spans) s
  { t with tenures := t.tenures.filter (fun t => !p t) }

/-- Effects of the party performed before number `upto` are on their way, but for those to other devices. -/
def DrainCover.open (d : DrainCover) (s : State) : Bool :=
  s.inflight.any (fun f => decide (f.id < d.upto) && f.g / 16 == d.cl && f.ctx == d.ctx && !f.tgt.isRemote)

/-- What the drains of the recalled parts release (R370; DEDUCED, log 106). -/
def State.coverRecall (s : State) (sg : Nat) (ts : List Tenure) : State :=
  let new := (ts.filter (fun t => t.st.isWrite || t.st == .o)).map (fun t =>
    ({ cl := t.cl, ctx := t.ctx, upto := s.nextId, spans := t.spans.filter (fun p => p.g == sg) } : DrainCover))
  if s.drains.isEmpty && new.isEmpty then s else { s with drains := (new ++ s.drains).filter (fun d => d.open s) }

/-- A part granted to an acquisition that still waits is recalled in the same way (R343). -/
def TReq.recalled (q : TReq) (cl ctx gr : Nat) (write : Bool) : Bool :=
  !(q.g / 16 == cl && q.ctx == ctx) && (write || q.write) &&
    q.got.any (fun p => p.g == gr / 512 && p.lo ≤ gr % 512 && gr % 512 ≤ p.hi)

/-- The access acquires an implicit tile where its party holds the granule under no tenure record (R332): S for a read, E for a write. A
bridge's tile is its lines, and an access of the hub or of the home itself acquires none. -/
def State.acquire (s : State) (cl ctx gr : Nat) (write : Bool) : State :=
  let mine := fun (t : Tenure) => t.cl == cl && t.ctx == ctx && t.covers gr
  if 1024 ≤ cl || s.tenures.any (fun t => mine t && !t.implicit) then s
  else if s.tenures.any mine then
    if write then { s with tenures := s.tenures.map (fun t => if mine t && t.st = .s then { t with st := .e } else t) } else s
  else
    { s with tenures := s.tenures ++
        [{ cl := cl, ctx := ctx, tile := 0, st := if write then .e else .s, hold := 0,
           spans := [{ g := gr / 512, lo := gr % 512, hi := gr % 512 }], implicit := true }] }

/-- A CLU-scope atomic has the granule in E for its party (R346), beside a read tenure of its own too. -/
def State.obtain (s : State) (cl ctx gr : Nat) : State :=
  if s.holdsOwn cl ctx gr then s
  else
    { s with tenures := s.tenures ++
        [{ cl := cl, ctx := ctx, tile := 0, st := .e, hold := 0, spans := [{ g := gr / 512, lo := gr % 512, hi := gr % 512 }],
           implicit := true }] }

/-- Recalls before an access to `n` bytes at `a`, within one granule (R343, R345): the state after them, or nothing while a recalled party
still has performed effects on their way there, or while a host holds a line that the access needs. `acq` says that the access acquires
an implicit tile (R332), and `by_` is the effect that it performs. -/
def State.recall (s : State) (cl ctx a n : Nat) (write all : Bool) (acq : Bool := !all) (by_ : Option InFlight := none) : Option State :=
  let gr := a / 128
  let hit := fun (t : Tenure) => t.recalled cl ctx gr write all
  if s.hostBlocks cl a n write then none
  else if s.tenures.any (fun t => hit t && (t.st.isWrite || t.st == .o) && s.owes t (gr / 512) by_) then none
  else
    let s1 := if s.tenures.any hit then
        (s.recallFrom (gr / 512) (s.tenures.map (fun t => (hit t, t)))).coverRecall (gr / 512) (s.tenures.filter hit)
      else s
    let s2 : State := if s1.requests.any (fun q => q.recalled cl ctx gr write) then
        { s1 with requests := s1.requests.map (fun q =>
            if q.recalled cl ctx gr write then { q with got := q.got.filter (fun p => p.g != gr / 512), split := true } else q) }
      else s1
    some (if acq then s2.acquire cl ctx gr write else s2)

/-- A write of a party into its own tenure: E becomes M, and the granule is written (R337). True when the party holds it so. -/
def State.dirtyOwn (s : State) (cl ctx gr : Nat) : Bool × State :=
  let mine := fun (t : Tenure) => t.cl == cl && t.ctx == ctx && t.st.isWrite && t.covers gr
  if s.tenures.any mine then
    (true, { s with tenures := s.tenures.map (fun t =>
      if mine t then { t with st := .m, dirty := if t.dirty.contains gr then t.dirty else gr :: t.dirty } else t) })
  else (false, s)

/-- A granule of host memory is about to be modified in the device: what was last written back is kept (R434). -/
def State.keepBack (s : State) (gr : Nat) : State :=
  if 2 ^ 47 ≤ 128 * gr && !s.hostBack.any (fun e => e.1 == gr) then
    { s with hostBack := (gr, bytesAt s.mem (128 * gr) 128) :: s.hostBack }
  else s

/-- An effect performed into a tile that its party holds for writing makes it M (R337). -/
def State.wrote (s : State) (cl ctx : Nat) (t : Target) (op : MemOp) : State :=
  let hit := fun (x : Tenure) => x.cl == cl && x.ctx == ctx && x.st == .e &&
    x.spans.any (fun p => t.touches op.size (512 * p.g + p.lo) (512 * p.g + p.hi))
  if op.drained && s.tenures.any hit then { s with tenures := s.tenures.map (fun x => if hit x then { x with st := .m } else x) } else s

/-- A write to a reserved 64-byte block ends the LR reservations of harts on it. -/
def State.killResv (s : State) (a n : Nat) : State :=
  let hit := fun (h : Hart) => h.resv.any (fun r => a / 64 ≤ r / 64 && r / 64 ≤ (a + n - 1) / 64)
  if s.harts.any (fun e => hit e.2) then
    { s with harts := s.harts.map (fun e => if hit e.2 then (e.1, { e.2 with resv := none }) else e) }
  else s

/-- A bridge that holds no line of a granule exclusive any longer writes its buffer to the home, as one drain (R345). -/
def State.drainBridge (s : State) (p gr : Nat) : State :=
  if s.buffers.contains (p, gr) && !s.hostLines.any (fun l => l.1 == p && l.2.1 / 128 == gr && l.2.2) then
    { s with buffers := s.buffers.filter (fun x => x != (p, gr)) }.advance [gr]
  else s

/-! ### Accesses of the device itself -/

/-- A snoop of the hosts' lines that an access of the device to `n` bytes at `a`, within one granule, needs (R345). A line that its host has
modified the host gives back before, in a turn of its own (DEDUCED, log 107). -/
def State.snoop (s : State) (a n : Nat) (write : Bool) : State :=
  let gone := fun (l : Nat × Nat × Bool) => l.2.1 / 128 == a / 128 &&
    (if l.2.1 < a + n && a < l.2.1 + 64 then l.2.2 || write else write && !l.2.2)
  if s.hostLines.any gone then
    ({ s with hostLines := s.hostLines.filter (fun l => !gone l) }.drainBridge 0 (a / 128)).drainBridge 1 (a / 128)
  else s

/-- An access of a walker or of a home itself, which is no party: every tenure in its way is recalled (R343, R346). Effects on their way that
a recall would wait for come after it. -/
def State.takeBack (s : State) (a n : Nat) (write : Bool) : State :=
  let gr := a / 128
  let s := s.snoop a n write
  let hit := fun (t : Tenure) => t.recalled hubParty 256 gr write false
  if s.tenures.any hit then
    (s.recallFrom (gr / 512) (s.tenures.map (fun t => (hit t, t)))).coverRecall (gr / 512) (s.tenures.filter hit)
  else s

/-- A word of a structure of the device is written by DPA at its home (R398): hosts' lines of it are taken back, and LR reservations end. -/
def State.wrHome (s : State) (a n v : Nat) : State := ((s.snoop a n true).killResv a n).wr a n v

end Sys2Proof.Machine
end

