-- ==== Sys2Proof/Machine/Route.lean ====
section
/-! DEFINITION. Routes through the fabric (R261, R262, R461 to R467): the ports of the on-package tree, the five checks of a switch,
and the walk of a whole route, which a memory request makes in one step (R393). A port is numbered with 64 added where it faces
upward. -/

namespace Sys2Proof.Machine

/-! ### Route fields (R262) -/

def rHops (r : Nat) : Nat := r % 32
def rTurn (r : Nat) : Nat := fieldOf r 9 5
def rHop (r i : Nat) : Nat := fieldOf r (15 + 6 * i) (10 + 6 * i)
def rDtype (r : Nat) : Nat := fieldOf r 121 118
def rSetHop (r i v : Nat) : Nat := setField r (15 + 6 * i) (10 + 6 * i) v

/-- What lies behind a port: a switch with the arrival port there, an endpoint of a kind (R462) with its number, or a Nalornaz link. -/
inductive Beyond where
  | switch (sw port : Nat)
  | endpoint (kind n : Nat)
  | link (k : Nat)
  deriving DecidableEq, Repr

/-- The ports of R261 and R461: switch, direction, port. -/
def beyond (sw : Nat) (up : Bool) (p : Nat) : Option Beyond :=
  if sw < 1024 then
    if up then (if p = 24 || p = 25 then some (.switch (1024 + 2 * (sw / 16) + (p - 24)) (sw % 16)) else none)
    else if p < 16 then some (.endpoint 0 (16 * sw + p))
    else if p < 20 then some (.endpoint 1 (4 * sw + (p - 16)))
    else if p = 20 then some (.endpoint 2 sw) else none
  else if sw < 1152 then
    let q := (sw - 1024) % 2
    let dg := (sw - 1024) / 2
    if up then
      (if 16 ≤ p && p < 20 then some (.switch (1152 + 8 * (dg / 16) + 4 * q + (p - 16)) (dg % 16)) else none)
    else if p < 16 then some (.switch (16 * dg + p) (64 + 24 + q)) else none
  else if sw < 1184 then
    let d := (sw - 1152) / 8
    let r := (sw - 1152) % 8
    if up then (if p = 20 then some (.switch 1184 (8 * d + r)) else none)
    else if p < 16 then some (.switch (1024 + 2 * (16 * d + p) + r / 4) (64 + 16 + r % 4))
    else if p < 20 then some (.endpoint 3 (32 * d + 4 * r + (p - 16))) else none
  else if sw = 1184 then
    if up then (if 32 ≤ p then some (.link (p - 32)) else none)
    else if p < 32 then some (.switch (1152 + p) (64 + 20))
    else if p < 48 then some (.endpoint 3 (128 + (p - 32)))
    else if p < 50 then some (.endpoint 3 (144 + (p - 48)))
    else if p = 50 then some (.endpoint 4 0)
    else if p = 51 then some (.endpoint 5 0)
    else if p = 52 then some (.endpoint 6 0) else none
  else none

/-- The key of a port in the table of port states. -/
def portKey (sw : Nat) (up : Bool) (p : Nat) : Nat := 128 * sw + (if up then 64 else 0) + p
/-- The key of Nalornaz link `k` (R461). -/
def linkKey (k : Nat) : Nat := portKey 1184 true (32 + k)

/-- A port as the Causeway map reports it (R460): on-package ports are up from boot. -/
def State.port (s : State) (sw : Nat) (up : Bool) (p : Nat) : Port :=
  match beyond sw up p with
  | none => { state := .absent }
  | some (.link _) => s.ports.get {} (portKey sw up p)
  | some _ => s.ports.get { state := .up } (portKey sw up p)

/-- A switch's decision on a hop (R465): the check that fails, or what lies beyond the port. -/
inductive Hop where
  | fails (check : Nat)
  | goes (b : Beyond)
  deriving DecidableEq, Repr

def Beyond.isEnd : Beyond → Bool
  | .endpoint _ _ => true
  | _ => false

/-- The five checks (R465) of switch `sw` on a route with hop pointer `ptr` that arrived on `port`; `back` says that DTYPE 15 is
accepted (R462). -/
def State.checkHop (s : State) (route ptr sw port : Nat) (back : Bool) : Hop :=
  let up := decide (ptr < rTurn route)
  let p := rHop route ptr
  if rHops route = 0 || 18 < rHops route || rHops route ≤ rTurn route then .fails 1
  else if up && 64 ≤ port then .fails 2
  else if (s.port sw up p).state ≠ .up then .fails 3
  else
    match beyond sw up p with
    | none => .fails 3
    | some b =>
      let final := ptr + 1 == rHops route
      if final != b.isEnd then .fails 4
      else
        match b with
        | .endpoint kind _ => if rDtype route = kind || (back && rDtype route = 15) then .goes b else .fails 5
        | _ => .goes b

/-- The ROUTE info word (R467). -/
def routeInfo (check ptr sw : Nat) : Nat := check + ptr % 32 * 8 + sw * 256

/-- Where a whole route ends. -/
inductive Ends where
  | at (kind n : Nat)
  | leaves (k : Nat)
  | fault (info : Nat)
  deriving DecidableEq, Repr

/-- A route walked to its end from a switch (R465). -/
def State.walkRoute (s : State) (route : Nat) : Nat → Nat → Nat → Nat → Ends
  | 0, ptr, sw, _ => .fault (routeInfo 1 ptr sw)
  | fuel + 1, ptr, sw, port =>
    match s.checkHop route ptr sw port false with
    | .fails c => .fault (routeInfo c ptr sw)
    | .goes (.endpoint k n) => .at k n
    | .goes (.link k) => .leaves k
    | .goes (.switch sw' port') => s.walkRoute route fuel (ptr + 1) sw' port'

/-- The entry of cluster `c`'s home route table for home `h` (R393). -/
def State.homeRoute (s : State) (c h : Nat) : Nat := s.rd (s.hub.hrt + 16 * (146 * c + h)) 16

/-- The ROUTE fault, if any, of a request from port `p` of cluster `c` to the home of a device physical address (R393). -/
def State.homeFault (s : State) (c p a : Nat) : Option Nat :=
  match homeOf a with
  | none => none
  | some h =>
    match s.walkRoute (s.homeRoute c h) 19 0 c p with
    | .fault i => some i
    | _ => none

/-- The window entry's route for an offset (R476), and its ROUTE fault on this device, if any. -/
def State.windowFault (s : State) (ctx c p w o : Nat) : Option Nat :=
  let e := (s.ctx ctx).winTab + 128 * w
  let k := o / 65536 % (fieldOf (s.rd (e + 64) 8) 5 4 + 1)
  match s.walkRoute (s.rd (e + 16 * k) 16) 19 0 c p with
  | .fault i => some i
  | _ => none

/-- The ROUTE fault of a request of a context from port `p` of cluster `c` to a target. -/
def State.routeFault (s : State) (ctx c p : Nat) (t : Target) : Option Nat :=
  match t with
  | .dpa a _ => s.homeFault c p a
  | .remote w o => s.windowFault ctx c p w o

end Sys2Proof.Machine
end

