-- ==== Sys2Proof/Machine/Switches.lean ====
section
/-! DEFINITION. Packets and how they enter the fabric (R458, R464, R468 to R470), the record of a switch in the Causeway map and its
counters (R467, R473). -/

namespace Sys2Proof.Machine

/-! ### Records of the Causeway map (R473) -/

def PortState.code : PortState → Nat
  | .absent => 0
  | .disabled => 1
  | .down => 2
  | .training => 3
  | .up => 4

/-- LEVEL of a switch (R463). -/
def levelOf (sw : Nat) : Nat := if sw < 1024 then 0 else if sw < 1152 then 1 else if sw < 1184 then 2 else 3

/-- TYPE, PEER_SW, PEER_PORT and PEER_DEV of a port (R473). -/
def State.portPeer (s : State) (sw : Nat) (up : Bool) (p : Nat) : Nat × Nat × Nat × Nat :=
  match beyond sw up p with
  | none => (15, 0, 0, 0)
  | some (.endpoint kind _) => (kind, 0, 0, 0)
  | some (.switch sw' port') => (14, sw', port' % 64, 0)
  | some (.link _) =>
    let x := s.port sw up p
    if x.state = .up then (14, x.peerSw, x.peerPort, x.peerDev) else (15, 0, 0, 0)

/-- A port record. -/
def State.portRecord (s : State) (sw : Nat) (up : Bool) (p : Nat) : Nat :=
  let x := s.port sw up p
  let (ty, psw, pp, pd) := s.portPeer sw up p
  x.state.code + ty * 2 ^ 3 + psw % 2 ^ 16 * 2 ^ 8 + pp % 64 * 2 ^ 24 + pd % 2 ^ 16 * 2 ^ 30 + min x.delay (2 ^ 16 - 1) * 2 ^ 46 +
    min x.replays (2 ^ 16 - 1) * 2 ^ 62

/-- The enable mask of a switch for hops in one direction: its ports that are UP (R474). -/
def State.enables (s : State) (sw : Nat) (up : Bool) : Nat :=
  ((List.range 64).map (fun p => if (s.port sw up p).state = .up then 2 ^ p else 0)).sum

/-- The 64 bytes of a switch header. -/
def State.switchHeader (s : State) (sw : Nat) : List Byte :=
  let n := s.switches.get (0, 0) sw
  toLE 2 sw ++ toLE 1 (levelOf sw) ++ toLE 5 0 ++ toLE 8 (s.enables sw false) ++ toLE 8 (s.enables sw true) ++
    toLE 4 (min n.1 (2 ^ 32 - 1)) ++ toLE 4 (min n.2 (2 ^ 32 - 1)) ++ toLE 32 0

/-- The address of a switch record. -/
def State.mapAt (s : State) (sw : Nat) : Nat := s.hub.cwm + 2048 + 2112 * sw

def State.writeHeader (s : State) (sw : Nat) : State := s.wrBytes (s.mapAt sw) (s.switchHeader sw)
def State.writePort (s : State) (sw : Nat) (up : Bool) (p : Nat) : State :=
  s.wr (s.mapAt sw + 64 + 16 * ((if up then 64 else 0) + p)) 16 (s.portRecord sw up p)

/-- The counters of a switch show in its record; the map exists from boot on. -/
def State.showSwitch (s : State) (sw : Nat) : State := if s.hub.bootState = 3 then s.writeHeader sw else s

/-- DISCARDS of a switch advances (R473). -/
def State.countDiscard (s : State) (sw : Nat) : State :=
  let n := s.switches.get (0, 0) sw
  ({ s with switches := s.switches.set sw (min (n.1 + 1) (2 ^ 32 - 1), n.2) } : State).showSwitch sw

/-- FAULTS of a switch advances (R473). -/
def State.countFault (s : State) (sw : Nat) : State :=
  let n := s.switches.get (0, 0) sw
  ({ s with switches := s.switches.set sw (n.1, min (n.2 + 1) (2 ^ 32 - 1)) } : State).showSwitch sw

/-- A request that crosses the fabric in one step has met a route fault (R467): the switch that its info word names counts it. -/
def State.hopFault (s : State) (info : Nat) : State := s.countFault (fieldOf info 23 8)

/-! ### Packets (R458) -/

/-- The class of a KIND (R468): 0 REQ, 1 RSP, 2 COL. -/
def kindClass (kind : Nat) : Nat := match kind with
  | 2 | 7 => 1
  | 5 | 6 => 2
  | _ => 0

/-- Flits of a packet: the header and its payload (R458). -/
def Packet.flits (p : Packet) : Nat := 1 + p.len

/-- The header flit (R458): the route, then the packet header. -/
def Packet.header (p : Packet) : Nat :=
  p.route % 2 ^ 128 + 2 ^ 128 * (p.ptr % 2 ^ 5 + p.tc % 4 * 2 ^ 5 + p.cls % 4 * 2 ^ 7 + p.kind % 16 * 2 ^ 9 + p.len % 16 * 2 ^ 13 +
    p.ctx % 256 * 2 ^ 17 + p.srcDev % 2 ^ 16 * 2 ^ 25 + p.spec % 2 ^ 64 * 2 ^ 64)

/-- A field has a value that R458 calls malformed. -/
def Packet.malformed (p : Packet) : Bool := p.cls == 3 || decide (8 ≤ p.kind) || decide (9 ≤ p.len)

/-- Payload flits of `n` bytes (R458). -/
def payloadFlits (n : Nat) : Nat := (n + 31) / 32

/-! ### Traffic classes and the TC0 shaper (R469, R470) -/

/-- NZ_CTX_TC of a context (R483). -/
def State.ctxTc (s : State) (c : Nat) : Nat := s.hub.ctxTc.get (2 ^ 28 + 2 ^ 30 + 3 * 2 ^ 32) c
def tcRate (v : Nat) : Nat := v % 2 ^ 12
def tcBurst (v : Nat) : Nat := fieldOf v 27 12
/-- The three class fields (R469). -/
def tcMsg (v : Nat) : Nat := fieldOf v 29 28
def tcMem (v : Nat) : Nat := fieldOf v 31 30
def tcBulk (v : Nat) : Nat := fieldOf v 33 32

/-- The cluster, or 1,024 for the hub, whose bucket shapes a context's TC0 packets (R470). -/
def Source.shaper : Source → Nat
  | .engine c _ => c
  | .hart h => h / 4
  | .agent c => c
  | _ => 1024

/-- The first switch of a source and its port there (R464). -/
def Source.entry : Source → Nat × Nat
  | .engine c e => (c, e)
  | .hart h => (h / 4, 16 + h % 4)
  | .agent c => (c, 20)
  | .hub => (1184, 51)
  | .endpoint _ => (1184, 50)
  | .remoteAgent => (1184, 52)

/-- The class in which a packet travels: TC0 with no rate is TC1 (R470). -/
def effTc (v tc : Nat) : Nat := if tc = 0 && tcRate v = 0 then 1 else tc

/-- A packet or request of class field `cls` sets out with a charge of `flits`, its response's among them (R470): its ticket, 0 where it is
not shaped. -/
def State.shape (s : State) (src : Source) (ctx : Nat) (cls : Nat → Nat) (flits : Nat) : Nat × State :=
  let v := s.ctxTc ctx
  if effTc v (cls v) = 0 then
    let t := s.nextId + 1
    (t, { s with nextId := t, shaper := s.shaper ++ [{ ticket := t, key := 256 * src.shaper + ctx, flits := flits }] })
  else (0, s)

/-- What holds the ticket has left the shaper. -/
def State.unshaped (s : State) (ticket : Nat) : Bool := !s.shaper.any (fun x => x.ticket == ticket)

/-- The request of `n` bytes from engine `g` in the MEM class, with its response (R469, R470): a write carries its bytes out and a read
brings them back. -/
def State.shapeMem (s : State) (g ctx n : Nat) : Nat × State := s.shape (.engine (g / 16) (g % 16)) ctx tcMem (2 + payloadFlits n)

/-- Injects a packet at its source's first switch (R464), by way of the shaper for TC0 (R470). -/
def State.inject (s : State) (src : Source) (ctx route kind : Nat) (cls : Nat → Nat) (len spec : Nat) (body : Payload) : State :=
  let v := s.ctxTc ctx
  let tc := effTc v (cls v)
  let (t, u) := s.shape src ctx cls (1 + len)
  let p : Packet := { route := route, tc := tc, cls := kindClass kind, kind := kind, len := len, ctx := ctx, srcDev := s.hub.devid,
                      spec := spec, src := src, place := if t = 0 then .switch src.entry.1 src.entry.2 else .shaper, body := body,
                      cover := s.nextId, ticket := t }
  { u with packets := u.packets ++ [p] }

/-! ### Routes that the device makes (R262, R295) -/

/-- A route (R262) from its turn index, hops and DTYPE. -/
def mkRoute (turn : Nat) (hops : List Nat) (dtype : Nat) : Nat :=
  hops.length + turn * 32 + (hops.zipIdx.map (fun e => e.1 * 2 ^ (10 + 6 * e.2))).sum + dtype * 2 ^ 118

/-- RTMK (R295): source cluster, target word, selector word, DTYPE. -/
def routeTo (src ga gb dtype : Nat) : Nat :=
  let t := fieldOf ga 23 14
  let q := gb % 2
  let u := fieldOf gb 2 1
  let p := match dtype with
    | 0 => fieldOf ga 13 10
    | 1 => 16 + fieldOf ga 11 10
    | _ => 20
  if t = src then mkRoute 0 [p] dtype
  else if t / 16 = src / 16 then mkRoute 1 [24 + q, t % 16, p] dtype
  else if t / 256 = src / 256 then mkRoute 2 [24 + q, 16 + u, t / 16 % 16, t % 16, p] dtype
  else mkRoute 3 [24 + q, 16 + u, 20, 8 * (t / 256) + 4 * q + u, t / 16 % 16, t % 16, p] dtype

/-- The route of a source's operation to the agent of cluster `c` (R271): RTMK's with selector 0; from L3, the same way down (DEDUCED,
log 31). -/
def Source.agentRoute (src : Source) (c : Nat) : Nat :=
  if src.entry.1 < 1024 then routeTo src.entry.1 (c * 2 ^ 14) 0 2
  else mkRoute 0 [8 * (c / 256), c / 16 % 16, c % 16, 20] 2

/-! ### Future operations (R271) -/

/-- The cluster of a future handle (R271). -/
def hCluster (h : Nat) : Nat := fieldOf h 31 22

/-- Sends a future operation; it carries the release of the writes performed so far (R370). -/
def State.sendFut (s : State) (src : Source) (ctx h : Nat) (op : FutOp) : State :=
  let len := match op with
    | .bind _ _ => 2
    | _ => 1
  s.inject src ctx (src.agentRoute (hCluster h)) 3 tcMsg len h (.future h op)

/-- A future operation of the source that `p` names, by its handle and what it does, has not reached its agent. -/
def State.futOnWay (s : State) (src : Source) (p : Nat → FutOp → Bool) : Bool :=
  s.packets.any (fun x => x.src == src && (match x.body with
    | .future h op => p h op
    | _ => false))

end Sys2Proof.Machine
end

