-- ==== Sys2Proof/Machine/Ops.lean ====
section
/-! DEFINITION. The named operations over the state that every family shares: translation (R386 to R389, R476), futures (R271 to R277),
inboxes (R263), fault records (R398 to R401), dead letters (R279), and taking a fault: the end of a segment that faults (R48 to R50,
R105) with, beside it, the return, the release of the parked record. -/

namespace Sys2Proof.Machine

/-! ### Translation (R386 to R389) -/

/-- What an access needs (R388). -/
inductive Need where
  | r | w | rw | x
  deriving DecidableEq, Repr
def Need.hasR : Need → Bool
  | .r => true
  | .rw => true
  | _ => false
def Need.hasW : Need → Bool
  | .w => true
  | .rw => true
  | _ => false

/-- A failed translation: code of R400, REASON byte (R399: reason, and MALFORMED in bit 7), SHARE, the page that R209 names, and the info
word of a ROUTE fault. -/
structure XFault where
  code   : Nat
  reason : Nat := 0
  share  : Nat := 0
  page   : Nat := 0
  info   : Nat := 0
  deriving DecidableEq, Repr

inductive XRes where
  | ok (t : Target) (uses : List Nat)
  | bad (f : XFault)
  deriving DecidableEq, Repr

/-- The offset bits that index level `lvl` (R387). -/
def ptIndex (o lvl : Nat) : Nat :=
  match lvl with
  | 0 => fieldOf o 47 39
  | 1 => fieldOf o 38 30
  | 2 => fieldOf o 29 21
  | _ => fieldOf o 20 16

/-- Bytes that a leaf at level `lvl` maps (R387). -/
def pageSize (lvl : Nat) : Nat :=
  match lvl with
  | 1 => 2 ^ 30
  | 2 => 2 ^ 21
  | _ => 2 ^ 16

/-- An entry with V = 1 is malformed (R387); without MEM_ENC its KEY is ignored, and without FLASH_TIER no page lies on that tier (R23,
DEDUCED, log 72). -/
def ptMalformed (enc flash : Bool) (e lvl : Nat) : Bool :=
  let frame := fieldOf e 47 16 * 65536
  let size := pageSize lvl
  if bitOf e 1 then
    let tier := fieldOf e 6 5
    let inRange :=
      match tier with
      | 0 => frame + size ≤ 2 ^ 40
      | 1 => 2 ^ 40 ≤ frame && frame + size ≤ 3 * 2 ^ 40
      | 2 => flash && inFlash frame size
      | _ => 2 ^ 47 ≤ frame && frame + size ≤ 2 ^ 48
    lvl == 0 || fieldOf e 15 11 != 0 || fieldOf e 63 60 != 0 || frame % size != 0 || !inRange ||
      (tier == 3 && enc && fieldOf e 59 48 != 0)
  else
    let next := fieldOf e 47 9 * 512
    lvl == 3 || fieldOf e 8 2 != 0 || fieldOf e 63 48 != 0 || (lvl ≤ 1 && fieldOf e 12 9 != 0) ||
      !inDram next (if lvl = 2 then 512 else 8192)

/-- Where a walk ends: at a leaf (its level, the address and the words of its entry), at an entry that is invalid or malformed, or at a
switch that the request for an entry does not pass, with the info word of R467. `uses` are the page-table granules read. -/
inductive Walk where
  | leaf (lvl at0 e share : Nat) (uses : List Nat)
  | none (malformed : Bool) (uses : List Nat)
  | route (info : Nat)
  deriving DecidableEq, Repr

/-- The ROUTE fault of a walker behind port `p` of cluster `c` on its way to the home of `a` (R393); a walker of the hub or of a home needs
no route. -/
def State.viaFault (s : State) (via : Option (Nat × Nat)) (a : Nat) : Option Nat := via.bind (fun p => s.homeFault p.1 p.2 a)

/-- The walk from table `t` at level `lvl`, at most `fuel` levels (R388): each entry is read at its home as by any reader, in the way of
whose granule no write tenure and no modified line of a host stays (R343, R390). -/
def State.walk (s : State) (via : Option (Nat × Nat)) (o : Nat) : Nat → Nat → Nat → List Nat → Walk × State
  | 0, _, _, u => (.none true u, s)
  | fuel + 1, lvl, t, u =>
    let a := t + 16 * ptIndex o lvl
    match s.viaFault via a with
    | some i => (.route i, s.hopFault i)
    | none =>
      let s := s.takeBack a 16 false
      let e := s.rd a 8
      let u := a / 128 :: u
      if !bitOf e 0 then (.none false u, s)
      else if ptMalformed (s.feat 13) (s.feat 12) e lvl then (.none true u, s)
      else if bitOf e 1 then (.leaf lvl a e (s.rd (a + 8) 8 % 256) u, s)
      else s.walk via o fuel (lvl + 1) (fieldOf e 47 9 * 512) u

/-- The bits of SetAD (R389) that an entry lacks for a need. -/
def adBits (e : Nat) (need : Need) : Nat := (if bitOf e 7 then 0 else 128) + (if need.hasW && !bitOf e 8 then 256 else 0)

/-- SetAD (R389): an atomic OR at the home of the entry (R346), which no translation is recalled for. -/
def State.setAD (s : State) (a e : Nat) (need : Need) : State :=
  if adBits e need = 0 then s
  else (((s.takeBack a 8 true).killResv a 8).wr a 8 (e + adBits e need)).advance [a / 128]

/-- First address of inline code (R260). -/
def inlineBase : Nat := 0xFFFFFFFFFF00

/-- Translation of offset `o` of window 0 for a need (R388). Data accesses at the PCs of the inline region find nothing mapped (R260; DESIGN
CHOICE, log 88). -/
def State.translate0 (s : State) (ctx : Nat) (need : Need) (o : Nat) (via : Option (Nat × Nat) := none) : XRes × State :=
  let small := o / 65536 * 65536
  if inlineBase ≤ o then (.bad { code := 7, page := small }, s) else
  match s.walk via o 4 0 (s.ctx ctx).ptRoot [] with
  | (.route i, s) => (.bad { code := 15, page := small, info := i }, s)
  | (.none m _, s) => (.bad { code := 7, reason := if m then 128 else 0, page := small }, s)
  | (.leaf lvl a e share u, s) =>
    let page := o / pageSize lvl * pageSize lvl
    let granted := match need with
      | .r => bitOf e 2
      | .w => bitOf e 3
      | .rw => bitOf e 2 && bitOf e 3
      | .x => bitOf e 4
    if bitOf e 10 then (.bad { code := 7, reason := 1, page := page }, s)
    else if !granted then (.bad { code := 8, page := page }, s)
    else if fieldOf e 6 5 = 2 then (.bad { code := 7, reason := 2, page := page }, s)
    else if need.hasW && bitOf e 9 then (.bad { code := 7, reason := 3, share := share, page := page }, s)
    else if fieldOf e 6 5 = 3 && !s.linkUp (fieldOf e 46 46) then (.bad { code := 18, page := page }, s)
    else (.ok (.dpa (fieldOf e 47 16 * 65536 + o % pageSize lvl) (fieldOf e 59 48)) u, s.setAD a e need)

/-- Translation of a global address for `n` bytes (R386, R388, R476), by the walker behind port `via` of a cluster. -/
def State.translate (s : State) (ctx : Nat) (need : Need) (va n : Nat) (via : Option (Nat × Nat) := none) : XRes × State :=
  let w := va / 2 ^ 48
  let o := va % 2 ^ 48
  let x := s.ctx ctx
  let perm : XRes × State := (.bad { code := 8, page := va / 65536 * 65536 }, s)
  if w = 0 then s.translate0 ctx need o via
  else if w = 1 then
    if need = .x || !(x.w1en && x.w1base ≤ o && o + n ≤ x.w1limit && o + n ≤ 2 ^ 46) then perm
    else if 2 ≤ s.hub.holder then (.bad { code := 18, page := va / 65536 * 65536 }, s)
    else (.ok (.dpa (2 ^ 47 + s.hub.holder * 2 ^ 46 + o) 0) [], s)
  else if x.winCnt ≤ w then perm
  else
    let e := x.winTab + 128 * w
    let f := s.rd (e + 64) 8
    if !bitOf f 0 || need = .x || (need.hasR && !bitOf f 1) || (need.hasW && !bitOf f 2) || (need = .rw && !bitOf f 3) ||
        o < s.rd (e + 72) 8 % 2 ^ 48 || s.rd (e + 80) 8 % 2 ^ 48 < o + n then perm
    else (.ok (.remote w o) [e / 128], s)

/-! ### Messages (R255, R31) -/

def Msg.hdr (m : Msg) : Nat := m.words.getD 0 0
def Msg.word (m : Msg) (i : Nat) : Nat := m.words.getD i 0
def Msg.kind (m : Msg) : Nat := m.hdr % 4
def Msg.ch (m : Msg) : Nat := fieldOf m.hdr 4 2
def Msg.toAct (m : Msg) : Bool := bitOf m.hdr 5
def Msg.ctx (m : Msg) : Nat := fieldOf m.hdr 15 8
def Msg.sctx (m : Msg) : Nat := fieldOf m.hdr 23 16
def Msg.src (m : Msg) : Nat := fieldOf m.hdr 26 24
def Msg.handler (m : Msg) : Nat := fieldOf m.hdr 39 28
def Msg.target (m : Msg) : Nat := fieldOf m.hdr 63 40
def Msg.setWord (m : Msg) (i v : Nat) : Msg := { m with words := m.words.set i v }

/-- A header word (R255). -/
def mkHdr (kind ch : Nat) (toAct : Bool) (ctx sctx src handler target : Nat) : Nat :=
  kind % 4 + ch % 8 * 4 + bit toAct * 32 + ctx % 256 * 256 + sctx % 256 * 65536 + src % 8 * 2 ^ 24 +
    handler % 4096 * 2 ^ 28 + target % 2 ^ 24 * 2 ^ 40

/-- TARGET of a record for engine `g`: CLUSTER and ENGINE, SLOT and GEN zero (R28, R496). -/
def targetOf (g : Nat) : Nat := g * 1024
/-- Fields of an ACT handle (R28). -/
def actEngine (t : Nat) : Nat := fieldOf t 23 10
def actSlot (t : Nat) : Nat := fieldOf t 9 8
def actGen (t : Nat) : Nat := t % 256

/-- The message with STATUS in its resume word (R32). -/
def Msg.withStatus (m : Msg) (st : Nat) : Msg := m.setWord 1 (setField (m.word 1) 55 48 st)
/-- The message with SRC in its header (R496). -/
def Msg.withSrc (m : Msg) (v : Nat) : Msg := m.setWord 0 (setField m.hdr 26 24 v)

/-! ### Future operations on their way (R271) -/

/-- FDEC(JOIN, 1) with FLT, where JOIN is not 0 (R256). -/
def State.joinFault (s : State) (src : Source) (ctx join : Nat) : State :=
  if join = 0 then s else s.sendFut src ctx join (.dec 1 true)

def engineSource (g : Nat) : Source := .engine (g / 16) (g % 16)

/-! ### Fault queues (R398 to R401) -/

/-- A fault record before its context, time and sequence number are written (R399). -/
structure Rec where
  code   : Nat
  src    : Nat
  held   : Bool := false
  ovf    : Bool := false
  struct : Bool := false
  who    : Nat := 0
  wher   : Nat := 0
  info   : Nat := 0
  addr   : Nat := 0
  future : Nat := 0
  reason : Nat := 0
  share  : Nat := 0
  /-- HUB_TIME at the fault, where the record is written later -/
  time   : Option Nat := none
  deriving DecidableEq, Repr

/-- The 64 bytes of a record (R399). -/
def Rec.bytes (r : Rec) (ctx time seq : Nat) : List Byte :=
  toLE 2 r.code ++ toLE 1 (r.src + bit r.held * 16 + bit r.ovf * 32 + bit r.struct * 64) ++ toLE 1 ctx ++ toLE 4 r.who ++
    toLE 8 r.wher ++ toLE 8 r.info ++ toLE 8 r.addr ++ toLE 4 r.future ++ toLE 1 r.reason ++ toLE 1 r.share ++ toLE 2 0 ++
    toLE 8 time ++ toLE 4 seq ++ toLE 12 0

/-- Raises an interrupt vector (R431): pending until MSIX_SEND sends it. -/
def State.raiseVec (s : State) (v : Nat) : State :=
  let l := s.hub.pendIrq
  { s with hub := { s.hub with
      pendIrq := if l.any (fun x => x.1 == v) then l.map (fun x => if x.1 = v then (v, s.nextId) else x) else l ++ [(v, s.nextId)] } }

/-- The fault queue of the context can take a record (R398, R401). -/
def State.fqRoom (s : State) (ctx : Nat) : Bool :=
  let d := (s.ctx ctx).fqDesc
  let w := s.rd d 8
  let lg := fieldOf w 52 48
  let base := w % 2 ^ 48
  base % 64 == 0 && 4 ≤ lg && lg ≤ 16 && inDram base (64 * 2 ^ lg) &&
    (s.rd (d + 12) 4 + 2 ^ 32 - s.rd (d + 8) 4) % 2 ^ 32 < 2 ^ lg

/-- FAULT_QUEUE_APPEND (R398, R401): the record, then TAIL, then the doorbell; or LOST. Nothing is written for a context that does not
exist or is being torn down (R397). -/
def State.append (s : State) (ctx : Nat) (r : Rec) : State :=
  if !(s.ctx ctx).exists then s else
  let d := (s.ctx ctx).fqDesc
  if s.fqRoom ctx then
    let w := s.rd d 8
    let tail := s.rd (d + 12) 4
    let s1 := s.wrBytes (w % 2 ^ 48 + 64 * (tail % 2 ^ fieldOf w 52 48)) (r.bytes ctx (r.time.getD s.hubTime) tail)
    let tail' := (tail + 1) % 2 ^ 32
    let s2 := s1.wrHome (d + 12) 4 tail'
    let bell := s.rd (d + 16) 4
    let s3 := if bell = 0 then s2 else s2.sendFut .hub ctx bell (.resolve tail')
    let irq := s.hub.irqCtx.get 0 ctx
    if bitOf irq 11 then s3.raiseVec (irq % 2048) else s3
  else s.wrHome (d + 20) 4 (min (s.rd (d + 20) 4 + 1) (2 ^ 32 - 1))

/-- DEAD_LETTER (R279): to the sender's context, or to the context that owns the target where the sender's does not exist. -/
def State.deadLetter (s : State) (sender owner info : Nat) : State :=
  s.append (if (s.ctx sender).exists then sender else owner) { code := 20, src := 3, info := info }

/-- CONTEXT_GONE (R280). -/
def State.contextGone (s : State) (sender info : Nat) : State := s.append sender { code := 21, src := 3, info := info }

/-- The info word of a dead letter about a message, and about a future (R279). -/
def msgInfo (reason target : Nat) : Nat := reason + target * 2 ^ 40
def futInfo (reason h : Nat) : Nat := reason + h % 2 ^ 32 * 2 ^ 32

/-! ### Inboxes (R263) -/

/-- Entries of a list that another predicate names, in order. -/
def Engine.entriesOf (E : Engine) (ch : Nat) : List Entry := E.inbox.filter (fun x => x.slot == none && x.msg.ch == ch)

/-! ### Spill areas in memory (R263, R269, R273, R395). The layout of a slot is the model's (log 81). -/

/-- The bytes of a record in a slot of a spill ring: its words, JOIN, CAUSE, and the registers that a delivery loads. -/
def Msg.image (m : Msg) : List Byte :=
  ((List.range 16).map (fun i => toLE 8 (m.word i))).flatten ++ toLE 4 m.join ++ toLE 2 m.cause ++ toLE 2 m.vals.length ++
    (m.vals.map (fun e => toLE 8 e.1 ++ toLE 8 e.2)).flatten

/-- The record that a slot holds now. -/
def State.fromImage (s : State) (a : Nat) (m : Msg) : Msg :=
  { m with
    -- the record stays one of its context and of its sender's (R395)
    words := (List.range 16).map (fun i =>
      let w := s.rd (a + 8 * i) 8
      if i = 0 then setField w 23 8 (fieldOf m.hdr 23 8) else w), join := s.rd (a + 128) 4, cause := s.rd (a + 132) 2 % 8,
    vals := (List.range (min 7 (s.rd (a + 134) 2))).map (fun i => (s.rd (a + 136 + 16 * i) 8 % 64, s.rd (a + 144 + 16 * i) 8)) }

/-- The lowest number that a list does not hold, below `n`. -/
def freeSlot (l : List Nat) (n : Nat) : Option Nat := (List.range (l.length + 1)).find? (fun i => i < n && !l.contains i)

/-- Slot `i` of the message spill ring of a context for engine `g` (R395). -/
def Ctx.msgSlot (x : Ctx) (g i : Nat) : Nat := x.field 88 8 % 2 ^ 48 + 256 * 2 ^ x.mlog * g + 256 * i
/-- Slot `i` of its deque spill ring (R395). -/
def Ctx.deqSlot (x : Ctx) (g i : Nat) : Nat := x.field 96 8 % 2 ^ 48 + 256 * 2 ^ x.dlog * g + 256 * (i % 2 ^ x.dlog)
/-- Slot `i` of its waiter spill ring for cluster `c` (R395). -/
def Ctx.waitSlot (x : Ctx) (c i : Nat) : Nat := x.field 80 8 % 2 ^ 48 + 256 * 2 ^ x.wlog * c + 256 * i
/-- The spilled state of entry `i` of cluster `c` (R273, R395). -/
def Ctx.futSlot (x : Ctx) (c i : Nat) : Nat := x.field 72 8 % 2 ^ 48 + 2 ^ 18 * c + 64 * i

/-- A cluster that receives a record is not idle (R451). -/
def State.active (s : State) (c : Nat) : State :=
  if (s.cluster c).idle.isSome then s.modCluster c (fun x => { x with idle := none }) else s

/-- Queues a record at the tail of its channel: in a free entry, or in the message spill ring, or as a dead letter (R263). -/
def State.enqueue (s : State) (g : Nat) (m : Msg) : State :=
  let s := s.active (g / 16)
  let E := s.eng g
  let x : Entry := { msg := m, arrived := s.now g }
  let waits := E.spill.any (fun y => y.msg.ch == m.ch && y.msg.ctx == m.ctx)
  if E.inbox.length < 64 && !waits then s.setEng g { E with inbox := E.inbox ++ [x] }
  else
    match freeSlot ((E.spill.filter (fun y => y.msg.ctx == m.ctx)).map (fun y => y.home)) (2 ^ (s.ctx m.ctx).mlog) with
    | some i => (s.wrBytes ((s.ctx m.ctx).msgSlot g i) m.image).setEng g { E with spill := E.spill ++ [{ x with home := i }] }
    | none => s.deadLetter m.sctx m.ctx (msgInfo 4 m.target)

/-- The lowest channel with a spilled message of the current context, and the position of its oldest. -/
def refillPos (E : Engine) : List Nat → Option Nat
  | [] => none
  | ch :: r =>
    match posOf (fun (y : Entry) => y.msg.ch == ch && some y.msg.ctx == E.ctx) E.spill with
    | some i => some i
    | none => refillPos E r

/-- INBOX_REFILL (R263): the record comes back as the slot of the ring holds it. -/
def State.refill (s : State) (g : Nat) : State :=
  let E := s.eng g
  if E.inbox.length < 64 then
    match refillPos E (List.range 8) with
    | some i =>
      match E.spill[i]? with
      | some x =>
        let m := s.fromImage ((s.ctx x.msg.ctx).msgSlot g x.home) x.msg
        s.setEng g { E with inbox := E.inbox ++ [{ x with msg := m, home := 0 }], spill := dropAt E.spill i }
      | none => s
    | none => s
  else s

/-- Every freed entry is refilled (R263). -/
def State.refillAll (s : State) (g : Nat) : Nat → State
  | 0 => s
  | n + 1 => (s.refill g).refillAll g n

/-- The slot is free and its dispatch count advances (R29). -/
def Engine.freeSlot (E : Engine) (k : Nat) : Engine :=
  { E with slots := E.slots.set k { count := ((E.slot k).count + 1) % 2 ^ 32, act := none } }

/-- The inbox entry of slot `k` is freed, and the inbox refilled (R263). -/
def State.freeEntry (s : State) (g k : Nat) : State :=
  (s.modEng g (fun E => { E with inbox := E.inbox.filter (fun x => x.slot != some k) })).refill g

/-- The record of the running activation in slot `k`. -/
def Engine.entry (E : Engine) (k : Nat) : Entry :=
  (E.inbox.find? (fun x => x.slot == some k)).getD { msg := { words := [] } }

/-! ### Futures (R271 to R277) -/

def hIndex (h : Nat) : Nat := fieldOf h 21 10
def hGen (h : Nat) : Nat := h % 1024
def mkHandle (c i gen : Nat) : Nat := c * 2 ^ 22 + i * 2 ^ 10 + gen

/-- Reached(P, T) (R215). -/
def reached (p t : Nat) : Bool := decide (0 ≤ signed 32 (p % 2 ^ 32 + 2 ^ 32 - t % 2 ^ 32))

/-- The 64 bytes of a spilled entry (R273); the layout is the model's (log 81). -/
def Fut.image (f : Fut) : List Byte :=
  toLE 1 (match f.state with
    | .free => 0
    | .live => 1
    | .lapsed => 2) ++ toLE 1 (bit f.flt) ++ toLE 2 f.gen ++ toLE 4 f.ctx ++ toLE 4 f.phase ++ toLE 4 (wrapTo 32 f.count) ++ toLE 8 f.value ++
    toLE 2 (match f.pq with
      | some q => 4096 + q
      | none => 0) ++ toLE 38 0

/-- The entry as its 64 bytes hold it now; it stays one of its context (R395). -/
def State.futImage (s : State) (a : Nat) (f : Fut) : Fut :=
  let q := s.rd (a + 24) 2
  { f with
    state := match s.rd a 1 with
      | 0 => .free
      | 1 => .live
      | _ => .lapsed,
    flt := bitOf (s.rd (a + 1) 1) 0, gen := s.rd (a + 2) 2 % 1024, phase := s.rd (a + 8) 4,
    count := signed 32 (s.rd (a + 12) 4), value := s.rd (a + 16) 8, pq := if bitOf q 12 then some (q % 4096) else none }

/-- Entry `i` of cluster `c`: a spilled one is read from the context's spill area (R273). -/
def State.futAt (s : State) (c i : Nat) : Fut :=
  let f := (s.cluster c).futs.get {} i
  if f.spilled then s.futImage ((s.ctx f.ctx).futSlot c i) f else f
def State.fut (s : State) (h : Nat) : Fut := s.futAt (hCluster h) (hIndex h)
def State.setFut (s : State) (h : Nat) (f : Fut) : State :=
  let t := s.modCluster (hCluster h) (fun x => { x with futs := x.futs.set (hIndex h) f })
  if f.spilled then t.wrBytes ((s.ctx f.ctx).futSlot (hCluster h) (hIndex h)) f.image else t
/-- The entry that a handle names, unless the handle is stale (R272). -/
def State.findFut (s : State) (h ctx : Nat) : Option Fut :=
  let f := s.fut h
  if f.state != .free && f.gen == hGen h && f.ctx == ctx then some f else none

/-- Waiter records of the cluster that are free (R273). -/
def Cluster.wfree (x : Cluster) : Nat :=
  2048 - (x.futs.map (fun e => (e.2.waiters.filter (fun w => w.spill.isNone)).length)).sum -
    (x.holds.filter (fun w => w.spill.isNone)).length
/-- Slots of the waiter spill ring of a context that are taken in the cluster (R273). -/
def Cluster.wslots (x : Cluster) (ctx : Nat) : List Nat :=
  (x.futs.map (fun e => if e.2.ctx = ctx then e.2.waiters.filterMap (fun w => w.spill) else [])).flatten ++
    (x.holds.filter (fun w => w.ctx == ctx)).filterMap (fun w => w.spill)
/-- Entries of a context that are in use: resident, or spilled (R273). -/
def Cluster.entries (x : Cluster) (ctx : Nat) (spilled : Bool) : Nat :=
  (x.futs.filter (fun e => e.2.state != .free && e.2.ctx == ctx && e.2.spilled == spilled)).length

/-- Where a further waiter of a context goes in cluster `c` (R273): a record of the cluster, a slot of the spill ring, or nowhere. -/
def State.waitRoom (s : State) (c ctx : Nat) : Option (Option Nat) :=
  let x := s.cluster c
  if 0 < x.wfree then some none else (freeSlot (x.wslots ctx) (2 ^ (s.ctx ctx).wlog)).map some

/-- Files a waiter: in a record of the cluster, in spill space, or not at all (R273); on a bound future it lapses (R294). -/
def State.fileWaiter (s : State) (h : Nat) (w : Waiter) : Option State :=
  let f := s.fut h
  let c := hCluster h
  match s.waitRoom c f.ctx with
  | none => none
  | some p =>
    let t := s.setFut h { f with waiters := f.waiters ++ [{ w with lapse := w.lapse || f.pq.isSome, spill := p }] }
    some (match p with
      | some i => t.wrBytes ((s.ctx f.ctx).waitSlot c i) w.msg.image
      | none => t)

/-- An AWAIT in slot `k` of engine `g` reserves a waiter, where there is room (R293). -/
def State.holdWaiter (s : State) (c g k ctx : Nat) : State :=
  match s.waitRoom c ctx with
  | none => s
  | some p => s.modCluster c (fun x => { x with holds := x.holds ++ [{ g := g, k := k, ctx := ctx, spill := p }] })

/-- It gives up its reservation, and says whether it had one. -/
def State.dropHold (s : State) (c g k : Nat) : Bool × State :=
  let mine := fun (w : WaitHold) => w.g == g && w.k == k
  ((s.cluster c).holds.any mine, s.modCluster c (fun x => { x with holds := x.holds.filter (fun w => !mine w) }))

/-- The first index from `i` on, cyclically, whose entry is FREE; `fuel` bounds the scan. -/
def freeIndex (x : Cluster) : Nat → Nat → Option Nat
  | 0, _ => none
  | fuel + 1, i => if (x.futs.get {} (i % 4096)).state = .free then some (i % 4096) else freeIndex x fuel (i + 1)

/-- Allocates a LIVE entry in cluster `c` (R273, R290): which free index is the device's choice. The null handle when there is none. -/
def State.allocFut (s : State) (c ctx : Nat) (count : Int) : Nat × State :=
  let (d, s) := s.draw
  let x := s.cluster c
  match freeIndex x 4096 d with
  | none => (0, s)
  | some i =>
    let f := x.futs.get {} i
    let sp := decide ((s.ctx ctx).quota ≤ x.entries ctx false)
    let f' : Fut := { state := .live, gen := f.gen, ctx := ctx, count := count, spilled := sp }
    (mkHandle c i f.gen, s.setFut (mkHandle c i f.gen) f')

/-- STATE := FREE, and GEN advances, skipping 0 (R272). -/
def State.dropFut (s : State) (h : Nat) : State :=
  let g := (s.fut h).gen
  s.setFut h { gen := if (g + 1) % 1024 = 0 then 1 else (g + 1) % 1024 }

/-- Delivers a waiter with a status (R274, R276, R277, R294; R320 for a hart; R50, R149 for a parked record, whose STATUS becomes 0, log 82).
A spilled record comes as its slot holds it. A hart that waits on a refused call gets one of the codes of R313 that the specification
does not state: a free value (log 34). -/
def State.deliver (s : State) (c ctx : Nat) (w : Waiter) (status value : Nat) : State :=
  match w.hart with
  | some h =>
    let (d, s') := if 2 < status then s.draw else (0, s)
    let code := match status with
      | 0 => 0
      | 1 => 1
      | 2 => 2
      | _ => d % 13
    let H := s'.hart h
    match H.run with
    | .wait _ rd =>
      s'.setHart h { H with
        run := .run, xst := code, xval := if status ≤ 1 then value else H.xval,
        x := if rd = 0 then H.x else H.x.put 0 rd (BitVec.ofNat 64 code) }
    | _ => s'
  | none =>
    let m := match w.spill with
      | some i => s.fromImage ((s.ctx ctx).waitSlot c i) w.msg
      | none => w.msg
    if w.parked then
      if status = 0 && value = 0 then s.enqueue w.eng { m.withStatus 0 with cause := 4 }
      else s.joinFault (.agent c) ctx m.join
    else
      let m := (m.withStatus status).withSrc 4
      let m := { m with vals := if status ≤ 1 && w.valReg != 0 then [(w.valReg, value)] else [] }
      s.enqueue w.eng m

/-- Delivers each waiter in filing order. -/
def State.deliverAll (s : State) (c ctx : Nat) (status value : Nat) : List Waiter → State
  | [] => s
  | w :: ws => (s.deliver c ctx w status value).deliverAll c ctx status value ws

/-- FUTURE_RESOLUTION of a LIVE entry (R274); `value` replaces VALUE where given. -/
def State.resolveFut (s : State) (h : Nat) (value : Option Nat) : State :=
  let f := s.fut h
  let v := value.getD f.value
  let ph := (f.phase + 1) % 2 ^ 32
  let go := f.waiters.filter (fun w => reached ph w.target)
  let s1 := s.setFut h { f with phase := ph, value := v, waiters := f.waiters.filter (fun w => !reached ph w.target) }
  s1.deliverAll (hCluster h) f.ctx 0 v go

/-- FDEC by `n` on a LIVE entry (R275). -/
def State.decFut (s : State) (h n : Nat) (flt : Bool) : State :=
  let f := s.fut h
  let c := signed 32 (wrapTo 32 (f.count - n))
  let s1 := s.setFut h { f with count := c, flt := f.flt || flt }
  if 0 < f.count && c ≤ 0 then s1.resolveFut h none else s1

/-- FFREE (R277). -/
def State.freeFut (s : State) (h : Nat) : State :=
  let f := s.fut h
  (s.dropFut h).deliverAll (hCluster h) f.ctx 2 f.value f.waiters

/-- The entry becomes LAPSED, and its waiters are delivered with a status (R276, R294). -/
def State.lapseFut (s : State) (h status : Nat) : State :=
  let f := s.fut h
  (s.setFut h { f with state := .lapsed, waiters := [] }).deliverAll (hCluster h) f.ctx status f.value f.waiters

/-! ### Discards and ends of segments (R40, R48) -/

/-- The tile handle becomes stale (R334): GEN advances modulo 2^18, skipping 0. -/
def Tile.next (t : Tile) : Tile := { gen := if (t.gen + 1) % 2 ^ 18 = 0 then 1 else (t.gen + 1) % 2 ^ 18 }
def tIndex (h : Nat) : Nat := h % 2 ^ 14
def tGen (h : Nat) : Nat := h / 2 ^ 14 % 2 ^ 18
/-- Where entry `i` of the tile handle table lies (R334, R395). -/
def Ctx.tileSlot (x : Ctx) (i : Nat) : Nat := x.field 16 8 % 2 ^ 48 + 64 * i
/-- Its 64 bytes; the layout is the model's (log 81). -/
def Tile.image (t : Tile) : List Byte := toLE 4 t.gen ++ toLE 28 (bit t.defd) ++ toLE 32 t.desc
/-- Entry `i` as its bytes hold it now; one that no context of the number has used is FREE. -/
def State.tileAt (s : State) (ctx i : Nat) : Tile :=
  let x := s.ctx ctx
  match x.tiles.find i with
  | none => {}
  | some _ =>
    let a := x.tileSlot i
    { gen := s.rd a 4 % 2 ^ 18, defd := bitOf (s.rd (a + 4) 1) 0, desc := s.rd (a + 32) 32 }
def State.setTile (s : State) (ctx i : Nat) (t : Tile) : State :=
  (s.modCtx ctx (fun x => { x with tiles := x.tiles.set i t })).wrBytes ((s.ctx ctx).tileSlot i) t.image
def State.dropTile (s : State) (ctx h : Nat) : State := s.setTile ctx (tIndex h) (s.tileAt ctx (tIndex h)).next

/-- The allocation still stands under its handle: no other activation has freed it and taken its index. -/
def State.stands (s : State) (ctx : Nat) : Alloc → Bool
  | .future h => (s.findFut h ctx).isSome
  | .tile h =>
    let t := s.tileAt ctx (tIndex h)
    t.defd && t.gen == tGen h

/-- The FNEW and TDEF allocations of a discarded segment are undone (R40). -/
def State.undo (s : State) (ctx : Nat) : List Alloc → State
  | [] => s
  | x :: r =>
    (if s.stands ctx x then (match x with
      | .future h => s.freeFut h
      | .tile h => s.dropTile ctx h) else s).undo ctx r

/-- The activation ends: the slot is free and its entry freed (R48). -/
def State.endAct (s : State) (g k : Nat) : State := (s.modEng g (fun E => E.freeSlot k)).freeEntry g k

/-- The segment is discarded and its record re-queued at the tail of its channel with cause 3 (R48); it stays in the inbox, ahead of the
channel's spilled messages (DESIGN CHOICE, log 98). -/
def State.requeue (s : State) (g k : Nat) : State :=
  match s.act g k with
  | none => s
  | some a =>
    let x := (s.eng g).entry k
    let s1 := s.undo a.ctx a.allocs
    s1.modEng g (fun E =>
      let E := E.freeSlot k
      { E with inbox := E.inbox.filter (fun y => y.slot != some k) ++
          [{ msg := { x.msg with cause := 3 }, arrived := s.now g, slot := none }] })

/-- An activation that is performing effects, or has raised a fault: a discard from outside does not come before these (R51). -/
def Act.mayNot (a : Act) : Bool := a.busy || !a.faults.isEmpty

/-- The activation in slot `k` is discarded as by pre-emption, where nothing comes before that (R48, R51). -/
def State.preempt (s : State) (g k : Nat) : State := if (s.act g k).any Act.mayNot then s else s.requeue g k

/-- The segment is discarded and the activation ends without a record (R48: context teardown). The teardown frees the context's futures
and tiles, without delivery (R280). -/
def State.discardAct (s : State) (g k : Nat) : State :=
  match s.act g k with
  | none => s
  | some _ => s.endAct g k

/-- The earliest fault in program order (R105). -/
def earliest : List Raised → Option Raised
  | [] => none
  | f :: r =>
    match earliest r with
    | none => some f
    | some f' => some (if f'.n < f.n then f' else f)

/-- Faults that are replayable (R49): XLATE, VIEW_FAULT, BREAK. -/
def replayable (code : Nat) : Bool := code == 7 || code == 17 || code == 22

/-- Taking a fault (SEGMENT_FAULT, REPLAYABLE_FAULT_PARK: R48 to R50, R105, R401). The segment is discarded and one record written. A
replayable fault parks the resume record behind a new future; without a future, a waiter or room for the record it is terminal. A
terminal fault of an activation with a JOIN decrements it with FLT. -/
def State.segmentFault (s : State) (g k : Nat) (a : Act) (f : Raised) : State :=
  let x := (s.eng g).entry k
  let s1 := s.undo a.ctx a.allocs
  let r : Rec := { code := f.code, src := 0, who := a.act, wher := f.pc, info := f.info, addr := f.addr, reason := f.reason,
                   share := f.share, time := f.time }
  let terminal (t : State) : State :=
    ((t.append a.ctx r).endAct g k).joinFault (engineSource g) a.ctx x.msg.join
  if replayable f.code && s1.fqRoom a.ctx then
    let (h, s2) := s1.allocFut (g / 16) a.ctx 0
    if h = 0 then terminal s2 else
    match s2.fileWaiter h { msg := x.msg, eng := g, target := 1, parked := true } with
    | none => terminal (s2.dropFut h)
    | some s3 => (s3.append a.ctx { r with held := true, future := h }).endAct g k
  else terminal s1

end Sys2Proof.Machine
end

