-- ==== Sys2Proof/Machine/Memory.lean ====
section
/-! DEFINITION. Reads and writes of device memory at their point of atomicity: recalls (R343, R345, R346), the reads of an observer
(R363 to R369), refused writes into views (R411), page-table writes that wait for their users (R390). -/

namespace Sys2Proof.Machine

/-! ### Users of a translation (R390) -/

/-- A request from cluster `c` travels by a home route entry in the granule (R393). -/
def State.routedBy (s : State) (c gr : Nat) : Target → Bool
  | .dpa a _ => (homeOf a).any (fun h => (s.hub.hrt + 16 * (146 * c + h)) / 128 == gr)
  | .remote _ _ => false

/-- Effects, copies and injections performed with a translation or a route from a granule have not completed; those that come after the
effect `by_` itself do not count for it. -/
def State.usedBy (s : State) (gr : Nat) (by_ : Option InFlight := none) : Bool :=
  s.inflight.any (fun f => (f.uses.contains gr || s.routedBy (f.g / 16) gr f.tgt) &&
    !by_.any (fun x => decide (x.id < f.id) && s.precedes x f)) || s.injects.any (fun f => f.uses.contains gr) ||
    s.resvReqs.any (fun q => q.uses.contains gr) || s.resvs.any (fun r => r.uses.contains gr) ||
    s.engines.any (fun e =>
      e.2.copies.any (fun c => c.flying.any (fun x =>
        x.uses.contains gr || (x.src ++ x.dst).any (fun p => s.routedBy (e.1 / 16) gr p.tgt))) ||
      e.2.slots.any (fun k => match k.2.act with
        | some a => a.busy && a.uses.contains gr
        | none => false))

/-- Segments that hold a translation from the granule: engine and slot. -/
def State.holders (s : State) (gr : Nat) : List (Nat × Nat) :=
  (s.engines.map (fun e => e.2.slots.filterMap (fun k => match k.2.act with
    | some a => if !a.busy && a.uses.contains gr then some (e.1, k.1) else none
    | none => none))).flatten

/-- Some segment or performed effect holds a translation from the granule: a write to it waits. -/
def State.ptBusy (s : State) (gr : Nat) (by_ : Option InFlight := none) : Bool := s.usedBy gr by_ || !(s.holders gr).isEmpty

/-- A write to a page-table granule in use waits, and recalls the users of its translations (R390, PAGE_TABLE_WRITE). -/
def State.wantPt (s : State) (gr : Nat) : State :=
  if s.ptBusy gr && !s.ptWrites.contains gr then { s with ptWrites := s.ptWrites ++ [gr] } else s

/-- What a write to `n` bytes at `a`, within one granule, waits for (R343, R345, R390): the state after the recalls, or nothing. -/
def State.allowWrite (s : State) (cl ctx a n : Nat) (all : Bool) (acq : Bool := !all) (by_ : Option InFlight := none) : Option State :=
  if s.ptBusy (a / 128) by_ then none else s.recall cl ctx a n true all acq by_

/-! ### Writes at the point of atomicity -/

/-- Who writes: the context that a refusal is recorded for, and the party, for a party of the device. -/
structure Writer where
  ctx   : Nat
  party : Option (Nat × Nat) := none
  rec?  : Bool := true
  deriving DecidableEq, Repr

/-- A run of bytes within one granule, with its key index. -/
structure Chunk1 where
  a   : Nat
  key : Nat
  bs  : List Byte
  deriving DecidableEq, Repr

/-- The first written byte that lies in a marked granule (R411). -/
def State.refusedAt (s : State) (a n : Nat) : Option Nat :=
  if s.marked (a / 128) then some a
  else if s.marked ((a + n - 1) / 128) then some ((a + n - 1) / 128 * 128) else none

/-- Bytes into one granule, with its key, and the granule where the home has them: not while its party keeps it under its tenure
(R337), nor while a bridge holds it in E or M, whose buffer takes the bytes (R345). -/
def State.store1 (s : State) (w : Writer) (x : Chunk1) : List Nat × State :=
  let gr := x.a / 128
  let s := if w.party.any (fun p => s.holdsOwn p.1 p.2 gr) then s.keepBack gr else s
  let s1 := (s.writeKeyed x.a x.key x.bs).killResv x.a x.bs.length
  match s1.bridgeOf gr with
  | some p => ([], { s1 with buffers := if s1.buffers.contains (p, gr) then s1.buffers else (p, gr) :: s1.buffers })
  | none =>
    match w.party with
    | some (cl, ctx) =>
      match s1.dirtyOwn cl ctx gr with
      | (true, s2) => ([], s2)
      | (false, s2) => ([gr], s2)
    | none => ([gr], s1)

def State.storeAll (s : State) (w : Writer) : List Chunk1 → List Nat × State
  | [] => ([], s)
  | x :: r =>
    let (g1, s1) := s.store1 w x
    let (g2, s2) := s1.storeAll w r
    (g1 ++ g2, s2)

/-- One write of the bytes of several granules: it is complete as one drain, which advances each generation once (R405). -/
def State.store (s : State) (w : Writer) (xs : List Chunk1) : State :=
  let (gs, t) := s.storeAll w xs
  t.advance gs

/-- One write at its point of atomicity: refused as a whole where a byte of it lies in a view (R411), or performed. -/
def State.writeAll (s : State) (w : Writer) (xs : List Chunk1) : State :=
  match firstSome (fun (x : Chunk1) => s.refusedAt x.a x.bs.length) xs with
  | some x => if w.rec? then s.append w.ctx { code := 8, src := 4, info := x, addr := x } else s
  | none => s.store w xs

def State.writeAt (s : State) (w : Writer) (a key : Nat) (bs : List Byte) : State := s.writeAll w [{ a := a, key := key, bs := bs }]

/-- The bytes that a write of an element of format width 4 leaves: one nibble of the byte (R192). -/
def State.mergeNib (s : State) (a : Nat) (bs : List Byte) (nib : Option Bool) : List Byte :=
  match nib, bs with
  | some hi, b :: _ => [setNibble (Sparse.get 0 s.mem a) b hi]
  | _, _ => bs

/-! ### Reads of an observer (R365, R366, R368) -/

/-- The bytes with those of one write in place. -/
def overlay1 (a : Nat) (bs : List Byte) (f : InFlight) : List Byte :=
  match f.tgt, f.op with
  | .dpa b _, .write ws nib =>
    bs.zipIdx.map (fun e =>
      let x := a + e.2
      if b ≤ x && x < b + ws.length then
        match nib with
        | some hi => setNibble e.1 (ws.getD (x - b) 0) hi
        | none => ws.getD (x - b) e.1
      else e.1)
  | _, _ => bs

/-- The bytes at a device address, within one granule, as an observer reads them; it may not be held from them. -/
def State.observe (s : State) (o : Seer) (a n key : Nat) : List Byte × State :=
  let (bs, s') := s.readKeyed a n key
  ((s.inflight.filter (fun f => f.seen o && f.mine o)).foldl (overlay1 a) bs, s')

/-! ### Effects at their destination -/

/-- A record of a failure found after an effect has been performed (R49). -/
def State.effectRecord (s : State) (f : InFlight) (code info : Nat) (reason share : Nat := 0) : State :=
  s.append f.ctx { code := code, src := 0, who := f.who, wher := f.pc, info := info, addr := f.va, reason := reason, share := share }

/-- The effect has left the list of those on their way. -/
def State.dropFlight (s : State) (i : Nat) : State := { s with inflight := dropAt s.inflight i }

/-- The code that an event gives for a remote access: 0 success, or a code of R400 that R477 lets a peer answer. -/
def remoteCode (code : Nat) : Nat := if [7, 8, 15, 16, 18].contains code then code else 0

/-- The info word of a peer's XLATE (R477): bit 63 and PEER of the window entry. -/
def State.peerInfo (s : State) (ctx : Nat) (t : Target) (code : Nat) : Nat :=
  match t with
  | .remote w _ => if code = 7 then 2 ^ 63 + fieldOf (s.rd ((s.ctx ctx).winTab + 128 * w + 64) 8) 31 16 else 0
  | .dpa _ _ => 0

/-- The info word of a remote access that a peer refused with an event's code (R49, R467, R477): the peer for XLATE, the ROUTE info word
that came back, else the address. -/
def State.remoteInfo (s : State) (ctx : Nat) (t : Target) (code va : Nat) : Nat :=
  let x := remoteCode (code % 32)
  if x = 7 then s.peerInfo ctx t x else if x = 15 then code / 128 % 2 ^ 25 else va
/-- The REASON that comes back with a peer's XLATE (R399, R477). -/
def remoteReason (code : Nat) : Nat := if remoteCode (code % 32) = 7 then code / 32 % 4 else 0
/-- The SHARE that the peer's translation read, for reason 3 (R399, R487). -/
def remoteShare (code : Nat) : Nat := if remoteReason code = 3 then code / 128 % 256 else 0

/-- The host behind a bridge address is absent (R388, R425). -/
def State.hostGone (s : State) (a : Nat) : Bool := decide (2 ^ 47 ≤ a) && (decide (2 ^ 48 ≤ a) || !s.linkUp (a / 2 ^ 46 % 2))

/-- Where an access to `va` goes when it reaches the hub (R386, R425): window 1 lies behind the port that holds the lease then, and behind
none when there is no holder. One that has reached a bridge stays with it. -/
def State.rePort (s : State) (va : Nat) (t : Target) (port : Option Nat) : Target :=
  match t with
  | .dpa _ key =>
    let p := port.getD s.hub.holder
    if va / 2 ^ 48 = 1 then .dpa (if p < 2 then 2 ^ 47 + p * 2 ^ 46 + va % 2 ^ 46 else 2 ^ 48) key else t
  | .remote _ _ => t

/-- The globally performed effect at position `i`, when no earlier one comes before it and it has left the shaper (R470). -/
def State.nextFlight (s : State) (i : Nat) : Option InFlight :=
  let fs := s.inflight.map (fun f => { f with tgt := s.rePort f.va f.tgt f.port })
  match fs[i]? with
  | none => none
  | some f => if (fs.take i).any (fun x => s.precedes x f) || !s.unshaped f.ticket then none else some f

/-- A release at PKG by an observer, known by its number: what it covers comes before every later effect of the observer (R371). -/
def State.markRelease (s : State) (o : Seer) (obs : Nat) : State :=
  { s with inflight := s.inflight.map (fun f =>
      if f.seen o && !f.tgt.isRemote && !f.rel.contains obs then { f with rel := obs :: f.rel } else f) }

/-- GLOBAL_WRITE_PERFORM (R366): a store reaches its point of atomicity; a ROUTE fault on its way is a record only (R49, R467). `code` is
a peer's answer for a remote target. -/
def execGlobalWritePerform (i code : Nat) (s : State) : Host.Outcome State Fault Refusal :=
  match s.nextFlight i with
  | none => .next s
  | some f =>
    match f.op with
    | .write bs nib =>
      match s.routeFault f.ctx (f.g / 16) (f.g % 16) f.tgt with
      | some info => .next (((s.dropFlight i).hopFault info).effectRecord f 15 info)
      | none =>
        match f.tgt with
        | .remote _ _ =>
          let x := remoteCode (code % 32)
          .next (if x = 0 then s.dropFlight i
            else (s.dropFlight i).effectRecord f x (s.remoteInfo f.ctx f.tgt code f.va) (remoteReason code) (remoteShare code))
        | .dpa a key =>
          if s.hostGone a then .next ((s.dropFlight i).effectRecord f 18 f.va) else
          match (s.dropFlight i).allowWrite (f.g / 16) f.ctx a f.op.size false true (some f) with
          | none => .next (s.wantPt (a / 128))
          | some t => .next (t.writeAt { ctx := f.ctx, party := some (f.g / 16, f.ctx) } a key (t.mergeNib a bs nib))
    | _ => .next s

end Sys2Proof.Machine
end

