-- ==== Sys2Proof/Machine/Flags.lean ====
section
/-! DEFINITION. Conditions and flags: the guard and the branch condition (R83, R86), the comparison conditions (R133), the relation mask
of FCMP (R137) and the class mask of FCLASS (R138). -/

namespace Sys2Proof.Machine

/-- ReadG (R6): g0 reads zero. -/
def Act.rg (a : Act) (n : Nat) : BitVec 64 := if n = 0 then 0 else a.g.get 0 n
/-- UInt(ReadG(n)). -/
def Act.ug (a : Act) (n : Nat) : Nat := (a.rg n).toNat
/-- SInt(ReadG(n)). -/
def Act.sg (a : Act) (n : Nat) : Int := (a.rg n).toInt
/-- WriteG (R6): a write to g0 has no effect. -/
def Act.wg (a : Act) (n : Nat) (v : BitVec 64) : Act := if n = 0 then a else { a with g := a.g.put 0 n v }
/-- WriteG of a number, stored modulo 2^64 (R5). -/
def Act.wn (a : Act) (n : Nat) (v : Nat) : Act := a.wg n (BitVec.ofNat 64 v)
/-- WriteG of an integer, stored modulo 2^64 (R5). -/
def Act.wi (a : Act) (n : Nat) (v : Int) : Act := a.wg n (BitVec.ofInt 64 v)
/-- ReadP (R6). -/
def Act.rp (a : Act) (n : Nat) : Bool := a.p.getLsbD n
/-- WriteP (R6). -/
def Act.wp (a : Act) (n : Nat) (b : Bool) : Act :=
  { a with p := if b then a.p ||| (1#12 <<< n) else a.p &&& ~~~(1#12 <<< n) }

/-- A guard or COND holds (R83, R86): 15 is always; bit 4 negates. -/
def condTrue (c : BitVec 5) (a : Act) : Bool :=
  let n := c.toNat % 16
  n == 15 || (a.rp n != bitOf c.toNat 4)

/-- The conditions of CMP and CMPI (R133) on two 64-bit values. -/
def cmpTrue (cc : Nat) (x y : BitVec 64) : Bool :=
  match cc with
  | 0 => x == y
  | 1 => x != y
  | 2 => decide (x.toInt < y.toInt)
  | 3 => decide (x.toInt ≥ y.toInt)
  | 4 => decide (x.toInt ≤ y.toInt)
  | 5 => decide (x.toInt > y.toInt)
  | 6 => decide (x.toNat < y.toNat)
  | 7 => decide (x.toNat ≥ y.toNat)
  | 8 => decide (x.toNat ≤ y.toNat)
  | 9 => decide (x.toNat > y.toNat)
  | 10 => (x &&& y) != 0
  | _ => (x &&& y) == 0

/-- The relation mask of FCMP (R137): less, equal, greater, unordered. -/
def relMask (x y : Val) : Nat :=
  if x.isNan || y.isNan then 8 else if x.cmp y < 0 then 1 else if x.cmp y = 0 then 2 else 4

/-- The class mask of FCLASS on an F32 code (R138). -/
def classMask (code : Nat) : Nat :=
  let neg := bitOf code 31
  let e := fieldOf code 30 23
  let m := fieldOf code 22 0
  if e = 255 then (if m = 0 then (if neg then 1 else 2 ^ 7) else 2 ^ 8)
  else if e = 0 then (if m = 0 then (if neg then 2 ^ 3 else 2 ^ 4) else (if neg then 2 ^ 2 else 2 ^ 5))
  else if neg then 2 else 2 ^ 6

end Sys2Proof.Machine
end

