-- ==== Sys2Proof/Machine/Static.lean ====
section
/-! DEFINITION. What the front end checks of a word before it dispatches it: the registers a word reads and writes (R88), the static
operand checks (R86, R90 and each entry's limits), the feature of an opcode (R110) and the prefix fields a word accepts (R141).
`acc` is the accepted feature vector as a number (R22). -/

namespace Sys2Proof

/-- Bits of the feature vector (R21). -/
def hasFeat (acc k : Nat) : Bool := bitOf acc k

/-- An element code that an operand accepts: in the list, and its feature accepted (R53). -/
def codeOk (acc : Nat) (l : List Nat) (f : Nat) : Bool :=
  l.contains f &&
    (if 6 ≤ f && f ≤ 9 then hasFeat acc 1 else if f = 10 then hasFeat acc 2 else if f = 22 || f = 23 then hasFeat acc 3 else true)

/-- RM as an instruction that rounds may carry it (R64). -/
def rmOk (acc rm : Nat) : Bool := rm < 5 || (rm = 5 && hasFeat acc 14)

def floatCodes : List Nat := [0, 1, 2, 3, 4, 5]
def intCodes : List Nat := [12, 13, 14, 15, 16, 17, 18, 19, 20, 21]
/-- Formats of the scalar accesses (R190). -/
def memCodes : List Nat := [0, 1, 2, 3, 4, 5, 6, 12, 13, 14, 15, 16, 17, 18, 19, 20, 21, 22, 23]
/-- Formats of the atomics other than FADD (R196). -/
def atomCodes : List Nat := [15, 16, 20, 21]

/-! ### Registers read and written (R88, R92) -/

/-- A register of an activation. -/
inductive Reg where
  | g (n : Nat)
  | p (n : Nat)
  | h (n : Nat)
  deriving DecidableEq, Repr

/-- The registers a word reads and those it writes; g0 is not counted (R88). -/
structure Uses where
  rd : List Reg := []
  wr : List Reg := []
  deriving DecidableEq, Repr

/-- The run of `n` registers from `b` on. -/
def runOf (b n : Nat) : List Reg := (List.range n).map (fun i => Reg.g (b + i))

/-- The live set of a committing or yielding word (R284): BASE_A, CNT_A, BASE_B, CNT_B. -/
def YForm.live (f : YForm) : Nat × Nat × Nat × Nat :=
  let i := f.imm.toNat
  (fieldOf i 5 0, fieldOf i 9 6, fieldOf i 15 10, f.obj.toNat % 16)

def YForm.liveRegs (f : YForm) : List Reg :=
  let (a, n, b, m) := f.live
  runOf a n ++ runOf b m

def XForm.uDAB (f : XForm) : Uses := { rd := [.g f.a.toNat, .g f.b.toNat], wr := [.g f.d.toNat] }
def XForm.uDA (f : XForm) : Uses := { rd := [.g f.a.toNat], wr := [.g f.d.toNat] }
def XForm.uPP (f : XForm) : Uses := { rd := [.p f.a.toNat, .p f.b.toNat], wr := [.p f.d.toNat] }
def IForm.uDA (f : IForm) : Uses := { rd := [.g f.a.toNat], wr := [.g f.d.toNat] }

/-- The mask register (R158). -/
def VForm.maskRegs (f : VForm) : List Reg := if bitOf f.mask.toNat 4 then [.h (f.mask.toNat % 16)] else []
def VForm.u1 (f : VForm) : Uses := { rd := .h f.hd.toNat :: f.maskRegs }
def VForm.u2 (f : VForm) : Uses := { rd := .h f.hd.toNat :: .h f.ha.toNat :: f.maskRegs }
def VForm.u3 (f : VForm) : Uses := { rd := .h f.hd.toNat :: .h f.ha.toNat :: .h f.hb.toNat :: f.maskRegs }
def VForm.u4 (f : VForm) : Uses := { rd := .h f.hd.toNat :: .h f.ha.toNat :: .h f.hb.toNat :: .h f.hc.toNat :: f.maskRegs }

/-- The base register, and the index register where MOD[1] is set (R187). -/
def MForm.addrRegs (f : MForm) : List Reg :=
  if bitOf f.mode.toNat 1 then [.g f.a.toNat, .g f.b.toNat] else [.g f.a.toNat]

def casReg (f : MForm) : List Reg := if f.mode.toNat % 16 = 9 then [.g (f.d.toNat + 1)] else []
def pairOf (r : BitVec 6) : List Reg := if r = 0 then [] else [.g r.toNat, .g (r.toNat + 1)]

/-- The registers of a word, its guard apart. -/
def Instr.uses : Instr → Uses
  | .br f => { rd := [.g f.a.toNat] }
  | .call f => { rd := [.g f.a.toNat], wr := [.g 63] }
  | .calli _ => { wr := [.g 63] }
  | .ret _ => { rd := [.g 63] }
  | .loop f => { rd := [.g f.a.toNat] }
  | .add _ f | .sub _ f | .mul _ f | .mulh _ f | .mulhn _ f | .div _ f | .divn _ f | .rem _ f | .remn _ f | .and _ f | .or _ f
  | .xor _ f | .shl _ f | .shr _ f | .sra _ f | .rol _ f | .min _ f | .max _ f | .minn _ f | .maxn _ f | .bfx _ f | .fadd _ f
  | .fsub _ f | .fmul _ f | .fdiv _ f | .fmin _ f | .fmax _ f | .fcmp _ f => f.uDAB
  | .clz _ f | .ctz _ f | .popc _ f | .abs _ f | .sext _ f | .zext _ f | .bswap _ f | .fsqrt _ f | .fcvt _ f | .fclass _ f => f.uDA
  | .addi _ f | .muli _ f | .andi _ f | .ori _ f | .xori _ f | .shli _ f | .shri _ f | .srai _ f | .roli _ f | .lea _ f => f.uDA
  | .ffma _ f => { rd := [.g f.a.toNat, .g f.b.toNat, .g f.c.toNat], wr := [.g f.d.toNat] }
  | .sel _ f => { rd := [.g f.a.toNat, .g f.b.toNat, .p f.c.toNat], wr := [.g f.d.toNat] }
  | .bfi _ f => { rd := [.g f.d.toNat, .g f.a.toNat, .g f.b.toNat], wr := [.g f.d.toNat] }
  | .movi _ f => { wr := [.g f.d.toNat] }
  | .movhi _ f => { rd := [.g f.d.toNat], wr := [.g f.d.toNat] }
  | .cmp _ f => { rd := [.g f.a.toNat, .g f.b.toNat], wr := [.p f.d.toNat] }
  | .cmpi _ f => { rd := [.g f.a.toNat], wr := [.p f.d.toNat] }
  | .pand _ f | .por _ f | .pxor _ f => f.uPP
  | .pnot _ f => { rd := [.p f.a.toNat], wr := [.p f.d.toNat] }
  | .pset _ f => { wr := [.p f.d.toNat] }
  | .pget _ f => { rd := [.g f.a.toNat], wr := [.p f.d.toNat] }
  | .rnd _ f | .rndf _ f => { wr := [.g f.d.toNat] }
  | .shld _ f => { rd := [.g f.a.toNat], wr := [.h f.d.toNat] }
  | .shst _ f => { rd := [.g f.a.toNat, .h f.d.toNat] }
  | .shset _ f | .shofs _ f => { rd := [.h f.ha.toNat, .g f.g.toNat], wr := [.h f.hd.toNat] }
  | .vfill _ f => { rd := .g f.g.toNat :: f.u1.rd }
  | .vrnd _ f => f.u1
  | .vmov _ f | .vabs _ f | .vneg _ f | .vcvt _ f | .vred _ f | .vscan _ f | .vexp _ f | .vlog _ f | .vrcp _ f | .vrsq _ f
  | .vtanh _ f | .verf _ f | .vtrans _ f => f.u2
  | .vadd _ f | .vsub _ f | .vmul _ f | .vmin _ f | .vmax _ f | .vand _ f | .vor _ f | .vxor _ f | .vcmp _ f | .vgath _ f
  | .vscat _ f => f.u3
  | .vshl _ f | .vshr _ f => if bitOf f.fn.toNat 0 then { rd := .g f.g.toNat :: f.u2.rd } else f.u3
  | .vfma _ f | .vsel _ f | .vcmac _ f => f.u4
  | .vcmul _ f => if bitOf f.fn.toNat 0 then f.u4 else f.u3
  | .vquant _ f => { rd := [.h f.hd.toNat, .h f.ha.toNat, .h f.hc.toNat] }
  | .mldb _ f => { rd := .h f.ha.toNat :: (if 7 ≤ f.fb.toNat && f.fb.toNat ≤ 9 then [.h f.hs.toNat] else []) }
  | .mma _ f => { rd := .h f.ha.toNat :: (if 7 ≤ f.fa.toNat && f.fa.toNat ≤ 9 then [.h f.hs.toNat] else []) }
  | .mmac _ f => { rd := [.h f.ha.toNat] }
  | .mst _ f => { rd := .h f.ha.toNat :: (if bitOf f.fn.toNat 3 then [.h f.hs.toNat] else []) }
  | .mcfgWeight _ f | .mcfgGate _ f | .mcfgClrsat _ f => { rd := [.g (f.fn.toNat % 64)] }
  | .ld _ f | .ldg _ f | .ldc _ f => { rd := f.addrRegs, wr := [.g f.d.toNat] }
  | .st _ f _ | .stg _ f _ => { rd := .g f.d.toNat :: f.addrRegs }
  | .cinvLine _ f | .pref _ f => { rd := [.g f.a.toNat] }
  | .atom _ f => { rd := [.g f.a.toNat, .g f.b.toNat] ++ (if f.mode.toNat % 16 = 9 then [.g f.d.toNat] else []), wr := [.g f.d.toNat] }
  | .cpy _ f | .cpym _ f => { rd := [.g f.a.toNat] }
  | .cpyq _ f => { wr := [.g f.d.toNat] }
  | .atomg _ f => { rd := [.g f.a.toNat, .g f.b.toNat, .g f.d.toNat] ++ casReg f }
  | .red _ f => { rd := [.g f.a.toNat, .g f.d.toNat] }
  | .lrw _ f => { rd := [.g f.a.toNat, .g f.b.toNat] }
  | .sch _ f => { rd := [.g f.a.toNat, .g f.b.toNat, .g f.d.toNat] }
  | .schRel _ f => { rd := [.g f.a.toNat, .g f.b.toNat] }
  | .commit _ f | .yield _ f => { rd := f.liveRegs }
  | .send _ f => { rd := pairOf f.a ++ [.g f.b.toNat] ++ runOf f.d.toNat (f.imm.toNat / 4096) }
  | .sendi _ f =>
    { rd := pairOf f.a ++ [.g f.b.toNat, .g f.d.toNat, .g (fieldOf f.imm.toNat 9 4), .g (fieldOf f.imm.toNat 15 10)] }
  | .spawn _ f => { rd := .g f.a.toNat :: runOf f.d.toNat (f.imm.toNat / 4096) }
  | .migrate _ f => { rd := .g f.a.toNat :: f.liveRegs }
  | .fnew _ f => { rd := [.g f.a.toNat], wr := [.g f.d.toNat] }
  | .fres _ f | .fdec _ f => { rd := [.g f.a.toNat, .g f.b.toNat] }
  | .ftest _ f => { rd := [.g f.a.toNat, .g f.b.toNat], wr := [.p f.d.toNat] }
  | .ftestV _ f | .ftestC _ f | .ftestF _ f => { rd := [.g f.a.toNat], wr := [.g f.d.toNat] }
  | .await _ f => { rd := .g f.a.toNat :: .g f.b.toNat :: f.liveRegs }
  | .fcall _ f => { rd := [.g f.d.toNat, .g f.a.toNat, .g f.b.toNat] }
  | .ffree _ f => { rd := [.g f.a.toNat] }
  | .rtmk _ f => { rd := [.g f.a.toNat, .g f.b.toNat], wr := [.g f.d.toNat, .g (f.d.toNat + 1)] }
  | .binit _ f | .barrx _ f | .bexp _ f | .bwait _ f => { rd := [.g f.a.toNat] }
  | .btest _ f => { rd := [.g f.a.toNat], wr := [.p f.d.toNat] }
  | .btestS _ f | .btestP _ f => { wr := [.g f.d.toNat] }
  | .tdef _ f => { rd := [.g f.a.toNat], wr := [.g f.d.toNat] }
  | .tfree _ f | .trel _ f => { rd := [.g f.a.toNat] }
  | .tacq _ f => { rd := .g f.a.toNat :: .g f.b.toNat :: f.liveRegs }
  | .tqry _ f => { rd := [.g f.a.toNat], wr := [.g f.d.toNat] }
  | .scopeRd _ f | .scopeWr _ f => { rd := [.g f.a.toNat] }
  | .srr _ f => { rd := if f.imm.toNat % 4096 = 4 then (List.range 12).map .p else [], wr := [.g f.d.toNat] }
  | .srw _ f => { rd := [.g f.a.toNat], wr := if f.imm.toNat % 4096 = 4 then (List.range 12).map .p else [] }
  | .collBcast _ f | .collReduce _ f | .collAllred _ f => { rd := [.g f.a.toNat, .g f.b.toNat] }
  | _ => {}

/-- The predicate that a guard or a condition reads (R83, R86). -/
def guardRegs (g : BitVec 5) : List Reg := if g.toNat % 16 < 12 then [.p (g.toNat % 16)] else []

/-! ### Static operand checks (R86, R90, R150)

Each check gives the bit positions of the fields that fail. Where several fields of one word fail, the position reported is that
of the most significant one (DESIGN CHOICE, log 17). -/

/-- The position `pos` when the check fails. -/
def failAt (pos : Nat) (ok : Bool) : List Nat := if ok then [] else [pos]

def predOk (r : BitVec 6) : Bool := r.toNat < 12

/-- The live set of R284. -/
def liveFails (f : YForm) : List Nat :=
  let (a, n, b, m) := f.live
  failAt 19 (m ≤ 10) ++ failAt 6 (n + m ≤ 10) ++ failAt 0 (a + n ≤ 64) ++ failAt 10 (b + m ≤ 64)

/-- Rounding float instructions (R135). -/
def floatFails (acc : Nat) (f : XForm) : List Nat :=
  failAt 15 (codeOk acc floatCodes f.fmt.toNat) ++ failAt 12 (rmOk acc f.rm.toNat)

/-- The vector instructions' RM (R159). -/
def vecRm (acc : Nat) (f : VForm) : List Nat := failAt 14 (rmOk acc f.rm.toNat)

def accFmts : List Nat := [0, 1, 2, 15, 16, 20, 21]

/-- LD, ST, LDG, STG, LDC (R187, R190); `o` is what a prefix gave the conversion (R189). -/
def memFails (acc : Nat) (f : MForm) (o : Cvt) : List Nat :=
  failAt 21 (codeOk acc memCodes f.fmt.toNat) ++
  failAt 16 (!bitOf f.mode.toNat 0 || [5, 12, 17].contains f.fmt.toNat) ++ failAt 12 (o.rm.toNat < 5)

/-- The operation and the format of ATOM, ATOMG and RED (R196, R347). -/
def atomFails (acc : Nat) (f : MForm) (red : Bool) : List Nat :=
  let op := f.mode.toNat % 16
  failAt 16 (op ≤ 10 && !(red && (op = 8 || op = 9))) ++
  failAt 21 (if op = 10 then f.fmt = 0 else codeOk acc atomCodes f.fmt.toNat)

/-- The pairs of FA and FB of a row of R233. -/
def mmaPair (acc : Nat) (fa fb : Nat) : Bool :=
  (codeOk acc [3, 4, 7, 8] fa && codeOk acc [3, 4, 7, 8, 10] fb) || (codeOk acc [5, 9] fa && codeOk acc [5, 9] fb) ||
  (codeOk acc [1, 2] fa && codeOk acc [1, 2] fb) || (codeOk acc [13, 18] fa && codeOk acc [13, 18] fb) || (fa = 12 && fb = 12)

def mmaFa (acc fa : Nat) : Bool := codeOk acc [1, 2, 3, 4, 5, 7, 8, 9, 12, 13, 18] fa
def mmacPair (acc fa fb : Nat) : Bool := codeOk acc [22, 23] fa && fa = fb

/-- Every FB of R233. -/
def loadFb (acc fb : Nat) : Bool := codeOk acc [1, 2, 3, 4, 5, 7, 8, 9, 10, 12, 13, 18, 22, 23] fb

/-- Registers of SRR and SRW (R403). -/
def srNums : List Nat := [0, 1, 2, 3, 4, 5, 0x10, 0x20, 0x21, 0x40, 0x41, 0x42, 0x43, 0x44]

def collFails (acc : Nat) (f : YForm) : List Nat :=
  failAt 19 (f.obj.toNat < 96) ++ failAt 16 (f.sub.toNat < 3 && (f.sub = 0 || hasFeat acc 9))

def permOk (fn : Nat) : Bool :=
  let p := [fieldOf fn 1 0, fieldOf fn 3 2, fieldOf fn 5 4, fieldOf fn 7 6]
  [0, 1, 2, 3].all p.contains

/-- The bit positions of the static operand fields of a word that fail. -/
def Instr.fails (acc : Nat) : Instr → List Nat
  | .loop f | .loopi f => failAt 0 (f.imm.toNat % 65536 ≠ 0)
  | .shli _ f | .shri _ f | .srai _ f | .roli _ f => failAt 0 (f.imm.toNat < 64)
  | .sel _ f => failAt 20 (predOk f.c)
  | .sext _ f => failAt 15 (codeOk acc [12, 13, 14, 15, 16] f.fmt.toNat)
  | .zext _ f => failAt 15 (codeOk acc [17, 18, 19, 20, 21] f.fmt.toNat)
  | .bswap _ f => failAt 15 (codeOk acc [19, 20, 21] f.fmt.toNat)
  | .cmp _ f => failAt 38 (predOk f.d) ++ failAt 0 (f.fn.toNat % 16 < 12)
  | .cmpi _ f => failAt 38 (predOk f.d) ++ failAt 28 (f.imm.toNat / 2 ^ 28 < 12)
  | .pand _ f | .por _ f | .pxor _ f => failAt 38 (predOk f.d) ++ failAt 32 (predOk f.a) ++ failAt 26 (predOk f.b)
  | .pnot _ f => failAt 38 (predOk f.d) ++ failAt 32 (predOk f.a)
  | .pset _ f | .pget _ f => failAt 38 (predOk f.d)
  | .fadd _ f | .fsub _ f | .fmul _ f | .ffma _ f | .fdiv _ f | .fsqrt _ f | .fmin _ f | .fmax _ f => floatFails acc f
  | .fcvt _ f =>
    let src := f.fn.toNat % 32
    failAt 15 (codeOk acc ([0, 1, 2, 3, 4, 5, 6] ++ intCodes) f.fmt.toNat && !(f.fmt = 6 && (src = 16 || src = 21))) ++
    failAt 12 (rmOk acc f.rm.toNat) ++ failAt 0 (src = 0 || src = 16 || src = 21)
  | .rndf _ f => failAt 15 (codeOk acc [0, 1, 2] f.fmt.toNat)
  | .shld _ f | .shst _ f => failAt 38 (f.d.toNat < 16)
  | .shset _ f => failAt 0 (f.fn.toNat % 16 < 14)
  | .vfill _ f => vecRm acc f ++ failAt 0 ([0, 16, 21, 22].contains (f.fn.toNat % 32) && codeOk acc [0, 16, 21, 22] (f.fn.toNat % 32))
  | .vcmp _ f => vecRm acc f ++ failAt 0 (f.fn.toNat % 16 < 6 || f.fn.toNat % 16 = 10 || f.fn.toNat % 16 = 11)
  | .vquant _ f => vecRm acc f ++ failAt 8 (!bitOf f.mask.toNat 4) ++ failAt 0 (f.fn.toNat % 8 < 5)
  | .vred _ f => vecRm acc f ++ failAt 17 (codeOk acc accFmts f.fmt.toNat) ++ failAt 2 (fieldOf f.fn.toNat 4 2 < 4)
  | .vscan _ f =>
    vecRm acc f ++ failAt 17 (codeOk acc accFmts f.fmt.toNat) ++ failAt 2 (fieldOf f.fn.toNat 4 2 < 4) ++
    failAt 5 (!bitOf f.fn.toNat 5 || fieldOf f.fn.toNat 4 2 = 0)
  | .vtrans _ f => vecRm acc f ++ failAt 0 (permOk f.fn.toNat)
  | .vmov _ f | .vadd _ f | .vsub _ f | .vmul _ f | .vfma _ f | .vmin _ f | .vmax _ f | .vabs _ f | .vneg _ f | .vand _ f | .vor _ f
  | .vxor _ f | .vshl _ f | .vshr _ f | .vsel _ f | .vcvt _ f | .vexp _ f | .vlog _ f | .vrcp _ f | .vrsq _ f | .vtanh _ f
  | .verf _ f | .vcmul _ f | .vcmac _ f | .vgath _ f | .vscat _ f | .vrnd _ f => vecRm acc f
  | .mldb _ f => failAt 14 (loadFb acc f.fb.toNat)
  | .mma _ f =>
    failAt 19 (mmaFa acc f.fa.toNat) ++ failAt 14 (!mmaFa acc f.fa.toNat || mmaPair acc f.fa.toNat f.fb.toNat) ++
    failAt 11 (f.rm.toNat < 5)
  | .mmac _ f =>
    failAt 39 (f.acc.toNat % 2 = 0) ++ failAt 19 (codeOk acc [22, 23] f.fa.toNat) ++
    failAt 14 (!codeOk acc [22, 23] f.fa.toNat || mmacPair acc f.fa.toNat f.fb.toNat) ++ failAt 11 (f.rm.toNat < 5)
  | .mzero _ f => failAt 0 (f.acc.toNat + f.fn.toNat % 32 + 1 ≤ 32)
  | .mst _ f =>
    let c := bitOf f.fn.toNat 2
    failAt 39 (!c || f.acc.toNat % 2 = 0) ++ failAt 19 (f.fa = 15 || (f.fa = 0 && !c)) ++
    failAt 14 (codeOk acc (if c then [22, 23] else floatCodes ++ intCodes) f.fb.toNat) ++ failAt 11 (f.rm.toNat < 5) ++
    failAt 3 (!(c && bitOf f.fn.toNat 3))
  | .mbar _ f => failAt 0 (f.fn.toNat % 128 < 96)
  | .mcfgWeight _ f | .mcfgGate _ f | .mcfgClrsat _ f => failAt 6 (f.fn.toNat / 64 < 6)
  | .ld _ f | .ldc _ f => memFails acc f Cvt.none
  | .st _ f o | .stg _ f o => memFails acc f o
  | .ldg _ f =>
    let pol := fieldOf f.mode.toNat 3 2
    memFails acc f Cvt.none ++ failAt 18 (pol < 3 && (pol = 0 || hasFeat acc 4))
  | .atom _ f | .atomg _ f => atomFails acc f false
  | .red _ f => atomFails acc f true
  | .lrw _ f => failAt 38 (1 ≤ f.d.toNat && f.d.toNat ≤ 62) ++ failAt 21 (codeOk acc atomCodes f.fmt.toNat)
  | .sch _ f | .schRel _ f => failAt 21 (codeOk acc atomCodes f.fmt.toNat)
  | .cpy _ f | .cpym _ f => failAt 19 (f.obj.toNat < 96 || f.obj.toNat = 127)
  | .cpyq _ f => failAt 16 (f.sub = 0)
  | .commit _ f | .yield _ f | .migrate _ f => liveFails f
  | .await _ f => liveFails f ++ failAt 16 (f.sub.toNat < 4)
  | .tacq _ f => liveFails f ++ failAt 16 (f.sub.toNat < 2)
  | .send _ f =>
    failAt 32 (f.a.toNat % 2 = 0) ++ failAt 16 (f.sub.toNat < 2) ++
    failAt 12 (f.imm.toNat / 4096 ≤ 10 && f.d.toNat + f.imm.toNat / 4096 ≤ 64)
  | .sendi _ f =>
    failAt 32 (f.a.toNat % 2 = 0) ++ failAt 16 (f.sub.toNat < 2) ++ failAt 0 (1 ≤ f.imm.toNat % 16 && f.imm.toNat % 16 ≤ 12)
  | .spawn _ f => failAt 12 (f.imm.toNat / 4096 ≤ 10 && f.d.toNat + f.imm.toNat / 4096 ≤ 64)
  | .ftest _ f => failAt 16 (f.sub.toNat < 4) ++ failAt 38 (f.sub ≠ 0 || predOk f.d)
  | .rtmk _ f => failAt 38 (f.d.toNat % 2 = 0 && f.d ≠ 0) ++ failAt 16 (f.sub.toNat < 3)
  | .binit _ f | .barrx _ f | .bexp _ f => failAt 19 (f.obj.toNat < 96)
  | .barr _ f => failAt 19 (f.obj.toNat < 96) ++ failAt 0 (f.imm ≠ 0)
  | .bwait _ f => failAt 19 (f.obj.toNat < 96) ++ failAt 16 (f.sub = 0)
  | .btest _ f => failAt 19 (f.obj.toNat < 96) ++ failAt 16 (f.sub.toNat < 3) ++ failAt 38 (f.sub ≠ 0 || predOk f.d)
  | .btestS _ f | .btestP _ f => failAt 19 (f.obj.toNat < 96)
  | .trel _ f => failAt 16 (f.sub.toNat < 2)
  | .fence _ f =>
    let sc := f.obj.toNat % 16
    failAt 19 (sc < 4 || (8 ≤ sc && hasFeat acc 16)) ++ failAt 16 (1 ≤ f.sub.toNat && f.sub.toNat ≤ 3)
  | .scopeRd _ f | .scopeWr _ f => failAt 22 (f.obj.toNat < 8) ++ failAt 16 (f.sub.toNat < 2)
  | .srr _ f | .srw _ f => failAt 16 (f.sub = 0) ++ failAt 0 (srNums.contains (f.imm.toNat % 4096))
  | .collBcast _ f | .collReduce _ f | .collAllred _ f => collFails acc f
  | _ => []

/-- The feature without which an opcode is ILLEGAL_INSTR (R110). -/
def Instr.feature : Instr → Option Nat
  | .vcmul _ _ | .vcmac _ _ => some 3
  | .fcall _ _ => some 5
  | .lrw _ _ => some 15
  | .tacq _ _ => some 17
  | .scopeRd _ _ | .scopeWr _ _ => some 16
  | _ => none

/-- Which prefix fields a word accepts (R141): F1, F2, RM, SAT; a hint word accepts all. -/
structure Accepts where
  f1  : Bool := false
  f2  : Bool := false
  rm  : Bool := false
  sat : Bool := false
  deriving DecidableEq, Repr

def Instr.accepts : Instr → Accepts
  | .hintWord _ _ _ _ => { f1 := true, f2 := true, rm := true, sat := true }
  | .add _ _ | .sub _ _ | .mul _ _ | .abs _ _ => { sat := true }
  | .sext _ _ | .zext _ _ | .bswap _ _ | .rndf _ _ => { f1 := true }
  | .fadd _ _ | .fsub _ _ | .fmul _ _ | .ffma _ _ | .fdiv _ _ | .fsqrt _ _ | .fmin _ _ | .fmax _ _ =>
    { f1 := true, rm := true, sat := true }
  | .fcvt _ _ => { f1 := true, f2 := true, rm := true, sat := true }
  | .vfill _ _ => { f2 := true, rm := true, sat := true }
  | .vred _ _ | .vscan _ _ => { f1 := true, rm := true, sat := true }
  | .vquant _ _ => { rm := true }
  | .vadd _ _ | .vsub _ _ | .vmul _ _ | .vfma _ _ | .vmin _ _ | .vmax _ _ | .vabs _ _ | .vneg _ _ | .vsel _ _ | .vcvt _ _
  | .vexp _ _ | .vlog _ _ | .vrcp _ _ | .vrsq _ _ | .vtanh _ _ | .verf _ _ => { rm := true, sat := true }
  | .vshl _ _ | .vshr _ _ | .vcmul _ _ | .vcmac _ _ => { sat := true }
  | .mldb _ _ => { f2 := true }
  | .mma _ _ | .mmac _ _ | .mst _ _ => { f1 := true, f2 := true, rm := true, sat := true }
  | .st _ _ _ | .stg _ _ _ => { f1 := true, rm := true, sat := true }
  | .ld _ _ | .ldg _ _ | .ldc _ _ | .atom _ _ | .atomg _ _ | .red _ _ | .sch _ _ | .schRel _ _ => { f1 := true }
  | _ => {}

/-- Whether the word is a committing or yielding instruction (R42). -/
def Instr.commits : Instr → Bool
  | .commit _ _ | .yield _ _ | .exit _ _ | .migrate _ _ | .await _ _ | .lrw _ _ | .tacq _ _ => true
  | _ => false

end Sys2Proof
end

