-- ==== Sys2Proof/Machine/Issue.lean ====
section
/-! DEFINITION. The common course of an issuing instruction (R91 to R97): token pops, the guard, the effect, the pushes, a local wait or
a fault; and the deferred-effect buffer (R36, R37). -/

namespace Sys2Proof.Machine

/-- What the effect of an instruction gives: it is complete; it waits at the head of its queue; it has issued and holds the head until
it completes (a load); or it raises a fault with its info word. -/
inductive Res where
  | ok (s : State)
  | wait (s : State)
  | later (s : State)
  | raise (s : State) (code info : Nat) (addr reason share : Nat)
  deriving Repr

/-- The port of the engine in focus, behind which its walker stands (R393). -/
def State.via (s : State) : Option (Nat × Nat) := some (s.focus.g / 16, s.focus.g % 16)

/-- The activation in focus. -/
def State.cur (s : State) : Option Act := s.act s.focus.g s.focus.k
def State.setCur (s : State) (a : Act) : State := s.setAct s.focus.g s.focus.k a
def State.modCur (s : State) (f : Act → Act) : State := s.modAct s.focus.g s.focus.k f

/-- The front end or a queue made progress. -/
def Act.progress (a : Act) : Act := { a with blocked := [], stall := none }

/-- Queues: 0 A, 1 C, 2 S (R82). -/
def Act.queue (a : Act) (q : Nat) : List QEntry :=
  match q with
  | 0 => a.qa
  | 1 => a.qc
  | _ => a.qs
def Act.setQueue (a : Act) (q : Nat) (l : List QEntry) : Act :=
  match q with
  | 0 => { a with qa := l }
  | 1 => { a with qc := l }
  | _ => { a with qs := l }

/-- The token counter of queue `q` (R93): TA, TC, TS. -/
def Act.tok (a : Act) (q : Nat) : Nat :=
  match q with
  | 0 => a.ta
  | 1 => a.tc
  | _ => a.ts
def Act.setTok (a : Act) (q v : Nat) : Act :=
  match q with
  | 0 => { a with ta := v }
  | 1 => { a with tc := v }
  | _ => { a with ts := v }
/-- The queue downstream of `q` on the ring A, C, S (R93). -/
def downOf (q : Nat) : Nat := (q + 1) % 3

/-- Each counter that the instruction pops holds at least 1 (R94). -/
def Act.canPop (a : Act) (q : Nat) (h : Hdr) : Bool :=
  (!h.popu || 1 ≤ a.tok q) && (!h.popd || 1 ≤ a.tok (downOf q))

/-- The pops of an instruction (R93). -/
def Act.pops (a : Act) (q : Nat) (h : Hdr) : Act :=
  let a := if h.popu then a.setTok q (a.tok q - 1) else a
  let a := if h.popd then a.setTok (downOf q) (a.tok (downOf q) - 1) else a
  -- a head whose token another word has taken has not begun (R97)
  if h.popu || h.popd then { a with began := a.began.filter (fun x => x.1 == q) } else a

/-- The instruction leaves its queue; the activation has made progress. -/
def Act.leave (a : Act) (q n : Nat) : Act :=
  let a := a.setQueue q (match a.queue q with
    | x :: r => if x.n = n then r else x :: r
    | [] => [])
  { a with blocked := [], stall := none, stalls := a.stalls.filter (fun x => x.1 != n), began := a.began.filter (fun x => x.1 != q) }

/-- One push (R95): false when the counter is at 15 and keeps its value. -/
def Act.push1 (a : Act) (q : Nat) (b : Bool) : Act × Bool :=
  if !b then (a, true) else if 15 ≤ a.tok q then (a, false) else (a.setTok q (a.tok q + 1), true)

/-- The pushes of an instruction, and whether none overflowed. -/
def Act.pushes (a : Act) (q : Nat) (u d : Bool) : Act × Bool :=
  let (a1, b1) := a.push1 q u
  let (a2, b2) := a1.push1 (downOf q) d
  (a2, b1 && b2)

/-- Every queue has drained, blocked or faulted, and nothing is in flight (R105). -/
def Act.stuck (a : Act) : Bool :=
  a.loads.isEmpty && a.owed.isEmpty &&
  [0, 1, 2].all (fun q =>
    match a.queue q with
    | [] => true
    | x :: _ => a.blocked.contains q || a.faults.any (fun f => f.n == x.n))

/-- A fault that is not taken at once keeps the time at which it was raised (R399). -/
def Raised.stamp (now : Nat) (f : Raised) : Raised := { f with time := some (f.time.getD now) }

/-- When the queues have come to rest, the earliest fault is taken (R105). -/
def State.settle (s : State) (g k : Nat) : State :=
  match s.act g k with
  | none => s
  | some a =>
    match earliest a.faults with
    | none => s
    | some f =>
      if a.stuck && !a.busy then s.segmentFault g k a f else s.setAct g k { a with faults := a.faults.map (Raised.stamp s.hubTime) }

/-- A fault raised by an instruction of the activation (R105): dispatch stops, and the fault is taken once the queues are at rest. -/
def State.raiseAt (s : State) (g k : Nat) (f : Raised) : State :=
  (s.modAct g k (fun a => { a with faults := a.faults ++ [f] })).settle g k

def State.raiseCur (s : State) (code info : Nat) (addr reason share : Nat) : State :=
  s.raiseAt s.focus.g s.focus.k
    { n := s.focus.n, pc := s.focus.pc, code := code, info := info, addr := addr, reason := reason, share := share }

/-- A local wait at the head of queue `q` (R91). -/
def State.noteWait (s : State) (q : Nat) : State :=
  let t := s.now s.focus.g
  (s.modCur (fun a => { a with
    blocked := if a.blocked.contains q then a.blocked else q :: a.blocked,
    stall := if a.stall.isSome then a.stall else some t,
    stalls := if a.stalls.any (fun x => x.1 == s.focus.n) then a.stalls else (s.focus.n, t) :: a.stalls })).settle
      s.focus.g s.focus.k

/-- A wait at the head of queue `q` for a token or a register (R92, R94): it is no wait that R266 counts. -/
def State.noteBlock (s : State) (q : Nat) : State :=
  let t := s.now s.focus.g
  (s.modCur (fun a => { a with
    blocked := if a.blocked.contains q then a.blocked else q :: a.blocked,
    stall := if a.stall.isSome then a.stall else some t })).settle s.focus.g s.focus.k

/-- A word of the activation `a` in slot `k` completes: it leaves its queue and its pushes are made; or a push that overflows raises
TOKEN_OVERFLOW, and the word stays at the head of its queue, which issues no more (R105). -/
def State.complete (s : State) (g k : Nat) (a : Act) (o : Owed) : State :=
  match (a.leave o.q o.n).pushes o.q o.u o.d with
  | (b, true) => (s.setAct g k b).settle g k
  | (_, false) => (s.setAct g k (a.pushes o.q o.u o.d).1).raiseAt g k { n := o.n, pc := o.pc, code := 5, info := 0 }

/-- The same, with the pushes made after every pop of the cycle in progress, where one is (R96). -/
def State.finish (s : State) (g k : Nat) (a : Act) (o : Owed) : State :=
  if s.sameCycle && (o.u || o.d) then s.setAct g k { a with owed := a.owed ++ [o] } else s.complete g k a o

/-- The instruction pops its tokens and completes (R93, R95). -/
def State.retire (s : State) (q : Nat) (h : Hdr) : State :=
  match s.cur with
  | none => s
  | some a => s.finish s.focus.g s.focus.k (a.pops q h) { q := q, n := s.focus.n, pc := s.focus.pc, u := h.pushu, d := h.pushd }

/-- The course of an instruction of queue `q` with header `h` and effect `body` (R83, R91 to R96). -/
def issue (q : Nat) (h : Hdr) (body : State → Act → Res) (s : State) : Host.Outcome State Fault Refusal :=
  match s.cur with
  | none => .fault .noActivation
  | some a =>
    if !a.canPop q h then .next (s.noteBlock q)
    else if condTrue h.guard a then
      match body s a with
      | .ok t => .next (t.retire q h)
      | .wait t => .next (t.noteWait q)
      | .later t => .next (t.modCur (fun a => (a.pops q h).progress))
      | .raise t code info addr reason share => .next (t.raiseCur code info addr reason share)
    else .next (s.retire q h)

/-- An effect on the activation alone. -/
def onAct (f : Act → Act) (s : State) (a : Act) : Res := .ok (s.setCur (f a))

/-- A fault without address (R6). -/
def Res.fail (s : State) (code info : Nat) : Res := .raise s code info 0 0 0

/-- The info word of a dynamic ILLEGAL_OPERAND (R6). -/
def infoV (opc v : Nat) : Nat := opc + v % 2 ^ 48 * 65536

/-- The entry in its place in program order (R37). -/
def insertDeferred (d : Deferred) : List Deferred → List Deferred
  | [] => [d]
  | x :: r => if d.n < x.n then d :: x :: r else x :: insertDeferred d r

/-- Defer (R6, R37): SEG_OVERFLOW when all 64 entries are in use. -/
def deferEff (eff : Effect) (uses : List Nat) (s : State) (a : Act) : Res :=
  if 64 ≤ a.deferred.length then .fail s 6 0 else
  .ok (s.setCur { a with
    deferred := insertDeferred { n := s.focus.n, pc := s.focus.pc, eff := eff, uses := uses } a.deferred,
    uses := uses ++ a.uses })

/-- The granule users of an immediate translation (R390). -/
def Act.addUses (a : Act) (u : List Nat) : Act := { a with uses := u ++ a.uses }

end Sys2Proof.Machine
end

