-- ==== Sys2Proof/Machine/Operands.lean ====
section
/-! DEFINITION. Operand forms: addresses (R187, R188), typed loads and stores (R63, R189), scratchpad accesses (R184, R187), the
generator of an activation (R44), barriers (R213 to R215). -/

namespace Sys2Proof.Machine

/-- Scratchpad bytes of an engine (R184). -/
def spadSize : Nat := 0x18000

/-- The generator state of the activation (R25). -/
def Act.gen (a : Act) : Gen := { s0 := a.s0, s1 := a.s1 }
def Act.setGen (a : Act) (g : Gen) : Act := { a with s0 := g.s0, s1 := g.s1 }

/-- The number modulo 2^64 of a sum of an unsigned and signed parts (R187). -/
def addr64 (v : Int) : Nat := (v % (2 ^ 64 : Nat)).toNat

/-- Bytes of one element in memory: Max(1, Width / 8) (R187). -/
def fmtBytes (f : Nat) : Nat := max 1 (fmtWidth f / 8)

/-- The address of LD, ST, LDG, STG and LDC (R187). -/
def memAddr (f : MForm) (a : Act) : Nat :=
  let idx : Int := if bitOf f.mode.toNat 1 then a.sg f.b.toNat * fmtBytes f.fmt.toNat else 0
  addr64 (a.ug f.a.toNat + idx + f.ofs.toInt)
/-- The address of ATOM, CINV, PREF, ATOMG, RED, LRW and SCH (R187, R347). -/
def baseAddr (f : MForm) (a : Act) : Nat := addr64 (a.ug f.a.toNat + f.ofs.toInt)
/-- The address of an S-class or A-class form Y access: base and signed offset (R187). -/
def yAddr (f : YForm) (a : Act) : Nat := addr64 (a.ug f.a.toNat + f.imm.toInt)
/-- MOD[0]: which nibble of the byte a 4-bit format names (R187). -/
def memHi (f : MForm) : Bool := bitOf f.mode.toNat 0

/-- ALIGN of an access of format `f` at `a` (R188). -/
def alignOk (f a : Nat) : Bool := fmtWidth f < 16 || a % (fmtWidth f / 8) == 0

/-- The code that an element of format `f` has in the bytes read (R54): a nibble for 4-bit formats. -/
def elemCode (f : Nat) (hi : Bool) (bs : List Byte) : Nat :=
  let v := ofLE bs
  if fmtWidth f = 4 then (if hi then v / 16 % 16 else v % 16) else v

/-- The code that a register value has in memory format `f` (R189): one rounding. -/
def storeCode (f rm : Nat) (sat : Bool) (v : Nat) : Nat :=
  let g : Gen := { s0 := 0, s1 := 0 }
  if isFloat f || f = 6 then (g.convert 0 f rm sat (v % 2 ^ 32)).1
  else if isSInt f then (g.convert 16 f rm sat v).1
  else if isNInt f then (g.convert 21 f rm sat v).1
  else
    let w := fmtWidth f / 2
    let part := fun (x : Nat) =>
      let i := signed 32 x
      wrapTo w (if sat then satI w i else i)
    part (v % 2 ^ 32) + 2 ^ w * part (v / 2 ^ 32)

/-- Bytes of a code in format `f`. -/
def codeBytes (f code : Nat) : List Byte := toLE (fmtBytes f) code

/-- The scratchpad with an element written: a 4-bit element replaces its nibble (R192). -/
def spadStore (m : Sparse Byte) (f : Nat) (hi : Bool) (a code : Nat) : Sparse Byte :=
  if fmtWidth f = 4 then m.put 0 a (setNibble (m.get 0 a) (BitVec.ofNat 8 code) hi)
  else putBytes m a (codeBytes f code)

/-- The bytes in which two scratchpads differ, with their values in the first. -/
def spadDiff (old new : Sparse Byte) : List (Nat × Byte) :=
  old.filter (fun e => new.get 0 e.1 != e.2) ++ (new.filter (fun e => old.get 0 e.1 == 0)).map (fun e => (e.1, 0))

/-- A write of one element: the bytes that hold it (a 4-bit element: its byte), and what becomes of the scratchpad. -/
structure Put where
  at_ : Nat
  len : Nat
  act : Sparse Byte → Sparse Byte

/-- A write of bytes. -/
def putOf (a : Nat) (bs : List Byte) : Put := { at_ := a, len := bs.length, act := fun m => putBytes m a bs }

/-- A write of an element of format `f` (R192). -/
def spadPut (f : Nat) (hi : Bool) (a code : Nat) : Put := { at_ := a, len := fmtBytes f, act := fun m => spadStore m f hi a code }

/-- The scratchpad with writes done one after another. -/
def putEach (m : Sparse Byte) (l : List Put) : Sparse Byte := l.foldl (fun m p => p.act m) m

/-- An access to the scratchpad that other writes may cross is going on (R186): a word that has begun to read, a copy, a matrix command. -/
def State.watched (s : State) (g : Nat) : Bool :=
  (s.eng g).slots.any (fun k => k.2.act.any (fun a => !a.began.isEmpty)) || !(s.eng g).mx.queue.isEmpty ||
    (s.unit (unitOf g)).running.any (fun r => r.eng == g) ||
    s.engines.any (fun e => e.1 / 16 == g / 16 && e.2.copies.any (fun c => e.1 == g || c.mcast))

/-- Writes noted since an access began, newest first, each with whether the access may come before it; `free` gets the count of writes
noted up to it, and its writer. -/
def Engine.crossing (E : Engine) (since : Nat) (free : Nat → SpadSrc → Bool) : List (Cell × Bool) :=
  (E.past.take (E.past.length - since)).zipIdx.map (fun e => (e.1, free (E.past.length - e.2) e.1.src))

/-- The bytes of `c` in the place of a write stand. -/
def Cell.over (c : Cell) (p : Put) (m : Sparse Byte) : Sparse Byte :=
  c.new.zipIdx.foldl (fun m e => if p.at_ ≤ c.at_ + e.2 && c.at_ + e.2 < p.at_ + p.len then m.put 0 (c.at_ + e.2) e.1 else m) m

/-- A write done before the newest writes of a list, as far as it may come before them: their bytes stand. -/
def Put.under (p : Put) (m : Sparse Byte) : List (Cell × Bool) → Sparse Byte
  | [] => p.act m
  | (c, free) :: r =>
    if free then c.over p (p.under m r)
    else if c.at_ < p.at_ + p.len && p.at_ < c.at_ + c.new.length then p.act m
    else p.under m r

/-- Choice number `k` among `n` that a free number makes. -/
def digitAt (pick n k : Nat) : Nat := pick / n ^ k % n

/-- Elements are written to the scratchpad of engine `g`, each after all but some of the newest crossing writes (R163, R219, R244), and
noted for the accesses that go on. -/
def State.putSpad (s : State) (g : Nat) (src : SpadSrc) (cross : List (Cell × Bool)) (place : Nat) (l : List Put) : State :=
  let (m, noted) := l.zipIdx.foldl (fun (st : Sparse Byte × List Cell) e =>
    let m := e.1.under st.1 (cross.take (digitAt place (cross.length + 1) e.2))
    (m, { src := src, at_ := e.1.at_, old := bytesAt st.1 e.1.at_ e.1.len, new := bytesAt m e.1.at_ e.1.len } :: st.2))
    ((s.eng g).spad, [])
  s.modEng g (fun E => { E with spad := m, past := if s.watched g then noted ++ E.past else [] })

/-- A word of the engine in focus writes elements that no write crosses. -/
def State.setSpad (s : State) (l : List Put) : State := s.putSpad s.focus.g .word [] 0 l
def State.spad (s : State) : Sparse Byte := (s.eng s.focus.g).spad

/-- The free choices of an access over several cycles (R161, R163, R186): which of its own writes and of the crossing ones each of its
reads sees, in which order its elements are done, and how its writes lie among the crossing ones. -/
structure Reads where
  pick  : Nat
  order : Nat := 0
  place : Nat := 0
  cross : List (Cell × Bool) := []
  deriving DecidableEq, Repr

/-- The scratchpad before the crossing writes for which a number has a bit set, from one with all of them. -/
def Reads.without (R : Reads) (d : Nat) (m : Sparse Byte) : Sparse Byte :=
  let first := R.cross.foldl (fun m e => putBytes m e.1.at_ e.1.old) m
  R.cross.zipIdx.foldr (fun e m => if e.1.2 && bitOf d e.2 then m else putBytes m e.1.1.at_ e.1.1.new) first

/-- The scratchpad that read number `k` sees: with the access's own writes so far or without them, and before some of the crossing
writes, each decided on its own. -/
def Reads.see (R : Reads) (before now : Sparse Byte) (k : Nat) : Sparse Byte :=
  let d := digitAt R.pick (2 ^ (1 + R.cross.length)) k
  if R.cross.isEmpty then (if d % 2 = 0 then now else before)
  else
    let m := R.without (d / 2) before
    if d % 2 = 0 then (spadDiff now before).foldl (fun m e => m.put 0 e.1 e.2) m else m

/-- The free choices of the word at the head of queue `q`: how it lies among the writes that crossed it since it began. -/
def State.reads (s : State) (a : Act) (q : Nat) : Reads × State :=
  let E := s.eng s.focus.g
  let since := ((a.began.find? (fun x => x.1 == q && x.2.1 == s.focus.n)).map (fun x => x.2.2)).getD E.past.length
  let (pick, s1) := s.draw
  let (order, s2) := s1.draw
  let (place, s3) := s2.draw
  ({ pick := pick, order := order, place := place, cross := E.crossing since (fun _ _ => true) }, s3)

/-- The members of a list in the order that a free number gives; 0 is their own. -/
def shuffle : Nat → Nat → List Nat → List Nat
  | _, 0, _ => []
  | p, k + 1, l => l.getD (p % l.length) 0 :: shuffle (p / l.length) k (dropAt l (p % l.length))

/-- Items done one after another: item `i` gets the scratchpad with the writes done so far, and gives what it writes with the generator
after it. -/
def runItems (item : Nat → Sparse Byte → Gen × List Put) : List Nat → Sparse Byte → List (Nat × Gen × List Put)
  | [], _ => []
  | i :: r, m => (i, item i m) :: runItems item r (putEach m (item i m).2)

/-- Items 0 to `n - 1` done in a free order; their writes stand in ascending order (R161). -/
def Reads.walk (R : Reads) (n : Nat) (m0 : Sparse Byte) (item : Nat → (Nat → Sparse Byte) → List Put) : List Put :=
  let done := runItems (fun i now => ({ s0 := 0, s1 := 0 }, item i (fun k => R.see m0 now (128 * i + k))))
    (shuffle R.order n (List.range n)) m0
  ((List.range n).map (fun i => ((done.find? (fun e => e.1 == i)).map (fun e => e.2.2)).getD [])).flatten

/-- The same for items that take the generator in ascending order (R159): in ascending order, or in a free order where every item draws
what it draws in that one. -/
def Reads.rows (R : Reads) (n : Nat) (m0 : Sparse Byte) (g0 : Gen) (item : Nat → Gen → Sparse Byte → Gen × List Put) : Gen × List Put :=
  let (g, _, starts, puts) := (List.range n).foldl (fun (st : Gen × Sparse Byte × List Gen × List Put) i =>
    let (g, l) := item i st.1 st.2.1
    (g, putEach st.2.1 l, st.2.2.1 ++ [st.1], st.2.2.2 ++ l)) (g0, m0, [], [])
  let starts := starts ++ [g]
  let done := runItems (fun i now => item i (starts.getD i g0) now) (shuffle R.order n (List.range n)) m0
  if done.all (fun e => some e.2.1 == starts[e.1 + 1]?) then
    (g, ((List.range n).map (fun i => ((done.find? (fun e => e.1 == i)).map (fun e => e.2.2)).getD [])).flatten)
  else (g, puts)

/-- The bytes of a CE4M3 block at `a`, of whose 64 elements each is read on its own (R161, R163): as they stand where every read sees the
same, else the block of the elements seen. -/
def blockSeen (src : Nat → Sparse Byte) (a : Nat) : List Byte :=
  let l := (List.range 64).map (fun i => bytesAt (src i) a 128)
  let one := l.headD []
  if l.all (fun x => x == one) then one else ceEncode (l.zipIdx.map (fun e => (ceDecode e.1).getD e.2 0))

/-! ### Barriers -/

def Engine.bar (E : Engine) (b : Nat) : Bar := E.bars.get {} b
def Engine.setBar (E : Engine) (b : Nat) (x : Bar) : Engine := { E with bars := E.bars.set b x }

/-- BarUpdate (R214). -/
def Bar.update (x : Bar) (darr : Nat) (dpend : Int) : Bar :=
  if x.overrun then x
  else if x.expect < x.arr + darr || x.pend + dpend < -(2 ^ 39) || 2 ^ 39 - 1 < x.pend + dpend then { x with overrun := true }
  else
    let y := { x with arr := x.arr + darr, pend := x.pend + dpend }
    if y.arr = y.expect then
      if y.pend = 0 then { y with phase := (y.phase + 1) % 2 ^ 32, arr := 0 }
      else if y.pend < 0 then { y with overrun := true } else y
    else y

/-- The update joins those of the cycle in progress. -/
def Bar.join (x : Bar) (darr : Nat) (dpend : Int) : Bar :=
  let (a, p) := x.due.getD (0, 0)
  { x with due := some (a + darr, p + dpend) }

/-- The summed updates of a cycle are applied together and checked once. -/
def Bar.settle (x : Bar) : Bar :=
  match x.due with
  | none => x
  | some (a, p) => { x with due := none }.update a p

/-- An update reaches barrier `b` of engine `g` (R214). -/
def State.barUpdate (s : State) (g b darr : Nat) (dpend : Int) : State :=
  s.modEng g (fun E => E.setBar b (if s.sameCycle then (E.bar b).join darr dpend else (E.bar b).update darr dpend))

def settleBars (l : Sparse Bar) : Sparse Bar := l.foldl (fun m e => m.set e.1 e.2.settle) l

/-- The words of slot `k` that took effect in the cycle complete, in the order in which they issued. -/
def State.payAll (s : State) (g k : Nat) : List Owed → State
  | [] => s
  | o :: r =>
    match s.act g k with
    | none => s
    | some a => (s.complete g k a o).payAll g k r

/-- What the words of every activation owe at the end of the cycle (R96). -/
def State.payOwed (s : State) : State :=
  s.engines.foldl (fun t e => e.2.slots.foldl (fun t k => match k.2.act with
    | none => t
    | some a => (t.modAct e.1 k.1 (fun a => { a with owed := [] })).payAll e.1 k.1 a.owed) t) s

/-- The cycle in progress ends: what reached each barrier in it is applied, and the pushes of its words are made (R96, R214). -/
def State.endCycle (s : State) : State :=
  if s.sameCycle then
    ({ s with
      sameCycle := false
      arrivals := []
      hub := { s.hub with featWas := none }
      engines := s.engines.map (fun e => (e.1, { e.2 with
        bars := settleBars e.2.bars })) } : State).payOwed
  else s

end Sys2Proof.Machine
end

