-- ==== Sys2Proof/Machine/EngineMem.lean ====
section
/-! DEFINITION. Scalar accesses of a tile engine (R187 to R197): scratchpad, global and constant loads and stores, cache invalidation,
prefetch, atomics on scratchpad; and the words that reserve and observe copies (R203 to R205, R212). -/

namespace Sys2Proof.Machine

open Host (Outcome)

/-- A fault of an access to a global address (R191, R220): the address is the info word. -/
def Res.xlate (s : State) (va : Nat) (x : XFault) : Res := .raise s x.code (if x.code = 15 then x.info else va) va x.reason x.share

/-- The scratchpad access of `n` bytes at `a`: ALIGN, then SCRATCH_BOUNDS (R187, R188), with the address as info word (R220). -/
def checkSpad (s : State) (a n align : Nat) (k : Res) : Res :=
  if a % align ≠ 0 then .fail s 10 a else if spadSize < a + n then .fail s 11 a else k

/-- Alignment of a scalar format: widths of 16 bits and more (R188). -/
def fmtAlign (f : Nat) : Nat := if fmtWidth f < 16 then 1 else fmtWidth f / 8

/-- LD (R190, R191): the element is read whole, before or after each write that crossed the word (R186). -/
def execLd (h : Hdr) (f : MForm) (s : State) : Outcome State Fault Refusal :=
  issue 0 h (fun s a =>
    let ad := memAddr f a
    let m := f.fmt.toNat
    checkSpad s ad (fmtBytes m) (fmtAlign m)
      (let (R, t) := s.reads a 0
       .ok (t.setCur (a.wn f.d.toNat (toRegister m (elemCode m (memHi f) (bytesAt (R.see s.spad s.spad 0) ad (fmtBytes m)))))))) s

/-- ST (R190, R192). -/
def execSt (h : Hdr) (f : MForm) (o : Cvt) (s : State) : Outcome State Fault Refusal :=
  issue 0 h (fun s a =>
    let ad := memAddr f a
    let m := f.fmt.toNat
    checkSpad s ad (fmtBytes m) (fmtAlign m)
      (.ok (s.setSpad [spadPut m (memHi f) ad (storeCode m o.rm.toNat o.sat (a.ug f.d.toNat))]))) s

/-- A global load issues (R191): checks, translation, and the load is in flight at the head of queue A until LOAD_RETURN. -/
def startLoad (h : Hdr) (f : MForm) (const : Bool) (s : State) : Outcome State Fault Refusal :=
  issue 0 h (fun s a =>
    let va := memAddr f a
    let m := f.fmt.toNat
    if !alignOk m va then .raise s 10 va va 0 0 else
    match s.translate a.ctx .r va (fmtBytes m) s.via with
    | (.bad x, t) => .xlate t va x
    | (.ok tg u, t) =>
      let E := t.eng t.focus.g
      let cached := if const then (E.ccache.find (va / 128)).isSome else match tg with
        | .dpa p _ => E.dcache.contains (p / 128)
        | .remote _ _ => false
      let (ticket, t) := if cached then (0, t) else t.shapeMem t.focus.g a.ctx (if const then 128 else fmtBytes m)
      .later (t.setCur { a with
        uses := u ++ a.uses,
        loads := a.loads ++ [{ pc := s.focus.pc, n := s.focus.n, reg := f.d.toNat, fmt := m, hi := memHi f, va := va, tgt := tg,
                               const := const, policy := if const then 0 else fieldOf f.mode.toNat 3 2,
                               pushu := h.pushu, pushd := h.pushd, alloc := !const && !bitOf f.mode.toNat 4,
                               since := t.hubTime, ticket := ticket }] })) s

/-- LDG (R190, R191). -/
def execLdg (h : Hdr) (f : MForm) (s : State) : Outcome State Fault Refusal := startLoad h f false s

/-- LDC (R190, R191, R194). -/
def execLdc (h : Hdr) (f : MForm) (s : State) : Outcome State Fault Refusal := startLoad h f true s

/-- STG (R190, R192): the register is converted, and the address translated, at issue (R36). -/
def execStg (h : Hdr) (f : MForm) (o : Cvt) (s : State) : Outcome State Fault Refusal :=
  issue 0 h (fun s a =>
    let va := memAddr f a
    let m := f.fmt.toNat
    if !alignOk m va then .raise s 10 va va 0 0 else
    match s.translate a.ctx .w va (fmtBytes m) s.via with
    | (.bad x, t) => .xlate t va x
    | (.ok tg u, t) =>
      deferEff (.store tg va (codeBytes m (storeCode m o.rm.toNat o.sat (a.ug f.d.toNat)))
        (if fmtWidth m = 4 then some (memHi f) else none) (!bitOf f.mode.toNat 4)) u t a) s

/-- CINV of one line (R194). -/
def execCinvLine (h : Hdr) (f : MForm) (s : State) : Outcome State Fault Refusal :=
  issue 0 h (fun s a => .ok (s.modEng s.focus.g (fun E => { E with ccache := E.ccache.del (baseAddr f a / 128) }))) s

/-- CINV.ALL (R194). -/
def execCinvAll (h : Hdr) (_f : MForm) (s : State) : Outcome State Fault Refusal :=
  issue 0 h (fun s _ => .ok (s.modEng s.focus.g (fun E => { E with ccache := [] }))) s

/-- CINV.I (R195); with MOD[0] set as well, the constant cache is invalidated too (R194). -/
def execCinvI (h : Hdr) (f : MForm) (s : State) : Outcome State Fault Refusal :=
  issue 0 h (fun s _ => .ok (s.modEng s.focus.g (fun E =>
    { E with icache := [], ccache := if bitOf f.mode.toNat 0 then [] else E.ccache }))) s

/-- The new word of an atomic operation (R196): `w` bits, old value, operand and compare value. -/
def atomNew (op w old b cmp : Nat) : Nat :=
  match op with
  | 0 => (old + b) % 2 ^ w
  | 1 => if signed w old ≤ signed w b then old else b
  | 2 => if signed w old ≥ signed w b then old else b
  | 3 => min old b
  | 4 => max old b
  | 5 => old &&& b
  | 6 => old ||| b
  | 7 => old ^^^ b
  | 8 => b
  | 9 => if old = cmp then b else old
  | _ => floatCode 0 (roundTo 0 0 false 0 ((floatVal 0 old).add false (floatVal 0 b)))

/-- The old word of an atomic as a register value (R196). -/
def atomReg (f old : Nat) : Nat := if isSInt f then wrapTo 64 (signed (fmtWidth f) old) else old

/-- ATOM (R196). -/
def execAtom (h : Hdr) (f : MForm) (s : State) : Outcome State Fault Refusal :=
  issue 0 h (fun s a =>
    let ad := baseAddr f a
    let m := f.fmt.toNat
    let w := fmtWidth m
    checkSpad s ad (w / 8) (w / 8)
      (let old := ofLE (bytesAt s.spad ad (w / 8))
       let v := atomNew (f.mode.toNat % 16) w old (a.ug f.b.toNat % 2 ^ w) (a.ug f.d.toNat % 2 ^ w)
       let t := s.setSpad [putOf ad (toLE (w / 8) v)]
       .ok (t.setCur (a.wn f.d.toNat (atomReg m old))))) s

/-- A list of line numbers with room for `x` where sets of `ways` share what is equal modulo `sets`: in a full set line number `d` gives
way (R184). -/
def lineIn (d sets ways x : Nat) (l : List Nat) : List Nat :=
  let m := l.filter (fun y => y % sets == x % sets)
  if l.contains x then l else if m.length < ways then x :: l else x :: l.filter (fun y => y != m.getD (d % ways) 0)

/-- A granule comes to the data cache of an engine (R184, R193): which line of a full set it replaces is the device's choice. -/
def State.cacheData (s : State) (g gr : Nat) : State :=
  let (d, t) := s.draw
  t.modEng g (fun E => { E with dcache := lineIn d 16 4 gr E.dcache })

/-- A granule comes to the cluster cache, of 4,096 lines (R15): which line of a full cache it replaces is the device's choice, and so is
which lines share a set (DESIGN CHOICE, log 80). -/
def State.cacheCluster (s : State) (cl gr : Nat) : State :=
  let (d, t) := s.draw
  t.modCluster cl (fun x => { x with l2 := lineIn d 1 4096 gr x.l2 })

/-- A line is fetched as the implicit tile that it is (R193, R332), if no recall has to wait: the device may leave the fetch out. -/
def State.fetchLine (s : State) (g ctx gr : Nat) (k : State → State) : State :=
  match s.recall (g / 16) ctx (128 * gr) 128 false false with
  | none => s
  | some t => k t

/-- PREF (R197): the granule comes to the data cache or the cluster cache; a failed translation does nothing. -/
def execPref (h : Hdr) (f : MForm) (s : State) : Outcome State Fault Refusal :=
  issue 0 h (fun s a =>
    match s.translate a.ctx .r (baseAddr f a) 1 s.via with
    | (.ok (.dpa p _) u, t) =>
      let t := t.setCur (a.addUses u)
      .ok (t.fetchLine s.focus.g a.ctx (p / 128) (fun t =>
        if bitOf f.mode.toNat 0 then t.cacheCluster (s.focus.g / 16) (p / 128) else t.cacheData s.focus.g (p / 128)))
    | (_, t) => .ok t) s

/-- Copies that an activation has deferred and not performed (R203). -/
def Act.copies (a : Act) : Nat :=
  (a.deferred.filter (fun d => match d.eff with
    | .copy _ _ _ => true
    | _ => false)).length

/-- Copy slots reserved on an engine (R203, R212). -/
def Engine.copySlots (E : Engine) : Nat :=
  E.copies.length + (E.slots.map (fun e => match e.2.act with
    | some a => a.copies
    | none => 0)).sum

/-- CPY and CPYM at issue (R205). -/
def startCopy (mcast : Bool) (h : Hdr) (f : YForm) (s : State) : Outcome State Fault Refusal :=
  issue 0 h (fun s a =>
    let ad := yAddr f a
    checkSpad s ad 128 128
      (if 32 ≤ (s.eng s.focus.g).copySlots then .wait s else deferEff (.copy ad f.obj.toNat mcast) [] s a)) s

/-- CPY (R204, R205). -/
def execCpy (h : Hdr) (f : YForm) (s : State) : Outcome State Fault Refusal := startCopy false h f s

/-- CPYM (R204, R205, R208). -/
def execCpym (h : Hdr) (f : YForm) (s : State) : Outcome State Fault Refusal := startCopy true h f s

/-- The copy status word (R212). -/
def Engine.copyStatus (E : Engine) : Nat :=
  E.copySlots + (E.copies.filter (fun c => c.pages.any (fun p => p.held))).length * 2 ^ 8 + E.copyNext % 2 ^ 11 * 2 ^ 16

/-- CPYQ (R204, R212). -/
def execCpyq (h : Hdr) (f : YForm) (s : State) : Outcome State Fault Refusal :=
  issue 0 h (onAct (fun a => a.wn f.d.toNat (s.eng s.focus.g).copyStatus)) s

end Sys2Proof.Machine
end

