-- ==== Sys2Proof/Machine/Views.lean ====
section
/-! DEFINITION. Views: the versions of a block, their recomputation and publication (R412 to R414, R418), the reads under a policy
and the pins (R415, R416, R420). -/

namespace Sys2Proof.Machine

open Host (Outcome)

/-! ### Versions -/

/-- The tag word of a block (R414). -/
def VBlock.word (x : VBlock) : Nat :=
  x.tag + bit x.faulted * 2 ^ 32 + bit x.noVersion * 2 ^ 33 + x.cur * 2 ^ 34 + x.cause * 2 ^ 35

/-- Writes the tag word of block `b` into the tag table (R414). -/
def State.putTag (s : State) (i b : Nat) : State :=
  match s.views[i]? with
  | none => s
  | some v => s.wr (v.alt + 8 * b) 8 (v.block b).word

/-- A view block changes, and its tag word with it. -/
def State.setBlock (s : State) (i b : Nat) (f : VBlock → VBlock) : State := (s.modBlock i b f).putTag i b

/-- Whether a copy still has sectors to issue (R199, R207): the number of its elements, or of its blocks of 64 with a CE4M3 side. -/
def Copy.rank (c : Copy) : Nat := fieldOf (ofLE ((c.desc.drop 16).take 8)) 20 17 + 1
def Copy.ext (c : Copy) (j : Nat) : Nat :=
  if j = 0 then ofLE ((c.desc.drop 24).take 4) else if j < c.rank then ofLE ((c.desc.drop (32 + 12 * (j - 1))).take 2) else 1
def Copy.conv (c : Copy) : Bool := bitOf (ofLE ((c.desc.drop 16).take 8)) 2
def Copy.fsrc (c : Copy) : Nat := if c.conv then fieldOf (ofLE ((c.desc.drop 16).take 8)) 7 3 else 18
def Copy.fdst (c : Copy) : Nat := if c.conv then fieldOf (ofLE ((c.desc.drop 16).take 8)) 12 8 else 18
def Copy.blocked (c : Copy) : Bool := c.fsrc = 10 || c.fdst = 10
def Copy.ext0 (c : Copy) : Nat := if c.blocked then c.ext 0 / 64 else c.ext 0
def Copy.total (c : Copy) : Nat := ((List.range 8).map (fun j => c.ext (j + 1))).foldl (· * ·) c.ext0
def Copy.issuing (c : Copy) : Bool := c.next < c.total

/-- A copy pin names this version (R412, R415); it lasts while a copy of its COMMIT has sectors to issue. -/
def State.pinned (s : State) (uid b buf : Nat) : Bool :=
  s.engines.any (fun e => e.2.copies.any (fun c =>
    c.pins.any (fun p => p.view == uid && p.block == b && p.buf == buf) &&
      e.2.copies.any (fun d => d.commit == c.commit && d.issuing)))

/-- The values of a group of the master, or the failure of its read (R404, R412, R413). -/
def State.readGroup (s : State) (v : View) (r c : Nat) : Except (XFault × Nat) (List Val) × State :=
  let o := v.element r c
  match s.translate0 v.ctx .r o with
  | (.bad x, t) => (.error (x, o), t)
  | (.ok (.dpa a key) _, t) =>
    let (bs, t') := t.readKeyed a (32 * v.mw) key
    (.ok ((List.range 32).map (fun k => floatVal v.mfmt (ofLE ((bs.drop (k * v.mw)).take v.mw)))), t')
  | (.ok (.remote _ _) _, t) => (.error ({ code := 7 }, o), t)

/-- Codes packed as bytes: nibbles for width 4 (R54). -/
def packCodes (w : Nat) : List Nat → List Byte
  | [] => []
  | [a] => toLE (max 1 (w / 8)) a
  | a :: b :: r => if w = 4 then BitVec.ofNat 8 (a % 16 + b % 16 * 16) :: packCodes w r
                   else toLE (w / 8) a ++ packCodes w (b :: r)

/-- Writes bytes of block `b` into a buffer from a place on. -/
def State.putView (s : State) (v : View) (b ofs buf : Nat) (bs : List Byte) : State :=
  let (a, key) := v.bufDpa b ofs buf
  s.writeKeyed a key bs

/-- Writes one value of a transposed block: element (r, c) of the master (R407). -/
def State.putCell (s : State) (v : View) (b buf rr cc code : Nat) : State :=
  let w := fmtWidth v.vfmt
  let ofs := cc * v.rowBytes + rr * w / 8
  if w = 4 then
    let (a, key) := v.bufDpa b ofs buf
    let (old, s') := s.readKeyed a 1 key
    s'.writeKeyed a key [setNibble (old.headD 0) (BitVec.ofNat 8 code) (rr % 2 == 1)]
  else s.putView v b ofs buf (toLE (w / 8) code)

/-- The code of a value of the master in format `f` (R67, R69): into a wider or equal format it is exact, whatever SAT says. -/
def View.code (v : View) (f : Nat) (x : Val) : Nat := floatCode f (roundTo f v.rm (v.sat && !exactFloat v.mfmt f) 0 x)

/-- Writes the values of one group of row `rr` of the block, from column `cc` on (R407, R412). -/
def State.putGroup (s : State) (v : View) (b buf rr cc : Nat) (xs : List Val) : State :=
  let g : Gen := { s0 := 0, s1 := 0 }
  match v.kind with
  | 0 =>
    let (sc, es, _) := mxQuant v.vfmt v.rm g xs
    let w := fmtWidth v.vfmt
    (s.putView v b (scaleOfs + 2 * rr + cc / 32) buf [BitVec.ofNat 8 sc]).putView v b (rr * v.rowBytes + cc * w / 8) buf
      (packCodes w es)
  | 2 => xs.zipIdx.foldl (fun t e => t.putCell v b buf rr (cc + e.2) (v.code v.vfmt e.1)) s
  | _ => s

/-- Recomputes the rows of a block from row `rr` on (R412): both groups of a row, ascending; a coded row is written after its second
group. Kind 3 writes on the peer (R418). -/
def State.computeRows (s : State) (v : View) (b buf : Nat) : Nat → Nat → Except (XFault × Nat) Unit × State
  | 0, _ => (.ok (), s)
  | fuel + 1, rr =>
    let r := 32 * (b / v.ncb) + rr
    let c := 64 * (b % v.ncb)
    match s.readGroup v r c with
    | (.error e, t) => (.error e, t)
    | (.ok xs, t) =>
      let t1 := t.putGroup v b buf rr 0 xs
      match t1.readGroup v r (c + 32) with
      | (.error e, t2) => (.error e, t2)
      | (.ok ys, t2) =>
        let t3 := t2.putGroup v b buf rr 32 ys
        let t4 := if v.kind = 1 then
            t3.putView v b (rr * 128) buf
              (ceEncode ((xs ++ ys).map (v.code 3)))
          else t3
        t4.computeRows v b buf fuel (rr + 1)

/-- The info word of VIEW_FAULT (R420). -/
def viewInfo (num b cause code : Nat) : Nat := num + b * 2 ^ 10 + cause * 2 ^ 40 + code * 2 ^ 48

/-- The non-current buffer of a block. -/
def VBlock.other (x : VBlock) : Nat := if x.noVersion then x.cur else 1 - x.cur

/-- The rows of a block of a SHARD view from row `rr` on: the peer address and the bytes of each (R407). -/
def State.shardRows (s : State) (v : View) (b : Nat) : Nat → Nat → Except (XFault × Nat) (List (Nat × List Byte)) × State
  | 0, _ => (.ok [], s)
  | fuel + 1, rr =>
    let r := 32 * (b / v.ncb) + rr
    let c := 64 * (b % v.ncb)
    match s.readGroup v r c with
    | (.error e, t) => (.error e, t)
    | (.ok xs, t) =>
      match t.readGroup v r (c + 32) with
      | (.error e, t) => (.error e, t)
      | (.ok ys, t) =>
        match t.shardRows v b fuel (rr + 1) with
        | (.error e, t) => (.error e, t)
        | (.ok rows, t) =>
          let w := fmtWidth v.vfmt
          (.ok ((v.vbase + r * v.vstride + c * w / 8,
            packCodes w ((xs ++ ys).map (v.code v.vfmt))) :: rows), t)

/-- The device's own checks of a write of a SHARD view, through the window table of the context and on its route (R413, R418): the code of
the first that fails. The slice sends from the agent port of cluster 0, and an address that is no peer's is refused as PERM (DESIGN CHOICE,
log 85). -/
def State.sendShard (s : State) (v : View) (x : Nat × List Byte) : Except (Nat × State) State :=
  match s.translate v.ctx .w (x.1 % 2 ^ 64) x.2.length with
  | (.bad e, t) => .error (e.code, t)
  | (.ok (.dpa _ _) _, t) => .error (8, t)
  | (.ok (.remote w o) _, t) =>
    match t.routeFault v.ctx 0 20 (.remote w o) with
    | some info => .error (15, t.hopFault info)
    | none => .ok { t with peerWrites := t.peerWrites ++ [{ ctx := v.ctx, w := w, off := o, bytes := x.2 }] }

/-- The writes of a publication in their order (R418), each after the one before it is complete: what has been written when one fails
stands. The peer refuses the write numbered `refused` with a code. -/
def State.sendShards (s : State) (v : View) (refused : Option (Nat × Nat)) : List (Nat × List Byte) → Option Nat × State
  | [] => (none, s)
  | x :: r =>
    match refused with
    | some (0, code) => (some code, s)
    | _ =>
      match s.sendShard v x with
      | .error (e, t) => (some e, t)
      | .ok t => t.sendShards v (refused.map (fun p => (p.1 - 1, p.2))) r

/-- The three writes of a publication of a SHARD block with generation `g` (R418): the tag word with BUSY, the elements, the tag word. The
peer may refuse any of them, which is the peer's choice: those before it stand, BUSY among them. -/
def State.shard (s : State) (v : View) (b g : Nat) : Except (XFault × Nat) Unit × State :=
  let o := v.element (32 * (b / v.ncb)) (64 * (b % v.ncb))
  match s.shardRows v b 32 0 with
  | (.error e, t) => (.error e, t)
  | (.ok rows, t) =>
    let tag := v.sbase + 8 * b
    let writes := (tag, toLE 8 (g + 2 ^ 32)) :: rows ++ [(tag, toLE 8 g)]
    let (d, t) := t.draw
    let code := remoteCode (d % 32)
    match t.sendShards v (if code = 0 then none else some (d / 32 % writes.length, code)) writes with
    | (some code, u) => (.error ({ code := code }, o), u)
    | (none, u) => (.ok (), u)

/-- A recomputation of block `b` of the view at position `i` (R412, R413): the version is written and waits for its publication, or the
block is FAULTED and a record written. -/
def State.recompute (s : State) (i b : Nat) : State :=
  match s.views[i]? with
  | none => s
  | some v =>
    let g := (v.block b).gen
    let buf := (v.block b).other
    let s1 := s.modBlock i b (fun x => { x with ret := none, pending := false })
    match (if v.kind = 3 then s1.shard v b g else s1.computeRows v b buf 32 0) with
    | (.error (x, o), t) =>
      (t.setBlock i b (fun y => { y with faulted := true, cause := x.code, running := none })).append v.ctx
        { code := 17, src := 4, info := viewInfo v.num b 4 x.code, addr := o, reason := x.reason, share := x.share }
    | (.ok (), t) => t.modBlock i b (fun y => { y with running := some g })

/-- The switch of CURRENT to the version written (R412), which clears FAULTED (R413) and leaves CAUSE (R414); a SHARD block has no second buffer (R418). -/
def State.publish (s : State) (i b : Nat) : State :=
  let shard := (s.views[i]?).any (fun v => v.kind == 3)
  s.setBlock i b (fun x =>
    match x.running with
    | none => x
    | some g => { x with
        cur := if shard then 0 else x.other, tag := g, ret := if shard || x.noVersion then none else some x.tag,
        noVersion := false, faulted := false, running := none, pending := x.pending || !reached g x.gen })

/-- The recomputation must wait: a copy pin names the RETAINED version (R412). -/
def State.pinBlocks (s : State) (v : View) (b : Nat) : Bool :=
  (v.block b).ret.isSome && s.pinned v.uid b (v.block b).other

/-- VIEW_RECOMPUTE (R412): one recomputation of a block for which one is wanted; none runs in a context that is being torn down. -/
def execViewRecompute (v b : Nat) (s : State) : Outcome State Fault Refusal :=
  match s.views[v]? with
  | none => .next s
  | some x =>
    if (x.block b).pending && (x.block b).running.isNone && !s.pinBlocks x b && (s.ctx x.ctx).exists then
      .next (s.recompute v b)
    else .next s

/-- VIEW_PUBLISH (R412): the switch, one step. -/
def execViewPublish (v b : Nat) (s : State) : Outcome State Fault Refusal :=
  match s.views[v]? with
  | none => .next s
  | some x => if (x.block b).running.isSome && (s.ctx x.ctx).exists then .next (s.publish v b) else .next s

/-! ### Reads (R415, R416) -/

/-- What the slice answers to a view read: the version's buffer and tag; it must wait; or a VIEW_FAULT with its cause. -/
inductive Served where
  | version (buf tag : Nat)
  | wait
  | fault (cause : Nat)
  deriving DecidableEq, Repr

/-- The granules of a master block (R404). -/
def View.masterGrans (v : View) (b : Nat) : List Nat :=
  ((List.range 32).map (fun r =>
    (List.range (64 * v.mw / 128)).filterMap (fun k =>
      (v.dpaOf (v.element (32 * (b / v.ncb) + r) (64 * (b % v.ncb)) + 128 * k)).map (fun x => x.1 / 128)))).flatten

/-- Recalls every write tenure over a master block, the reader's and a bridge's included (R416). Nothing while one still has effects on
their way, or while a write that happens before the read is (R380). -/
def State.recallMaster (s : State) (o : Seer) : List Nat → Option State
  | [] => some s
  | gr :: r =>
    let hit := fun (t : Tenure) => t.st.isWrite && t.covers gr
    if (s.bridgeOf gr).isSome || s.tenures.any (fun t => hit t && s.owes t (gr / 512) none) ||
        s.inflight.any (fun f => f.seen o && f.tgt.meets f.op.size (128 * gr) 128) then none
    else if s.tenures.any hit then
      ((s.recallFrom (gr / 512) (s.tenures.map (fun t => (hit t, t)))).coverRecall (gr / 512) (s.tenures.filter hit)).recallMaster o r
    else s.recallMaster o r

/-- The current version of a block. -/
def VBlock.current (x : VBlock) : Served := .version x.cur x.tag

/-- A view read of block `b` under a policy (0 FRESH, 1 STALE_OK, 2 FAULT): the table of R416. -/
def State.serve (s : State) (o : Seer) (i b policy : Nat) : Served × State :=
  match s.views[i]? with
  | none => (.fault 1, s)
  | some v =>
    if policy = 1 then
      (if (v.block b).noVersion then .fault 1 else (v.block b).current, s)
    else
      match s.recallMaster o (v.masterGrans b) with
      | none => (.wait, s)
      | some t =>
        let x := ((t.views[i]?).getD v).block b
        let cause := if x.noVersion then 1 else 0
        if x.faulted || x.noVersion then
          if policy = 2 then (.fault cause, t)
          else if x.running.isSome || t.pinBlocks v b then (.wait, t)
          else
            let t1 := (t.recompute i b).publish i b
            let y := ((t1.views[i]?).getD v).block b
            (if y.faulted then .fault cause else y.current, t1)
        else if x.tag = x.gen then (x.current, t)
        else if policy = 2 then (.fault 2, t) else (.wait, t)

/-- The pinned version still stands: it is CURRENT or the intact RETAINED one (R415). -/
def State.intact (s : State) (p : Pin) : Bool :=
  s.views.any (fun v => v.uid == p.view &&
    (let x := v.block p.block
     !x.noVersion && ((x.cur == p.buf && x.tag == p.tag) || (x.cur != p.buf && x.ret == some p.tag))))

/-- The result of the view part of a read: the bytes' versions are pinned; the read waits; a pinned version is gone; or a fault. -/
inductive ViewRes where
  | ok (pins : List Pin)
  | wait
  | gone
  | fault (info : Nat)
  deriving DecidableEq, Repr

/-- The view blocks that a run of bytes touches, each once. -/
def State.viewBlocks (s : State) (a n : Nat) : List (Nat × Nat) :=
  ((List.range n).filterMap (fun i => (s.viewByte (a + i)).map (fun l => (l.1, l.2.1)))).eraseDups

/-- Serves the blocks of a read, each from its pin or under the policy, and adds the pins (R415, R416). -/
def State.serveAll (s : State) (o : Seer) (policy : Nat) : List (Nat × Nat) → List Pin → ViewRes × State
  | [], pins => (.ok pins, s)
  | (i, b) :: r, pins =>
    let num := ((s.views[i]?).map (fun v => v.num)).getD 0
    let uid := ((s.views[i]?).map View.uid).getD 0
    match pins.find? (fun p => p.view == uid && p.block == b) with
    | some p => if s.intact p then s.serveAll o policy r pins else (.gone, s)
    | none =>
      match s.serve o i b policy with
      | (.version buf tag, t) => t.serveAll o policy r ({ view := uid, block := b, buf := buf, tag := tag } :: pins)
      | (.wait, t) => (.wait, t)
      | (.fault c, t) => (.fault (viewInfo num b c 0), t)

/-- A byte of a view in its pinned version (R412): in the view area, or in the alternate buffer. -/
def State.versionByte (s : State) (pins : List Pin) (a : Nat) (plain : Byte) : Byte :=
  match s.viewByte a with
  | none => plain
  | some (i, b, ofs) =>
    match s.views[i]? with
    | none => plain
    | some v =>
      match pins.find? (fun p => p.view == v.uid && p.block == b) with
      | some p => if p.buf = 0 then plain else Sparse.get 0 s.mem (v.bufDpa b ofs 1).1
      | none => plain

/-- The bytes of one version of each view block that they lie in. -/
def State.versionBytes (s : State) (pins : List Pin) (a n key : Nat) : List Byte × State :=
  let (bs, t) := s.readKeyed a n key
  (bs.zipIdx.map (fun e => t.versionByte pins (a + e.2) e.1), t)

/-- A read at the home by an LRW, an atomic or a peer: it is a view read where view bytes lie (R415), and the specification gives it no
policy: FRESH, and where no version can be served the bytes as they stand (DESIGN CHOICE, log 103). The state alone, while it waits. -/
def State.readFresh (s : State) (o : Seer) (a n key : Nat) : Except State (List Byte × State) :=
  match s.serveAll o 0 (s.viewBlocks a n) [] with
  | (.ok pins, t) => .ok (t.versionBytes pins a n key)
  | (.fault _, t) => .ok (t.readKeyed a n key)
  | (_, t) => .error t

end Sys2Proof.Machine
end

