-- ==== Sys2Proof/Machine/Atomics.lean ====
section
/-! DEFINITION. Atomics at memory (R346 to R348) and queued reservations (R349 to R351): ATOMG, RED, SCH at issue, and what the
homes do. -/

namespace Sys2Proof.Machine

open Host (Outcome)

/-- The checks that ATOMG, RED, SCH share, in order (R348): alignment, the window, translation for RW. -/
def atomicAt (opc : Nat) (needs0 : Bool) (f : MForm) (s : State) (a : Act) (k : Nat → Target → List Nat → State → Res) : Res :=
  let va := baseAddr f a
  if va % (fmtWidth f.fmt.toNat / 8) ≠ 0 then .raise s 10 va va 0 0
  else if needs0 && va / 2 ^ 48 ≠ 0 then .fail s 3 (infoV opc va)
  else
    match s.translate a.ctx .rw va (fmtWidth f.fmt.toNat / 8) s.via with
    | (.bad x, t) => .xlate t va x
    | (.ok tg u, t) => k va tg u t

/-- The deferred atomic with its captured operands (R348). -/
def atomicEff (f : MForm) (a : Act) (va : Nat) (tg : Target) (ret : Option (Nat × Nat)) : Effect :=
  let w := fmtWidth f.fmt.toNat
  .atomic tg va (f.mode.toNat % 16) f.fmt.toNat (a.ug f.d.toNat % 2 ^ w)
    (if f.mode.toNat % 16 = 9 then a.ug (f.d.toNat + 1) % 2 ^ w else 0) (bitOf f.mode.toNat 4) ret

/-- ATOMG (R347, R348). -/
def execAtomg (h : Hdr) (f : MForm) (s : State) : Outcome State Fault Refusal :=
  issue 0 h (fun s a =>
    let va := baseAddr f a
    let n := fmtWidth f.fmt.toNat / 8
    let d := a.ug f.b.toNat
    let r := d % 2 ^ 17
    let bar := fieldOf d 23 17
    if va % n ≠ 0 then .raise s 10 va va 0 0
    else if bitOf f.mode.toNat 4 && va / 2 ^ 48 ≠ 0 then .fail s 3 (infoV 0x10 va)
    else if f.mode.toNat % 16 = 9 && f.d = 63 then .fail s 3 (infoV 0x10 63)
    else
      atomicAt 0x10 false f s a (fun va tg u t =>
        if bar = 127 then deferEff (atomicEff f a va tg none) u t a
        else if 95 < bar then .fail t 3 (infoV 0x10 d)
        else if r % n ≠ 0 then .fail t 10 r
        else if spadSize < r + n then .fail t 11 r
        else deferEff (atomicEff f a va tg (some (r, bar))) u t a)) s

/-- RED (R347, R348). -/
def execRed (h : Hdr) (f : MForm) (s : State) : Outcome State Fault Refusal :=
  issue 0 h (fun s a =>
    atomicAt 0x11 (bitOf f.mode.toNat 4) f s a (fun va tg u t => deferEff (atomicEff f a va tg none) u t a)) s

/-- SCH at issue (R350): in window 0 only (R476). -/
def startSch (rel : Bool) (h : Hdr) (f : MForm) (s : State) : Outcome State Fault Refusal :=
  issue 0 h (fun s a =>
    atomicAt 0x13 true f s a (fun va tg u t =>
      deferEff (.sch tg va f.fmt.toNat (if rel then 0 else a.ug f.d.toNat % 2 ^ fmtWidth f.fmt.toNat) (a.ug f.b.toNat % 2 ^ 32) rel)
        u t a)) s

/-- SCH (R350). -/
def execSch (h : Hdr) (f : MForm) (s : State) : Outcome State Fault Refusal := startSch false h f s

/-- SCH.REL (R350). -/
def execSchRel (h : Hdr) (f : MForm) (s : State) : Outcome State Fault Refusal := startSch true h f s

/-! ### At the point of atomicity -/

/-- The old value of an atomic sets out for its engine (R348). -/
def State.sendReturn (s : State) (f : InFlight) (old w : Nat) (ret : Option (Nat × Nat)) : State :=
  match ret with
  | some (r, bar) => { s with returns := s.returns ++ [{ g := f.g, ctx := f.ctx, addr := r, bar := bar, v := old, w := w / 8 }] }
  | none => s

/-- ATOMIC_AT_HOME (R346): an atomic is performed at its point of atomicity; `code` and `old` are a peer's answer. -/
def execAtomicAtHome (i code old : Nat) (s : State) : Outcome State Fault Refusal :=
  match s.nextFlight i with
  | none => .next s
  | some f =>
    match f.op with
    | .atomic op fmt a cmp clu ret =>
      let w := fmtWidth fmt
      match s.routeFault f.ctx (f.g / 16) (f.g % 16) f.tgt with
      | some info => .next (((s.dropFlight i).hopFault info).effectRecord f 15 info)
      | none =>
        match f.tgt with
        | .remote _ _ =>
          let x := remoteCode (code % 32)
          .next (if x = 0 then (s.dropFlight i).sendReturn f (old % 2 ^ w) w ret
            else (s.dropFlight i).effectRecord f x (s.remoteInfo f.ctx f.tgt code f.va) (remoteReason code) (remoteShare code))
        | .dpa p key =>
          if s.hostGone p then .next ((s.dropFlight i).effectRecord f 18 f.va) else
          match (s.dropFlight i).findsBad p (w / 8) 1 f.ctx with
          | some t => .next t
          | none =>
          match (s.dropFlight i).allowWrite (f.g / 16) f.ctx p (w / 8) (!clu) clu (some f) with
          | none => .next (s.wantPt (p / 128))
          | some t =>
            let t := if clu then t.obtain (f.g / 16) f.ctx (p / 128) else t
            match t.readFresh (engineSeer f.g f.ctx) p (w / 8) key with
            | .error t => .next { t with inflight := s.inflight }
            | .ok (bs, t1) =>
              let v := atomNew op w (ofLE bs) a cmp
              let who : Writer := { ctx := f.ctx, party := if clu then some (f.g / 16, f.ctx) else none }
              .next ((t1.writeAt who p key (toLE (w / 8) v)).sendReturn f (ofLE bs) w ret)
    | _ => .next s

/-- ATOMG_RETURN_LAND (R348): the old value lands in scratchpad and counts on the barrier, or is dropped when the context is not
current. -/
def execAtomgReturnLand (i : Nat) (s : State) : Outcome State Fault Refusal :=
  match s.returns[i]? with
  | none => .next s
  | some r =>
    let s1 := { s with returns := dropAt s.returns i }
    .next (if (s.eng r.g).ctx = some r.ctx then
        (s1.putSpad r.g .landing [] 0 [putOf r.addr (toLE r.w r.v)]).barUpdate r.g r.bar 0 (-(r.w : Int))
      else s1)

/-! ### Reservations at the home (R349 to R351) -/

/-- The home whose records a word uses. -/
def homeIx (a : Nat) : Nat := (homeOf a).getD 0

/-- Reservation records in use at a home: one for each holder and each waiter. -/
def State.resvUsed (s : State) (h : Nat) : Nat :=
  ((s.resvs.filter (fun r => homeIx r.dpa == h)).map (fun r => 1 + r.waiters.length)).sum

/-- The next ticket of a home (R349): it skips 0. -/
def nextTicket (t : Nat) : Nat := if (t + 1) % 2 ^ 32 = 0 then 1 else (t + 1) % 2 ^ 32

/-- The word read at its point of atomicity for a waiter (R346, R349): no host holds it exclusive, no cluster cache has it in E or M with
effects on their way, and nothing that the waiter must see is on its way, its own predecessors' writes on another engine included (R369).
The state alone, while it waits. -/
def State.readable (s : State) (a key : Nat) (u : ResvUser) : Except State (List Byte × State) :=
  let o := engineSeer u.g u.ctx
  let n := fmtWidth u.fmt / 8
  if s.inflight.any (fun f => f.seen o && f.tgt.meets f.op.size a n) then .error s
  else
    match s.recall (u.g / 16) u.ctx a n false false with
    | none => .error s
    | some t => t.readFresh o a n key

/-- The word is granted (R349): its value and the ticket go into the continuation, which is delivered with a status. -/
def State.grantWord (s : State) (a key : Nat) (bs : List Byte) (u : ResvUser) (status : Nat) (waiters : List ResvUser)
    (uses : List Nat) : State :=
  let h := homeIx a
  let t := nextTicket (s.tickets.get 0 h)
  let m := { u.msg.withStatus status with vals := [(u.reg, toRegister u.fmt (ofLE bs)), (u.reg + 1, t)] }
  let r : Resv := { dpa := a, key := key, holder := u, ticket := t,
                    deadline := if u.limit = 0 then none else some (s.hubTime + u.limit), waiters := waiters, uses := uses }
  { s.enqueue u.g m with tickets := s.tickets.set h t, resvs := s.resvs ++ [r] }

/-- The holding at position `i` ends, and the next waiter is granted with a status (R350, R351): at once, or as soon as the word can be
read. -/
def State.passWord (s : State) (i status : Nat) : State :=
  match s.resvs[i]? with
  | none => s
  | some r =>
    match r.waiters with
    | [] => { s with resvs := dropAt s.resvs i }
    | u :: rest =>
      match s.readable r.dpa r.key u with
      | .ok (bs, t) => ({ t with resvs := dropAt t.resvs i } : State).grantWord r.dpa r.key bs u status rest r.uses
      | .error t => { t with resvs := modifyAt t.resvs i (fun r => { r with passing := some status, deadline := none }) }

/-- RESERVATION_REQUEST (R349): granted, queued, or refused with STATUS 11. A request that fails a switch check on its way to the home is
a terminal ROUTE fault (R49, R393; DESIGN CHOICE, log 84). -/
def execReservationRequest (i : Nat) (s : State) : Outcome State Fault Refusal :=
  match s.resvReqs[i]? with
  | none => .next s
  | some q =>
    let s1 := { s with resvReqs := dropAt s.resvReqs i }
    match s.homeFault (q.user.g / 16) (q.user.g % 16) q.dpa with
    | some info =>
      .next (((s1.hopFault info).append q.user.ctx { code := 15, src := 0, who := q.who, wher := q.pc, info := info, addr := q.va }).joinFault
        (engineSource q.user.g) q.user.ctx q.user.msg.join)
    | none =>
    if 1024 ≤ s.resvUsed (homeIx q.dpa) then
      .next (s1.enqueue q.user.g { q.user.msg.withStatus 11 with vals := [(q.user.reg, 0), (q.user.reg + 1, 0)] })
    else
      match posOf (fun (r : Resv) => r.dpa == q.dpa) s.resvs with
      | some k => .next { s1 with resvs := modifyAt s1.resvs k (fun r => { r with waiters := r.waiters ++ [q.user] }) }
      | none =>
        match s.readable q.dpa q.key q.user with
        | .error t => .next t
        | .ok (bs, t) => .next (({ t with resvReqs := dropAt t.resvReqs i } : State).grantWord q.dpa q.key bs q.user 0 [] q.uses)

/-- RESERVATION_PASS (R350): an SCH is performed, once every write that it covers is complete at PKG (R370): the holder's word is written
and passed; any other ticket is a dead letter. -/
def execReservationPass (i : Nat) (s : State) : Outcome State Fault Refusal :=
  match s.nextFlight i with
  | none => .next s
  | some f =>
    if (s.inflight.take i).any (fun x => x.seen (engineSeer f.g f.ctx) && !x.tgt.isRemote) then .next s else
    match f.op, f.tgt with
    | .sch fmt v ticket rel, .dpa a key =>
      match s.routeFault f.ctx (f.g / 16) (f.g % 16) f.tgt with
      | some info => .next (((s.dropFlight i).hopFault info).effectRecord f 15 info)
      | none =>
        match posOf (fun (r : Resv) => r.dpa == a && r.ticket == ticket && r.passing.isNone) s.resvs with
        | none => .next ((s.dropFlight i).deadLetter f.ctx f.ctx (futInfo 11 ticket))
        | some k =>
          let home := (s.dropFlight i).homeward (engineSeer f.g f.ctx)
          if rel then .next (home.passWord k 0) else
          match home.allowWrite (f.g / 16) f.ctx a (fmtWidth fmt / 8) false false (some f) with
          | none => .next (s.wantPt (a / 128))
          | some t =>
            .next ((t.writeAt { ctx := f.ctx, party := some (f.g / 16, f.ctx) } a key (toLE (fmtWidth fmt / 8) v)).passWord k 0)
    | _, _ => .next s

/-- RESERVATION_HOLD_EXPIRY (R351): a holder's limit has passed; the word passes with STATUS 8 and is unchanged. A word whose holder has
gone passes as soon as it can be read. -/
def execReservationHoldExpiry (i : Nat) (s : State) : Outcome State Fault Refusal :=
  match s.resvs[i]? with
  | none => .next s
  | some r =>
    match r.passing, r.deadline with
    | some st, _ => .next (s.passWord i st)
    | none, some d => .next (if d ≤ s.hubTime then s.passWord i 8 else s)
    | none, none => .next s

end Sys2Proof.Machine
end

