-- ==== Sys2Proof/Machine/Collect.lean ====
section
/-! DEFINITION. Collectives (R478 to R482, R497). -/

namespace Sys2Proof.Machine

open Host (Outcome)

/-! ### Collectives -/

def State.group (s : State) (n : Nat) : Group := s.groups.get {} n

/-- COLL at issue (R480). -/
def startColl (kind : Nat) (h : Hdr) (f : YForm) (s : State) : Outcome State Fault Refusal :=
  issue 2 h (fun s a =>
    let ad := yAddr f a
    let gv := a.ug f.b.toNat
    let x := s.group gv
    if ad % 32 ≠ 0 then .fail s 10 ad
    else if spadSize < ad + 32 then .fail s 11 ad
    else if 63 < gv || x.state = .free || x.ctx ≠ a.ctx || !bitOf x.mask s.focus.g then .fail s 3 (infoV 0x28 gv)
    else if x.state = .aborted then .fail s 19 gv
    else deferEff (.coll gv ad f.obj.toNat kind) [] s a) s

/-- COLL.BCAST (R479). -/
def execCollBcast (h : Hdr) (f : YForm) (s : State) : Outcome State Fault Refusal := startColl 0 h f s
/-- COLL.REDUCE (R479). -/
def execCollReduce (h : Hdr) (f : YForm) (s : State) : Outcome State Fault Refusal := startColl 1 h f s
/-- COLL.ALLRED (R479). -/
def execCollAllred (h : Hdr) (f : YForm) (s : State) : Outcome State Fault Refusal := startColl 2 h f s

/-- Engines of a participant mask, ascending. -/
def members (mask : Nat) : List Nat := (List.range 16384).filter (fun g => bitOf mask g)

/-- The chunks of a result for its receivers: at most 256 bytes each (R480, R481). -/
def chunksFor (tag group ctx seq kind dst bar : Nat) (data : List Byte) (gs : List Nat) : List Chunk :=
  (gs.map (fun g => (List.range ((data.length + 255) / 256)).map (fun i =>
    { tag := tag, group := group, ctx := ctx, seq := seq, kind := kind, eng := g, addr := dst + 256 * i, bar := bar,
      data := (data.drop (256 * i)).take 256 : Chunk }))).flatten

/-- How many levels the group's packets climb to its root switch (R478). -/
def Group.height (x : Group) : Nat :=
  let same := fun (n : Nat) => (members x.mask).all (fun g => g / n == x.root / n)
  if same 16 then 0 else if same 256 then 1 else if same 4096 then 2 else 3

/-- The climb of engine `g`'s packets: switches, with the ports up (R461, R478). -/
def Group.climb (x : Group) (g : Nat) : List (Nat × Nat) :=
  [(g / 16, 24 + x.q), (1024 + 2 * (g / 256) + x.q, 16 + x.u), (1152 + 8 * (g / 4096) + 4 * x.q + x.u, 20)].take x.height

/-- The way of a result down to engine `g`: switches, with the ports down, the lowest first. -/
def Group.descent (x : Group) (g : Nat) : List (Nat × Nat) :=
  [(g / 16, g % 16), (1024 + 2 * (g / 256) + x.q, g / 16 % 16), (1152 + 8 * (g / 4096) + 4 * x.q + x.u, g / 256 % 16),
    (1184, 8 * (g / 4096) + 4 * x.q + x.u)].take (x.height + 1)

/-- The ROUTE fault of a contribution (R465, R467): a port of its climb is not UP. -/
def State.climbFault (s : State) (x : Group) (g : Nat) : Option Nat :=
  ((x.climb g).zipIdx.find? (fun e => (s.port e.1.1 true e.1.2).state != .up)).map (fun e => routeInfo 3 e.2 e.1.1)

/-- Flits of `n` bytes in chunks of 256 (R458, R480). -/
def chunkFlits (n : Nat) : Nat := (n + 255) / 256 + payloadFlits n

/-- CollStart (R480, R497), performed at a COMMIT of activation `act` for the COLL at `pc`. -/
def State.collStart (s : State) (g ctx act pc gv addr bar kind : Nat) : State :=
  let x := s.group gv
  let bad (t : State) (code info : Nat) : State :=
    t.append ctx { code := code, src := 0, who := act, wher := pc, info := info, addr := addr }
  if x.state = .free || x.ctx ≠ ctx || !bitOf x.mask g then bad s 3 (infoV 0x28 gv) else
  let E := s.eng g
  let d := ofLE (bytesAt E.spad addr 32)
  let src := fieldOf d 16 0
  let dst := fieldOf d 33 17
  let len := fieldOf d 50 34
  let fmt := fieldOf d 68 64
  let rop := fieldOf d 70 69
  let w := if kind = 0 then 1 else if fmt = 16 then 8 else 4
  let seq := if kind = 0 then 0 else E.collSeq.get 0 gv
  let s1 := if kind = 0 then s else s.setEng g { E with collSeq := E.collSeq.set gv ((seq + 1) % 2 ^ 16) }
  if len = 0 || 65536 < len || len % w ≠ 0 then bad s1 3 (infoV 0x28 len)
  else if kind ≠ 0 && fmt ≠ 0 && fmt ≠ 15 && fmt ≠ 16 then bad s1 3 (infoV 0x28 fmt)
  else if kind ≠ 0 && rop = 3 then bad s1 3 (infoV 0x28 rop)
  else if src % w ≠ 0 then bad s1 10 src
  else if dst % w ≠ 0 then bad s1 10 dst
  else if spadSize < src + len then bad s1 11 src
  else if spadSize < dst + len then bad s1 11 dst
  else if x.state = .aborted then bad s1 19 (gv + seq * 64)
  else
    let data := bytesAt E.spad src len
    -- the group's packets take the BULK class (R478); one whose way up is not UP meets a route fault
    match s1.climbFault x g with
    | some info => bad (s1.hopFault info) 15 info
    | none =>
    let (ticket, s1) := s1.shape (engineSource g) ctx tcBulk (chunkFlits len)
    if kind = 0 then
      { s1 with
        nextId := s1.nextId + 1
        chunks := s1.chunks ++ (chunksFor s1.nextId gv ctx 0 0 dst bar data (members x.mask)).map (fun c => { c with ticket := ticket }) }
    else
      let p : Contrib := {
        eng := g, kind := kind, fmt := fmt, rop := rop, len := len, dst := dst, bar := bar, data := data, since := s1.hubTime, ticket := ticket }
      let mine := fun (r : CollRun) => r.group == gv && r.seq == seq
      if s1.collRuns.any mine then
        { s1 with collRuns := s1.collRuns.map (fun r => if mine r then { r with parts := r.parts ++ [p] } else r) }
      else { s1 with collRuns := s1.collRuns ++ [{ group := gv, seq := seq, parts := [p] }] }

/-- Element codes of a contribution. -/
def elems (w : Nat) : Nat → List Byte → List Nat
  | 0, _ => []
  | n + 1, bs => ofLE (bs.take w) :: elems w n (bs.drop w)

/-- One combination (R480): SUM, MAX or MIN of two element codes. -/
def collOp (fmt rop w a b : Nat) : Nat :=
  if fmt = 0 then
    let x := floatVal 0 a
    let y := floatVal 0 b
    floatCode 0 (match rop with
      | 0 => roundTo 0 0 false 0 (x.add false y)
      | 1 => x.max2 y
      | _ => x.min2 y)
  else
    match rop with
    | 0 => (a + b) % 2 ^ (8 * w)
    | 1 => if signed (8 * w) a ≥ signed (8 * w) b then a else b
    | _ => if signed (8 * w) a ≤ signed (8 * w) b then a else b

/-- One level of switches (R480): the contributions of each switch's ports, combined in ascending port order; `k` ports' worth of
children share a switch. The list rises by child. -/
def collLevel (op : Nat → Nat → Nat) (k : Nat) : List (Nat × List Nat) → List (Nat × List Nat)
  | [] => []
  | (e, v) :: r =>
    match collLevel' op k (e / k) v r with
    | (acc, rest) => (e / k, acc) :: rest
where
  /-- Folds the children of switch `p` into `acc`; the rest is combined switch by switch. -/
  collLevel' (op : Nat → Nat → Nat) (k p : Nat) (acc : List Nat) : List (Nat × List Nat) → List Nat × List (Nat × List Nat)
    | [] => (acc, [])
    | (e, v) :: r =>
      if e / k = p then collLevel' op k p (List.zipWith op acc v) r
      else
        match collLevel' op k (e / k) v r with
        | (acc', rest) => (acc, (e / k, acc') :: rest)

/-- The contributions in ascending order of their engines. -/
def sortParts (ps : List Contrib) : List Contrib :=
  ps.foldl (fun l p => l.takeWhile (fun q => q.eng < p.eng) ++ p :: l.dropWhile (fun q => q.eng < p.eng)) []

/-- The result of an instance (R480): combined at L0, L1, L2 and L3. -/
def combineAll (fmt rop w len : Nat) (ps : List Contrib) : List Nat :=
  let xs := (sortParts ps).map (fun p => (p.eng, elems w (len / w) p.data))
  let op := collOp fmt rop w
  ((collLevel op 4 (collLevel op 16 (collLevel op 16 (collLevel op 16 xs)))).map (fun e => e.2)).headD []

/-- Sets OVERRUN on the barriers of the participants of an aborted instance whose engines run the context (R482). -/
def State.overrunAll (s : State) (ctx : Nat) : List Contrib → State
  | [] => s
  | p :: r =>
    (if (s.eng p.eng).ctx = some ctx then
      s.modEng p.eng (fun E => E.setBar p.bar { E.bar p.bar with overrun := true })
    else s).overrunAll ctx r

/-- Contributions that differ in kind, FMT, ROP or LEN (R480). -/
def mixed : List Contrib → Bool
  | [] => false
  | p :: r => r.any (fun q => q.kind != p.kind || q.fmt != p.fmt || q.rop != p.rop || q.len != p.len)

/-- A switch of a group's sub-tree: `child` and `all` engines lie under one of its ports and under it, `i` is its place in its level, and
`port` numbers its ports. -/
structure CollSwitch where
  sw    : Nat
  child : Nat
  all   : Nat
  i     : Nat
  port  : Nat → Nat

/-- The switches of the sub-tree that climbs through the group's planes, the lowest level first (R478). -/
def Group.switches (x : Group) : List CollSwitch :=
  let want := members x.mask
  let level := fun (child all : Nat) (sw port : Nat → Nat) =>
    (((List.range (16384 / all)).filter (fun i => want.any (fun g => g / all == i))).map (fun i =>
      ({ sw := sw i, child := child, all := all, i := i, port := port } : CollSwitch)))
  level 1 16 id id ++ level 16 256 (fun i => 1024 + 2 * i + x.q) id ++ level 256 4096 (fun d => 1152 + 8 * d + 4 * x.q + x.u) id ++
    level 4096 16384 (fun _ => 1184) (fun d => 8 * d + 4 * x.q + x.u)

/-- The expected ports of a switch: those under which a participant lies (R480). -/
def CollSwitch.expected (k : CollSwitch) (want : List Nat) : List Nat :=
  (List.range (k.all / k.child)).filter (fun p => want.any (fun g => g / k.child == k.i * (k.all / k.child) + p))

/-- What stands at a port of a switch: the contributions combined below it, once every one of them has arrived. -/
def CollSwitch.standing (k : CollSwitch) (want : List Nat) (ps : List Contrib) (p : Nat) : List Contrib :=
  let here := fun (g : Nat) => g / k.child == k.i * (k.all / k.child) + p
  if (want.filter here).all (fun g => ps.any (fun c => c.eng == g)) then ps.filter (fun c => here c.eng) else []

/-- The mask of a switch's expected ports at which nothing stands (R482). -/
def CollSwitch.missing (k : CollSwitch) (want : List Nat) (ps : List Contrib) : Nat :=
  (((k.expected want).filter (fun p => (k.standing want ps p).isEmpty)).map (fun p => 2 ^ k.port p)).sum

/-- When the first contribution arrived at a switch (R482): the timer starts. A contribution passes a switch as its last part arrives. -/
def CollSwitch.started (k : CollSwitch) (want : List Nat) (ps : List Contrib) : Option Nat :=
  ((((k.expected want).map (k.standing want ps)).filter (fun l => !l.isEmpty)).map
    (fun l => (l.map (fun c => c.since)).foldl max 0)).min?

/-- The switch at which contributions that differ meet (R480), with its missing ports. -/
def Group.clash (x : Group) (ps : List Contrib) : Option (Nat × Nat) :=
  let want := members x.mask
  (x.switches.find? (fun k => mixed (((k.expected want).map (k.standing want ps)).flatten))).map
    (fun k => (k.sw, k.missing want ps))

/-- The switch whose timer started first of those that miss contributions (R482): its start, its number and its missing ports. -/
def Group.waits (x : Group) (ps : List Contrib) : Option (Nat × Nat × Nat) :=
  let want := members x.mask
  (x.switches.filter (fun k => k.missing want ps ≠ 0)).foldl (fun best k =>
    match k.started want ps with
    | none => best
    | some t => if best.any (fun b => b.1 ≤ t) then best else some (t, k.sw, k.missing want ps)) none

/-- The contributions of an instance that have left the shaper (R470). -/
def State.sentParts (s : State) (r : CollRun) : List Contrib := r.parts.filter (fun p => s.unshaped p.ticket)

/-- A switch whose timer has run out before its last contribution arrived (R482), with no port missing now. -/
def Group.late (x : Group) (ps : List Contrib) : Option (Nat × Nat) :=
  let want := members x.mask
  if x.tmo = 0 then none else
  (x.switches.find? (fun k => (k.started want ps).any (fun t =>
      ((k.expected want).map (fun p => ((k.standing want ps p).map (fun c => c.since)).foldl max 0)).any (fun v => t + x.tmo < v)))).map
    (fun k => (k.sw, k.missing want ps))

/-- An instance is aborted at a switch with a code (R482): the group's partial sums are cleared. The record names the switch and its missing
ports. -/
def State.abortRun (s : State) (r : CollRun) (code : Nat) (at_ : Option (Nat × Nat)) : State :=
  let x := s.group r.group
  let s1 := (s.overrunAll x.ctx r.parts)
  let s2 := { s1 with
    collRuns := s1.collRuns.filter (fun q => q.group != r.group), groups := s1.groups.set r.group { x with state := .aborted } }
  match at_ with
  | some (sw, mask) => s2.append x.ctx { code := code, src := 5, info := r.group + r.seq * 64 + sw * 2 ^ 22, addr := mask }
  | none => s2

/-- COLL_COMBINE (R480): every expected contribution has arrived; the result is sent to its receivers (R481). -/
def execCollCombine (i : Nat) (s : State) : Outcome State Fault Refusal :=
  match s.collRuns[i]? with
  | none => .next s
  | some r =>
    let x := s.group r.group
    let parts := s.sentParts r
    if (x.clash parts).isSome then .next (s.abortRun r 3 (x.clash parts))
    else if (x.late parts).isSome then .next (s.abortRun r 19 (x.late parts))
    else if (members x.mask).any (fun g => !parts.any (fun p => p.eng == g)) then .next s
    else
      match sortParts parts with
      | [] => .next s
      | p :: ps =>
        let w := if p.fmt = 16 then 8 else 4
        let out := ((combineAll p.fmt p.rop w p.len (p :: ps)).map (toLE w)).flatten
        let lead := if p.kind = 1 then ((p :: ps).find? (fun q => q.eng == x.root)).getD p else p
        let dests := if p.kind = 1 then [x.root] else members x.mask
        .next { s with
          nextId := s.nextId + 1, collRuns := dropAt s.collRuns i,
          chunks := s.chunks ++ chunksFor s.nextId r.group x.ctx r.seq p.kind lead.dst lead.bar out dests }

/-- COLL_CHUNK_LAND (R481): a chunk lands and counts, or is dropped; the last one of its instance writes the record of drops. -/
def execCollChunkLand (i : Nat) (s : State) : Outcome State Fault Refusal :=
  match s.chunks[i]? with
  | none => .next s
  | some c =>
    -- a chunk waits in the shaper, and goes nowhere through a port that is not UP (R465)
    if !s.unshaped c.ticket || ((s.group c.group).descent c.eng).any (fun e => (s.port e.1 false e.2).state != .up) then .next s else
    let s1 := { s with chunks := dropAt s.chunks i }
    let old := ((s1.drops.find? (fun d => d.tag == c.tag)).map (fun d => d.n)).getD 0
    let ok := (s1.eng c.eng).ctx == some c.ctx
    let n := if ok then old else old + 1
    let s2 := if ok then
        (s1.putSpad c.eng .landing [] 0 [putOf c.addr c.data]).barUpdate c.eng c.bar 0 (-(c.data.length : Int))
      else s1
    let others := s2.drops.filter (fun d => d.tag != c.tag)
    if s2.chunks.any (fun d => d.tag == c.tag) then
      .next { s2 with drops := if n = 0 then others else { tag := c.tag, n := n } :: others }
    else
      let s3 := { s2 with drops := others }
      .next (if n = 0 then s3 else
        s3.append c.ctx
          { code := 20, src := 5
            info := 14 + min n 65535 * 2 ^ 16 + c.group * 2 ^ 32 + c.seq * 2 ^ 38 + c.kind * 2 ^ 54 })

/-- The switch at which an instance has waited TIMEOUT µs since the first contribution arrived there, with its missing ports (R482). -/
def State.collDue (s : State) (r : CollRun) : Option (Nat × Nat) :=
  let x := s.group r.group
  match x.waits (s.sentParts r) with
  | none => none
  | some (t, at_) => if x.tmo ≠ 0 && t + x.tmo ≤ s.hubTime then some at_ else none

/-- COLL_TIMEOUT (R482). -/
def execCollTimeout (i : Nat) (s : State) : Outcome State Fault Refusal :=
  match s.collRuns[i]? with
  | none => .next s
  | some r =>
    match s.collDue r with
    | none => .next s
    | some at_ => .next (s.abortRun r 19 (some at_))

/-- The instances that a tick aborts, the last first. -/
def State.dueColls (s : State) : List Nat :=
  (List.range s.collRuns.length).reverse.filter (fun i => (s.collRuns[i]?).any (fun r => (s.collDue r).isSome))

end Sys2Proof.Machine
end

