-- ==== Sys2Proof/WellFormed.lean ====
section
/-! DEFINITION. Well-formed instructions: those that an encoding stands for (R83 to R86, R98, R111), and those among them whose
static operand fields also pass the checks of R86. -/

namespace Sys2Proof

/-- GUARD and COND name a predicate or are 15 (R83, R86). -/
def guardOk (g : BitVec 5) : Bool := g.toNat % 16 < 12 || g.toNat % 16 = 15

/-- No token bit is set (R98, R101). -/
def Hdr.noTokens (h : Hdr) : Bool := !(h.popu || h.popd || h.pushu || h.pushd)

/-- The header of a word of class A, C or S, where the bits of R98 and R101 allow tokens or not. -/
def Hdr.ok (h : Hdr) (tokens : Bool) : Bool := guardOk h.guard && (tokens || h.noTokens)

/-- The header of a Talquin instruction of class A, C or S. -/
def Instr.hdr? : Instr → Option Hdr
  | .hintWord _ _ h _ => some h
  | .add h _ => some h
  | .addi h _ => some h
  | .sub h _ => some h
  | .mul h _ => some h
  | .muli h _ => some h
  | .mulh h _ => some h
  | .mulhn h _ => some h
  | .div h _ => some h
  | .divn h _ => some h
  | .rem h _ => some h
  | .remn h _ => some h
  | .and h _ => some h
  | .andi h _ => some h
  | .or h _ => some h
  | .ori h _ => some h
  | .xor h _ => some h
  | .xori h _ => some h
  | .shl h _ => some h
  | .shli h _ => some h
  | .shr h _ => some h
  | .shri h _ => some h
  | .sra h _ => some h
  | .srai h _ => some h
  | .rol h _ => some h
  | .roli h _ => some h
  | .clz h _ => some h
  | .ctz h _ => some h
  | .popc h _ => some h
  | .min h _ => some h
  | .max h _ => some h
  | .minn h _ => some h
  | .maxn h _ => some h
  | .abs h _ => some h
  | .sel h _ => some h
  | .movi h _ => some h
  | .movhi h _ => some h
  | .lea h _ => some h
  | .sext h _ => some h
  | .zext h _ => some h
  | .bfx h _ => some h
  | .bfi h _ => some h
  | .bswap h _ => some h
  | .cmp h _ => some h
  | .cmpi h _ => some h
  | .pand h _ => some h
  | .por h _ => some h
  | .pxor h _ => some h
  | .pnot h _ => some h
  | .pset h _ => some h
  | .pget h _ => some h
  | .fadd h _ => some h
  | .fsub h _ => some h
  | .fmul h _ => some h
  | .ffma h _ => some h
  | .fdiv h _ => some h
  | .fsqrt h _ => some h
  | .fmin h _ => some h
  | .fmax h _ => some h
  | .fcmp h _ => some h
  | .fcvt h _ => some h
  | .fclass h _ => some h
  | .fmt h _ => some h
  | .rnd h _ => some h
  | .rndf h _ => some h
  | .shld h _ => some h
  | .shst h _ => some h
  | .shset h _ => some h
  | .shofs h _ => some h
  | .vmov h _ => some h
  | .vfill h _ => some h
  | .vadd h _ => some h
  | .vsub h _ => some h
  | .vmul h _ => some h
  | .vfma h _ => some h
  | .vmin h _ => some h
  | .vmax h _ => some h
  | .vabs h _ => some h
  | .vneg h _ => some h
  | .vand h _ => some h
  | .vor h _ => some h
  | .vxor h _ => some h
  | .vshl h _ => some h
  | .vshr h _ => some h
  | .vcmp h _ => some h
  | .vsel h _ => some h
  | .vcvt h _ => some h
  | .vquant h _ => some h
  | .vred h _ => some h
  | .vscan h _ => some h
  | .vexp h _ => some h
  | .vlog h _ => some h
  | .vrcp h _ => some h
  | .vrsq h _ => some h
  | .vtanh h _ => some h
  | .verf h _ => some h
  | .vcmul h _ => some h
  | .vcmac h _ => some h
  | .vgath h _ => some h
  | .vscat h _ => some h
  | .vtrans h _ => some h
  | .vrnd h _ => some h
  | .mldb h _ => some h
  | .mma h _ => some h
  | .mmac h _ => some h
  | .mzero h _ => some h
  | .mst h _ => some h
  | .mbar h _ => some h
  | .mcfgWeight h _ => some h
  | .mcfgGate h _ => some h
  | .mcfgClrsat h _ => some h
  | .ld h _ => some h
  | .st h _ _ => some h
  | .ldg h _ => some h
  | .stg h _ _ => some h
  | .ldc h _ => some h
  | .cinvLine h _ => some h
  | .cinvAll h _ => some h
  | .cinvI h _ => some h
  | .atom h _ => some h
  | .cpy h _ => some h
  | .cpym h _ => some h
  | .cpyq h _ => some h
  | .pref h _ => some h
  | .atomg h _ => some h
  | .red h _ => some h
  | .lrw h _ => some h
  | .sch h _ => some h
  | .schRel h _ => some h
  | .commit h _ => some h
  | .yield h _ => some h
  | .exit h _ => some h
  | .send h _ => some h
  | .sendi h _ => some h
  | .spawn h _ => some h
  | .migrate h _ => some h
  | .fnew h _ => some h
  | .fres h _ => some h
  | .fdec h _ => some h
  | .ftest h _ => some h
  | .ftestV h _ => some h
  | .ftestC h _ => some h
  | .ftestF h _ => some h
  | .await h _ => some h
  | .fcall h _ => some h
  | .ffree h _ => some h
  | .rtmk h _ => some h
  | .binit h _ => some h
  | .barr h _ => some h
  | .barrx h _ => some h
  | .bexp h _ => some h
  | .bwait h _ => some h
  | .btest h _ => some h
  | .btestS h _ => some h
  | .btestP h _ => some h
  | .tdef h _ => some h
  | .tfree h _ => some h
  | .tacq h _ => some h
  | .trel h _ => some h
  | .tqry h _ => some h
  | .fence h _ => some h
  | .scopeRd h _ => some h
  | .scopeWr h _ => some h
  | .srr h _ => some h
  | .srw h _ => some h
  | .collBcast h _ => some h
  | .collReduce h _ => some h
  | .collAllred h _ => some h
  | _ => none

/-- The branch form of a control-class instruction. -/
def Instr.ctl? : Instr → Option BForm
  | .nop f => some f
  | .br f => some f
  | .bri f => some f
  | .call f => some f
  | .calli f => some f
  | .ret f => some f
  | .loop f => some f
  | .loopi f => some f
  | .brk f => some f
  | .trap f => some f
  | _ => none

/-- Whether an instruction carries no token bits: FMT, COMMIT and the yielding ones (R98, R101). -/
def Instr.tokenless : Instr → Bool
  | .fmt _ _ => true
  | i => i.commits

/-- The guard, the condition and the token bits are ones the opcode map allows (R111). -/
def Instr.encodingOk (i : Instr) : Bool :=
  match i with
  | .nop _ | .brk _ | .trap _ => true
  | .hintWord cls _ h _ => if cls = 0 then h.stop && h.noTokens else guardOk h.guard
  | i => match i.ctl?, i.hdr? with
    | some f, _ => guardOk f.cond
    | none, some h => h.ok (!i.tokenless)
    | none, none => true

/-- The selector field of a row that shares its opcode with others agrees with the row, and no prefix has changed the conversion. -/
def Instr.selectorOk : Instr → Bool
  | .cinvLine _ f => !f.mode.getLsbD 1 && !f.mode.getLsbD 0
  | .cinvAll _ f => !f.mode.getLsbD 1 && f.mode.getLsbD 0
  | .cinvI _ f => f.mode.getLsbD 1
  | .sch _ f => !f.mode.getLsbD 0
  | .schRel _ f => f.mode.getLsbD 0
  | .ftest _ f => f.sub ≠ 1 && f.sub ≠ 2 && f.sub ≠ 3
  | .ftestV _ f => f.sub = 1
  | .ftestC _ f => f.sub = 2
  | .ftestF _ f => f.sub = 3
  | .btest _ f => f.sub ≠ 1 && f.sub ≠ 2
  | .btestS _ f => f.sub = 1
  | .btestP _ f => f.sub = 2
  | .scopeRd _ f => f.sub ≠ 1
  | .scopeWr _ f => f.sub = 1
  | .collBcast _ f => f.sub ≠ 1 && f.sub ≠ 2
  | .collReduce _ f => f.sub = 1
  | .collAllred _ f => f.sub = 2
  | .mcfgWeight _ f => f.fn.toNat / 64 = 0 || 6 ≤ f.fn.toNat / 64
  | .mcfgGate _ f => 1 ≤ f.fn.toNat / 64 && f.fn.toNat / 64 ≤ 4
  | .mcfgClrsat _ f => f.fn.toNat / 64 = 5
  | .st _ _ o | .stg _ _ o => o = Cvt.none
  | _ => true

/-- An instruction that some word stands for. -/
def Instr.encodable (i : Instr) : Bool := i.encodingOk && i.selectorOk

/-- A well-formed instruction with the features `acc`: encodable, its feature accepted, its static operands in range. -/
def Instr.wellFormed (acc : Nat) (i : Instr) : Bool :=
  i.encodable && (match i.feature with
    | some k => hasFeat acc k
    | none => true) && (i.fails acc).isEmpty

end Sys2Proof
end

