-- ==== Sys2Proof/Decode.lean ====
section
/-! DEFINITION. Decoding of Talquin words (R82 to R112) and Sedge extension words (R308), and the encoder of both. -/

namespace Sys2Proof

/-! ### Fields of a Talquin word (R82, R85) -/

def hdrOf (w : BitVec 64) : Hdr where
  stop := w.getLsbD 61
  popu := w.getLsbD 60
  popd := w.getLsbD 59
  pushu := w.getLsbD 58
  pushd := w.getLsbD 57
  guard := w.extractLsb' 52 5

def xForm (w : BitVec 64) : XForm where
  d := w.extractLsb' 38 6
  a := w.extractLsb' 32 6
  b := w.extractLsb' 26 6
  c := w.extractLsb' 20 6
  fmt := w.extractLsb' 15 5
  rm := w.extractLsb' 12 3
  sat := w.getLsbD 11
  fn := w.extractLsb' 0 11

def iForm (w : BitVec 64) : IForm where
  d := w.extractLsb' 38 6
  a := w.extractLsb' 32 6
  imm := w.extractLsb' 0 32

def lForm (w : BitVec 64) : LForm where
  d := w.extractLsb' 38 6
  imm := w.extractLsb' 0 38

def bForm (w : BitVec 64) : BForm where
  cond := w.extractLsb' 39 5
  hint := w.getLsbD 38
  a := w.extractLsb' 32 6
  imm := w.extractLsb' 0 32

def mForm (w : BitVec 64) : MForm where
  d := w.extractLsb' 38 6
  a := w.extractLsb' 32 6
  b := w.extractLsb' 26 6
  fmt := w.extractLsb' 21 5
  mode := w.extractLsb' 16 5
  ofs := w.extractLsb' 0 16

def vForm (w : BitVec 64) : VForm where
  hd := w.extractLsb' 40 4
  ha := w.extractLsb' 36 4
  hb := w.extractLsb' 32 4
  hc := w.extractLsb' 28 4
  g := w.extractLsb' 22 6
  fmt := w.extractLsb' 17 5
  rm := w.extractLsb' 14 3
  sat := w.getLsbD 13
  mask := w.extractLsb' 8 5
  fn := w.extractLsb' 0 8

def tForm (w : BitVec 64) : TForm where
  acc := w.extractLsb' 39 5
  ws := w.extractLsb' 32 7
  ha := w.extractLsb' 28 4
  hs := w.extractLsb' 24 4
  fa := w.extractLsb' 19 5
  fb := w.extractLsb' 14 5
  rm := w.extractLsb' 11 3
  sat := w.getLsbD 10
  fn := w.extractLsb' 0 10

def yForm (w : BitVec 64) : YForm where
  d := w.extractLsb' 38 6
  a := w.extractLsb' 32 6
  b := w.extractLsb' 26 6
  obj := w.extractLsb' 19 7
  sub := w.extractLsb' 16 3
  imm := w.extractLsb' 0 16

/-! ### Rows of the table that share an opcode, told apart by a field of the word -/

/-- CINV (R194, R195): MOD[1] invalidates the instruction cache, else MOD[0] the whole constant cache. -/
def pickCinv (h : Hdr) (f : MForm) : Instr :=
  if f.mode.getLsbD 1 then .cinvI h f else if f.mode.getLsbD 0 then .cinvAll h f else .cinvLine h f
/-- SCH (R350): MOD[0] is `.REL`. -/
def pickSch (h : Hdr) (f : MForm) : Instr := if f.mode.getLsbD 0 then .schRel h f else .sch h f
/-- FTEST (R292), by SUB; a SUB above 3 is a static fault of the first row. -/
def pickFtest (h : Hdr) (f : YForm) : Instr :=
  if f.sub = 1 then .ftestV h f else if f.sub = 2 then .ftestC h f else if f.sub = 3 then .ftestF h f else .ftest h f
/-- BTEST (R217), by SUB. -/
def pickBtest (h : Hdr) (f : YForm) : Instr :=
  if f.sub = 1 then .btestS h f else if f.sub = 2 then .btestP h f else .btest h f
/-- SCOPE (R359), by SUB. -/
def pickScope (h : Hdr) (f : YForm) : Instr := if f.sub = 1 then .scopeWr h f else .scopeRd h f
/-- COLL (R479), by SUB. -/
def pickColl (h : Hdr) (f : YForm) : Instr :=
  if f.sub = 1 then .collReduce h f else if f.sub = 2 then .collAllred h f else .collBcast h f
/-- MCFG (R242), by FN[9:6]. -/
def pickMcfg (h : Hdr) (f : TForm) : Instr :=
  let op := f.fn.toNat / 64
  if 1 ≤ op && op ≤ 4 then .mcfgGate h f else if op = 5 then .mcfgClrsat h f else .mcfgWeight h f

/-! ### The opcode map (R106 to R109) -/

/-- Control class (R106). -/
def decodeB (op : Nat) (w : BitVec 64) : Option Instr :=
  if op = 0x00 then some (.nop (bForm w)) else
  if op = 0x01 then some (.br (bForm w)) else
  if op = 0x02 then some (.bri (bForm w)) else
  if op = 0x03 then some (.call (bForm w)) else
  if op = 0x04 then some (.calli (bForm w)) else
  if op = 0x05 then some (.ret (bForm w)) else
  if op = 0x06 then some (.loop (bForm w)) else
  if op = 0x07 then some (.loopi (bForm w)) else
  if op = 0x08 then some (.brk (bForm w)) else
  if op = 0x09 then some (.trap (bForm w)) else
  none

/-- C class, opcodes 0x00 to 0x0F (R107). -/
def decodeC0 (op : Nat) (h : Hdr) (w : BitVec 64) : Option Instr :=
  if op = 0x00 then some (.add h (xForm w)) else
  if op = 0x01 then some (.addi h (iForm w)) else
  if op = 0x02 then some (.sub h (xForm w)) else
  if op = 0x03 then some (.mul h (xForm w)) else
  if op = 0x04 then some (.muli h (iForm w)) else
  if op = 0x05 then some (.mulh h (xForm w)) else
  if op = 0x06 then some (.mulhn h (xForm w)) else
  if op = 0x07 then some (.div h (xForm w)) else
  if op = 0x08 then some (.divn h (xForm w)) else
  if op = 0x09 then some (.rem h (xForm w)) else
  if op = 0x0A then some (.remn h (xForm w)) else
  if op = 0x0B then some (.and h (xForm w)) else
  if op = 0x0C then some (.andi h (iForm w)) else
  if op = 0x0D then some (.or h (xForm w)) else
  if op = 0x0E then some (.ori h (iForm w)) else
  if op = 0x0F then some (.xor h (xForm w)) else
  none

/-- C class, opcodes 0x10 to 0x1F (R107). -/
def decodeC1 (op : Nat) (h : Hdr) (w : BitVec 64) : Option Instr :=
  if op = 0x10 then some (.xori h (iForm w)) else
  if op = 0x11 then some (.shl h (xForm w)) else
  if op = 0x12 then some (.shli h (iForm w)) else
  if op = 0x13 then some (.shr h (xForm w)) else
  if op = 0x14 then some (.shri h (iForm w)) else
  if op = 0x15 then some (.sra h (xForm w)) else
  if op = 0x16 then some (.srai h (iForm w)) else
  if op = 0x17 then some (.rol h (xForm w)) else
  if op = 0x18 then some (.roli h (iForm w)) else
  if op = 0x19 then some (.clz h (xForm w)) else
  if op = 0x1A then some (.ctz h (xForm w)) else
  if op = 0x1B then some (.popc h (xForm w)) else
  if op = 0x1C then some (.min h (xForm w)) else
  if op = 0x1D then some (.max h (xForm w)) else
  if op = 0x1E then some (.minn h (xForm w)) else
  if op = 0x1F then some (.maxn h (xForm w)) else
  none

/-- C class, opcodes 0x20 to 0x2F (R107). -/
def decodeC2 (op : Nat) (h : Hdr) (w : BitVec 64) : Option Instr :=
  if op = 0x20 then some (.abs h (xForm w)) else
  if op = 0x21 then some (.sel h (xForm w)) else
  if op = 0x22 then some (.movi h (lForm w)) else
  if op = 0x23 then some (.movhi h (lForm w)) else
  if op = 0x24 then some (.lea h (iForm w)) else
  if op = 0x25 then some (.sext h (xForm w)) else
  if op = 0x26 then some (.zext h (xForm w)) else
  if op = 0x27 then some (.bfx h (xForm w)) else
  if op = 0x28 then some (.bfi h (xForm w)) else
  if op = 0x29 then some (.bswap h (xForm w)) else
  if op = 0x2A then some (.cmp h (xForm w)) else
  if op = 0x2B then some (.cmpi h (iForm w)) else
  if op = 0x2C then some (.pand h (xForm w)) else
  if op = 0x2D then some (.por h (xForm w)) else
  if op = 0x2E then some (.pxor h (xForm w)) else
  if op = 0x2F then some (.pnot h (xForm w)) else
  none

/-- C class, opcodes 0x30 to 0x3F (R107). -/
def decodeC3 (op : Nat) (h : Hdr) (w : BitVec 64) : Option Instr :=
  if op = 0x30 then some (.pset h (xForm w)) else
  if op = 0x31 then some (.pget h (xForm w)) else
  if op = 0x32 then some (.fadd h (xForm w)) else
  if op = 0x33 then some (.fsub h (xForm w)) else
  if op = 0x34 then some (.fmul h (xForm w)) else
  if op = 0x35 then some (.ffma h (xForm w)) else
  if op = 0x36 then some (.fdiv h (xForm w)) else
  if op = 0x37 then some (.fsqrt h (xForm w)) else
  if op = 0x38 then some (.fmin h (xForm w)) else
  if op = 0x39 then some (.fmax h (xForm w)) else
  if op = 0x3A then some (.fcmp h (xForm w)) else
  if op = 0x3B then some (.fcvt h (xForm w)) else
  if op = 0x3C then some (.fclass h (xForm w)) else
  if op = 0x3D then some (.fmt h (xForm w)) else
  if op = 0x3E then some (.rnd h (xForm w)) else
  if op = 0x3F then some (.rndf h (xForm w)) else
  none

/-- C class, opcodes 0x40 to 0x4F (R107). -/
def decodeC4 (op : Nat) (h : Hdr) (w : BitVec 64) : Option Instr :=
  if op = 0x40 then some (.shld h (mForm w)) else
  if op = 0x41 then some (.shst h (mForm w)) else
  if op = 0x42 then some (.shset h (vForm w)) else
  if op = 0x43 then some (.shofs h (vForm w)) else
  if op = 0x44 then some (.vmov h (vForm w)) else
  if op = 0x45 then some (.vfill h (vForm w)) else
  if op = 0x46 then some (.vadd h (vForm w)) else
  if op = 0x47 then some (.vsub h (vForm w)) else
  if op = 0x48 then some (.vmul h (vForm w)) else
  if op = 0x49 then some (.vfma h (vForm w)) else
  if op = 0x4A then some (.vmin h (vForm w)) else
  if op = 0x4B then some (.vmax h (vForm w)) else
  if op = 0x4C then some (.vabs h (vForm w)) else
  if op = 0x4D then some (.vneg h (vForm w)) else
  if op = 0x4E then some (.vand h (vForm w)) else
  if op = 0x4F then some (.vor h (vForm w)) else
  none

/-- C class, opcodes 0x50 to 0x5F (R107). -/
def decodeC5 (op : Nat) (h : Hdr) (w : BitVec 64) : Option Instr :=
  if op = 0x50 then some (.vxor h (vForm w)) else
  if op = 0x51 then some (.vshl h (vForm w)) else
  if op = 0x52 then some (.vshr h (vForm w)) else
  if op = 0x53 then some (.vcmp h (vForm w)) else
  if op = 0x54 then some (.vsel h (vForm w)) else
  if op = 0x55 then some (.vcvt h (vForm w)) else
  if op = 0x56 then some (.vquant h (vForm w)) else
  if op = 0x57 then some (.vred h (vForm w)) else
  if op = 0x58 then some (.vscan h (vForm w)) else
  if op = 0x59 then some (.vexp h (vForm w)) else
  if op = 0x5A then some (.vlog h (vForm w)) else
  if op = 0x5B then some (.vrcp h (vForm w)) else
  if op = 0x5C then some (.vrsq h (vForm w)) else
  if op = 0x5D then some (.vtanh h (vForm w)) else
  if op = 0x5E then some (.verf h (vForm w)) else
  if op = 0x5F then some (.vcmul h (vForm w)) else
  none

/-- C class, opcodes 0x60 to 0x6F (R107). -/
def decodeC6 (op : Nat) (h : Hdr) (w : BitVec 64) : Option Instr :=
  if op = 0x60 then some (.vcmac h (vForm w)) else
  if op = 0x61 then some (.vgath h (vForm w)) else
  if op = 0x62 then some (.vscat h (vForm w)) else
  if op = 0x63 then some (.vtrans h (vForm w)) else
  if op = 0x64 then some (.vrnd h (vForm w)) else
  none

/-- C class, opcodes 0x70 to 0x7F (R107). -/
def decodeC7 (op : Nat) (h : Hdr) (w : BitVec 64) : Option Instr :=
  if op = 0x70 then some (.mldb h (tForm w)) else
  if op = 0x71 then some (.mma h (tForm w)) else
  if op = 0x72 then some (.mmac h (tForm w)) else
  if op = 0x73 then some (.mzero h (tForm w)) else
  if op = 0x74 then some (.mst h (tForm w)) else
  if op = 0x75 then some (.mbar h (tForm w)) else
  if op = 0x76 then some (pickMcfg h (tForm w)) else
  none

/-- C class (R107). -/
def decodeC (op : Nat) (h : Hdr) (w : BitVec 64) : Option Instr :=
  if op < 0x10 then decodeC0 op h w else
  if op < 0x20 then decodeC1 op h w else
  if op < 0x30 then decodeC2 op h w else
  if op < 0x40 then decodeC3 op h w else
  if op < 0x50 then decodeC4 op h w else
  if op < 0x60 then decodeC5 op h w else
  if op < 0x70 then decodeC6 op h w else
  if op < 0x80 then decodeC7 op h w else
  none

/-- A class (R108); `o` is what a prefix gives a converting store (R141). -/
def decodeA (op : Nat) (h : Hdr) (w : BitVec 64) (o : Cvt) : Option Instr :=
  if op = 0x00 then some (.ld h (mForm w)) else
  if op = 0x01 then some (.st h (mForm w) o) else
  if op = 0x02 then some (.ldg h (mForm w)) else
  if op = 0x03 then some (.stg h (mForm w) o) else
  if op = 0x04 then some (.ldc h (mForm w)) else
  if op = 0x05 then some (pickCinv h (mForm w)) else
  if op = 0x06 then some (.atom h (mForm w)) else
  if op = 0x07 then some (.cpy h (yForm w)) else
  if op = 0x08 then some (.cpym h (yForm w)) else
  if op = 0x09 then some (.cpyq h (yForm w)) else
  if op = 0x0A then some (.pref h (mForm w)) else
  if op = 0x10 then some (.atomg h (mForm w)) else
  if op = 0x11 then some (.red h (mForm w)) else
  if op = 0x12 then some (.lrw h (mForm w)) else
  if op = 0x13 then some (pickSch h (mForm w)) else
  none

/-- S class (R109). -/
def decodeS (op : Nat) (h : Hdr) (w : BitVec 64) : Option Instr :=
  if op = 0x00 then some (.commit h (yForm w)) else
  if op = 0x01 then some (.yield h (yForm w)) else
  if op = 0x02 then some (.exit h (yForm w)) else
  if op = 0x03 then some (.send h (yForm w)) else
  if op = 0x04 then some (.sendi h (yForm w)) else
  if op = 0x05 then some (.spawn h (yForm w)) else
  if op = 0x06 then some (.migrate h (yForm w)) else
  if op = 0x08 then some (.fnew h (yForm w)) else
  if op = 0x09 then some (.fres h (yForm w)) else
  if op = 0x0A then some (.fdec h (yForm w)) else
  if op = 0x0B then some (pickFtest h (yForm w)) else
  if op = 0x0C then some (.await h (yForm w)) else
  if op = 0x0D then some (.fcall h (yForm w)) else
  if op = 0x0E then some (.ffree h (yForm w)) else
  if op = 0x0F then some (.rtmk h (yForm w)) else
  if op = 0x10 then some (.binit h (yForm w)) else
  if op = 0x11 then some (.barr h (yForm w)) else
  if op = 0x12 then some (.barrx h (yForm w)) else
  if op = 0x13 then some (.bexp h (yForm w)) else
  if op = 0x14 then some (.bwait h (yForm w)) else
  if op = 0x15 then some (pickBtest h (yForm w)) else
  if op = 0x18 then some (.tdef h (yForm w)) else
  if op = 0x19 then some (.tfree h (yForm w)) else
  if op = 0x1A then some (.tacq h (yForm w)) else
  if op = 0x1B then some (.trel h (yForm w)) else
  if op = 0x1C then some (.tqry h (yForm w)) else
  if op = 0x1D then some (.fence h (yForm w)) else
  if op = 0x1E then some (pickScope h (yForm w)) else
  if op = 0x20 then some (.srr h (yForm w)) else
  if op = 0x21 then some (.srw h (yForm w)) else
  if op = 0x28 then some (pickColl h (yForm w)) else
  none

/-! ### The fate of every word (R111) -/

/-- What the front end makes of a word. -/
inductive Decoded where
  | ok (i : Instr)
  | illegalInstr
  | illegalGroup
  deriving DecidableEq, Repr

/-- The instruction a word of class `cls` and opcode `op` names (R106 to R109). -/
def named (cls op : Nat) (w : BitVec 64) (o : Cvt) : Option Instr :=
  if cls = 0 then decodeB op w
  else if cls = 1 then decodeA op (hdrOf w) w o
  else if cls = 2 then decodeC op (hdrOf w) w
  else decodeS op (hdrOf w) w

/-- The fate of a word (R111), features apart, which the front end adds (R110). `o` is what a prefix gives a converting store. -/
def decodeWith (o : Cvt) (w : BitVec 64) : Decoded :=
  let cls := (w.extractLsb' 62 2).toNat
  let op := (w.extractLsb' 44 8).toNat
  if cls = 0 && w.extractLsb' 57 4 ≠ 0 then .illegalInstr
  else if cls = 0 && !w.getLsbD 61 then .illegalGroup
  else if 0xF0 ≤ op then
    if cls ≠ 0 && !guardOk (w.extractLsb' 52 5) then .illegalInstr
    else .ok (.hintWord (w.extractLsb' 62 2) (w.extractLsb' 44 4) (hdrOf w) (w.extractLsb' 0 44))
  else
    match named cls op w o with
    | none => .illegalInstr
    | some i => if i.encodingOk then .ok i else .illegalInstr

/-- The fate of a word with no prefix. -/
def decode (w : BitVec 64) : Decoded := decodeWith Cvt.none w

/-- The bit string of `n` bits that `v` gives, in place of bits `lo + n - 1` to `lo` of the word. -/
def patch (w : BitVec 64) (lo n v : Nat) : BitVec 64 :=
  let m : BitVec 64 := BitVec.ofNat 64 ((2 ^ n - 1) * 2 ^ lo)
  (w &&& ~~~m) ||| BitVec.ofNat 64 (v % 2 ^ n * 2 ^ lo)

/-- The operand form of a word: 0 X, 1 V, 2 T, 3 M, 4 any other (R141). -/
def Instr.prefixForm : Instr → Nat
  | .st _ _ _ | .stg _ _ _ | .ld _ _ | .ldg _ _ | .ldc _ _ | .atom _ _ | .atomg _ _ | .red _ _ | .lrw _ _ | .sch _ _
  | .schRel _ _ => 3
  | .mldb _ _ | .mma _ _ | .mmac _ _ | .mst _ _ => 2
  | .vfill _ _ | .vred _ _ | .vscan _ _ | .vquant _ _ | .vadd _ _ | .vsub _ _ | .vmul _ _ | .vfma _ _ | .vmin _ _ | .vmax _ _
  | .vabs _ _ | .vneg _ _ | .vsel _ _ | .vcvt _ _ | .vexp _ _ | .vlog _ _ | .vrcp _ _ | .vrsq _ _ | .vtanh _ _ | .verf _ _
  | .vshl _ _ | .vshr _ _ | .vcmul _ _ | .vcmac _ _ => 1
  | .hintWord _ _ _ _ => 4
  | _ => 0

/-- A word with the fields that a prefix gives put in place of its own (R141): F1, F2, RM and SAT, each where it is present. -/
def substitute (form : Nat) (f1 f2 rm : Option Nat) (sat : Option Bool) (w : BitVec 64) : BitVec 64 :=
  let at_ := fun (w : BitVec 64) (lo n : Nat) (v : Option Nat) => match v with
    | some x => patch w lo n x
    | none => w
  let s : Option Nat := sat.map bit
  if form = 0 then at_ (at_ (at_ (at_ w 15 5 f1) 0 5 f2) 12 3 rm) 11 1 s
  else if form = 1 then at_ (at_ (at_ (at_ w 17 5 f1) 0 5 f2) 14 3 rm) 13 1 s
  else if form = 2 then at_ (at_ (at_ (at_ w 19 5 f1) 14 5 f2) 11 3 rm) 10 1 s
  else if form = 3 then at_ w 21 5 f1
  else w

/-! ### Sedge extension words (R308) -/

def hForm (w : BitVec 32) : HForm where
  d := w.extractLsb' 7 5
  a := w.extractLsb' 15 5
  b := w.extractLsb' 20 5

/-- The extension instruction that a 32-bit word names; none where funct3 and funct7 match no row (R308). XVREG, whose operation
stands in the block in memory (R408), is one word. -/
def decodeSedge (w : BitVec 32) : Option Instr :=
  let op := (w.extractLsb' 0 7).toNat
  let f3 := (w.extractLsb' 12 3).toNat
  let f7 := (w.extractLsb' 25 7).toNat
  let f := hForm w
  if op = 0x0B then
    if f3 = 0 && f7 = 0 then some (.xsend f) else
    if f3 = 1 && f7 = 0 then some (.xfres f) else
    if f3 = 2 && f7 = 0 then some (.xfrestok f) else
    if f3 = 3 && f7 = 0 then some (.xfdec f) else
    if f3 = 4 && f7 < 4 then some (.xftest f (w.extractLsb' 25 2)) else
    if f3 = 5 && f7 < 2 then some (.xfwait f (w.extractLsb' 25 1)) else
    if f3 = 6 && f7 = 0 then some (.xcqpop f) else
    if f3 = 7 && f7 < 4 then some (.xfence f (w.extractLsb' 25 2)) else
    none
  else if op = 0x2B then
    if f3 = 0 && f7 < 16 then some (.xcapset f (w.extractLsb' 25 4)) else
    if f3 = 1 && f7 = 0 then some (.xcapclr f) else
    if f3 = 2 && f7 = 0 then some (.xcpyr f) else
    if f3 = 3 && f7 = 0 then some (.xvreg f) else
    none
  else none

/-! ### The encoder -/

def boolBit (b : Bool) : BitVec 1 := BitVec.ofBool b

def XForm.bits (f : XForm) : BitVec 44 := f.d ++ f.a ++ f.b ++ f.c ++ f.fmt ++ f.rm ++ boolBit f.sat ++ f.fn
def IForm.bits (f : IForm) : BitVec 44 := f.d ++ f.a ++ f.imm
def LForm.bits (f : LForm) : BitVec 44 := f.d ++ f.imm
def BForm.bits (f : BForm) : BitVec 44 := f.cond ++ boolBit f.hint ++ f.a ++ f.imm
def MForm.bits (f : MForm) : BitVec 44 := f.d ++ f.a ++ f.b ++ f.fmt ++ f.mode ++ f.ofs
def VForm.bits (f : VForm) : BitVec 44 :=
  f.hd ++ f.ha ++ f.hb ++ f.hc ++ f.g ++ f.fmt ++ f.rm ++ boolBit f.sat ++ f.mask ++ f.fn
def TForm.bits (f : TForm) : BitVec 44 :=
  f.acc ++ f.ws ++ f.ha ++ f.hs ++ f.fa ++ f.fb ++ f.rm ++ boolBit f.sat ++ f.fn
def YForm.bits (f : YForm) : BitVec 44 := f.d ++ f.a ++ f.b ++ f.obj ++ f.sub ++ f.imm

/-- A word of class A, C or S (R82). -/
def wordOf (cls : BitVec 2) (h : Hdr) (op : BitVec 8) (ops : BitVec 44) : BitVec 64 :=
  cls ++ boolBit h.stop ++ boolBit h.popu ++ boolBit h.popd ++ boolBit h.pushu ++ boolBit h.pushd ++ h.guard ++ op ++ ops

/-- A control-class word: STOP set, RSVD bits zero (R84, R143). -/
def controlWord (op : BitVec 8) (f : BForm) : BitVec 64 := (0b00#2) ++ (0b1#1) ++ (0#4) ++ (0#5) ++ op ++ f.bits

/-- An extension word in the R-type layout (R308). -/
def sedgeWord (f7 : BitVec 7) (f3 : BitVec 3) (op : BitVec 7) (f : HForm) : BitVec 32 := f7 ++ f.b ++ f.a ++ f3 ++ f.d ++ op

/-- The 64-bit word of a Talquin instruction; none for the other rows. -/
def Instr.word : Instr → Option (BitVec 64)
  | .nop f => some (controlWord 0x00#8 f)
  | .br f => some (controlWord 0x01#8 f)
  | .bri f => some (controlWord 0x02#8 f)
  | .call f => some (controlWord 0x03#8 f)
  | .calli f => some (controlWord 0x04#8 f)
  | .ret f => some (controlWord 0x05#8 f)
  | .loop f => some (controlWord 0x06#8 f)
  | .loopi f => some (controlWord 0x07#8 f)
  | .brk f => some (controlWord 0x08#8 f)
  | .trap f => some (controlWord 0x09#8 f)
  | .hintWord cls opc h ops => some (wordOf cls h (0xF#4 ++ opc) ops)
  | .add h f => some (wordOf 2#2 h 0x00#8 f.bits)
  | .addi h f => some (wordOf 2#2 h 0x01#8 f.bits)
  | .sub h f => some (wordOf 2#2 h 0x02#8 f.bits)
  | .mul h f => some (wordOf 2#2 h 0x03#8 f.bits)
  | .muli h f => some (wordOf 2#2 h 0x04#8 f.bits)
  | .mulh h f => some (wordOf 2#2 h 0x05#8 f.bits)
  | .mulhn h f => some (wordOf 2#2 h 0x06#8 f.bits)
  | .div h f => some (wordOf 2#2 h 0x07#8 f.bits)
  | .divn h f => some (wordOf 2#2 h 0x08#8 f.bits)
  | .rem h f => some (wordOf 2#2 h 0x09#8 f.bits)
  | .remn h f => some (wordOf 2#2 h 0x0A#8 f.bits)
  | .and h f => some (wordOf 2#2 h 0x0B#8 f.bits)
  | .andi h f => some (wordOf 2#2 h 0x0C#8 f.bits)
  | .or h f => some (wordOf 2#2 h 0x0D#8 f.bits)
  | .ori h f => some (wordOf 2#2 h 0x0E#8 f.bits)
  | .xor h f => some (wordOf 2#2 h 0x0F#8 f.bits)
  | .xori h f => some (wordOf 2#2 h 0x10#8 f.bits)
  | .shl h f => some (wordOf 2#2 h 0x11#8 f.bits)
  | .shli h f => some (wordOf 2#2 h 0x12#8 f.bits)
  | .shr h f => some (wordOf 2#2 h 0x13#8 f.bits)
  | .shri h f => some (wordOf 2#2 h 0x14#8 f.bits)
  | .sra h f => some (wordOf 2#2 h 0x15#8 f.bits)
  | .srai h f => some (wordOf 2#2 h 0x16#8 f.bits)
  | .rol h f => some (wordOf 2#2 h 0x17#8 f.bits)
  | .roli h f => some (wordOf 2#2 h 0x18#8 f.bits)
  | .clz h f => some (wordOf 2#2 h 0x19#8 f.bits)
  | .ctz h f => some (wordOf 2#2 h 0x1A#8 f.bits)
  | .popc h f => some (wordOf 2#2 h 0x1B#8 f.bits)
  | .min h f => some (wordOf 2#2 h 0x1C#8 f.bits)
  | .max h f => some (wordOf 2#2 h 0x1D#8 f.bits)
  | .minn h f => some (wordOf 2#2 h 0x1E#8 f.bits)
  | .maxn h f => some (wordOf 2#2 h 0x1F#8 f.bits)
  | .abs h f => some (wordOf 2#2 h 0x20#8 f.bits)
  | .sel h f => some (wordOf 2#2 h 0x21#8 f.bits)
  | .movi h f => some (wordOf 2#2 h 0x22#8 f.bits)
  | .movhi h f => some (wordOf 2#2 h 0x23#8 f.bits)
  | .lea h f => some (wordOf 2#2 h 0x24#8 f.bits)
  | .sext h f => some (wordOf 2#2 h 0x25#8 f.bits)
  | .zext h f => some (wordOf 2#2 h 0x26#8 f.bits)
  | .bfx h f => some (wordOf 2#2 h 0x27#8 f.bits)
  | .bfi h f => some (wordOf 2#2 h 0x28#8 f.bits)
  | .bswap h f => some (wordOf 2#2 h 0x29#8 f.bits)
  | .cmp h f => some (wordOf 2#2 h 0x2A#8 f.bits)
  | .cmpi h f => some (wordOf 2#2 h 0x2B#8 f.bits)
  | .pand h f => some (wordOf 2#2 h 0x2C#8 f.bits)
  | .por h f => some (wordOf 2#2 h 0x2D#8 f.bits)
  | .pxor h f => some (wordOf 2#2 h 0x2E#8 f.bits)
  | .pnot h f => some (wordOf 2#2 h 0x2F#8 f.bits)
  | .pset h f => some (wordOf 2#2 h 0x30#8 f.bits)
  | .pget h f => some (wordOf 2#2 h 0x31#8 f.bits)
  | .fadd h f => some (wordOf 2#2 h 0x32#8 f.bits)
  | .fsub h f => some (wordOf 2#2 h 0x33#8 f.bits)
  | .fmul h f => some (wordOf 2#2 h 0x34#8 f.bits)
  | .ffma h f => some (wordOf 2#2 h 0x35#8 f.bits)
  | .fdiv h f => some (wordOf 2#2 h 0x36#8 f.bits)
  | .fsqrt h f => some (wordOf 2#2 h 0x37#8 f.bits)
  | .fmin h f => some (wordOf 2#2 h 0x38#8 f.bits)
  | .fmax h f => some (wordOf 2#2 h 0x39#8 f.bits)
  | .fcmp h f => some (wordOf 2#2 h 0x3A#8 f.bits)
  | .fcvt h f => some (wordOf 2#2 h 0x3B#8 f.bits)
  | .fclass h f => some (wordOf 2#2 h 0x3C#8 f.bits)
  | .fmt h f => some (wordOf 2#2 h 0x3D#8 f.bits)
  | .rnd h f => some (wordOf 2#2 h 0x3E#8 f.bits)
  | .rndf h f => some (wordOf 2#2 h 0x3F#8 f.bits)
  | .shld h f => some (wordOf 2#2 h 0x40#8 f.bits)
  | .shst h f => some (wordOf 2#2 h 0x41#8 f.bits)
  | .shset h f => some (wordOf 2#2 h 0x42#8 f.bits)
  | .shofs h f => some (wordOf 2#2 h 0x43#8 f.bits)
  | .vmov h f => some (wordOf 2#2 h 0x44#8 f.bits)
  | .vfill h f => some (wordOf 2#2 h 0x45#8 f.bits)
  | .vadd h f => some (wordOf 2#2 h 0x46#8 f.bits)
  | .vsub h f => some (wordOf 2#2 h 0x47#8 f.bits)
  | .vmul h f => some (wordOf 2#2 h 0x48#8 f.bits)
  | .vfma h f => some (wordOf 2#2 h 0x49#8 f.bits)
  | .vmin h f => some (wordOf 2#2 h 0x4A#8 f.bits)
  | .vmax h f => some (wordOf 2#2 h 0x4B#8 f.bits)
  | .vabs h f => some (wordOf 2#2 h 0x4C#8 f.bits)
  | .vneg h f => some (wordOf 2#2 h 0x4D#8 f.bits)
  | .vand h f => some (wordOf 2#2 h 0x4E#8 f.bits)
  | .vor h f => some (wordOf 2#2 h 0x4F#8 f.bits)
  | .vxor h f => some (wordOf 2#2 h 0x50#8 f.bits)
  | .vshl h f => some (wordOf 2#2 h 0x51#8 f.bits)
  | .vshr h f => some (wordOf 2#2 h 0x52#8 f.bits)
  | .vcmp h f => some (wordOf 2#2 h 0x53#8 f.bits)
  | .vsel h f => some (wordOf 2#2 h 0x54#8 f.bits)
  | .vcvt h f => some (wordOf 2#2 h 0x55#8 f.bits)
  | .vquant h f => some (wordOf 2#2 h 0x56#8 f.bits)
  | .vred h f => some (wordOf 2#2 h 0x57#8 f.bits)
  | .vscan h f => some (wordOf 2#2 h 0x58#8 f.bits)
  | .vexp h f => some (wordOf 2#2 h 0x59#8 f.bits)
  | .vlog h f => some (wordOf 2#2 h 0x5A#8 f.bits)
  | .vrcp h f => some (wordOf 2#2 h 0x5B#8 f.bits)
  | .vrsq h f => some (wordOf 2#2 h 0x5C#8 f.bits)
  | .vtanh h f => some (wordOf 2#2 h 0x5D#8 f.bits)
  | .verf h f => some (wordOf 2#2 h 0x5E#8 f.bits)
  | .vcmul h f => some (wordOf 2#2 h 0x5F#8 f.bits)
  | .vcmac h f => some (wordOf 2#2 h 0x60#8 f.bits)
  | .vgath h f => some (wordOf 2#2 h 0x61#8 f.bits)
  | .vscat h f => some (wordOf 2#2 h 0x62#8 f.bits)
  | .vtrans h f => some (wordOf 2#2 h 0x63#8 f.bits)
  | .vrnd h f => some (wordOf 2#2 h 0x64#8 f.bits)
  | .mldb h f => some (wordOf 2#2 h 0x70#8 f.bits)
  | .mma h f => some (wordOf 2#2 h 0x71#8 f.bits)
  | .mmac h f => some (wordOf 2#2 h 0x72#8 f.bits)
  | .mzero h f => some (wordOf 2#2 h 0x73#8 f.bits)
  | .mst h f => some (wordOf 2#2 h 0x74#8 f.bits)
  | .mbar h f => some (wordOf 2#2 h 0x75#8 f.bits)
  | .mcfgWeight h f => some (wordOf 2#2 h 0x76#8 f.bits)
  | .mcfgGate h f => some (wordOf 2#2 h 0x76#8 f.bits)
  | .mcfgClrsat h f => some (wordOf 2#2 h 0x76#8 f.bits)
  | .ld h f => some (wordOf 1#2 h 0x00#8 f.bits)
  | .st h f _ => some (wordOf 1#2 h 0x01#8 f.bits)
  | .ldg h f => some (wordOf 1#2 h 0x02#8 f.bits)
  | .stg h f _ => some (wordOf 1#2 h 0x03#8 f.bits)
  | .ldc h f => some (wordOf 1#2 h 0x04#8 f.bits)
  | .cinvLine h f => some (wordOf 1#2 h 0x05#8 f.bits)
  | .cinvAll h f => some (wordOf 1#2 h 0x05#8 f.bits)
  | .cinvI h f => some (wordOf 1#2 h 0x05#8 f.bits)
  | .atom h f => some (wordOf 1#2 h 0x06#8 f.bits)
  | .cpy h f => some (wordOf 1#2 h 0x07#8 f.bits)
  | .cpym h f => some (wordOf 1#2 h 0x08#8 f.bits)
  | .cpyq h f => some (wordOf 1#2 h 0x09#8 f.bits)
  | .pref h f => some (wordOf 1#2 h 0x0A#8 f.bits)
  | .atomg h f => some (wordOf 1#2 h 0x10#8 f.bits)
  | .red h f => some (wordOf 1#2 h 0x11#8 f.bits)
  | .lrw h f => some (wordOf 1#2 h 0x12#8 f.bits)
  | .sch h f => some (wordOf 1#2 h 0x13#8 f.bits)
  | .schRel h f => some (wordOf 1#2 h 0x13#8 f.bits)
  | .commit h f => some (wordOf 3#2 h 0x00#8 f.bits)
  | .yield h f => some (wordOf 3#2 h 0x01#8 f.bits)
  | .exit h f => some (wordOf 3#2 h 0x02#8 f.bits)
  | .send h f => some (wordOf 3#2 h 0x03#8 f.bits)
  | .sendi h f => some (wordOf 3#2 h 0x04#8 f.bits)
  | .spawn h f => some (wordOf 3#2 h 0x05#8 f.bits)
  | .migrate h f => some (wordOf 3#2 h 0x06#8 f.bits)
  | .fnew h f => some (wordOf 3#2 h 0x08#8 f.bits)
  | .fres h f => some (wordOf 3#2 h 0x09#8 f.bits)
  | .fdec h f => some (wordOf 3#2 h 0x0A#8 f.bits)
  | .ftest h f => some (wordOf 3#2 h 0x0B#8 f.bits)
  | .ftestV h f => some (wordOf 3#2 h 0x0B#8 f.bits)
  | .ftestC h f => some (wordOf 3#2 h 0x0B#8 f.bits)
  | .ftestF h f => some (wordOf 3#2 h 0x0B#8 f.bits)
  | .await h f => some (wordOf 3#2 h 0x0C#8 f.bits)
  | .fcall h f => some (wordOf 3#2 h 0x0D#8 f.bits)
  | .ffree h f => some (wordOf 3#2 h 0x0E#8 f.bits)
  | .rtmk h f => some (wordOf 3#2 h 0x0F#8 f.bits)
  | .binit h f => some (wordOf 3#2 h 0x10#8 f.bits)
  | .barr h f => some (wordOf 3#2 h 0x11#8 f.bits)
  | .barrx h f => some (wordOf 3#2 h 0x12#8 f.bits)
  | .bexp h f => some (wordOf 3#2 h 0x13#8 f.bits)
  | .bwait h f => some (wordOf 3#2 h 0x14#8 f.bits)
  | .btest h f => some (wordOf 3#2 h 0x15#8 f.bits)
  | .btestS h f => some (wordOf 3#2 h 0x15#8 f.bits)
  | .btestP h f => some (wordOf 3#2 h 0x15#8 f.bits)
  | .tdef h f => some (wordOf 3#2 h 0x18#8 f.bits)
  | .tfree h f => some (wordOf 3#2 h 0x19#8 f.bits)
  | .tacq h f => some (wordOf 3#2 h 0x1A#8 f.bits)
  | .trel h f => some (wordOf 3#2 h 0x1B#8 f.bits)
  | .tqry h f => some (wordOf 3#2 h 0x1C#8 f.bits)
  | .fence h f => some (wordOf 3#2 h 0x1D#8 f.bits)
  | .scopeRd h f => some (wordOf 3#2 h 0x1E#8 f.bits)
  | .scopeWr h f => some (wordOf 3#2 h 0x1E#8 f.bits)
  | .srr h f => some (wordOf 3#2 h 0x20#8 f.bits)
  | .srw h f => some (wordOf 3#2 h 0x21#8 f.bits)
  | .collBcast h f => some (wordOf 3#2 h 0x28#8 f.bits)
  | .collReduce h f => some (wordOf 3#2 h 0x28#8 f.bits)
  | .collAllred h f => some (wordOf 3#2 h 0x28#8 f.bits)
  | _ => none

/-- The 32-bit word of a Sedge extension instruction; none for the other rows. -/
def Instr.sedge : Instr → Option (BitVec 32)
  | .xsend f => some (sedgeWord 0 0 0x0B f)
  | .xfres f => some (sedgeWord 0 1 0x0B f)
  | .xfrestok f => some (sedgeWord 0 2 0x0B f)
  | .xfdec f => some (sedgeWord 0 3 0x0B f)
  | .xftest f m => some (sedgeWord ((0#5) ++ m) 4 0x0B f)
  | .xfwait f n => some (sedgeWord ((0#6) ++ n) 5 0x0B f)
  | .xcqpop f => some (sedgeWord 0 6 0x0B f)
  | .xfence f k => some (sedgeWord ((0#5) ++ k) 7 0x0B f)
  | .xcapset f i => some (sedgeWord ((0#3) ++ i) 0 0x2B f)
  | .xcapclr f => some (sedgeWord 0 1 0x2B f)
  | .xcpyr f => some (sedgeWord 0 2 0x2B f)
  | .xvreg f | .xvregUnregister f | .xvregRetry f => some (sedgeWord 0 3 0x2B f)
  | _ => none

/-- The opcode of a Talquin instruction (R106 to R109), as info words name it (R150). -/
def Instr.opcode (i : Instr) : Nat := match i.word with
  | some w => (w.extractLsb' 44 8).toNat
  | none => 0

/-- The instruction that the decoder reads from the bits of a row of the opcode table: 32 bits are a Sedge word, 64 bits a Talquin
word. -/
def decodeTableWord (nbits w : Nat) : Option Instr :=
  if nbits ≤ 32 then decodeSedge (BitVec.ofNat 32 w)
  else match decode (BitVec.ofNat 64 w) with
    | .ok i => some i
    | _ => none

end Sys2Proof
end

