-- ==== Sys2Proof/Machine/Control.lean ====
section
/-! DEFINITION. Control-class words, executed by the front end: branches (R144), hardware loops (R145 to R148), breakpoints and traps
(R149), with the limits of inline code (R260). -/

namespace Sys2Proof.Machine

open Host (Outcome)

/-- End of a loop level (R145). -/
def Loop.stop (l : Loop) : Nat := (l.start + 8 * l.len) % 2 ^ 48
/-- The body of a level holds an address (R148). -/
def Loop.holds (l : Loop) (t : Nat) : Bool := l.start ≤ t && t < l.start + 8 * l.len

/-- LOOP_BACK (R146): the next address and the loop stack, innermost level first. -/
def loopBack (pc : Nat) : List Loop → Nat × List Loop
  | [] => (pc, [])
  | l :: r =>
    if pc = l.stop then
      if 0 < l.remain then (l.start, { l with remain := l.remain - 1 } :: r) else loopBack pc r
    else (pc, l :: r)

/-- What a control word does: the activation goes on, or the word raises a fault with its info word. -/
inductive CtlRes where
  | go (a : Act)
  | fail (code info : Nat)
  deriving Repr

/-- The word is executed by the front end: a control word or FMT (R92, R100). -/
def QEntry.isFmt (e : QEntry) : Bool :=
  match decode e.word with
  | .ok (.fmt _ _) => true
  | _ => false
def QEntry.isFront (e : QEntry) : Bool := e.word.extractLsb' 62 2 == 0 || e.isFmt

/-- The prefix that an FMT word records (R100). -/
def fmtPrefix (f : XForm) : Pfx :=
  let v := f.fn.toNat
  { f1 := if bitOf v 3 then some f.fmt.toNat else none, f2 := if bitOf v 2 then some (fieldOf v 10 6) else none,
    rm := if bitOf v 1 then some f.rm.toNat else none, sat := if bitOf v 0 then some f.sat else none }

/-- An FMT word leaves its prefix pending, or none where its guard is false (R100). -/
def Act.prefixed (a : Act) (h : Hdr) (f : XForm) : Act := { a with pfx := if condTrue h.guard a then some (fmtPrefix f) else none }

/-- A dispatched member enters its queue, with the pending prefix (R89, R101). -/
def Act.enter (a : Act) (e : QEntry) : Act :=
  let q := (e.word.extractLsb' 62 2).toNat - 1
  { a.setQueue q (a.queue q ++ [e]) with pfx := none }

/-- An FMT word in the middle of a group takes effect as the group is dispatched; with a prefix pending it raises ILLEGAL_STATE (R101). -/
def Act.fmtInGroup (a : Act) (e : QEntry) : Act :=
  match decode e.word with
  | .ok (.fmt h f) => if a.pfx.isSome then { a with faults := a.faults ++ [{ n := e.n, pc := e.pc, code := 4, info := 0 }] } else a.prefixed h f
  | _ => a

/-- All members of a group enter their queues in word order, in one cycle (R89); the words of its end that the front end executes stand
there. -/
def Act.enterAll (a : Act) : List QEntry → Act
  | [] => a
  | e :: r =>
    if !e.isFront then (a.enter e).enterAll r
    else if r.all QEntry.isFront then { a with front := some e, rest := r }
    else (a.fmtInGroup e).enterAll r

/-- The front end has executed its word; the next one of the group stands there. -/
def Act.frontDone (a : Act) : Act := { a.progress with front := a.rest.head?, rest := a.rest.tail }

/-- The course of a control word (R102): the front end is free again, or the fault is raised. -/
def frontEnd (s : State) (f : Act → CtlRes) : Outcome State Fault Refusal :=
  match s.cur with
  | none => .fault .noActivation
  | some a =>
    match f a with
    | .go a' => .next (s.setCur a'.frontDone)
    | .fail code info => .next (s.raiseCur code info 0 0 0)

/-- The address after the control word. -/
def State.seqPc (s : State) : Nat := (s.focus.pc + 8) % 2 ^ 48

/-- Code words of the inline-code message that the activation runs from, else 0 (R260). -/
def State.ncode (s : State) : Nat :=
  let m := ((s.eng s.focus.g).entry s.focus.k).msg
  if m.kind = 2 then fieldOf m.hdr 31 28 else 0

/-- A target in the inline region that is no code word of the activation (R260). -/
def badInline (ncode t : Nat) : Bool := inlineBase ≤ t && !(t < inlineBase + 8 * ncode)

/-- A taken transfer to `t` (R144, R148, R260): a branch leaves the loop levels that do not hold its target; a call or return out of
the innermost body is a fault. The check of the inline region comes before that of the loop body (DESIGN CHOICE, log 79: no rule
orders them). -/
def jump (ncode : Nat) (call : Bool) (t : Nat) (link : Act → Act) (a : Act) : CtlRes :=
  if t % 8 ≠ 0 then .fail 10 t
  else if badInline ncode t then .fail 4 0x10
  else if call then
    match a.loops with
    | l :: _ => if l.holds t then .go (link { a with pc := t }) else .fail 4 3
    | [] => .go (link { a with pc := t })
  else .go (link { a with pc := t, loops := a.loops.dropWhile (fun l => !l.holds t) })

/-- The target of BRI and CALLI (R104, R144). -/
def relTarget (s : State) (f : BForm) : Nat := (((s.focus.pc : Int) + 8 * f.imm.toInt) % (2 ^ 48 : Nat)).toNat

/-- A transfer to the address in a register (R144). -/
def jumpReg (ncode : Nat) (call : Bool) (t : Nat) (link : Act → Act) (a : Act) : CtlRes :=
  if t / 2 ^ 48 ≠ 0 then .fail 3 t else jump ncode call t link a

/-- A conditional transfer (R144): not taken, it goes on at the next word. -/
def branch (s : State) (f : BForm) (taken : Act → CtlRes) : Outcome State Fault Refusal :=
  frontEnd s (fun a => if condTrue f.cond a then taken a else .go { a with pc := s.seqPc })

/-- NOP (R143). -/
def execNop (_f : BForm) (s : State) : Outcome State Fault Refusal := frontEnd s (fun a => .go { a with pc := s.seqPc })

/-- BR (R144). -/
def execBr (f : BForm) (s : State) : Outcome State Fault Refusal :=
  branch s f (fun a => jumpReg s.ncode false (a.ug f.a.toNat) id a)

/-- BRI (R144). -/
def execBri (f : BForm) (s : State) : Outcome State Fault Refusal :=
  branch s f (jump s.ncode false (relTarget s f) id)

/-- The return address in g63 (R144). -/
def linkTo (s : State) (a : Act) : Act := a.wn 63 s.seqPc

/-- CALL (R144): the target is read before g63 is written. -/
def execCall (f : BForm) (s : State) : Outcome State Fault Refusal :=
  branch s f (fun a => jumpReg s.ncode true (a.ug f.a.toNat) (linkTo s) a)

/-- CALLI (R144). -/
def execCalli (f : BForm) (s : State) : Outcome State Fault Refusal :=
  branch s f (jump s.ncode true (relTarget s f) (linkTo s))

/-- RET (R144). -/
def execRet (f : BForm) (s : State) : Outcome State Fault Refusal :=
  branch s f (fun a => jumpReg s.ncode true (a.ug 63) id a)

/-- Opens a loop level, or skips its body (R145). The check of the inline region (R260) stands between those of the depth and of the
enclosing body (DESIGN CHOICE, log 79: no rule orders them). -/
def openLoop (s : State) (f : BForm) (count : Act → Nat) : Outcome State Fault Refusal :=
  frontEnd s (fun a =>
    let n := if condTrue f.cond a then count a else 0
    let len := f.imm.toNat % 65536
    let start := s.seqPc
    let stop := (start + 8 * len) % 2 ^ 48
    if n = 0 then
      let (pc, loops) := loopBack stop a.loops
      .go { a with pc := pc, loops := loops }
    else if 3 ≤ a.loops.length then .fail 4 1
    else if badInline s.ncode start then .fail 4 0x10
    else
      match a.loops with
      | l :: _ =>
        if l.start + 8 * l.len < start + 8 * len then .fail 4 2
        else .go { a with pc := start, loops := { start := start, len := len, remain := n - 1 } :: a.loops }
      | [] => .go { a with pc := start, loops := [{ start := start, len := len, remain := n - 1 }] })

/-- LOOP (R145). -/
def execLoop (f : BForm) (s : State) : Outcome State Fault Refusal := openLoop s f (fun a => a.ug f.a.toNat % 2 ^ 32)

/-- LOOPI (R145). -/
def execLoopi (f : BForm) (s : State) : Outcome State Fault Refusal := openLoop s f (fun _ => f.imm.toNat / 65536)

/-- BRK (R149): a replayable fault with code BREAK. -/
def execBrk (f : BForm) (s : State) : Outcome State Fault Refusal := frontEnd s (fun _ => .fail 22 f.imm.toNat)

/-- TRAP (R149). -/
def execTrap (f : BForm) (s : State) : Outcome State Fault Refusal :=
  frontEnd s (fun _ => .fail 4 (4 + f.imm.toNat * 2 ^ 32))

end Sys2Proof.Machine
end

