-- ==== Sys2Proof/Machine/Copies.lean ====
section
/-! DEFINITION. The copy engine (R198 to R211): the start of a copy and its checks, the sectors in walk order, their landing, skipped
sectors with their records, and the replay of a held page. -/

namespace Sys2Proof.Machine

open Host (Outcome)

/-! ### The descriptor (R198) -/

def Copy.bytes (c : Copy) (o n : Nat) : Nat := ofLE ((c.desc.drop o).take n)
def Copy.src (c : Copy) : Nat := c.bytes 0 8
def Copy.dst (c : Copy) : Nat := c.bytes 8 8
def Copy.ctl (c : Copy) : Nat := c.bytes 16 8
def Copy.dir (c : Copy) : Nat := c.ctl % 4
def Copy.rm (c : Copy) : Nat := fieldOf c.ctl 15 13
def Copy.sat (c : Copy) : Bool := bitOf c.ctl 16
def Copy.policy (c : Copy) : Nat := fieldOf c.ctl 22 21
def Copy.mask (c : Copy) : Nat := fieldOf c.ctl 39 24
def Copy.tag (c : Copy) : Nat := fieldOf c.ctl 55 40
/-- Strides of dimension `j` ≥ 1 in bytes. -/
def Copy.stride (c : Copy) (source : Bool) (j : Nat) : Int :=
  signed 40 (c.bytes (32 + 12 * (j - 1) + (if source then 2 else 7)) 5)
def Copy.fmt (c : Copy) (source : Bool) : Nat := if source then c.fsrc else c.fdst
/-- A side stands in global memory (DIR, R198). -/
def Copy.global (c : Copy) (source : Bool) : Bool := if source then c.dir != 1 else c.dir != 0
def Copy.base (c : Copy) (source : Bool) : Nat :=
  let v := if source then c.src else c.dst
  if c.global source then v else v % 2 ^ 17

/-! ### Elements in walk order (R199) -/

/-- Bytes of one unit on a side: an element, or a block of 64 where a side is CE4M3 (R201). -/
def Copy.unit (c : Copy) (source : Bool) : Nat :=
  let f := c.fmt source
  if f = 10 then 128 else if c.blocked then 64 * fmtWidth f / 8 else max 1 (fmtWidth f / 8)

/-- The index of unit `n` along dimension `j`. -/
def Copy.digit (c : Copy) (n j : Nat) : Nat :=
  if j = 0 then n % c.ext0
  else n / ((List.range (j - 1)).map (fun i => c.ext (i + 1))).foldl (· * ·) c.ext0 % c.ext j

/-- The place of unit `n` on a side, in nibbles from the base. -/
def Copy.nib (c : Copy) (source : Bool) (n : Nat) : Int :=
  let f := c.fmt source
  let i0 := c.digit n 0
  let along : Nat := if f = 10 then 256 * i0 else if c.blocked then 16 * fmtWidth f * i0 else i0 * fmtWidth f / 4
  along + 2 * ((List.range (c.rank - 1)).map (fun k => (c.digit n (k + 1) : Int) * c.stride source (k + 1))).sum

/-- Its address, and whether it is the high nibble of the byte. -/
def Copy.place (c : Copy) (source : Bool) (n : Nat) : Nat × Bool :=
  let o := c.nib source n
  (addr64 ((c.base source : Int) + o / 2), o % 2 = 1)

/-- The granules that bound a sector: those of the global sides (R201). -/
def Copy.granules (c : Copy) (n : Nat) : Nat × Nat :=
  (if c.global true then (c.place true n).1 / 128 else 0, if c.global false then (c.place false n).1 / 128 else 0)

/-- Units from `n` on that stay in the granules `k`. -/
def Copy.run (c : Copy) (k : Nat × Nat) : Nat → Nat → Nat
  | 0, _ => 0
  | fuel + 1, n => if n < c.total && c.granules n = k then c.run k fuel (n + 1) + 1 else 0

/-- The sector that begins at unit `c.next`. -/
def Copy.sector (c : Copy) : SecRef :=
  { i := c.sectors, first := c.next, len := if c.blocked then 1 else c.run (c.granules c.next) c.total c.next }

/-- A run of bytes cut at granule boundaries; `k` bounds the pieces. -/
def cutRun : Nat → Nat → Nat → List (Nat × Nat)
  | 0, _, _ => []
  | k + 1, a, n =>
    if n = 0 then [] else
    let m := min n (128 - a % 128)
    (a, m) :: cutRun k (a + m) (n - m)

/-- The bytes of a sector on a global side: address and number, within a granule each. -/
def Copy.pieces (c : Copy) (source : Bool) (r : SecRef) : List (Nat × Nat) :=
  let ads := (List.range r.len).map (fun k => (c.place source (r.first + k)).1)
  let lo := ads.foldl min (ads.headD 0)
  let hi := ads.foldl max 0
  cutRun (c.unit source / 128 + 2) lo (hi + c.unit source - lo)

/-! ### Start and checks (R200, R206) -/

/-- Destination bytes of the copy (R199). -/
def Copy.count (c : Copy) : Nat :=
  let rows := ((List.range 8).map (fun j => c.ext (j + 1))).foldl (· * ·) 1
  rows * (if c.fdst = 10 then 128 * (c.ext 0 / 64) else (c.ext 0 * fmtWidth c.fdst + 7) / 8)

/-- The span of a side: lowest address and end, relative to the base. -/
def Copy.span (c : Copy) (source : Bool) : Int × Int :=
  let f := c.fmt source
  let row : Int := if f = 10 then (128 * (c.ext 0 / 64) : Nat) else ((c.ext 0 * fmtWidth f + 7) / 8 : Nat)
  let ds := (List.range (c.rank - 1)).map (fun k => ((c.ext (k + 1) : Int) - 1) * c.stride source (k + 1))
  ((ds.map (fun d => min d 0)).sum, row + (ds.map (fun d => max d 0)).sum)

/-- A conversion pair that R69 and check 2 of R200 reject. -/
def badPair (fs fd dir : Nat) : Bool :=
  isMx fs || isMx fd || (isInt fs && fd == 6) || (isCplx fs != isCplx fd) || (fd == 10 && dir != 1)

/-- A 4-bit or CE4M3 side needs E0 a multiple of 2 or 64. -/
def badE0 (f e0 : Nat) : Bool := (fmtWidth f == 4 && e0 % 2 != 0) || (f == 10 && e0 % 64 != 0)

/-- Alignment of the base and strides of a side (check 4). -/
def Copy.misaligned (c : Copy) (source : Bool) : Bool :=
  let f := c.fmt source
  let a : Nat := if f = 10 then 128 else if 16 ≤ fmtWidth f then fmtWidth f / 8 else 1
  c.base source % a != 0 || (List.range (c.rank - 1)).any (fun k => c.stride source (k + 1) % a != 0)

/-- A scratchpad side that leaves the scratchpad (check 5). -/
def Copy.outside (c : Copy) (source : Bool) : Bool :=
  let (lo, hi) := c.span source
  !c.global source && ((c.base source : Int) + lo < 0 || (spadSize : Int) < (c.base source : Int) + hi)

/-- The code of the first failing check (R200). -/
def Copy.reject (c : Copy) (acc : Nat) : Option Nat :=
  let accepted := fun (f : Nat) => codeOk acc ([0, 1, 2, 3, 4, 5, 6, 10] ++ intCodes ++ [22, 23]) f
  let rank := fieldOf c.ctl 20 17 + 1
  if c.dir = 3 || (c.conv && 5 ≤ c.rm) || 9 < rank || (hasFeat acc 4 && c.policy = 3) || c.ext 0 = 0 ||
      (List.range (rank - 1)).any (fun k => c.ext (k + 1) = 0) ||
      (c.conv && !(accepted c.fsrc && accepted c.fdst)) || (c.mcast && c.dir ≠ 0) then some 3
  else if c.conv && (badPair c.fsrc c.fdst c.dir || badE0 c.fsrc (c.ext 0) || badE0 c.fdst (c.ext 0)) then some 3
  else if 2 ^ 39 - 1 < c.count then some 3
  else if c.misaligned true || c.misaligned false then some 10
  else if c.outside true || c.outside false then some 11
  else none

/-- The lowest slot that no started copy holds (R203). -/
def Engine.copySlot (E : Engine) : Nat := ((List.range 32).find? (fun k => !E.copies.any (fun c => c.slot == k))).getD 0

/-- WHO of a record of a copy or of the matrix unit (R399). -/
def whoEngine (g : Nat) : Nat := g / 16 + g % 16 * 1024

/-- CopyStart (R206), performed at a COMMIT: the descriptor is read and checked, and the copy starts or is rejected. -/
def State.copyStart (s : State) (g ctx addr bar : Nat) (mcast : Bool) : State :=
  let E := s.eng g
  let slot := E.copySlot
  let c : Copy := { slot := slot, id := slot + E.copyNext * 32, ctx := ctx, bar := bar, mcast := mcast,
                    desc := bytesAt E.spad addr 128, commit := E.commits, 
                    since := (List.range 16).map (fun e => (s.eng (g / 16 * 16 + e)).past.length) }
  match c.reject s.hub.featAcc with
  | some code => s.append ctx { code := code, src := 1, who := whoEngine g, wher := c.tag * 65536, info := addr }
  | none => s.setEng g { E with copies := E.copies ++ [c], copyNext := (E.copyNext + 1) % 2 ^ 11 }

/-! ### Skipped sectors and records (R209) -/

/-- A skip: code, info, reason, SHARE and page. -/
structure Skip where
  code   : Nat
  info   : Nat := 0
  reason : Nat := 0
  share  : Nat := 0
  page   : Nat
  /-- HUB_TIME of the skip (R399) -/
  time   : Nat := 0
  deriving DecidableEq, Repr

/-- The global address of a sector on a side: that of its first element. -/
def Copy.sectorAt (c : Copy) (source : Bool) (r : SecRef) : Nat := (c.place source r.first).1

/-- The sector is skipped (R209): its page is held where the cause allows and fewer than nine pages are, else it is only counted. A page
that fails both by XLATE and by VIEW_FAULT has one record, with the first code; other causes have one each (DESIGN CHOICE, log 86). -/
def Copy.skip (c : Copy) (r : SecRef) (k : Skip) : Copy :=
  let may := k.code == 7 || k.code == 17
  let fresh : HeldPage := { page := k.page, code := k.code, info := k.info, reason := k.reason, share := k.share, held := may, time := k.time,
                            sectors := [r] }
  let same := fun (p : HeldPage) => p.page == k.page && !p.recorded && !p.ninth && p.held == may && (may || p.code == k.code)
  let ninth := fun (p : HeldPage) => p.ninth && !p.recorded
  let add := fun (p : HeldPage) => { p with
    sectors := p.sectors ++ [r], info := if p.page == k.page && p.sectors.all (fun x => r.i < x.i) then k.info else p.info }
  let upd := fun (q : HeldPage → Bool) => { c with pages := c.pages.map (fun p => if q p then add p else p) }
  if c.pages.any same then upd same
  else if !may || ((c.pages.filter (fun p => p.held)).map (fun p => p.page)).eraseDups.length < 8 then
    { c with pages := c.pages ++ [fresh] }
  else if c.pages.any ninth then upd ninth
  else { c with pages := c.pages ++ [{ fresh with held := false, ninth := true }] }

/-- The copy after a sector that is skipped now. -/
def State.skip (s : State) (c : Copy) (r : SecRef) (k : Skip) : Copy := c.skip r { k with time := s.hubTime }

/-- The record of a page (R209, R399). INFO is the address of the first sector skipped (R485), the word of R420 for a view, and that of
R477 for a peer's XLATE. -/
def Copy.pageRec (c : Copy) (g : Nat) (p : HeldPage) : Rec :=
  { code := p.code, src := 1, held := p.held, ovf := p.ninth, who := whoEngine g,
    wher := c.id + c.tag * 65536 + min p.sectors.length (2 ^ 32 - 1) * 2 ^ 32, info := p.info, addr := p.page,
    reason := p.reason, share := p.share, time := some p.time }

/-- Writes the records of the pages; a page whose record is lost is not held (R401), and a page that is not held is forgotten. -/
def State.pageRecords (s : State) (g : Nat) (c : Copy) : List HeldPage → List HeldPage × State
  | [] => ([], s)
  | p :: r =>
    if p.recorded then
      let (ps, s') := s.pageRecords g c r
      (p :: ps, s')
    else
      let keep := p.held && s.fqRoom c.ctx
      let (ps, s') := (s.append c.ctx (c.pageRec g p)).pageRecords g c r
      (if keep then { p with recorded := true } :: ps else ps, s')

/-- The record of dropped engine-sectors (R208). -/
def Copy.dropRec (c : Copy) (g : Nat) : Rec :=
  { code := 20, src := 1, who := whoEngine g, wher := c.id + c.tag * 65536 + min c.drops (2 ^ 32 - 1) * 2 ^ 32,
    info := 15 + c.dropMask * 65536 }

/-- The copy at position `i` is written back, with the records it owes once its last sector has issued and none is in flight, so that a
page has one (R209); it leaves its slot when it has finished and holds no page (R203, R210). -/
def State.putCopy (s : State) (g i : Nat) (c : Copy) : State :=
  let put (t : State) (c : Copy) : State := t.modEng g (fun E => { E with copies := modifyAt E.copies i (fun _ => c) })
  if c.issuing || !c.replay.isEmpty || !c.flying.isEmpty then put s c else
  let (ps, s1) := s.pageRecords g c c.pages
  let c1 := { c with pages := ps, working := false }
  let s2 := if c1.drops = 0 then s1 else s1.append c1.ctx (c1.dropRec g)
  let c2 := { c1 with drops := 0, dropMask := 0 }
  if c2.pages.isEmpty then s2.modEng g (fun E => { E with copies := dropAt E.copies i }) else put s2 c2

/-! ### Issue (R201, R207, R209, R415) -/

/-- The page that maps an address (R209): of the leaf's size when the walk reaches one. -/
def State.pageAt (s : State) (ctx va : Nat) : Nat :=
  if va / 2 ^ 48 ≠ 0 then va / 65536 * 65536 else
  match (s.walk none va 4 0 (s.ctx ctx).ptRoot []).1 with
  | .leaf lvl _ _ _ _ => va / pageSize lvl * pageSize lvl
  | _ => va / 65536 * 65536

/-- Translates the pieces of a side; the first failure skips the sector. -/
def State.xlatePieces (s : State) (g ctx : Nat) (need : Need) : List (Nat × Nat) → Except Skip (List Seg × List Nat) × State
  | [] => (.ok ([], []), s)
  | (va, n) :: r =>
    match s.translate ctx need va n (some (g / 16, g % 16)) with
    | (.bad x, t) => (.error { code := x.code, reason := x.reason, share := x.share, page := x.page }, t)
    | (.ok tg u, t) =>
      match t.routeFault ctx (g / 16) (g % 16) tg with
      | some info => (.error { code := 15, page := t.pageAt ctx va }, t.hopFault info)
      | none =>
        match t.xlatePieces g ctx need r with
        | (.error e, t') => (.error e, t')
        | (.ok (segs, us), t') => (.ok ({ va := va, n := n, tgt := tg } :: segs, u ++ us), t')

/-- View blocks read by the segments of a source. -/
def State.segBlocks (s : State) (segs : List Seg) : List (Nat × Nat) :=
  ((segs.map (fun x => match x.tgt with
    | .dpa a _ => s.viewBlocks a x.n
    | .remote _ _ => [])).flatten).eraseDups

/-- The bytes of the segments as the copy reads them (R375), a view's in its pinned versions. -/
def State.segBytes (s : State) (g ctx : Nat) (pins : List Pin) : List Seg → List Byte × State
  | [] => ([], s)
  | x :: r =>
    match x.tgt with
    | .dpa a key =>
      let (bs, t) := s.observe (engineSeer g ctx) a x.n key
      let (rest, t') := t.segBytes g ctx pins r
      (bs.zipIdx.map (fun e => s.versionByte pins (a + e.2) e.1) ++ rest, t')
    | .remote _ _ => s.segBytes g ctx pins r

/-- A destination byte lies in a marked granule (R411). -/
def State.segMarked (s : State) (segs : List Seg) : Option Seg :=
  segs.find? (fun x => match x.tgt with
    | .dpa a _ => s.marked (a / 128)
    | .remote _ _ => false)

/-- The pins of a COMMIT last: a copy performed at it has sectors to issue (R415). -/
def State.pinsLast (s : State) (g commit : Nat) : Bool := (s.eng g).copies.any (fun c => c.commit == commit && c.issuing)

/-- The pins are those of every copy performed at the same COMMIT (R415). -/
def State.pinCopies (s : State) (g commit : Nat) (pins : List Pin) : State :=
  s.modEng g (fun E => { E with copies := E.copies.map (fun c => if c.commit = commit then { c with pins := pins } else c) })

/-- Issues one sector of the copy at position `i` (R209, R415): translated, pinned and in flight, or skipped. Nothing happens while a
view read waits. -/
def State.issueSector (s : State) (g i : Nat) (c : Copy) (r : SecRef) : State :=
  let side := fun (src : Bool) => if c.global src then c.pieces src r else []
  match s.xlatePieces g c.ctx .r (side true) with
  | (.error k, t) => t.putCopy g i (t.skip c r { k with info := c.sectorAt true r })
  | (.ok (src, u1), t) =>
    match t.xlatePieces g c.ctx .w (side false) with
    | (.error k, t') => t'.putCopy g i (t'.skip c r { k with info := c.sectorAt false r })
    | (.ok (dst, u2), t') =>
      match t'.segMarked dst with
      | some x => t'.putCopy g i (t'.skip c r { code := 8, info := c.sectorAt false r, page := t'.pageAt c.ctx x.va })
      | none =>
        let blocks := t'.segBlocks src
        let (ticket, t') := t'.shape (engineSource g) c.ctx tcBulk (2 + payloadFlits (((src ++ dst).map (fun x => x.n)).sum))
        let fly : Sector := { ref := r, src := src, dst := dst, uses := u1 ++ u2, since := t'.hubTime, ticket := ticket }
        if blocks.isEmpty then t'.putCopy g i { c with flying := c.flying ++ [fly] } else
        -- a replayed sector finds the pins ended once the last sector of the COMMIT's copies has issued
        let last := t'.pinsLast g c.commit
        match t'.serveAll (engineSeer g c.ctx) c.policy blocks (if last then c.pins else []) with
        | (.ok pins, t2) =>
          let (bs, t3) := t2.segBytes g c.ctx pins src
          let held := if last then pins else []
          (t3.pinCopies g c.commit held).putCopy g i { c with
            pins := held, flying := c.flying ++ [{ fly with data := some bs }] }
        | (.fault info, t2) =>
          t2.putCopy g i (t2.skip c r { code := 17, info := info, page := t2.pageAt c.ctx ((src.map (fun x => x.va)).headD 0) })
        | (.wait, t2) => t2
        | (.gone, t2) => t2.pinCopies g c.commit []

/-- COPY_SECTOR_ISSUE (R207, R209): the next sector of a copy whose context is current, in walk order; a replayed page's sectors first. The
engine works on at most four copies at once. -/
def execCopySectorIssue (g i : Nat) (s : State) : Outcome State Fault Refusal :=
  let E := s.eng g
  match E.copies[i]? with
  | none => .next s
  | some c =>
    if E.ctx ≠ some c.ctx || (!c.working && 4 ≤ (E.copies.filter (fun x => x.working)).length) then .next s else
    let c := { c with working := true }
    match c.replay with
    | r :: rest => .next (s.issueSector g i { c with replay := rest } r)
    | [] =>
      if c.issuing then
        let r := c.sector
        .next (s.issueSector g i { c with next := c.next + max 1 r.len, sectors := c.sectors + 1 } r)
      else .next s

/-! ### Landing (R201, R207, R208) -/

/-- A byte of a sector's global side, given the segments' bytes in order. -/
def segByte : List Seg → List Byte → Nat → Byte
  | [], _, _ => 0
  | x :: r, bs, a => if x.va ≤ a && a < x.va + x.n then bs.getD (a - x.va) 0 else segByte r (bs.drop x.n) a

/-- The codes of unit `n` read from the source: one, or the 64 of a block. `fetch i` gives the bytes that the read of element `i` sees. -/
def Copy.codes (c : Copy) (fetch : Nat → Nat → Byte) (n : Nat) : List Nat :=
  let (a, hi) := c.place true n
  let bs := fun i => (List.range (c.unit true)).map (fun k => fetch i (a + k))
  let w := fmtWidth c.fsrc
  if c.fsrc = 10 then (List.range 64).map (fun k => (ceDecode (bs k)).getD k 0)
  else if c.blocked then
    (List.range 64).map (fun k =>
      if w = 4 then ((bs k).getD (k / 2) 0).toNat / (if k % 2 = 1 then 16 else 1) % 16
      else ofLE (((bs k).drop (k * (w / 8))).take (w / 8)))
  else [elemCode c.fsrc hi (bs 0)]

/-- Conversion of one code (R69 to R71). -/
def Copy.convert (c : Copy) (code : Nat) : Nat :=
  let g : Gen := { s0 := 0, s1 := 0 }
  if !c.conv then code
  else if isCplx c.fsrc then
    let ws := fmtWidth c.fsrc / 2
    let wd := fmtWidth c.fdst / 2
    let part := fun (x : Nat) => wrapTo wd (if c.sat then satI wd (signed ws x) else signed ws x)
    part (code % 2 ^ ws) + 2 ^ wd * part (code / 2 ^ ws)
  else (g.convert (elemFmt c.fsrc) (elemFmt c.fdst) c.rm c.sat code).1

/-- What unit `n` writes: its address, its bytes, and the nibble for a 4-bit element. -/
def Copy.writes (c : Copy) (fetch : Nat → Nat → Byte) (n : Nat) : Nat × List Byte × Option Bool :=
  let (a, hi) := c.place false n
  let out := (c.codes fetch n).map c.convert
  let w := fmtWidth c.fdst
  if c.fdst = 10 then (a, ceEncode out, none)
  else if c.blocked then (a, packCodes w out, none)
  else (a, codeBytes c.fdst (out.headD 0), if w = 4 then some hi else none)

/-- Bytes with one unit's write in place; the list begins at address `lo`. -/
def patch (lo : Nat) (bs : List Byte) (x : Nat × List Byte × Option Bool) : List Byte :=
  match x.2.2 with
  | some hi => modifyAt bs (x.1 - lo) (fun old => setNibble old (x.2.1.headD 0) hi)
  | none => overlay bs (x.1 - lo) x.2.1

/-- The scratchpad with one unit's write in place. -/
def patchUnit (m : Sparse Byte) (x : Nat × List Byte × Option Bool) : Sparse Byte :=
  match x.2.2 with
  | some hi => m.put 0 x.1 (setNibble (m.get 0 x.1) (x.2.1.headD 0) hi)
  | none => putBytes m x.1 x.2.1

/-- A unit's write as one of the scratchpad. -/
def unitPut (x : Nat × List Byte × Option Bool) : Put := { at_ := x.1, len := x.2.1.length, act := fun m => patchUnit m x }

/-- Destination bytes that the sector counts at a destination, an engine or the global side, and the half-written bytes left (R201,
R208). -/
def Copy.landed (c : Copy) (r : SecRef) (dest : Nat) : Nat × List (Nat × Nat) :=
  if fmtWidth c.fdst = 4 && !c.blocked then
    let pairs := ((List.range r.len).map (fun k => (r.first + k) / 2)).eraseDups
    let whole := fun (p : Nat) => decide (r.first ≤ 2 * p) && decide (2 * p + 1 < r.first + r.len)
    let second := fun (p : Nat) => !whole p && c.halves.contains (dest, p)
    ((pairs.filter (fun p => whole p || second p)).length,
     c.halves.filter (fun p => p.1 != dest || !pairs.contains p.2) ++
       (pairs.filter (fun p => !whole p && !c.halves.contains (dest, p))).map (fun p => (dest, p)))
  else (r.len * c.unit false, c.halves)

/-- The segments of one side can be read, or written (R343, R345, R390): the state after the recalls, or the address of one that must
wait. -/
def State.recallSegs (s : State) (cl ctx : Nat) (write : Bool) : List Seg → Except Nat State
  | [] => .ok s
  | x :: r =>
    match x.tgt with
    | .dpa a _ =>
      match (if write then s.allowWrite cl ctx a x.n false else s.recall cl ctx a x.n false false) with
      | none => .error a
      | some t => t.recallSegs cl ctx write r
    | .remote _ _ => s.recallSegs cl ctx write r

/-- What the units leave in the global destination, a granule at a time. -/
def State.segChunks (s : State) (xs : List (Nat × List Byte × Option Bool)) : List Seg → List Chunk1 × State
  | [] => ([], s)
  | x :: r =>
    match x.tgt with
    | .dpa a key =>
      let (old, t) := s.readKeyed a x.n key
      let mine := (xs.map (fun u => u.2.1.zipIdx.filterMap (fun e =>
        if x.va ≤ u.1 + e.2 && u.1 + e.2 < x.va + x.n then some (u.1 + e.2, [e.1], u.2.2) else none))).flatten
      let (l, t) := t.segChunks xs r
      ({ a := a, key := key, bs := mine.foldl (patch x.va) old } :: l, t)
    | .remote _ _ => s.segChunks xs r

/-- Writes the units into the global destination: one write, and one drain of each home (R405): a sector is
complete at PKG before it is counted (R375). -/
def State.storeSegs (s : State) (w : Writer) (xs : List (Nat × List Byte × Option Bool)) (segs : List Seg) : State :=
  let (l, t) := s.segChunks xs segs
  (t.writeAll w l).flush (fun x => w.party.any (fun p => x.cl == p.1 && x.ctx == p.2)) (l.map (fun x => x.a / 128))

/-- Lands the units on the engines of the mask (R208): each whose current context is the copy's is written and counts the bytes; the
others drop the sector. A unit comes before some of the writes of activations since the CopyStart, by a free number (R219); of two
sectors on one byte the later to land stands (R207). Gives the dropped mask, and the copy with the half-written bytes of each engine. -/
def State.landOn (s : State) (order : Nat) (c : Copy) (xs : List (Nat × List Byte × Option Bool)) (r : SecRef) : List Nat → Nat × Copy × State
  | [] => (0, c, s)
  | g :: gs =>
    if (s.eng g).ctx = some c.ctx then
      let (n, halves) := c.landed r g
      let E := s.eng g
      let cross := E.crossing (c.since.getD (g % 16) E.past.length) (fun _ x => x == .word)
      let t := s.putSpad g (.copy c.slot c.id) cross order (xs.map unitPut)
      (if c.bar = 127 then t else t.barUpdate g c.bar 0 (-(n : Int))).landOn order { c with halves := halves } xs r gs
    else
      let (m, c, t) := s.landOn order c xs r gs
      (m + 2 ^ (g % 16), c, t)

def popCount (n : Nat) : Nat := ((List.range 16).filter (fun k => bitOf n k)).length

/-- The target is remote. -/
def Seg.isRemote (x : Seg) : Bool :=
  match x.tgt with
  | .remote _ _ => true
  | _ => false

/-- The sector `fly` of copy `c`, already taken from those in flight, lands (R207): source read, destination written, barrier counted. -/
def State.landSector (s : State) (g i : Nat) (c : Copy) (fly : Sector) (data : List Byte) : State :=
  let E := s.eng g
  let (pick, s) := s.draw
  let (order, s) := s.draw
  -- a unit read from the scratchpad is seen before or after each write since the CopyStart (R219)
  let R : Reads := { pick := pick, cross := E.crossing (c.since.getD (g % 16) E.past.length) (fun _ x => x != .copy c.slot c.id) }
  let (bs, s1) := match fly.data with
    | some d => (d, s)
    | none => if fly.src.any Seg.isRemote then (data, s) else s.segBytes g c.ctx [] fly.src
  let fetch := fun (k i a : Nat) => if c.global true then segByte fly.src bs a else (R.see E.spad E.spad (64 * k + i)).get 0 a
  let xs := (List.range fly.ref.len).map (fun k => c.writes (fetch k) (fly.ref.first + k))
  if c.global false then
    let (n, halves) := c.landed fly.ref 0
    let c := { c with halves := halves }
    let s2 := s1.storeSegs { ctx := c.ctx, party := some (g / 16, c.ctx), rec? := false } xs fly.dst
    (if c.bar = 127 then s2 else s2.barUpdate g c.bar 0 (-(n : Int))).putCopy g i c
  else
    let dests := if c.mcast then ((List.range 16).filter (fun e => bitOf c.mask e)).map (fun e => g / 16 * 16 + e) else [g]
    let (m, c, s2) := s1.landOn order c xs fly.ref dests
    let c := if c.mcast then { c with drops := c.drops + popCount m, dropMask := c.dropMask ||| m } else c
    s2.putCopy g i c

/-- The segment lies in the memory of a host that is absent (R425). -/
def State.segGone (s : State) (x : Seg) : Bool :=
  match x.tgt with
  | .dpa a _ => s.hostGone a
  | .remote _ _ => false

/-- A sector waits for effects of its engine on their way (R365, R375): to a source that no cluster cache serves, or to its destination. -/
def State.sectorHeld (s : State) (g ctx : Nat) (fly : Sector) : Bool :=
  let o := engineSeer g ctx
  fly.src.any (fun x => match x.tgt with
    | .dpa a _ => s.heldFrom o a x.n
    | .remote _ _ => false) ||
  fly.dst.any (fun x => match x.tgt with
    | .dpa a _ => s.inflight.any (fun f => f.seen o && f.tgt.meets f.op.size a x.n)
    | .remote _ _ => false)

/-- COPY_SECTOR_LAND (R207): sector `j` in flight of copy `i`. `code` and `data` are a peer's answer for a remote side. Nothing happens
while an effect that comes before the sector is on its way, or a recall is not complete, or a page table is in use (R390). -/
def execCopySectorLand (g i j code : Nat) (data : List Byte) (s : State) : Outcome State Fault Refusal :=
  match (s.eng g).copies[i]? with
  | none => .next s
  | some c =>
    match c.flying[j]? with
    | none => .next s
    | some fly0 =>
      let here := fun (x : Seg) => { x with tgt := s.rePort x.va x.tgt x.port }
      let fly := { fly0 with src := fly0.src.map here, dst := fly0.dst.map here }
      let c' := { c with flying := dropAt c.flying j }
      let remote := (fly.src ++ fly.dst).any Seg.isRemote
      if s.sectorHeld g c.ctx fly || !s.unshaped fly.ticket then .next s
      else if remote && remoteCode (code % 32) ≠ 0 then
        let x := ((fly.src ++ fly.dst).find? Seg.isRemote).getD { va := 0, n := 0, tgt := .remote 0 0 }
        .next (s.putCopy g i (s.skip c' fly.ref
          { code := remoteCode (code % 32),
            info := if code % 32 = 7 then s.peerInfo c.ctx x.tgt 7 else c.sectorAt (fly.src.any Seg.isRemote) fly.ref, reason := remoteReason code,
            share := remoteShare code,
            page := s.pageAt c.ctx x.va }))
      else if (fly.src ++ fly.dst).any s.segGone then
        let va := (((fly.src ++ fly.dst).find? s.segGone).map (fun x => x.va)).getD 0
        .next (s.putCopy g i (s.skip c' fly.ref
          { code := 18, info := c.sectorAt (fly.src.any s.segGone) fly.ref, page := s.pageAt c.ctx va }))
      else
        let s0 := s.modEng g (fun E => { E with copies := modifyAt E.copies i (fun _ => c') })
        match firstSome (fun (x : Seg) => match x.tgt with
          | .dpa a _ => s0.findsBad a x.n 1 c.ctx
          | .remote _ _ => none) fly.src with
        | some t => .next t
        | none =>
        match s0.recallSegs (g / 16) c.ctx false fly.src with
        | .error _ => .next s
        | .ok s1 =>
          match s1.recallSegs (g / 16) c.ctx true fly.dst with
          | .error a => .next (s.wantPt (a / 128))
          | .ok s2 =>
            match s2.segMarked fly.dst with
            | some x => .next (s2.putCopy g i (s2.skip c' fly.ref
                { code := 8, info := c.sectorAt false fly.ref, page := s2.pageAt c.ctx x.va }))
            | none => .next (s2.landSector g i c' fly data)

/-- COPY_PAGE_REPLAY (R210): a page whose replay XCPYR asked for, while the copy's context is current: its sectors issue again. -/
def execCopyPageReplay (g i : Nat) (s : State) : Outcome State Fault Refusal :=
  let E := s.eng g
  match E.copies[i]? with
  | none => .next s
  | some c =>
    match posOf (fun (p : HeldPage) => p.asked && p.held) c.pages with
    | none => .next s
    | some k =>
      if E.ctx = some c.ctx && c.replay.isEmpty && c.flying.isEmpty && !c.issuing then
        .next (s.modEng g (fun E => { E with copies := modifyAt E.copies i (fun c =>
          { c with replay := ((c.pages[k]?).map (fun p => p.sectors)).getD [], pages := dropAt c.pages k }) }))
      else .next s

end Sys2Proof.Machine
end

