-- ==== Sys2Proof/Machine/Sync.lean ====
section
/-! DEFINITION. Named barriers (R216, R217), and the deferring and immediate words on messages and futures (R283 to R295). -/

namespace Sys2Proof.Machine

open Host (Outcome)

/-- The info word of a rejected barrier operand (R220). -/
def barInfo (opc obj v : Nat) : Nat := opc + obj % 128 * 256 + v % 2 ^ 48 * 65536

/-- BINIT (R216). -/
def execBinit (h : Hdr) (f : YForm) (s : State) : Outcome State Fault Refusal :=
  issue 2 h (fun s a =>
    let e := (a.ug f.a.toNat + f.imm.toNat) % 2 ^ 16
    if e = 0 then .fail s 3 (barInfo 0x10 f.obj.toNat e) else deferEff (.binit f.obj.toNat e) [] s a) s

/-- BARR (R216). -/
def execBarr (h : Hdr) (f : YForm) (s : State) : Outcome State Fault Refusal :=
  issue 2 h (deferEff (.barUpd f.obj.toNat f.imm.toNat 0) []) s

/-- BARRX (R216). -/
def execBarrx (h : Hdr) (f : YForm) (s : State) : Outcome State Fault Refusal :=
  issue 2 h (fun s a =>
    let v := a.ug f.a.toNat + f.imm.toNat
    if 2 ^ 39 ≤ v then .fail s 3 (barInfo 0x12 f.obj.toNat v) else deferEff (.barUpd f.obj.toNat 1 v) [] s a) s

/-- BEXP (R216). -/
def execBexp (h : Hdr) (f : YForm) (s : State) : Outcome State Fault Refusal :=
  issue 2 h (fun s a =>
    let v := a.sg f.a.toNat + f.imm.toInt
    if v < -(2 ^ 39) || 2 ^ 39 - 1 < v then .fail s 3 (barInfo 0x13 f.obj.toNat (wrapTo 48 v))
    else deferEff (.barUpd f.obj.toNat 0 v) [] s a) s

/-- The target of BWAIT and BTEST (R217). -/
def barTarget (f : YForm) (a : Act) : Nat := wrapTo 32 ((a.ug f.a.toNat % 2 ^ 32 : Nat) + f.imm.toInt)

/-- BWAIT (R217): BARRIER_OVERRUN, a local wait, or the phase is reached. -/
def execBwait (h : Hdr) (f : YForm) (s : State) : Outcome State Fault Refusal :=
  issue 2 h (fun s a =>
    let b := (s.eng s.focus.g).bar f.obj.toNat
    if b.overrun then .fail s 12 (f.obj.toNat + wrapTo 40 b.pend * 256)
    else if reached b.phase (barTarget f a) then .ok s else .wait s) s

/-- BTEST (R217). -/
def execBtest (h : Hdr) (f : YForm) (s : State) : Outcome State Fault Refusal :=
  issue 2 h (fun s a =>
    let b := (s.eng s.focus.g).bar f.obj.toNat
    onAct (fun a => a.wp f.d.toNat (reached b.phase (barTarget f a) && !b.overrun)) s a) s

/-- BTEST.S (R217). -/
def execBtestS (h : Hdr) (f : YForm) (s : State) : Outcome State Fault Refusal :=
  issue 2 h (fun s a =>
    let b := (s.eng s.focus.g).bar f.obj.toNat
    onAct (fun a => a.wn f.d.toNat (b.phase + b.arr * 2 ^ 32 + b.expect * 2 ^ 48)) s a) s

/-- BTEST.P (R217). -/
def execBtestP (h : Hdr) (f : YForm) (s : State) : Outcome State Fault Refusal :=
  issue 2 h (fun s a =>
    let b := (s.eng s.focus.g).bar f.obj.toNat
    onAct (fun a => a.wn f.d.toNat (wrapTo 40 b.pend + bit b.overrun * 2 ^ 63)) s a) s

/-! ### Routes (R262, R295) -/

/-- RTMK (R295). -/
def execRtmk (h : Hdr) (f : YForm) (s : State) : Outcome State Fault Refusal :=
  issue 2 h (onAct (fun a =>
    let r := routeTo (s.focus.g / 16) (a.ug f.a.toNat) (a.ug f.b.toNat) f.sub.toNat
    (a.wn f.d.toNat (r % 2 ^ 64)).wn (f.d.toNat + 1) (r / 2 ^ 64))) s

/-! ### Messages (R287, R288) -/

/-- The values of a run of registers. -/
def Act.run (a : Act) (b n : Nat) : List Nat := (List.range n).map (fun i => a.ug (b + i))

/-- The route that SEND and SENDI capture: the pair, or RTMK's with selector 0 (R287). -/
def sendRoute (s : State) (f : YForm) (a : Act) : Nat :=
  if f.a = 0 then routeTo (s.focus.g / 16) (a.ug f.b.toNat) 0 0
  else a.ug f.a.toNat + a.ug (f.a.toNat + 1) * 2 ^ 64

/-- SEND (R287). -/
def execSend (h : Hdr) (f : YForm) (s : State) : Outcome State Fault Refusal :=
  issue 2 h (fun s a =>
    deferEff (.send (sendRoute s f a) (a.ug f.b.toNat % 2 ^ 24) (f.obj.toNat % 8) (bitOf f.sub.toNat 0) (f.imm.toNat % 4096)
      f.d.toNat (a.run f.d.toNat (f.imm.toNat / 4096))) [] s a) s

/-- SENDI (R287). -/
def execSendi (h : Hdr) (f : YForm) (s : State) : Outcome State Fault Refusal :=
  issue 2 h (fun s a =>
    let n := f.imm.toNat % 16
    let c := a.ug f.d.toNat
    checkSpad s c (8 * n) 8
      (deferEff (.sendi (sendRoute s f a) (a.ug f.b.toNat % 2 ^ 24) (f.obj.toNat % 8) (bitOf f.sub.toNat 0) c n
        (a.ug (fieldOf f.imm.toNat 9 4)) (a.ug (fieldOf f.imm.toNat 15 10))) [] s a)) s

/-- A non-zero handle whose GEN field is 0 (R288, R291). -/
def badHandle (v : Nat) : Bool := v != 0 && v % 1024 == 0

/-- SPAWN (R288). -/
def execSpawn (h : Hdr) (f : YForm) (s : State) : Outcome State Fault Refusal :=
  issue 2 h (fun s a =>
    let j := a.ug f.a.toNat
    if badHandle j then .fail s 3 (infoV 0x05 j) else
    deferEff (.spawn (j % 2 ^ 32) (f.obj.toNat % 8) (f.imm.toNat % 4096) f.d.toNat (a.run f.d.toNat (f.imm.toNat / 4096))) [] s a) s

/-! ### Futures (R290 to R294) -/

/-- FNEW (R290): immediate; the entry is freed when the segment is discarded (R40). -/
def execFnew (h : Hdr) (f : YForm) (s : State) : Outcome State Fault Refusal :=
  issue 2 h (fun s a =>
    let (hd, t) := s.allocFut (s.focus.g / 16) a.ctx (signed 32 (wrapTo 32 (a.sg f.a.toNat + f.imm.toInt)))
    .ok (t.setCur ({ a with allocs := if hd = 0 then a.allocs else .future hd :: a.allocs }.wn f.d.toNat hd))) s

/-- FRES (R291). -/
def execFres (h : Hdr) (f : YForm) (s : State) : Outcome State Fault Refusal :=
  issue 2 h (fun s a =>
    let hd := a.ug f.a.toNat % 2 ^ 32
    if badHandle hd then .fail s 3 (infoV 0x09 hd) else deferEff (.fres hd (a.ug f.b.toNat)) [] s a) s

/-- FDEC (R291): the amount lies in 1 to 2^31 - 1; one beyond is a fault as 0 is (DESIGN CHOICE, log 101). -/
def execFdec (h : Hdr) (f : YForm) (s : State) : Outcome State Fault Refusal :=
  issue 2 h (fun s a =>
    let hd := a.ug f.a.toNat % 2 ^ 32
    let n := a.ug f.b.toNat + f.imm.toNat
    if badHandle hd then .fail s 3 (infoV 0x0A hd)
    else if n = 0 || 2 ^ 31 ≤ n then .fail s 3 (infoV 0x0A n)
    else deferEff (.fdec hd n) [] s a) s

/-- FFREE (R291). -/
def execFfree (h : Hdr) (f : YForm) (s : State) : Outcome State Fault Refusal :=
  issue 2 h (fun s a =>
    let hd := a.ug f.a.toNat % 2 ^ 32
    if badHandle hd then .fail s 3 (infoV 0x0E hd) else deferEff (.ffree hd) [] s a) s

/-- A test of a future entry (R292): a stale handle raises FUTURE_STALE. -/
def futTest (h : Hdr) (f : YForm) (k : Fut → Act → Act) (s : State) : Outcome State Fault Refusal :=
  issue 2 h (fun s a =>
    let hd := a.ug f.a.toNat % 2 ^ 32
    match s.findFut hd a.ctx with
    | none => .fail s 13 hd
    | some x => onAct (k x) s a) s

/-- FTEST (R292). -/
def execFtest (h : Hdr) (f : YForm) (s : State) : Outcome State Fault Refusal :=
  futTest h f (fun x a => a.wp f.d.toNat (reached x.phase (a.ug f.b.toNat % 2 ^ 32) && x.state == .live)) s

/-- FTEST.V (R292). -/
def execFtestV (h : Hdr) (f : YForm) (s : State) : Outcome State Fault Refusal :=
  futTest h f (fun x a => a.wn f.d.toNat x.value) s

/-- COUNT and PHASE in one word (R292, R318). -/
def Fut.counts (x : Fut) : Nat := x.phase % 2 ^ 32 + wrapTo 32 x.count * 2 ^ 32
/-- LAPSED, FLT, spilled and PQ in one word (R292, R318). -/
def Fut.flags (x : Fut) : Nat :=
  bit (x.state == .lapsed) + bit x.flt * 2 + bit x.spilled * 4 +
    (match x.pq with
      | some q => 4096 + q % 4096
      | none => 0) * 8

/-- FTEST.C (R292). -/
def execFtestC (h : Hdr) (f : YForm) (s : State) : Outcome State Fault Refusal :=
  futTest h f (fun x a => a.wn f.d.toNat x.counts) s

/-- FTEST.F (R292). -/
def execFtestF (h : Hdr) (f : YForm) (s : State) : Outcome State Fault Refusal :=
  futTest h f (fun x a => a.wn f.d.toNat x.flags) s

/-- FCALL at issue (R294). -/
def execFcall (h : Hdr) (f : YForm) (s : State) : Outcome State Fault Refusal :=
  issue 2 h (fun s a =>
    let c := a.ug f.d.toNat
    checkSpad s c 48 8 (deferEff (.fcall c (a.ug f.a.toNat % 2 ^ 32) (a.ug f.b.toNat % 4096)) [] s a)) s

end Sys2Proof.Machine
end

