-- ==== Sys2Proof/Machine/Tiles.lean ====
section
/-! DEFINITION. Tile handles and tenure (R333 to R342, R352 to R357), with FENCE and SCOPE at issue (R358, R359). -/

namespace Sys2Proof.Machine

open Host (Outcome)

/-! ### Tile descriptors (R333) -/

def tdBase (d : Nat) : Nat := fieldOf d 47 0
def tdRank (d : Nat) : Nat := fieldOf d 49 48 + 1
def tdExt (d j : Nat) : Nat := if j < tdRank d then fieldOf d (64 + 16 * j + 15) (64 + 16 * j) else 1
def tdStride (d j : Nat) : Int :=
  if j = 0 then 1 else if j < tdRank d then signed 32 (fieldOf d (128 + 32 * (j - 1) + 31) (128 + 32 * (j - 1))) else 0

/-- Lowest and highest granule of the tile, relative to its base. -/
def tdSpan (d : Nat) : Int × Int :=
  let xs := (List.range 4).map (fun j => ((tdExt d j : Int) - 1) * tdStride d j)
  ((xs.map (fun x => min x 0)).sum, (xs.map (fun x => max x 0)).sum)

/-- The value that a descriptor breaking R333 is rejected with: its first bad field, or BASE where the tile as a whole is bad. Without
TILE_TENURE (`multi`) a tile has one granule (R23). -/
def tdReject (multi : Bool) (d : Nat) : Option Nat :=
  let wide := (List.range 4).find? (fun j => 1 < tdExt d j)
  if tdBase d % 128 ≠ 0 then some (tdBase d)
  else if (List.range (tdRank d)).any (fun j => tdExt d j = 0) then some 0
  else if !multi && wide.isSome then some (tdExt d (wide.getD 0))
  else
    let (lo, hi) := tdSpan d
    if 2 ^ 24 < ((List.range 4).map (tdExt d)).foldl (· * ·) 1 || (tdBase d : Int) + 128 * lo < 0 ||
        ((2 ^ 48 : Nat) : Int) < tdBase d + 128 * hi + 128 then some (tdBase d) else none

/-- Window-0 addresses of the tile's granules, dimension 0 fastest. -/
def tdGrans (d : Nat) : List Nat :=
  ((List.range (tdExt d 3)).map (fun (i3 : Nat) => ((List.range (tdExt d 2)).map (fun (i2 : Nat) =>
    ((List.range (tdExt d 1)).map (fun (i1 : Nat) => (List.range (tdExt d 0)).map (fun (i0 : Nat) =>
      ((tdBase d : Int) + 128 * ((i0 : Int) + i1 * tdStride d 1 + i2 * tdStride d 2 + i3 * tdStride d 3)).toNat))).flatten)).flatten)).flatten

/-! ### Handles (R334, R335) -/

/-- The entry that a handle names, unless it is stale. -/
def State.tile (s : State) (ctx h : Nat) : Option Tile :=
  let t := s.tileAt ctx (tIndex h)
  if tIndex h < (s.ctx ctx).tileCnt && t.defd && t.gen == tGen h then some t else none

/-- The first FREE entry of a table of `cnt` from index `i` on, cyclically. -/
def State.freeTile (s : State) (ctx cnt : Nat) : Nat → Nat → Option Nat
  | 0, _ => none
  | fuel + 1, i => if (s.tileAt ctx (i % cnt)).defd then s.freeTile ctx cnt fuel (i + 1) else some (i % cnt)

/-- TDEF (R353): which FREE entry is taken is the device's choice. -/
def execTdef (h : Hdr) (f : YForm) (s : State) : Outcome State Fault Refusal :=
  issue 2 h (fun s a =>
    let ad := yAddr f a
    checkSpad s ad 32 32
      (let d := ofLE (bytesAt s.spad ad 32)
       match tdReject (s.feat 17) d with
       | some v => .fail s 3 (infoV 0x18 v)
       | none =>
         let (r, t) := s.draw
         let n := (t.ctx a.ctx).tileCnt
         match t.freeTile a.ctx n n r with
         | none => .ok (t.setCur (a.wn f.d.toNat 0))
         | some i =>
           let e := t.tileAt a.ctx i
           let hd := i + e.gen * 2 ^ 14
           .ok ((t.setTile a.ctx i { e with defd := true, desc := d }).setCur
             ({ a with allocs := .tile hd :: a.allocs }.wn f.d.toNat hd)))) s

/-- A word that checks its handle at issue (R335): TILE_HANDLE when it is stale. -/
def withTile (h : Hdr) (f : YForm) (k : Nat → State → Act → Res) (s : State) : Outcome State Fault Refusal :=
  issue 2 h (fun s a =>
    let hd := a.ug f.a.toNat % 2 ^ 32
    if (s.tile a.ctx hd).isNone then .fail s 14 hd else k hd s a) s

/-- TFREE (R354). -/
def execTfree (h : Hdr) (f : YForm) (s : State) : Outcome State Fault Refusal :=
  withTile h f (fun hd => deferEff (.tfree hd) []) s

/-- TREL (R356). -/
def execTrel (h : Hdr) (f : YForm) (s : State) : Outcome State Fault Refusal :=
  withTile h f (fun hd => deferEff (.trel hd (bitOf f.sub.toNat 0)) []) s

/-- STATE of TQRY (R357). -/
def TState.code : TState → Nat
  | .i => 0
  | .s => 1
  | .e => 2
  | .o => 3
  | .m => 4

/-- The party's record under a handle. -/
def State.tenureOf (s : State) (cl ctx h : Nat) : Option Tenure :=
  s.tenures.find? (fun t => t.cl == cl && t.ctx == ctx && t.tile == h && !t.implicit)

/-- TQRY (R357). -/
def execTqry (h : Hdr) (f : YForm) (s : State) : Outcome State Fault Refusal :=
  withTile h f (fun hd s a =>
    let cl := s.focus.g / 16
    let rec? := s.tenureOf cl a.ctx hd
    let v := match rec? with
      | some t => t.st.code + bit t.split * 8 + t.hold * 16
      | none => 0
    let w := bit (s.requests.any (fun r => r.g / 16 == cl && r.ctx == a.ctx && r.tile == hd))
    onAct (fun a => a.wn f.d.toNat (v + w * 2 ^ 20)) s a) s

/-- The mask of SCOPE, bit c naming cluster c (R359). -/
def State.scopeMask (s : State) (ctx k : Nat) : Nat := (s.ctx ctx).masks.get 0 k

/-- SCOPE.RD (R359). -/
def execScopeRd (h : Hdr) (f : YForm) (s : State) : Outcome State Fault Refusal :=
  issue 2 h (fun s a =>
    let ad := yAddr f a
    checkSpad s ad 128 8 (.ok (s.setSpad [putOf ad (toLE 128 (s.scopeMask a.ctx (f.obj.toNat % 8)))]))) s

/-- SCOPE.WR (R359): every cluster holds the new mask when it completes. -/
def execScopeWr (h : Hdr) (f : YForm) (s : State) : Outcome State Fault Refusal :=
  issue 2 h (fun s a =>
    let ad := yAddr f a
    checkSpad s ad 128 8
      (.ok (s.modCtx a.ctx (fun x => { x with masks := x.masks.set (f.obj.toNat % 8) (ofLE (bytesAt s.spad ad 128)) })))) s

/-- FENCE (R358): deferred. -/
def execFence (h : Hdr) (f : YForm) (s : State) : Outcome State Fault Refusal :=
  issue 2 h (deferEff (.fence (f.obj.toNat % 16) f.sub.toNat) []) s

/-! ### Release (R337, R338, R356) -/

/-- What a release to hold count 0 leaves of a record: nothing, a kept read tenure, or a drain in progress. -/
def Tenure.released (t : Tenure) (keep : Bool) : Option Tenure :=
  match t.st with
  | .i => none
  | .s => none
  | .e => if keep then some { t with st := .s, hold := 0 } else none
  | .m => if keep then some { t with st := .o, hold := 0 } else some { t with hold := 0, drain := true }
  | .o => some { t with hold := 0, drain := true }

/-- The records of a list with one party's record under a handle replaced. -/
def replaceTenure (p : Tenure → Bool) (f : Tenure → Option Tenure) : List Tenure → List Tenure
  | [] => []
  | t :: r =>
    if p t then
      match f t with
      | some t' => t' :: r
      | none => r
    else t :: replaceTenure p f r

/-- Effects that the release of engine `g` covers are on their way (R370): all but those to other devices. -/
def State.owedBy (s : State) (g ctx : Nat) : Bool := s.inflight.any (fun f => f.seen (engineSeer g ctx) && !f.tgt.isRemote)

/-- A release by engine `g` to hold count 0 (R337, R370): a write tenure is passed on only when every write that the release covers is
complete at PKG. -/
def State.letGo (s : State) (g : Nat) (keep : Bool) (t : Tenure) : Option Tenure :=
  let t := { t with cover := if t.st.isWrite then some (g, s.nextId) else t.cover }
  if t.st = .e && !keep && s.owedBy g t.ctx then some { t with hold := 0, drain := true } else t.released keep

/-- The release of a tenure waits for effects on their way. -/
def State.covering (s : State) (t : Tenure) : Bool :=
  t.cover.any (fun c => s.inflight.any (fun f => decide (f.id < c.2) && f.seen (engineSeer c.1 t.ctx) && !f.tgt.isRemote)) ||
    t.spans.any (fun p => s.owes t p.g none)

/-- TREL performed by engine `g` (R356). -/
def State.performTrel (s : State) (g ctx h : Nat) (keep : Bool) : State :=
  if (s.tile ctx h).isNone then s.deadLetter ctx ctx (futInfo 12 h) else
  let mine := fun (t : Tenure) => t.cl == g / 16 && t.ctx == ctx && t.tile == h && 0 < t.hold && !t.drain && !t.implicit
  let less := fun (t : Tenure) => if t.hold = 1 then s.letGo g keep t else some { t with hold := t.hold - 1 }
  match s.tenures.find? mine with
  | some t =>
    let u := if (less t).isNone then s.dropCopies t.cl t.spans else s
    { u with tenures := replaceTenure mine less u.tenures }
  | none => s.deadLetter ctx ctx (futInfo 13 h)

/-- Delivers a TACQ continuation with a status; its granted parts go with the request (R342). -/
def State.endRequest (s : State) (r : TReq) (status : Nat) : State := s.enqueue r.g (r.msg.withStatus status)

def State.endRequests (s : State) (status : Nat) : List TReq → State
  | [] => s
  | r :: rs => (s.endRequest r status).endRequests status rs

/-- Every tenure that a predicate names is released to count 0 without KEEP (R335, R337); an implicit tile of it is evicted. -/
def State.releaseWhere (s : State) (p : Tenure → Bool) (f : Tenure → Option Tenure) : State :=
  let gone := fun (t : Tenure) => p t && (t.implicit || (!t.drain && (f t).isNone))
  let u := s.endTenures gone
  { u with tenures := u.tenures.filterMap (fun t => if p t && !t.drain then f t else some t) }

/-- TFREE performed by engine `g` (R335, R354). -/
def State.performTfree (s : State) (g ctx h : Nat) : State :=
  if (s.tile ctx h).isNone then s.deadLetter ctx ctx (futInfo 12 h) else
  let mine := fun (r : TReq) => r.ctx == ctx && r.tile == h
  let s1 := s.releaseWhere (fun t => t.ctx == ctx && t.tile == h && !t.implicit) (s.letGo g false)
  let s2 := { s1 with requests := s1.requests.filter (fun r => !mine r) }
  (s2.endRequests 7 (s.requests.filter mine)).dropTile ctx h

/-! ### Acquisition (R338 to R342) -/

/-- Adds a granule of device memory to the spans of a tile (R339). -/
def addSpan (gr : Nat) : List Span → List Span
  | [] => [{ g := gr / 512, lo := gr % 512, hi := gr % 512 }]
  | p :: r =>
    if p.g = gr / 512 then { p with lo := min p.lo (gr % 512), hi := max p.hi (gr % 512) } :: r else p :: addSpan gr r

/-- The device granules of a tile, translated page by page (R341) by the agent of cluster `cl`. -/
def State.tileDpas (s : State) (cl ctx : Nat) (need : Need) : List Nat → Except XFault (List Nat) × State
  | [] => (.ok [], s)
  | va :: r =>
    match s.translate0 ctx need va (some (cl, 20)) with
    | (.bad x, t) => (.error x, t)
    | (.ok (.dpa a _) _, t) =>
      match t.tileDpas cl ctx need r with
      | (.error x, t') => (.error x, t')
      | (.ok xs, t') => (.ok (a / 128 :: xs), t')
    | (.ok (.remote _ _) _, t) => t.tileDpas cl ctx need r

/-- The home of a granule. -/
def granHome (gr : Nat) : Nat := (homeOf (128 * gr)).getD 0

/-- The granules of a tile, each as its window-0 address and its granule of device memory, by home in ascending number. -/
def partsOf (grans : List (Nat × Nat)) : List (Nat × List Nat) :=
  ((List.range 146).filter (fun h => grans.any (fun x => granHome x.2 == h))).map (fun h =>
    (h, (grans.filter (fun x => granHome x.2 == h)).map (fun x => x.1)))

/-- The spans of granules (R339). -/
def spansOf (grans : List Nat) : List Span := grans.foldl (fun l g => addSpan g l) []

/-- Addresses join the homes still to ask: granules that a migration has moved. -/
def joinHomes (l : List (Nat × List Nat)) : List (Nat × List Nat) → List (Nat × List Nat)
  | [] => l
  | (h, vs) :: r =>
    joinHomes (if l.any (fun p => p.1 == h) then l.map (fun p => if p.1 = h then (h, p.2 ++ vs) else p)
      else l.filter (fun p => p.1 < h) ++ (h, vs) :: l.filter (fun p => h < p.1)) r

/-- Two span lists overlap (R339). -/
def overlaps (a b : List Span) : Bool := a.any (fun p => b.any (fun q => p.g == q.g && p.lo ≤ q.hi && q.lo ≤ p.hi))

/-- The request ends with a status (R342). -/
def State.finishRequest (s : State) (i : Nat) (r : TReq) (status : Nat) : State :=
  { s with requests := dropAt s.requests i }.endRequest r status

/-- A translation failure of an acquisition (R342): STATUS 6 and one record with the page and the handle. -/
def State.failRequest (s : State) (i : Nat) (r : TReq) (x : XFault) : State :=
  (s.finishRequest i r 6).append r.ctx
    { code := x.code, src := 4, info := r.tile, addr := x.page, reason := x.reason, share := x.share }

/-- Tenure records of a cluster slice in use: those of tenures, and those that hold the continuation of a waiting request (R342, R355). -/
def State.slice (s : State) (cl : Nat) : Nat :=
  ((s.tenures.filter (fun t => t.cl == cl && !t.implicit)).map (fun t => (t.ctx, t.tile)) ++
    (s.requests.filter (fun r => r.g / 16 == cl && !r.homes.isEmpty)).map (fun r => (r.ctx, r.tile))).eraseDups.length

/-- The request arrives at its next home (R341): the granules that lie there are its part; those that a migration has moved since are
asked for at their new homes. A request that fails a switch check on its way ends as one that fails translation (DESIGN CHOICE, log 84). -/
def State.atHome (s : State) (i : Nat) (r : TReq) (h : Nat) (grans : List (Nat × Nat)) (rest : List (Nat × List Nat)) : State :=
  let here := grans.filter (fun x => granHome x.2 == h)
  let rest := joinHomes rest (partsOf (grans.filter (fun x => granHome x.2 != h)))
  match here with
  | [] => { s with requests := modifyAt s.requests i (fun _ => { r with homes := rest }) }
  | x :: _ =>
    match s.homeFault (r.g / 16) 20 (128 * x.2) with
    | some info => (s.hopFault info).failRequest i r { code := 15, page := x.1 / 65536 * 65536 }
    | none =>
      { s with requests := dropAt s.requests i ++
          [{ r with homes := (h, here.map (fun x => x.1)) :: rest, part := spansOf (here.map (fun x => x.2)), arrived := true }] }

/-- TENURE_REQUEST (R341): the request reaches the cluster slice, or its next home, and translates that part afresh; a party that
already holds enough is answered at once (R338). A draining or an insufficient tenure of the party is released first (R337). -/
def execTenureRequest (i : Nat) (s : State) : Outcome State Fault Refusal :=
  match s.requests[i]? with
  | none => .next s
  | some r =>
    if r.arrived then .next s else
    let cl := r.g / 16
    let need : Need := if r.write then .w else .r
    let mine := fun (t : Tenure) => t.cl == cl && t.ctx == r.ctx && t.tile == r.tile && !t.implicit
    match r.homes with
    | [] =>
      match s.tenures.find? mine with
      | some t =>
        if t.drain then .next s
        else if t.st.isWrite || !r.write then
          if 65535 ≤ t.hold then .next (s.finishRequest i r 9)
          else
            .next ({ s with tenures := replaceTenure mine (fun t => some { t with hold := t.hold + 1 }) s.tenures }.finishRequest i r 0)
        else
          let u := if (t.released false).isNone then s.dropCopies t.cl t.spans else s
          .next { u with tenures := replaceTenure mine (fun t => t.released false) u.tenures }
      | none =>
        if !s.requests.any (fun q => q.g / 16 == cl && q.ctx == r.ctx && q.tile == r.tile && !q.homes.isEmpty) && 512 ≤ s.slice cl then
          .next (s.finishRequest i r 10)
        else
          match s.tile r.ctx r.tile with
          | none => .next (s.finishRequest i r 7)
          | some t =>
            let vas := tdGrans t.desc
            match s.tileDpas cl r.ctx need vas with
            | (.error x, t') => .next (t'.failRequest i r x)
            | (.ok grans, t') =>
              match partsOf (vas.zip grans) with
              | [] => .next (t'.finishRequest i r 0)
              | (h, _) :: _ => .next (t'.atHome i r h (vas.zip grans) [])
    | (h, vas) :: rest =>
      match s.tileDpas cl r.ctx need vas with
      | (.error x, t') => .next (t'.failRequest i r x)
      | (.ok grans, t') => .next (t'.atHome i r h (vas.zip grans) rest)

/-- A held tenure or granted part conflicts with a request for spans (R340); a kept tenure with hold count 0 gives way (R337). -/
def Tenure.conflicts (t : Tenure) (cl ctx : Nat) (write : Bool) (part : List Span) : Bool :=
  !(t.cl = cl && t.ctx = ctx) && (0 < t.hold || t.drain) && (write || t.st.isWrite) && overlaps t.spans part

def TReq.conflicts (r : TReq) (cl ctx : Nat) (write : Bool) (part : List Span) (spans : List Span) : Bool :=
  !(r.g / 16 = cl && r.ctx = ctx) && (write || r.write) && overlaps spans part

/-- Kept tenures and implicit tiles of other parties that a grant ends (R332, R337). -/
def Tenure.yields (t : Tenure) (cl ctx : Nat) (write : Bool) (part : List Span) : Bool :=
  !(t.cl = cl && t.ctx = ctx) && t.hold = 0 && !t.drain && (write || t.st.isWrite) && overlaps t.spans part

/-- Tile records in use at a home (R328, R341). -/
def State.tileRecords (s : State) (h : Nat) : Nat :=
  let at_ := fun (l : List Span) => l.any (fun p => (homeOf (65536 * p.g)).getD 0 == h)
  (s.tenures.filter (fun t => at_ t.spans && !t.implicit)).length + (s.requests.filter (fun r => at_ r.got)).length

/-- A host line lies in the spans and must be given up first (R345). -/
def State.hostIn (s : State) (write : Bool) (part : List Span) : Bool :=
  s.hostLines.any (fun l => (l.2.2 || write) &&
    part.any (fun p => p.g == l.2.1 / 65536 && p.lo ≤ l.2.1 / 128 % 512 && l.2.1 / 128 % 512 ≤ p.hi))

/-- The part at the request's current home can be granted (R340, R341). -/
def State.grantable (s : State) (i : Nat) (r : TReq) (h : Nat) : Bool :=
  let cl := r.g / 16
  r.arrived && !s.tenures.any (fun t => t.conflicts cl r.ctx r.write r.part) &&
    !s.requests.any (fun q => q.conflicts cl r.ctx r.write r.part q.got) &&
    !(s.requests.take i).any (fun q => q.arrived && q.conflicts cl r.ctx r.write r.part q.part) &&
    decide (s.tileRecords h < 4096) && !s.hostIn r.write r.part &&
    !s.tenures.any (fun t => t.yields cl r.ctx r.write r.part && (t.st.isWrite || t.st == .o) && s.covering t) &&
    !s.drains.any (fun d => !(d.cl = cl && d.ctx = r.ctx) && overlaps d.spans r.part && d.open s)

/-- Tenures of other parties give way to a grant (R337): each is a drain of its own (R405). -/
def State.giveWay (s : State) (cl ctx : Nat) (write : Bool) (part : List Span) : State :=
  s.endTenures (fun t => t.yields cl ctx write part)

/-- The granted parts become the party's tenure (R338, R341): of a handle that it has come to hold meanwhile the hold count goes up. -/
def State.hold (s : State) (i : Nat) (r : TReq) : State :=
  let cl := r.g / 16
  let mine := fun (t : Tenure) => t.cl == cl && t.ctx == r.ctx && t.tile == r.tile && !t.drain && !t.implicit
  match s.tenures.find? mine with
  | some t =>
    if 65535 ≤ t.hold then s.finishRequest i r 9
    else
      let more := fun (t : Tenure) => some { t with hold := t.hold + 1, st := if r.write && !t.st.isWrite then .e else t.st }
      ({ s with tenures := replaceTenure mine more s.tenures } : State).finishRequest i r 0
  | none =>
    let t : Tenure := { cl := cl, ctx := r.ctx, tile := r.tile, st := if r.write then .e else .s, spans := r.got, split := r.split }
    let u := s.endTenures (fun x => x.implicit && x.cl == cl && x.ctx == r.ctx && overlaps x.spans r.got)
    ({ u with tenures := u.tenures ++ [t] } : State).finishRequest i r 0

/-- TENURE_GRANT (R340): the part at the request's current home is granted; after the last one the record is written and the
continuation delivered with STATUS 0 (R341). -/
def execTenureGrant (i : Nat) (s : State) : Outcome State Fault Refusal :=
  match s.requests[i]? with
  | none => .next s
  | some r =>
    match r.homes with
    | [] => .next s
    | (h, _) :: rest =>
      if !s.grantable i r h then .next s else
      let t := s.giveWay (r.g / 16) r.ctx r.write r.part
      let r' := { r with got := r.got ++ r.part, homes := rest, arrived := false, part := [] }
      .next (if rest.isEmpty then t.hold i r' else { t with requests := modifyAt t.requests i (fun _ => r') })

/-- TENURE_DEADLINE (R342): the timeout has passed: STATUS 1, and the granted parts are released. -/
def execTenureDeadline (i : Nat) (s : State) : Outcome State Fault Refusal :=
  match s.requests[i]? with
  | none => .next s
  | some r => .next (if r.deadline.any (fun d => d ≤ s.hubTime) && !s.sameCycle then s.finishRequest i r 1 else s)

/-- TENURE_DRAIN (R337): a released tenure's writes have reached the home, and every write that its release covers (R370); the
generations of views advance (R405). -/
def execTenureDrain (i : Nat) (s : State) : Outcome State Fault Refusal :=
  match s.tenures[i]? with
  | none => .next s
  | some t =>
    if t.drain && !s.covering t then
      let s1 := ((s.advance t.dirty).dropCopies t.cl t.spans)
      .next (({ s1 with tenures := dropAt s1.tenures i } : State).homeward { cl := t.cl, ctx := t.ctx })
    else .next s

/-- The device evicts an implicit tile (R332), which is a release of it: M drains first (R337). Of the tile of a handle it writes back what
is written (R405). -/
def State.evict (s : State) (i : Nat) : State :=
  match s.tenures[i]? with
  | none => s
  | some t =>
    if !t.implicit then s.flush (fun x => x == t) t.dirty
    else if t.spans.any (fun p => s.owes t p.g none) then s
    else
      let u := (s.advance t.dirty).dropCopies t.cl t.spans
      { u with tenures := dropAt u.tenures i }

end Sys2Proof.Machine
end

