-- ==== Sys2Proof/Machine/Commit.lean ====
section
/-! DEFINITION. The performance of deferred effects and the words that commit or yield (R35, R38, R43, R284 to R289, R293, R349, R355,
R358, R496). -/

namespace Sys2Proof.Machine

open Host (Outcome)

/-! ### Records (R31, R32, R496) -/

/-- A live set (R284): run A and run B. -/
structure Live where
  a : Nat
  n : Nat
  b : Nat
  m : Nat
  deriving DecidableEq, Repr

def liveSet (f : YForm) : Live :=
  { a := fieldOf f.imm.toNat 5 0, n := fieldOf f.imm.toNat 9 6, b := fieldOf f.imm.toNat 15 10, m := f.obj.toNat % 16 }

/-- The live set of a shape word (R349). -/
def liveOf (v : Nat) : Live := { a := fieldOf v 5 0, n := fieldOf v 9 6, b := fieldOf v 15 10, m := fieldOf v 19 16 }
def Live.ok (l : Live) : Bool := l.m ≤ 10 && l.n + l.m ≤ 10 && l.a + l.n ≤ 64 && l.b + l.m ≤ 64

/-- The list with zeros up to `n` entries. -/
def padTo (n : Nat) (l : List Nat) : List Nat := l ++ List.replicate (n - l.length) 0

/-- A loop word for a resume at `pc` (R32). -/
def Loop.word (pc : Nat) (l : Loop) : Nat := l.remain % 2 ^ 32 + l.len * 2 ^ 32 + (pc - l.start) / 8 * 2 ^ 48

/-- The resume record of an activation at the next instruction (R31, R32, R496), for the engine `g` and a channel. -/
def Act.record (a : Act) (pc : Nat) (l : Live) (join ch target : Nat) : Msg :=
  let (pc', loops) := loopBack pc a.loops
  let pred := a.p.toNat + l.a * 2 ^ 16 + l.n * 2 ^ 22 + l.b * 2 ^ 26 + l.m * 2 ^ 32 + loops.length * 2 ^ 36
  { words := [mkHdr 1 ch false a.ctx a.ctx 0 0 target, pc'] ++ padTo 10 (a.run l.a l.n ++ a.run l.b l.m) ++ [pred] ++
      padTo 3 (loops.reverse.map (Loop.word pc')),
    join := join, obs := a.obs }

/-! ### Effects -/

/-- A performed effect sets out for its point of atomicity; one into a tile that the party holds for writing makes it M (R337). -/
def State.launch (s : State) (g : Nat) (a : Act) (pc : Nat) (t : Target) (va : Nat) (op : MemOp) (uses : List Nat) : State :=
  let (ticket, s) := s.shapeMem g a.ctx op.size
  let f : InFlight :=
    { id := s.nextId, g := g, ctx := a.ctx, who := a.act, pc := pc, tgt := t, va := va, op := op, uses := uses, since := s.hubTime,
      obs := a.obs, ticket := ticket }
  { s.wrote (g / 16) a.ctx t op with nextId := s.nextId + 1, inflight := s.inflight ++ [f] }

/-- A performed STG and the data cache (R193): a present line is updated, which no read shows; with `.NA` no line is allocated, and
whether one is without it is the device's choice (DESIGN CHOICE, log 80). -/
def State.storeLine (s : State) (g ctx : Nat) (t : Target) (alloc : Bool) : State :=
  match t, alloc with
  | .dpa p _, true =>
    let (d, s') := s.draw
    if d % 2 = 1 then s'.fetchLine g ctx (p / 128) (fun t => t.cacheData g (p / 128)) else s'
  | _, _ => s

/-- A task is written to the newest end of a context's deque spill ring (R269), which has room for it. -/
def State.ringPush (s : State) (g ctx : Nat) (m : Msg) : State :=
  let E := s.eng g
  let r := E.ring.get {} ctx
  (s.wrBytes ((s.ctx ctx).deqSlot g (r.base + r.tasks.length)) m.image).setEng g
    { E with ring := E.ring.set ctx { r with tasks := r.tasks ++ [m] } }

/-- A task goes to the bottom of a context's logical deque for an engine (R268, R269): to the resident deque, whose top then spills,
or to the ring when the context is not current; a full ring drops the task. -/
def State.pushTask (s : State) (g : Nat) (m : Msg) : State :=
  let E := s.eng g
  let room := decide ((E.ring.get {} m.ctx).tasks.length < 2 ^ (s.ctx m.ctx).dlog)
  let drop (t : State) : State := (t.deadLetter m.sctx m.ctx (msgInfo 5 m.target)).joinFault (engineSource g) m.ctx m.join
  if E.ctx = some m.ctx then
    match E.deque with
    | x :: r =>
      if E.deque.length < 32 then s.setEng g { E with deque := E.deque ++ [m] }
      else if room then (s.ringPush g m.ctx x).modEng g (fun E => { E with deque := r ++ [m] })
      else drop s
    | [] => s.setEng g { E with deque := [m] }
  else if room then s.ringPush g m.ctx m
  else drop s

/-- The clusters that a fence names (R358, R364): its own and those of mask `kj`. -/
def State.fenceMask (s : State) (c ctx scope : Nat) : Nat := (if scope < 8 then 0 else s.scopeMask ctx (scope - 8)) ||| 2 ^ c

/-- The level at which a fence acts (R358): 0 ENG, 1 CLU, 2 PKG, 3 POD; 4 PKG for the clusters of a mask alone. -/
def State.fenceLevel (s : State) (c ctx scope : Nat) : Nat :=
  if scope < 4 then scope else if s.fenceMask c ctx scope = 2 ^ c then 1 else 4

/-- A message or future operation of the source has not arrived where it acts, in a cluster that `p` names. -/
def State.signalOwed (s : State) (src : Source) (p : Nat → Bool) : Bool :=
  s.packets.any (fun x => x.src == src && (match x.body with
    | .msg m => p (actEngine m.target / 16)
    | .future h _ => p (hCluster h)
    | _ => false))

/-- A release by an observer at a level (R358, R370) waits for an effect: at the engine for none; at the cluster for what acts there and is
no write of memory, which the cluster cache has at once; at the homes for every effect it covers, and where it names clusters (`mask`)
for what they acknowledge. -/
def State.relWaits (s : State) (src : Source) (o : Seer) (lvl mask : Nat) : Bool :=
  let mine := s.inflight.filter (fun f => f.seen o)
  let drains := s.tenures.any (fun t => t.cl == o.cl && t.ctx == o.ctx && t.drain)
  match lvl with
  | 0 => false
  | 1 => mine.any (fun f => f.mine o && !f.op.isWrite) || s.signalOwed src (fun c => c == o.cl)
  | 4 => mine.any (fun f => f.mine o && !f.op.isWrite) || s.signalOwed src (bitOf mask)
  | 2 => mine.any (fun f => !f.tgt.isRemote) || drains || s.signalOwed src (fun _ => true)
  | _ => !mine.isEmpty || drains || s.signalOwed src (fun _ => true)

/-- A release at a level once it waits for nothing (R358, R370): what it covers is complete for the clusters of the mask (R364); at the homes
what the party has written is there (R417). -/
def State.releaseFor (s : State) (o : Seer) (lvl mask : Nat) : State :=
  let t := s.completeFor (fun f => f.seen o) mask
  if 2 ≤ lvl then t.homeward o else t

/-- Responses that earlier effects of an engine owe (R358). -/
def State.respOwed (s : State) (g ctx : Nat) : Bool :=
  s.returns.any (fun r => r.g == g && r.ctx == ctx) || s.inflight.any (fun f => f.g == g && f.ctx == ctx &&
    (match f.op with
      | .atomic _ _ _ _ _ (some _) => true
      | _ => false))

/-- A fence of engine `g` (R358): the state after it, or nothing while it waits. What a release at CLU or for a mask covers is complete for
the clusters it names (R364). -/
def State.fence (s : State) (g ctx scope kind : Nat) : Option State :=
  let o := engineSeer g ctx
  let lvl := s.fenceLevel (g / 16) ctx scope
  let rel := kind % 2 = 1
  let mask := s.fenceMask (g / 16) ctx scope
  if rel && s.relWaits (engineSource g) o lvl mask then none
  else if 2 ≤ kind && 1 ≤ lvl && s.respOwed g ctx then none
  else some (if rel && 1 ≤ lvl then s.releaseFor o lvl mask else s)

/-- A signal of engine `g`'s activation is performed (R370, R371): what it releases comes before the later effects of the activation, for
every observer of the device, or of the cluster where the release is one of CLU. -/
def State.signal (s : State) (g : Nat) (a : Act) (pkg : Bool) : State :=
  let o := engineSeer g a.ctx
  if pkg then s.markRelease o a.obs else s.completeFor (fun f => f.seen o) (2 ^ (g / 16))

/-- A waiter of the future lies in another cluster. -/
def Fut.farWaiter (f : Fut) (c : Nat) : Bool :=
  f.waiters.any (fun w => (match w.hart with
    | some h => h / 4
    | none => w.eng / 16) != c)

/-- A release of a future's entry by engine `g` goes beyond its cluster (R370): the entry or a waiter stands elsewhere. -/
def State.futFar (s : State) (g ctx h : Nat) : Bool :=
  hCluster h != g / 16 || (s.findFut h ctx).any (fun f => f.farWaiter (g / 16))

/-- A message from engine `g` (R287). -/
def State.sendMsg (s : State) (g ctx route : Nat) (m : Msg) : State := s.inject (engineSource g) ctx route 0 tcMsg 4 m.target (.msg m)

/-- The header of a message that the activation sends (R287). -/
def sendHdr (kind ch : Nat) (toAct : Bool) (ctx handler target : Nat) : Nat := mkHdr kind ch toAct ctx ctx 0 handler target

/-- One deferred effect is performed (R35, R42); nothing while a fence waits. -/
def State.performOne (s : State) (g : Nat) (a : Act) (d : Deferred) : Option State :=
  let src := engineSource g
  match d.eff with
  | .store t va bytes nib alloc => some ((s.launch g a d.pc t va (.write bytes nib) d.uses).storeLine g a.ctx t alloc)
  | .copy addr bar mcast => some (s.copyStart g a.ctx addr bar mcast)
  | .atomic t va op fmt x cmp clu ret => some (s.launch g a d.pc t va (.atomic op fmt x cmp clu ret) d.uses)
  | .sch t va fmt v ticket rel => some ((s.signal g a true).launch g a d.pc t va (.sch fmt v ticket rel) d.uses)
  | .binit bar e => some (s.modEng g (fun E => E.setBar bar { expect := e, due := (E.bar bar).due }))
  | .barUpd bar darr dpend => some (s.barUpdate g bar darr dpend)
  | .send route target ch toAct handler base regs =>
    some ((s.signal g a (actEngine target / 16 != g / 16)).sendMsg g a.ctx route
      { words := [sendHdr 0 ch toAct a.ctx handler target, 0] ++ padTo 10 regs ++ [base * 2 ^ 16 + regs.length * 2 ^ 22, 0, 0, 0] })
  | .sendi route target ch toAct code n x y =>
    let ws := (List.range n).map (fun i => readLE (s.eng g).spad (code + 8 * i) 8)
    some ((s.signal g a (actEngine target / 16 != g / 16)).sendMsg g a.ctx route
      { words := [sendHdr 2 ch toAct a.ctx n target, 0] ++ padTo 12 ws ++ [x, y] })
  | .spawn join ch handler base regs =>
    some ((s.signal g a ((s.ctx a.ctx).steal != 0)).pushTask g
      { words := [sendHdr 0 ch false a.ctx handler (targetOf g), 0] ++ padTo 10 regs ++ [base * 2 ^ 16 + regs.length * 2 ^ 22, 0, 0, 0],
        join := join, cover := s.nextId })
  | .fres h v => some ((s.signal g a (s.futFar g a.ctx h)).sendFut src a.ctx h (.resolve v))
  | .fdec h n => some ((s.signal g a (s.futFar g a.ctx h)).sendFut src a.ctx h (.dec n false))
  | .ffree h => some ((s.signal g a (s.futFar g a.ctx h)).sendFut src a.ctx h .free)
  | .fcall gc h pq =>
    some ((s.signal g a true).sendFut src a.ctx h (.bind pq
      (toLE 4 h ++ toLE 2 pq ++ toLE 1 0 ++ toLE 1 a.ctx ++ toLE 8 a.act ++ bytesAt (s.eng g).spad gc 48)))
  | .tfree h => some ((s.signal g a true).performTfree g a.ctx h)
  | .trel h keep =>
    some ((if (s.tenureOf (g / 16) a.ctx h).any (fun t => t.hold = 1 && t.st.isWrite) then s.signal g a true else s).performTrel g a.ctx h keep)
  | .fence scope kind => s.fence g a.ctx scope kind
  | .matrix c => some (s.modEng g (fun E => { E with mx := { E.mx with queue := E.mx.queue ++ [{ c with since := E.past.length }] } }))
  | .coll gv addr bar kind => some (s.collStart g a.ctx a.act d.pc gv addr bar kind)

/-- Performs effects in program order (R35); what a fence holds back is left over. -/
def State.perform (s : State) (g : Nat) (a : Act) : List Deferred → State × List Deferred
  | [] => (s, [])
  | d :: r =>
    match s.performOne g a d with
    | none => (s, d :: r)
    | some t => t.perform g a r

/-- The join futures that the segment's SPAWNs name (R288). -/
def spawnJoins (l : List Deferred) : List Nat :=
  l.filterMap (fun d => match d.eff with
    | .spawn j _ _ _ _ => if j = 0 then none else some j
    | _ => none)

/-- One increment for each distinct join future, by the number of SPAWNs that name it (R288). -/
def State.incJoins (s : State) (src : Source) (ctx : Nat) (all : List Nat) : List Nat → State
  | [] => s
  | j :: r => (s.sendFut src ctx j (.inc (all.filter (fun x => x = j)).length)).incJoins src ctx all r

/-! ### The course of a committing or yielding word (R35) -/

/-- Every earlier instruction has left its queue and completed (R35, step 1). -/
def Act.alone (a : Act) (n : Nat) : Bool :=
  a.loads.isEmpty && a.front.all (fun e => decide (n ≤ e.n)) && (a.qa ++ a.qc ++ a.qs).all (fun e => decide (n ≤ e.n))

/-- An increment of a join future by engine `g` has not reached its agent: no other effect of the segment is performed yet (R288). -/
def State.joining (s : State) (g : Nat) : Bool :=
  s.futOnWay (engineSource g) (fun _ op => match op with
    | .inc _ => true
    | _ => false)

/-- A future operation of engine `g` to cluster `c` has not reached its agent. -/
def State.futOwed (s : State) (g c : Nat) : Bool := s.futOnWay (engineSource g) (fun h _ => hCluster h == c)

/-- A committing or yielding word of queue `q`. `inline` says that it may run at an inline PC. `check` is its step 2 after the token
check: it gives what the word captures, or a fault. `ready` is what it waits for once its effects are performed; `done` is what
follows. -/
def commitWord (q : Nat) (h : Hdr) (inline : Bool) (check : State → Act → Except Res (List Nat × State))
    (ready : State → Act → Bool) (done : State → Act → List Nat → State) (s : State) : Outcome State Fault Refusal :=
  issue q h (fun s a =>
    let g := s.focus.g
    let k := s.focus.k
    let run (s : State) (a : Act) (held : List Nat) : Res :=
      let (t, rest) := if s.joining g then (s, a.deferred) else s.perform g a a.deferred
      if rest.isEmpty && !s.joining g && ready t a then .ok (done t a held)
      else .wait (t.modAct g k (fun b => { b with busy := true, held := held, deferred := rest }))
    if a.busy then run s a a.held
    else if !a.alone s.focus.n then .wait s
    else if !inline && inlineBase ≤ s.focus.pc then .fail s 4 0x11
    else
      let b := a.pops q h
      if b.tc ≠ 0 || b.ts ≠ 0 || b.ta ≠ 0 then .fail s 4 0 else
      match check s a with
      | .error r => r
      | .ok (held, t) =>
        let js := spawnJoins a.deferred
        let t1 := t.incJoins (engineSource g) a.ctx js js.eraseDups
        -- the copies of one COMMIT share their pins (R415)
        run (t1.modEng g (fun E => { E with commits := E.commits + 1 })) a held) s

/-- The record of the running activation, with the JOIN of its entry. -/
def State.contRecord (s : State) (a : Act) (l : Live) (ch target : Nat) : Msg :=
  a.record s.seqPc l ((s.eng s.focus.g).entry s.focus.k).msg.join ch target

/-- COMMIT (R35, R285): a new segment begins with the record in the inbox entry. -/
def execCommit (h : Hdr) (f : YForm) (s : State) : Outcome State Fault Refusal :=
  commitWord 2 h false (fun s _ => .ok ([], s)) (fun _ _ => true)
    (fun t a _ =>
      let g := t.focus.g
      let k := t.focus.k
      let E := t.eng g
      let x := E.entry k
      let m := { t.contRecord a (liveSet f) x.msg.ch (targetOf g) with cause := x.msg.cause }
      (t.setEng g { E with inbox := E.inbox.map (fun e => if e.slot = some k then { e with msg := m } else e) }).modAct g k
        (fun b => { b with
          segCount := (b.segCount + 1) % 2 ^ 24, deferred := [], allocs := [], uses := [], pins := [], held := [], busy := false })) s

/-- YIELD (R286): the continuation goes to the tail of its channel of the own engine. -/
def execYield (h : Hdr) (f : YForm) (s : State) : Outcome State Fault Refusal :=
  commitWord 2 h false (fun s _ => .ok ([], s)) (fun _ _ => true)
    (fun t a _ =>
      (t.enqueue t.focus.g (t.contRecord a (liveSet f) (fieldOf f.obj.toNat 6 4) (targetOf t.focus.g))).endAct t.focus.g t.focus.k) s

/-- EXIT (R43, R286): the join decrement is its last effect. -/
def execExit (h : Hdr) (_f : YForm) (s : State) : Outcome State Fault Refusal :=
  commitWord 2 h true (fun s _ => .ok ([], s)) (fun _ _ => true)
    (fun t a _ =>
      let j := ((t.eng t.focus.g).entry t.focus.k).msg.join
      (if j = 0 then t else t.sendFut (engineSource t.focus.g) a.ctx j (.dec 1 false)).endAct t.focus.g t.focus.k) s

/-- The cluster that a MIGRATE to home `h` goes to (R289); `v` is the address. -/
def migrateCluster (h v : Nat) : Nat :=
  if h < 128 then 256 * (h / 32) + 8 * (h % 32) + fieldOf v 9 7 else 256 * (h % 4) + 8 * (h / 4 % 32) + fieldOf v 9 7

/-- MIGRATE (R289). -/
def execMigrate (h : Hdr) (f : YForm) (s : State) : Outcome State Fault Refusal :=
  commitWord 2 h false
    (fun s a =>
      let va := a.ug f.a.toNat
      if 2 ≤ va / 2 ^ 48 then .error (.fail s 3 va) else
      match s.translate a.ctx .r va 1 s.via with
      | (.bad x, t) => .error (.xlate t va x)
      | (.ok tg _, t) =>
        let p := match tg with
          | .dpa p _ => p
          | .remote _ _ => 0
        .ok ([migrateCluster ((homeOf p).getD 0) va], t))
    (fun _ _ => true)
    (fun t a held =>
      let c := held.headD 0
      let m := t.contRecord a (liveSet f) (fieldOf f.obj.toNat 6 4) (targetOf (16 * c))
      let src := engineSource t.focus.g
      (t.inject src a.ctx (src.agentRoute c) 0 tcMsg 4 m.target (.migrated m)).endAct t.focus.g t.focus.k) s

/-- Files a continuation with a future at step 4 of R293, in the waiter that step 2 reserved for slot `k`. -/
def State.await (s : State) (a : Act) (k hd target : Nat) (w : Waiter) : State :=
  let c := hCluster hd
  let (kept, s) := s.dropHold c w.eng k
  match s.findFut hd a.ctx with
  | none => s.deliver c a.ctx w 2 0
  | some x =>
    if x.state = .lapsed then s.deliver c a.ctx w 1 x.value
    else if reached x.phase target then s.deliver c a.ctx w 0 x.value
    else
      match (if kept then s.fileWaiter hd w else none) with
      | some t => t
      | none => s.deliver c a.ctx w 4 0

/-- A resolution of the future was released at the entry's cluster alone, and what it covers is not complete at PKG (R370): a waiter of
another cluster is not served before that, because the scope of a resolution always reaches its receiver (R372). -/
def State.farRelease (s : State) (hd c : Nat) : Bool :=
  hCluster hd != c && s.inflight.any (fun f => decide (f.id < (s.fut hd).cover) && bitOf f.reach (hCluster hd) && !f.tgt.isRemote)

/-- AWAIT (R293): the effects reach the agent before the record is filed. On an entry that has lapsed before it does what it does on one
that lapses meanwhile (DESIGN CHOICE, log 99). -/
def execAwait (h : Hdr) (f : YForm) (s : State) : Outcome State Fault Refusal :=
  commitWord 2 h false
    (fun s a =>
      let hd := a.ug f.a.toNat % 2 ^ 32
      match s.findFut hd a.ctx with
      | none => .error (.fail s 13 hd)
      | some x => .ok ([if bitOf f.sub.toNat 0 then (x.phase + 1) % 2 ^ 32 else a.ug f.b.toNat % 2 ^ 32],
          s.holdWaiter (hCluster hd) s.focus.g s.focus.k a.ctx))
    (fun t a =>
      let hd := a.ug f.a.toNat % 2 ^ 32
      !t.futOwed t.focus.g (hCluster hd) && !t.farRelease hd (t.focus.g / 16))
    (fun t a held =>
      let g := t.focus.g
      let hd := a.ug f.a.toNat % 2 ^ 32
      let tmo := a.ug f.b.toNat / 2 ^ 32
      let w : Waiter := { msg := t.contRecord a (liveSet f) (fieldOf f.obj.toNat 6 4) (targetOf g), eng := g, target := held.headD 0,
                          deadline := if tmo = 0 then none else some (t.hubTime + tmo), lapse := bitOf f.sub.toNat 1,
                          valReg := f.d.toNat }
      (t.await a t.focus.k hd (held.headD 0) w).endAct g t.focus.k) s

/-- LRW (R349): class A. -/
def execLrw (h : Hdr) (f : MForm) (s : State) : Outcome State Fault Refusal :=
  commitWord 0 h false
    (fun s a =>
      let va := baseAddr f a
      let v := a.ug f.b.toNat
      if !(liveOf v).ok then .error (.fail s 3 (infoV 0x12 v))
      else if va % (fmtWidth f.fmt.toNat / 8) ≠ 0 then .error (.raise s 10 va va 0 0)
      else if va / 2 ^ 48 ≠ 0 then .error (.fail s 3 (infoV 0x12 va))
      else
        match s.translate a.ctx .rw va (fmtWidth f.fmt.toNat / 8) s.via with
        | (.bad x, t) => .error (.xlate t va x)
        | (.ok (.dpa p key) u, t) => .ok ([p, key] ++ u, t)
        | (.ok (.remote _ _) _, t) => .error (.fail t 3 (infoV 0x12 va)))
    (fun _ _ => true)
    (fun t a held =>
      let g := t.focus.g
      let v := a.ug f.b.toNat
      let u : ResvUser := { ctx := a.ctx, g := g, reg := f.d.toNat, fmt := f.fmt.toNat, limit := v / 2 ^ 32,
                            msg := t.contRecord a (liveOf v) (fieldOf v 22 20) (targetOf g) }
      let q : ResvReq := { dpa := held.headD 0, key := held.getD 1 0, user := u, who := a.act, pc := t.focus.pc, va := baseAddr f a,
                           uses := held.drop 2 }
      ({ t with resvReqs := t.resvReqs ++ [q] } : State).endAct g t.focus.k) s

/-- TACQ (R355). -/
def execTacq (h : Hdr) (f : YForm) (s : State) : Outcome State Fault Refusal :=
  commitWord 2 h false
    (fun s a =>
      let hd := a.ug f.a.toNat % 2 ^ 32
      if (s.tile a.ctx hd).isNone then .error (.fail s 14 hd) else .ok ([], s))
    (fun _ _ => true)
    (fun t a _ =>
      let g := t.focus.g
      let tmo := a.ug f.b.toNat / 2 ^ 32
      let r : TReq := { g := g, ctx := a.ctx, tile := a.ug f.a.toNat % 2 ^ 32, write := bitOf f.sub.toNat 0,
                        deadline := if tmo = 0 then none else some (t.hubTime + tmo),
                        msg := t.contRecord a (liveSet f) (fieldOf f.obj.toNat 6 4) (targetOf g) }
      ({ t with requests := t.requests ++ [r] } : State).endAct g t.focus.k) s

end Sys2Proof.Machine
end

