-- ==== Sys2Proof/Machine/Scalar.lean ====
section
/-! DEFINITION. The scalar and predicate instructions (R123 to R134), RND and RNDF (R142), FMT (R100, R101, R140) and the words of the
hint region (R112). -/

namespace Sys2Proof.Machine

open Host (Outcome)

/-- A C-class instruction whose whole effect is on the activation (R123). -/
def alu (h : Hdr) (s : State) (f : Act → Act) : Outcome State Fault Refusal := issue 1 h (onAct f) s

/-- ADD and SUB with their saturations (R127): `op` on the signed and on the unsigned operands. -/
def addSub (f : XForm) (op : Int → Int → Int) (a : Act) : Int :=
  if !f.sat then op (a.sg f.a.toNat) (a.sg f.b.toNat)
  else if !bitOf f.fn.toNat 0 then satI 64 (op (a.sg f.a.toNat) (a.sg f.b.toNat))
  else satN 64 (op (a.ug f.a.toNat) (a.ug f.b.toNat))

/-- Saturation to a signed 64-bit value, where SAT asks for it (R127). -/
def satIf (sat : Bool) (v : Int) : Int := if sat then satI 64 v else v

/-- ADD (R127). -/
def execAdd (h : Hdr) (f : XForm) (s : State) : Outcome State Fault Refusal :=
  alu h s (fun a => a.wi f.d.toNat (addSub f (· + ·) a))

/-- ADDI (R127). -/
def execAddi (h : Hdr) (f : IForm) (s : State) : Outcome State Fault Refusal :=
  alu h s (fun a => a.wi f.d.toNat (a.sg f.a.toNat + f.imm.toInt))

/-- SUB (R127). -/
def execSub (h : Hdr) (f : XForm) (s : State) : Outcome State Fault Refusal :=
  alu h s (fun a => a.wi f.d.toNat (addSub f (· - ·) a))

/-- MUL (R127). -/
def execMul (h : Hdr) (f : XForm) (s : State) : Outcome State Fault Refusal :=
  alu h s (fun a => a.wi f.d.toNat (satIf f.sat (a.sg f.a.toNat * a.sg f.b.toNat)))

/-- MULI (R127). -/
def execMuli (h : Hdr) (f : IForm) (s : State) : Outcome State Fault Refusal :=
  alu h s (fun a => a.wi f.d.toNat (a.sg f.a.toNat * f.imm.toInt))

/-- MULH (R127). -/
def execMulh (h : Hdr) (f : XForm) (s : State) : Outcome State Fault Refusal :=
  alu h s (fun a => a.wi f.d.toNat (a.sg f.a.toNat * a.sg f.b.toNat / 2 ^ 64))

/-- MULHN (R127). -/
def execMulhn (h : Hdr) (f : XForm) (s : State) : Outcome State Fault Refusal :=
  alu h s (fun a => a.wn f.d.toNat (a.ug f.a.toNat * a.ug f.b.toNat / 2 ^ 64))

/-- DIV (R127). -/
def execDiv (h : Hdr) (f : XForm) (s : State) : Outcome State Fault Refusal :=
  alu h s (fun a => a.wi f.d.toNat (if a.sg f.b.toNat = 0 then -1 else (a.sg f.a.toNat).tdiv (a.sg f.b.toNat)))

/-- DIVN (R127). -/
def execDivn (h : Hdr) (f : XForm) (s : State) : Outcome State Fault Refusal :=
  alu h s (fun a => a.wn f.d.toNat (if a.ug f.b.toNat = 0 then 2 ^ 64 - 1 else a.ug f.a.toNat / a.ug f.b.toNat))

/-- REM (R127). -/
def execRem (h : Hdr) (f : XForm) (s : State) : Outcome State Fault Refusal :=
  alu h s (fun a => a.wi f.d.toNat (if a.sg f.b.toNat = 0 then a.sg f.a.toNat else a.sg f.a.toNat - a.sg f.b.toNat * (a.sg f.a.toNat).tdiv (a.sg f.b.toNat)))

/-- REMN (R127). -/
def execRemn (h : Hdr) (f : XForm) (s : State) : Outcome State Fault Refusal :=
  alu h s (fun a => a.wn f.d.toNat (if a.ug f.b.toNat = 0 then a.ug f.a.toNat else a.ug f.a.toNat % a.ug f.b.toNat))

/-- AND (R128). -/
def execAnd (h : Hdr) (f : XForm) (s : State) : Outcome State Fault Refusal :=
  alu h s (fun a => a.wg f.d.toNat (a.rg f.a.toNat &&& a.rg f.b.toNat))

/-- ANDI (R128). -/
def execAndi (h : Hdr) (f : IForm) (s : State) : Outcome State Fault Refusal :=
  alu h s (fun a => a.wg f.d.toNat (a.rg f.a.toNat &&& f.imm.signExtend 64))

/-- OR (R128). -/
def execOr (h : Hdr) (f : XForm) (s : State) : Outcome State Fault Refusal :=
  alu h s (fun a => a.wg f.d.toNat (a.rg f.a.toNat ||| a.rg f.b.toNat))

/-- ORI (R128). -/
def execOri (h : Hdr) (f : IForm) (s : State) : Outcome State Fault Refusal :=
  alu h s (fun a => a.wg f.d.toNat (a.rg f.a.toNat ||| f.imm.signExtend 64))

/-- XOR (R128). -/
def execXor (h : Hdr) (f : XForm) (s : State) : Outcome State Fault Refusal :=
  alu h s (fun a => a.wg f.d.toNat (a.rg f.a.toNat ^^^ a.rg f.b.toNat))

/-- XORI (R128). -/
def execXori (h : Hdr) (f : IForm) (s : State) : Outcome State Fault Refusal :=
  alu h s (fun a => a.wg f.d.toNat (a.rg f.a.toNat ^^^ f.imm.signExtend 64))

/-- SHL (R128, R129). -/
def execShl (h : Hdr) (f : XForm) (s : State) : Outcome State Fault Refusal :=
  alu h s (fun a => a.wg f.d.toNat (a.rg f.a.toNat <<< (a.ug f.b.toNat % 64)))

/-- SHLI (R128, R129). -/
def execShli (h : Hdr) (f : IForm) (s : State) : Outcome State Fault Refusal :=
  alu h s (fun a => a.wg f.d.toNat (a.rg f.a.toNat <<< f.imm.toNat))

/-- SHR (R128, R129). -/
def execShr (h : Hdr) (f : XForm) (s : State) : Outcome State Fault Refusal :=
  alu h s (fun a => a.wg f.d.toNat (a.rg f.a.toNat >>> (a.ug f.b.toNat % 64)))

/-- SHRI (R128, R129). -/
def execShri (h : Hdr) (f : IForm) (s : State) : Outcome State Fault Refusal :=
  alu h s (fun a => a.wg f.d.toNat (a.rg f.a.toNat >>> f.imm.toNat))

/-- SRA (R128, R129). -/
def execSra (h : Hdr) (f : XForm) (s : State) : Outcome State Fault Refusal :=
  alu h s (fun a => a.wg f.d.toNat ((a.rg f.a.toNat).sshiftRight (a.ug f.b.toNat % 64)))

/-- SRAI (R128, R129). -/
def execSrai (h : Hdr) (f : IForm) (s : State) : Outcome State Fault Refusal :=
  alu h s (fun a => a.wg f.d.toNat ((a.rg f.a.toNat).sshiftRight f.imm.toNat))

/-- ROL (R128, R129). -/
def execRol (h : Hdr) (f : XForm) (s : State) : Outcome State Fault Refusal :=
  alu h s (fun a => a.wg f.d.toNat ((a.rg f.a.toNat).rotateLeft (a.ug f.b.toNat % 64)))

/-- ROLI (R128, R129). -/
def execRoli (h : Hdr) (f : IForm) (s : State) : Outcome State Fault Refusal :=
  alu h s (fun a => a.wg f.d.toNat ((a.rg f.a.toNat).rotateLeft f.imm.toNat))

/-- Zero bits from bit `i` downwards, `n` bits (CLZ). -/
def leadZeros (x : BitVec 64) : Nat → Nat
  | 0 => 0
  | n + 1 => if x.getLsbD n then 0 else leadZeros x n + 1

/-- Zero bits from bit `i` upwards, at most `n` (CTZ). -/
def trailZeros (x : BitVec 64) (i : Nat) : Nat → Nat
  | 0 => 0
  | n + 1 => if x.getLsbD i then 0 else trailZeros x (i + 1) n + 1

/-- Set bits among the low `n` (POPC). -/
def setBits (x : BitVec 64) : Nat → Nat
  | 0 => 0
  | n + 1 => setBits x n + bit (x.getLsbD n)

/-- CLZ (R128). -/
def execClz (h : Hdr) (f : XForm) (s : State) : Outcome State Fault Refusal :=
  alu h s (fun a => a.wn f.d.toNat (leadZeros (a.rg f.a.toNat) 64))

/-- CTZ (R128). -/
def execCtz (h : Hdr) (f : XForm) (s : State) : Outcome State Fault Refusal :=
  alu h s (fun a => a.wn f.d.toNat (trailZeros (a.rg f.a.toNat) 0 64))

/-- POPC (R128). -/
def execPopc (h : Hdr) (f : XForm) (s : State) : Outcome State Fault Refusal :=
  alu h s (fun a => a.wn f.d.toNat (setBits (a.rg f.a.toNat) 64))

/-- MIN (R127). -/
def execMin (h : Hdr) (f : XForm) (s : State) : Outcome State Fault Refusal :=
  alu h s (fun a => a.wi f.d.toNat (min (a.sg f.a.toNat) (a.sg f.b.toNat)))

/-- MAX (R127). -/
def execMax (h : Hdr) (f : XForm) (s : State) : Outcome State Fault Refusal :=
  alu h s (fun a => a.wi f.d.toNat (max (a.sg f.a.toNat) (a.sg f.b.toNat)))

/-- MINN (R127). -/
def execMinn (h : Hdr) (f : XForm) (s : State) : Outcome State Fault Refusal :=
  alu h s (fun a => a.wn f.d.toNat (min (a.ug f.a.toNat) (a.ug f.b.toNat)))

/-- MAXN (R127). -/
def execMaxn (h : Hdr) (f : XForm) (s : State) : Outcome State Fault Refusal :=
  alu h s (fun a => a.wn f.d.toNat (max (a.ug f.a.toNat) (a.ug f.b.toNat)))

/-- ABS (R127). -/
def execAbs (h : Hdr) (f : XForm) (s : State) : Outcome State Fault Refusal :=
  alu h s (fun a => a.wi f.d.toNat (satIf f.sat ((a.sg f.a.toNat).natAbs : Int)))

/-- SEL (R131). -/
def execSel (h : Hdr) (f : XForm) (s : State) : Outcome State Fault Refusal :=
  alu h s (fun a => a.wg f.d.toNat (if a.rp f.c.toNat then a.rg f.a.toNat else a.rg f.b.toNat))

/-- MOVI (R131). -/
def execMovi (h : Hdr) (f : LForm) (s : State) : Outcome State Fault Refusal :=
  alu h s (fun a => a.wg f.d.toNat (f.imm.signExtend 64))

/-- MOVHI (R131). -/
def execMovhi (h : Hdr) (f : LForm) (s : State) : Outcome State Fault Refusal :=
  alu h s (fun a => a.wg f.d.toNat ((f.imm.extractLsb' 0 26 ++ (a.rg f.d.toNat).extractLsb' 0 38 : BitVec 64)))

/-- LEA (R131). -/
def execLea (h : Hdr) (f : IForm) (s : State) : Outcome State Fault Refusal :=
  alu h s (fun a => a.wi f.d.toNat ((s.focus.pc : Int) + a.ug f.a.toNat + f.imm.toInt))

/-- SEXT (R131). -/
def execSext (h : Hdr) (f : XForm) (s : State) : Outcome State Fault Refusal :=
  alu h s (fun a => a.wi f.d.toNat (signed (fmtWidth f.fmt.toNat) (a.ug f.a.toNat)))

/-- ZEXT (R131). -/
def execZext (h : Hdr) (f : XForm) (s : State) : Outcome State Fault Refusal :=
  alu h s (fun a => a.wn f.d.toNat (a.ug f.a.toNat % 2 ^ fmtWidth f.fmt.toNat))

/-- Bit position and last bit of a field descriptor (R131). -/
def fieldPos (b : Nat) : Nat := b % 64
def fieldEnd (b : Nat) : Nat :=
  let len := if fieldOf b 13 8 = 0 then 64 else fieldOf b 13 8
  min (b % 64 + len) 64 - 1

/-- BFI: bits `pos` to `hi` of `old` replaced by the low bits of `v` (R131). -/
def insertBits (old v pos hi : Nat) : Nat :=
  old - fieldOf old hi pos * 2 ^ pos + v % 2 ^ (hi + 1 - pos) * 2 ^ pos

/-- BFX (R131). -/
def execBfx (h : Hdr) (f : XForm) (s : State) : Outcome State Fault Refusal :=
  alu h s (fun a => a.wn f.d.toNat (fieldOf (a.ug f.a.toNat) (fieldEnd (a.ug f.b.toNat)) (fieldPos (a.ug f.b.toNat))))

/-- BFI (R131). -/
def execBfi (h : Hdr) (f : XForm) (s : State) : Outcome State Fault Refusal :=
  alu h s (fun a => a.wn f.d.toNat (insertBits (a.ug f.d.toNat) (a.ug f.a.toNat) (fieldPos (a.ug f.b.toNat)) (fieldEnd (a.ug f.b.toNat))))

/-- BSWAP (R131). -/
def execBswap (h : Hdr) (f : XForm) (s : State) : Outcome State Fault Refusal :=
  alu h s (fun a => a.wn f.d.toNat (ofLE (toLE (fmtWidth f.fmt.toNat / 8) (a.ug f.a.toNat)).reverse))

/-- CMP (R132, R133). -/
def execCmp (h : Hdr) (f : XForm) (s : State) : Outcome State Fault Refusal :=
  alu h s (fun a => a.wp f.d.toNat (cmpTrue (f.fn.toNat % 16) (a.rg f.a.toNat) (a.rg f.b.toNat)))

/-- CMPI (R132, R133). -/
def execCmpi (h : Hdr) (f : IForm) (s : State) : Outcome State Fault Refusal :=
  alu h s (fun a => a.wp f.d.toNat (cmpTrue (f.imm.toNat / 2 ^ 28) (a.rg f.a.toNat) ((f.imm.extractLsb' 0 28).signExtend 64)))

/-- PAND (R133). -/
def execPand (h : Hdr) (f : XForm) (s : State) : Outcome State Fault Refusal :=
  alu h s (fun a => a.wp f.d.toNat (a.rp f.a.toNat && a.rp f.b.toNat))

/-- POR (R133). -/
def execPor (h : Hdr) (f : XForm) (s : State) : Outcome State Fault Refusal :=
  alu h s (fun a => a.wp f.d.toNat (a.rp f.a.toNat || a.rp f.b.toNat))

/-- PXOR (R133). -/
def execPxor (h : Hdr) (f : XForm) (s : State) : Outcome State Fault Refusal :=
  alu h s (fun a => a.wp f.d.toNat (a.rp f.a.toNat != a.rp f.b.toNat))

/-- PNOT (R133). -/
def execPnot (h : Hdr) (f : XForm) (s : State) : Outcome State Fault Refusal :=
  alu h s (fun a => a.wp f.d.toNat (!a.rp f.a.toNat))

/-- PSET (R133). -/
def execPset (h : Hdr) (f : XForm) (s : State) : Outcome State Fault Refusal :=
  alu h s (fun a => a.wp f.d.toNat (bitOf f.fn.toNat 0))

/-- PGET (R133). -/
def execPget (h : Hdr) (f : XForm) (s : State) : Outcome State Fault Refusal :=
  alu h s (fun a => a.wp f.d.toNat ((a.rg f.a.toNat).getLsbD (f.fn.toNat % 64)))

/-- RND (R142, R46): one draw; it waits for the generator state. -/
def execRnd (h : Hdr) (f : XForm) (s : State) : Outcome State Fault Refusal :=
  issue 1 h (fun s a => if !a.rngReady then .wait s else
    let (v, g) := a.gen.draw
    onAct (fun a => (a.setGen g).wg f.d.toNat v) s a) s

/-- RNDF (R142): the high m bits of one draw as a fraction. -/
def execRndf (h : Hdr) (f : XForm) (s : State) : Outcome State Fault Refusal :=
  issue 1 h (fun s a => if !a.rngReady then .wait s else
    let (v, g) := a.gen.draw
    let m := match f.fmt.toNat with
      | 0 => 24
      | 1 => 8
      | _ => 11
    onAct (fun a => (a.setGen g).wn f.d.toNat (f32Bits (.fin false (v.toNat / 2 ^ (64 - m)) (2 ^ m)))) s a) s

/-- FMT (R100, R101): executed by the front end; with a prefix pending it raises ILLEGAL_STATE. One that has members of its group behind
it is executed as they enter their queues (`Act.enterAll`). -/
def execFmt (h : Hdr) (f : XForm) (s : State) : Outcome State Fault Refusal :=
  match s.cur with
  | none => .fault .noActivation
  | some a =>
    if a.pfx.isSome then .next (s.raiseCur 4 0 0 0 0) else .next (s.setCur (a.prefixed h f).frontDone)

/-- A word of the hint region (R112): no operation; in class A, C and S it obeys its guard and its tokens. -/
def execHintWord (cls : BitVec 2) (_opc : BitVec 4) (h : Hdr) (_ops : BitVec 44) (s : State) : Outcome State Fault Refusal :=
  if cls = 0 then
    match s.cur with
    | none => .fault .noActivation
    | some a => .next (s.setCur { a with pc := (s.focus.pc + 8) % 2 ^ 48 }.frontDone)
  else issue (cls.toNat - 1) h (onAct id) s

end Sys2Proof.Machine
end

