-- ==== Sys2Proof/Machine/Front.lean ====
section
/-! DEFINITION. The front end: fetch (R102, R103, R195, R260), groups (R87 to R90), the FMT prefix on the word it attaches to (R101,
R141), the register interlocks (R92), and the deadlock on tokens (R99). -/

namespace Sys2Proof.Machine

open Host (Outcome)

/-! ### Words with their prefixes (R101, R141) -/

/-- What a prefix gives a converting store (R189). -/
def Pfx.cvt (p : Pfx) : Cvt := { rm := BitVec.ofNat 3 (p.rm.getD 0), sat := p.sat.getD false }

/-- The fields of a prefix that an instruction accepts: the others have no field of the word to replace (R141). -/
def Pfx.fitting (p : Pfx) (x : Accepts) : Pfx :=
  { f1 := if x.f1 then p.f1 else none, f2 := if x.f2 then p.f2 else none, rm := if x.rm then p.rm else none,
    sat := if x.sat then p.sat else none }

/-- The word that a queue entry or the front end holds, with its prefix in place (R141). -/
def decodeEntry (w : BitVec 64) (p : Option Pfx) : Decoded :=
  match p with
  | none => decode w
  | some p =>
    match decode w with
    | .ok i =>
      let q := p.fitting i.accepts
      decodeWith q.cvt (substitute i.prefixForm q.f1 q.f2 q.rm q.sat w)
    | d => d

/-- The position in the FMT word of the first valid field that an instruction does not accept (R101). -/
def refusedField (p : Option Pfx) (i : Instr) : List Nat :=
  match p with
  | none => []
  | some p =>
    let x := i.accepts
    (if p.f1.isSome && !x.f1 then [15] else []) ++ (if p.rm.isSome && !x.rm then [12] else []) ++
      (if p.sat.isSome && !x.sat then [11] else []) ++ (if p.f2.isSome && !x.f2 then [6] else [])

/-! ### Interlocks (R92) -/

/-- The registers an instruction reads and writes, its guard or condition included; none for a hint word (R112). -/
def Instr.regs (i : Instr) : Uses :=
  match i with
  | .hintWord _ _ _ _ => {}
  | .nop _ | .brk _ | .trap _ => {}
  | i =>
    let u := i.uses
    { u with rd := u.rd ++ (match i.ctl?, i.hdr? with
      | some f, _ => guardRegs f.cond
      | none, some h => guardRegs h.guard
      | none, none => []) }

def entryUses (e : QEntry) : Uses :=
  match decodeEntry e.word e.pfx with
  | .ok i => Instr.regs i
  | _ => {}

/-- The registers of the instructions before number `n` that have not completed: a load stays at the head of its queue until its data
reach the register. -/
def Act.pending (a : Act) (n : Nat) : List Uses :=
  ((a.qa ++ a.qc ++ a.qs ++ a.front.toList).filter (fun e => e.n < n)).map entryUses

def meets (l m : List Reg) : Bool := l.any (fun r => r != .g 0 && m.contains r)

/-- Instruction `n` may issue as far as its registers go (R92). -/
def Act.clear (a : Act) (n : Nat) (u : Uses) : Bool :=
  (a.pending n).all (fun e => !meets e.wr u.rd && !meets e.wr u.wr && !meets e.rd u.wr)

/-- A committing or yielding instruction stands in a queue. -/
def Act.committing (a : Act) : Bool :=
  (a.qa ++ a.qc ++ a.qs).any (fun e => match decode e.word with
    | .ok i => i.commits
    | _ => false)

/-! ### Fetch (R102, R103, R195, R260) -/

inductive Fetched where
  | word (w : BitVec 64)
  | wait
  | fault (x : XFault) (info : Nat)
  | past
  deriving DecidableEq, Repr

/-- The map with room for key `x` where sets of `ways` keys share what is equal modulo `sets` (R184): in a full set the key of number
`d` gives way. -/
def roomFor {α : Type} (d sets ways x : Nat) (m : Sparse α) : Sparse α :=
  let l := (m.map (fun e => e.1)).filter (fun y => y % sets == x % sets)
  if (m.find x).isSome || l.length < ways then m else m.del (l.getD (d % ways) 0)

/-- The instruction cache takes a line (R184): which line of a full set it replaces is the device's choice. -/
def State.cacheCode (s : State) (g line : Nat) (bs : List Byte) : State :=
  let (d, t) := s.draw
  t.modEng g (fun E => { E with icache := (roomFor d 64 4 line E.icache).set line bs })

/-- The word at an address: from the inbox entry (R260), from the instruction cache, or from memory, whose line is then cached. An NCODE of
13 to 15 is taken as it stands (DESIGN CHOICE, log 100). -/
def State.fetch (s : State) (g k ctx pc : Nat) : Fetched × State :=
  if inlineBase ≤ pc then
    let m := ((s.eng g).entry k).msg
    let n := if m.kind = 2 then fieldOf m.hdr 31 28 else 0
    if pc < inlineBase + 8 * n then (.word (BitVec.ofNat 64 (m.word (2 + (pc - inlineBase) / 8))), s) else (.past, s)
  else
    match s.translate ctx .x pc 8 (some (g / 16, g % 16)) with
    | (.bad x, t) => (.fault x (if x.code = 15 then x.info else pc), t)
    | (.ok (.remote _ _) _, t) => (.fault { code := 8 } pc, t)
    | (.ok (.dpa p key) _, t) =>
      match (t.eng g).icache.find (pc / 128) with
      | some line => (.word (BitVec.ofNat 64 (ofLE ((line.drop (pc % 128)).take 8))), t)
      | none =>
        match t.routeFault ctx (g / 16) (g % 16) (.dpa p key), t.recall (g / 16) ctx (p / 128 * 128) 128 false false with
        | some info, _ => (.fault { code := 15 } info, t.hopFault info)
        | none, none => (.wait, s)
        | none, some t =>
          let (line, t) := t.readKeyed (p / 128 * 128) 128 key
          (.word (BitVec.ofNat 64 (ofLE ((line.drop (pc % 128)).take 8))), t.cacheCode g (pc / 128) line)

/-- The word at `pc` as number `i` of those fetched ahead, else from a fetch. -/
def State.nextWord (s : State) (g k : Nat) (a : Act) (i pc : Nat) : Fetched × State :=
  match a.ahead[i]? with
  | some (p, w) => if p = pc then (.word w, s) else s.fetch g k a.ctx pc
  | none => s.fetch g k a.ctx pc

/-- Where the front end expects execution to go on after the word at `pc` (R102, R103): nowhere known, behind a register-indirect branch
that is expected to be taken. -/
def expected (a : Act) (pc : Nat) (w : BitVec 64) : Option Nat :=
  let seq := (loopBack ((pc + 8) % 2 ^ 48) a.loops).1
  let taken := fun (f : BForm) => f.cond.toNat % 16 == 15 || f.hint
  match decode w with
  | .ok (.bri f) | .ok (.calli f) => some (if taken f then (((pc : Int) + 8 * f.imm.toInt) % (2 ^ 48 : Nat)).toNat else seq)
  | .ok (.br f) | .ok (.call f) | .ok (.ret f) => if taken f then none else some seq
  | _ => some seq

/-- The front end fetches one word more along the expected path (R102). A fetch that fails leaves nothing behind (R103). -/
def State.fetchAhead (s : State) (g k : Nat) : State :=
  match s.act g k with
  | none => s
  | some a =>
    if a.loading then s else
    let last := match a.ahead.getLast?, (a.front.toList ++ a.rest).getLast? with
      | some (p, w), _ => some (p, w)
      | none, some e => some (e.pc, e.word)
      | none, none => none
    let at_ := match last with
      | some (p, w) => expected a p w
      | none => some (loopBack a.pc a.loops).1
    match at_ with
    | none => s
    | some pc =>
      match s.fetch g k a.ctx pc with
      | (.word w, t) => t.modAct g k (fun a => { a with ahead := a.ahead ++ [(pc, w)] })
      | _ => s

/-! ### Groups (R87 to R90) -/

/-- A word of a group, decoded with the prefix that attaches to it. -/
structure Member where
  pc   : Nat
  word : BitVec 64
  pfx  : Option Pfx := none
  ins  : Decoded
  deriving DecidableEq, Repr

/-- A fault that the front end raises, by the position of its word in the group. -/
structure GFault where
  at_    : Nat
  pc     : Nat
  code   : Nat
  info   : Nat := 0
  addr   : Nat := 0
  reason : Nat := 0
  share  : Nat := 0
  deriving DecidableEq, Repr

def Member.cls (m : Member) : Nat := (m.word.extractLsb' 62 2).toNat
def Member.stop (m : Member) : Bool := m.word.getLsbD 61
def Member.opc (m : Member) : Nat := (m.word.extractLsb' 44 8).toNat
def Member.fmt (m : Member) : Option (Hdr × XForm) :=
  match m.ins with
  | .ok (.fmt h f) => some (h, f)
  | _ => none

/-- How the gathering of a group ended: closed by STOP; four words without one; at the end of a loop body; or a fetch that failed. -/
inductive Ending where
  | closed
  | long
  | body
  | wait
  | fault (f : GFault)
  deriving DecidableEq, Repr

/-- Gathers the words of a group from `pc` on. `p` is the pending prefix. -/
def State.gather (s : State) (g k : Nat) (a : Act) (stop : Option Nat) : Nat → Nat → Nat → Option Pfx → List Member × Ending × State
  | 0, _, _, _ => ([], .long, s)
  | fuel + 1, i, pc, p =>
    match s.nextWord g k a i pc with
    | (.wait, t) => ([], .wait, t)
    | (.fault x info, t) => ([], .fault { at_ := i, pc := pc, code := x.code, info := info, addr := pc, reason := x.reason, share := x.share }, t)
    | (.past, t) => ([], .fault { at_ := i, pc := pc, code := 4, info := 0x10 }, t)
    | (.word w, t) =>
      let control := w.extractLsb' 62 2 = 0
      let isFmt := match decode w with
        | .ok (.fmt _ _) => true
        | _ => false
      let m : Member := { pc := pc, word := w, pfx := if control || isFmt then none else p,
                          ins := if control || isFmt then decode w else decodeEntry w p }
      let p' := match m.fmt with
        | some (h, f) => if condTrue h.guard a then some (fmtPrefix f) else p
        | none => if control then p else none
      let next := (pc + 8) % 2 ^ 48
      if m.stop then ([m], .closed, t)
      else if stop = some next then ([m], .body, t)
      else
        let (l, e, t) := t.gather g k a stop fuel (i + 1) next p'
        (m :: l, e, t)

/-- The first word that decoding does not allow (R90, R111). -/
def badInstr (acc : Nat) (l : List Member) : Option GFault :=
  (l.zipIdx.find? (fun e => match e.1.ins with
    | .illegalInstr => true
    | .illegalGroup => false
    | .ok i => match i.feature with
      | some k => !hasFeat acc k
      | none => false)).map (fun e => { at_ := e.2, pc := e.1.pc, code := 1 })

/-- R88: a member meets a register that an earlier member writes. -/
def groupConflict : List Member → List Reg → Bool
  | [], _ => false
  | m :: r, wr =>
    let u := match m.ins with
      | .ok i => Instr.regs i
      | _ => {}
    meets wr (u.rd ++ u.wr) || groupConflict r (wr ++ u.wr)

/-- ILLEGAL_GROUP: at the first word of the group (R87, R88), or at a control word with STOP = 0 (R84; DESIGN CHOICE, log 28: the rule
names no PC). -/
def badGroup (l : List Member) (e : Ending) : Option GFault :=
  let first := (l.head?.map (fun m => m.pc)).getD 0
  if e = .long || e = .body || groupConflict l [] then some { at_ := 0, pc := first, code := 2 }
  else (l.zipIdx.find? (fun e => e.1.ins == .illegalGroup)).map (fun e => { at_ := e.2, pc := e.1.pc, code := 2 })

/-- The first word whose static operand fields fail, with the position of the field (R90, R101, R150). A refused prefix field is reported
before the word's own fields, and of these the most significant (DESIGN CHOICE, log 17). -/
def badOperand (acc : Nat) (l : List Member) : Option GFault :=
  (l.zipIdx.filterMap (fun e => match e.1.ins with
    | .ok i =>
      match refusedField e.1.pfx i ++ i.fails acc with
      | [] => none
      | b :: _ => some ({ at_ := e.2, pc := e.1.pc, code := 3, info := e.1.opc + b * 256 } : GFault)
    | _ => none)).head?

/-- Room in the queues for the members of each (R89). -/
def Act.room (a : Act) (l : List Member) : Bool :=
  let n := fun (c : Nat) => (l.filter (fun m => m.cls == c && m.fmt.isNone)).length
  a.qa.length + n 1 ≤ 16 && a.qc.length + n 2 ≤ 16 && a.qs.length + n 3 ≤ 8

/-- What the front end does next. -/
inductive Plan where
  | wait
  | fault (a : Act) (f : GFault)
  | go (a : Act) (l : List Member)
  deriving Repr

/-- An activation leaves, pre-empted, once it performs no effects and has raised no fault (R51): that of a HELD context (R426), and one
whose engine is being switched (R281). -/
def State.mustLeave (s : State) (g : Nat) (a : Act) : Bool :=
  ((s.ctx a.ctx).state == .held || (s.eng g).incoming.isSome) && !a.mayNot

/-- The plan for the next group of an activation (R89, R90, R146). A failed fetch of one of its words is raised at that word, after an
ILLEGAL_INSTR and before the other faults of the group (DESIGN CHOICE, log 28: R90 does not rank it). -/
def State.planGroup (s : State) (g k : Nat) (a0 : Act) : Plan × State :=
  if a0.loading || a0.front.isSome || !a0.faults.isEmpty || a0.busy || a0.committing || s.mustLeave g a0 then (.wait, s) else
  let (pc, loops) := loopBack a0.pc a0.loops
  let a := { a0 with pc := pc, loops := loops, ahead := if a0.ahead.head?.any (fun e => e.1 == pc) then a0.ahead else [] }
  let stop := loops.head?.map Loop.stop
  let (l, e, t) := s.gather g k a stop 4 0 pc a.pfx
  let fmts := l.zipIdx.filterMap (fun x => x.1.fmt.map (fun f => (x.2, f.1)))
  if e = .wait || fmts.any (fun x => !a.clear (a.next + x.1) { rd := guardRegs x.2.guard }) then (.wait, s) else
  match badInstr s.hub.featAcc l with
  | some f => (.fault a f, t)
  | none =>
    match e with
    | .fault f => (.fault a f, t)
    | _ =>
      match badGroup l e with
      | some f => (.fault a f, t)
      | none =>
        match badOperand s.hub.featAcc l with
        | some f => (.fault a f, t)
        | none => if a.room l then (.go a l, t) else (.wait, s)

/-- The members as dispatched words, numbered from `n` on in program order. -/
def entriesFrom (n : Nat) (l : List Member) : List QEntry :=
  l.zipIdx.map (fun e => { pc := e.1.pc, n := n + e.2, word := e.1.word, pfx := e.1.pfx, last := e.1.stop })

/-- The members of a group are dispatched (R89), and the front end stands behind them. -/
def Act.takeAll (a : Act) (l : List Member) : Act :=
  let pc := (l.getLast?.map (fun m => (m.pc + 8) % 2 ^ 48)).getD a.pc
  { a with next := a.next + l.length, pc := pc, ahead := a.ahead.drop l.length }.enterAll (entriesFrom a.next l)

/-- GROUP_DISPATCH (R89). -/
def execGroupDispatch (g k : Nat) (s : State) : Outcome State Fault Refusal :=
  match s.act g k with
  | none => .next s
  | some a0 =>
    match s.planGroup g k a0 with
    | (.wait, _) => .next s
    | (.fault a f, t) =>
      .next ((t.setAct g k a).raiseAt g k
        { n := a.next + f.at_, pc := f.pc, code := f.code, info := f.info, addr := f.addr, reason := f.reason, share := f.share })
    | (.go a l, t) => .next ((t.setAct g k (a.takeAll l).progress).settle g k)

/-! ### Deadlock on tokens (R99) -/

/-- The front end could act: execute what it holds, or dispatch a group. No fault is raised (R105); an FMT word takes effect as its group is
dispatched, before a commit of the group (R89). -/
def State.frontCan (s : State) (g k : Nat) (a : Act) : Bool :=
  match a.front with
  | some e => a.clear e.n (entryUses e) && (e.isFmt || !a.committing) && a.faults.isEmpty
  | none =>
    match (s.planGroup g k a).1 with
    | .wait => false
    | _ => true

/-- The word of number `n` has issued and holds the head of its queue until it completes. -/
def Act.issued (a : Act) (n : Nat) : Bool := a.loads.any (fun l => l.n == n) || a.owed.any (fun o => o.n == n)

/-- The head of the queue waits on a token pop. -/
def Act.tokenWait (a : Act) (q : Nat) : Bool :=
  match a.queue q with
  | [] => true
  | e :: _ =>
    if a.issued e.n then false else
    match decodeEntry e.word e.pfx with
    | .ok i => match i.hdr? with
      | some h => !a.canPop q h
      | none => false
    | _ => false

/-- The earliest of the queue heads in program order. -/
def Act.firstHead (a : Act) : Option QEntry :=
  ([0, 1, 2].filterMap (fun q => (a.queue q).head?)).foldl (fun r e => match r with
    | none => some e
    | some x => if e.n < x.n then some e else some x) none

/-- TOKEN_DEADLOCK (R99). -/
def execTokenDeadlock (g k : Nat) (s : State) : Outcome State Fault Refusal :=
  match s.act g k with
  | none => .next s
  | some a =>
    match a.firstHead, a.stall with
    | some e, some t =>
      if [0, 1, 2].all a.tokenWait && !a.busy && !a.loading && a.faults.isEmpty && t + 64 ≤ s.now g &&
          !s.frontCan g k a then
        .next ((s.modAct g k (fun a => { a with blocked := [0, 1, 2] })).raiseAt g k { n := e.n, pc := e.pc, code := 4, info := 0 })
      else .next s
    | _, _ => .next s

end Sys2Proof.Machine
end

