-- ==== Sys2Proof/Machine/Special.lean ====
section
/-! DEFINITION. SRR and SRW (R403) with the layouts of the special registers (R27, R134, R252, R267, R273). -/

namespace Sys2Proof.Machine

open Host (Outcome)

/-- Matrix effects that an activation has deferred and not performed. -/
def Act.mxReserved (a : Act) : Nat :=
  (a.deferred.filter (fun d => match d.eff with
    | .matrix _ => true
    | _ => false)).length

/-- Queue entries of an engine reserved or holding a command (R222, R252): an entry is released when its command completes. -/
def State.mxUsed (s : State) (g : Nat) : Nat :=
  let E := s.eng g
  E.mx.queue.length + ((s.unit (unitOf g)).running.filter (fun r => r.eng == g)).length +
    (E.slots.map (fun e => match e.2.act with
      | some a => a.mxReserved
      | none => 0)).sum

/-- MX_STAT (R252). -/
def State.mxStat (s : State) (g : Nat) : Nat :=
  let m := (s.eng g).mx
  m.satm.toNat + s.mxUsed g * 2 ^ 32 + bit m.rej * 2 ^ 40 + m.weight * 2 ^ 48 + m.credit * 2 ^ 52

/-- CL_SCHED (R267). -/
def Cluster.sched (x : Cluster) : Nat := x.age + x.stall * 2 ^ 32 + x.slice * 2 ^ 56

/-- CL_FT_STAT for a context (R273). -/
def State.ftStat (s : State) (c ctx : Nat) : Nat :=
  let x := s.cluster c
  x.entries ctx false + x.entries ctx true * 2 ^ 13 + (s.ctx ctx).quota * 2 ^ 26 + x.wfree * 2 ^ 39

/-- The value of a special register as activation `a` of engine `g` reads it (R27, R403). -/
def State.special (s : State) (g : Nat) (a : Act) (n : Nat) : Nat :=
  match n with
  | 0x000 => a.act + a.ctx * 2 ^ 24
  | 0x001 => a.seq
  | 0x002 => a.kind + a.status * 256
  | 0x003 => a.deferred.length + a.segCount * 256
  | 0x004 => a.p.toNat
  | 0x005 => (s.cluster (g / 16)).cycles
  | 0x010 => s.mxStat g
  | 0x020 => (s.cluster (g / 16)).sched
  | 0x021 => s.ftStat (g / 16) a.ctx
  | 0x040 => s.hub.featAcc % 2 ^ 64
  | 0x041 => fieldOf s.hub.featAcc 127 64
  | 0x042 => fieldOf s.hub.featAcc 191 128
  | 0x043 => fieldOf s.hub.featAcc 255 192
  | 0x044 => s.hubTime
  | _ => 0

/-- SRR (R403). -/
def execSrr (h : Hdr) (f : YForm) (s : State) : Outcome State Fault Refusal :=
  issue 2 h (fun s a => onAct (fun a => a.wn f.d.toNat (s.special s.focus.g a (f.imm.toNat % 4096))) s a) s

/-- SRW (R403): TE_PRED and MX_STAT act, CL_SCHED needs PRIV, the rest ignore the write. -/
def execSrw (h : Hdr) (f : YForm) (s : State) : Outcome State Fault Refusal :=
  issue 2 h (fun s a =>
    let v := a.ug f.a.toNat
    match f.imm.toNat % 4096 with
    | 0x004 => onAct (fun a => { a with p := BitVec.ofNat 12 v }) s a
    | 0x010 =>
      .ok (s.modEng s.focus.g (fun E => { E with
        mx := { E.mx with satm := E.mx.satm &&& ~~~(BitVec.ofNat 32 v), rej := E.mx.rej && !bitOf v 40 } }))
    | 0x020 =>
      if (s.ctx a.ctx).priv then
        .ok (s.modCluster (s.focus.g / 16) (fun x => { x with
          age := v % 2 ^ 24, stall := fieldOf v 55 32, slice := fieldOf v 63 56 }))
      else .fail s 8 0x020
    | _ => .ok s) s

end Sys2Proof.Machine
end

