-- ==== Sys2Proof/Machine/Elementary.lean ====
section
/-! DEFINITION. The special functions (R176, R177): the exact result to far more bits than an F32 unit in the last place, and the F32
results inside the bound, of which the device takes a fixed, unpublished one for each input. Fixed-point numbers here have 1,100
fraction bits; their error is far below what could move a bound (DEDUCED, log 16). -/

namespace Sys2Proof.Machine

/-- 2^1100, the unit of the fixed-point numbers. -/
def fxOne : Int := (2 ^ 1100 : Nat)

/-- The sum of `x^(2k+1) / (2k+1)` with alternating signs or not: arctan or artanh of a fixed-point number. -/
def oddSeries (alt : Bool) (x2 : Int) : Nat → Int → Nat → Int
  | 0, _, _ => 0
  | fuel + 1, t, k => t / k + oddSeries alt x2 fuel ((if alt then -t else t) * x2 / fxOne) (k + 2)

def artanhFx (x : Int) : Int := oddSeries false (x * x / fxOne) 400 x 1
def arctanFx (x : Int) : Int := oddSeries true (x * x / fxOne) 300 x 1
/-- π by Machin's formula. -/
def piFx : Int := 4 * (4 * arctanFx (fxOne / 5) - arctanFx (fxOne / 239))
/-- ln 2 = 2 artanh(1/3). -/
def ln2Fx : Int := 2 * artanhFx (fxOne / 3)

/-- The exponential series of a fixed-point number. -/
def expSeries (x : Int) : Nat → Int → Nat → Int
  | 0, _, _ => 0
  | fuel + 1, t, k => t + expSeries x fuel (t * x / fxOne / k) (k + 1)

/-- A fixed-point number times `2^k` as a real. -/
def fxVal (v k : Int) : Val := Val.scale (.fin (decide (v < 0)) v.natAbs (2 ^ 1100)) k

/-- The fixed-point form of a finite real. -/
def Val.toFx : Val → Int
  | .fin s n d => let q : Int := (n * 2 ^ 1100 / d : Nat); if s then -q else q
  | _ => 0

/-- e to a fixed-point number, as a fixed-point number times a power of two. -/
def expFx (x : Int) : Int × Int :=
  let k := x / ln2Fx
  (expSeries (x - k * ln2Fx) 300 fxOne 1, k)

/-- The terms of the series of erf, without the factor 2/√π. -/
def erfSeries (x2 : Int) : Nat → Int → Nat → Int
  | 0, _, _ => 0
  | fuel + 1, t, n => t / (2 * n + 1) + erfSeries x2 fuel (-(t * x2 / fxOne) / (n + 1)) (n + 1)

def erfFx (x : Int) : Int :=
  let sqrtPi : Int := isqrt 2300 ((piFx * fxOne).toNat)
  2 * erfSeries (x * x / fxOne) 1000 x 0 * fxOne / sqrtPi

/-- A real brought into an interval outside which the function's F32 results no longer change. -/
def clampVal (lo hi : Int) (x : Val) : Val :=
  if x.cmp (.ofInt lo) < 0 then .ofInt lo else if x.cmp (.ofInt hi) > 0 then .ofInt hi else x

/-- The seven functions: 0 e^x, 1 2^x, 2 ln x, 3 1/x, 4 1/√x, 5 tanh x, 6 erf x; of a finite nonzero real in the domain. -/
def specialReal (fn : Nat) (x : Val) : Val :=
  match fn with
  | 0 => let (v, k) := expFx (clampVal (-200) 200 x).toFx; fxVal v k
  | 1 =>
    let y := (clampVal (-300) 300 x).toFx
    let k := y / fxOne
    let (v, j) := expFx ((y - k * fxOne) * ln2Fx / fxOne)
    fxVal v (j + k)
  | 2 =>
    match x with
    | .fin _ n d =>
      let e := floorLog2 n d
      let m := (Val.scale x (-e)).toFx
      fxVal (2 * artanhFx ((m - fxOne) * fxOne / (m + fxOne)) + e * ln2Fx) 0
    | v => v
  | 3 => (Val.fin false 1 1).div x
  | 4 => match x with
    | .fin _ n d => fxVal (isqrt 2300 (d * 2 ^ 2200 / n)) 0
    | v => v
  | 5 =>
    let y := (clampVal (-100) 100 x).toFx
    let (v, k) := expFx (2 * (if y < 0 then -y else y))
    let u := fxVal v k
    let t := (u.sub false (.fin false 1 1)).div (u.add false (.fin false 1 1))
    if y < 0 then t.neg else t
  | _ => fxVal (erfFx (clampVal (-12) 12 x).toFx) 0

/-- The exact cases of R176. -/
def specialExact (fn : Nat) (x : Val) : Option Val :=
  match x with
  | .fin s n d =>
    let e := floorLog2 n d
    let pow := decide (Val.scale (.fin false 1 1) e = .fin false n d) || (Val.scale (.fin false 1 1) e).cmp (.fin false n d) == 0
    match fn with
    | 1 =>
      let k : Int := if s then -(n / d : Nat) else (n / d : Nat)
      if n % d = 0 && -149 ≤ k && k ≤ 127 then some (Val.scale (.fin false 1 1) k) else none
    | 2 => if !s && n = d then some (.fin false 0 1) else none
    | 3 => if pow && -149 ≤ -e && -e ≤ 127 then some (Val.scale (.fin s 1 1) (-e)) else none
    | 4 => if pow && !s && e % 2 = 0 then some (Val.scale (.fin false 1 1) (-(e / 2))) else none
    | _ => none
  | _ => none

/-- The bound in units in the last place (R176). -/
def specialBound (fn : Nat) : Nat := if fn = 1 || fn = 3 || fn = 4 then 1 else 2

/-- The F32 values within `b` units in the last place of an exact result; a value too large for F32 counts as infinite. -/
def within (b : Nat) (v : Val) : List Val :=
  match v with
  | .fin s n d =>
    let e := max (floorLog2 n d) (-126)
    let t := e - 24
    let (p, q) := pow2 t
    let lo : Int := (n * q / (d * p) : Nat)
    (List.range (4 * b + 4)).filterMap (fun (i : Nat) =>
      let j := lo - (2 * b + 1) + (i : Int)
      let y := Val.scale (.fin (decide (j < 0) != s) j.natAbs 1) t
      let gap := (y.sub false v).abs
      if (roundGrid 0 1 0 y).cmp y = 0 && gap.cmp (Val.scale (.fin false b 1) (e - 23)) ≤ 0 then
        some (match y with
          | .fin s' n' d' => if maxFinite 0 * d' < n' then .inf s' else y
          | w => w)
      else none)
  | w => [w]

/-- The result of a special function for an F32 input code (R176, R177). -/
def special (fn x : Nat) : Val :=
  let v := floatVal 0 x
  let one : Val := .fin false 1 1
  match v with
  | .nan => .nan
  | .inf s =>
    match fn with
    | 0 | 1 => if s then .fin false 0 1 else .inf false
    | 2 => if s then .nan else .inf false
    | 3 => .fin s 0 1
    | 4 => if s then .nan else .fin false 0 1
    | _ => .fin s 1 1
  | .fin s n d =>
    if n = 0 then
      match fn with
      | 0 | 1 => one
      | 2 => .inf true
      | 3 | 4 => .inf s
      | _ => .fin s 0 1
    else if s && (fn = 2 || fn = 4) then .nan
    else
      match specialExact fn v with
      | some y => y
      | none =>
        let ys := within (specialBound fn) (specialReal fn (.fin s n d))
        ys.getD (Config.specialPick fn x % max 1 ys.length) .nan

end Sys2Proof.Machine
end

