-- ==== Sys2Proof/Machine/Float.lean ====
section
/-! DEFINITION. Scalar floating point (R135 to R139). -/

namespace Sys2Proof.Machine

open Host (Outcome)

/-- A float operand: the F32 value of bits [31:0] (R63, R136). -/
def Act.fg (a : Act) (n : Nat) : Val := floatVal 0 (a.ug n % 2 ^ 32)

/-- Mode SR waits for the generator state (R46). -/
def srWaits (rm : Nat) (a : Act) : Bool := rm == 5 && !a.rngReady

/-- An exact result rounded once and written as an F32 value (R136); `t` gets whether the mode is RDN (R68). -/
def floatOp (h : Hdr) (f : XForm) (s : State) (t : Bool → Act → Val) : Outcome State Fault Refusal :=
  issue 1 h (fun s a =>
    if srWaits f.rm.toNat a then .wait s else
    let (r, g) := a.gen.round f.fmt.toNat f.rm.toNat f.sat (t (f.rm == 3) a)
    onAct (fun a => (a.setGen g).wn f.d.toNat (f32Bits r)) s a) s

/-- FADD (R135, R136). -/
def execFadd (h : Hdr) (f : XForm) (s : State) : Outcome State Fault Refusal := floatOp h f s (fun dn a => (a.fg f.a.toNat).add dn (a.fg f.b.toNat))

/-- FSUB (R135, R136). -/
def execFsub (h : Hdr) (f : XForm) (s : State) : Outcome State Fault Refusal := floatOp h f s (fun dn a => (a.fg f.a.toNat).sub dn (a.fg f.b.toNat))

/-- FMUL (R135, R136). -/
def execFmul (h : Hdr) (f : XForm) (s : State) : Outcome State Fault Refusal := floatOp h f s (fun _ a => (a.fg f.a.toNat).mul (a.fg f.b.toNat))

/-- FFMA (R135, R136). -/
def execFfma (h : Hdr) (f : XForm) (s : State) : Outcome State Fault Refusal := floatOp h f s (fun dn a => ((a.fg f.a.toNat).mul (a.fg f.b.toNat)).add dn (a.fg f.c.toNat))

/-- FDIV (R135, R136). -/
def execFdiv (h : Hdr) (f : XForm) (s : State) : Outcome State Fault Refusal := floatOp h f s (fun _ a => (a.fg f.a.toNat).div (a.fg f.b.toNat))

/-- FSQRT (R135, R136). -/
def execFsqrt (h : Hdr) (f : XForm) (s : State) : Outcome State Fault Refusal := floatOp h f s (fun _ a => (a.fg f.a.toNat).sqrt)

/-- FMIN (R135, R136). -/
def execFmin (h : Hdr) (f : XForm) (s : State) : Outcome State Fault Refusal := floatOp h f s (fun _ a => (a.fg f.a.toNat).min2 (a.fg f.b.toNat))

/-- FMAX (R135, R136). -/
def execFmax (h : Hdr) (f : XForm) (s : State) : Outcome State Fault Refusal := floatOp h f s (fun _ a => (a.fg f.a.toNat).max2 (a.fg f.b.toNat))

/-- FCMP (R137). -/
def execFcmp (h : Hdr) (f : XForm) (s : State) : Outcome State Fault Refusal :=
  issue 1 h (onAct (fun a => a.wn f.d.toNat (relMask (a.fg f.a.toNat) (a.fg f.b.toNat)))) s

/-- The conversion of FCVT (R139): one rounding, and in mode SR one draw, also where no rounding takes place (R66). -/
def cvtCode (g : Gen) (src dst rm : Nat) (sat : Bool) (v : Nat) : Nat × Gen :=
  let (code, g') := g.convert src dst rm sat (if src = 0 then v % 2 ^ 32 else v)
  (toRegister dst code, if isInt src && isInt dst then (g.bits rm).2 else g')

/-- FCVT (R139). -/
def execFcvt (h : Hdr) (f : XForm) (s : State) : Outcome State Fault Refusal :=
  issue 1 h (fun s a =>
    if srWaits f.rm.toNat a then .wait s else
    let (v, g) := cvtCode a.gen (f.fn.toNat % 32) f.fmt.toNat f.rm.toNat f.sat (a.ug f.a.toNat)
    onAct (fun a => (a.setGen g).wn f.d.toNat v) s a) s

/-- FCLASS (R138). -/
def execFclass (h : Hdr) (f : XForm) (s : State) : Outcome State Fault Refusal :=
  issue 1 h (onAct (fun a => a.wn f.d.toNat (classMask (a.ug f.a.toNat % 2 ^ 32)))) s

end Sys2Proof.Machine
end

