-- ==== Sys2Proof/Machine/Shapes.lean ====
section
/-! DEFINITION. Shape records and shape registers (R151 to R155), the checks at issue (R156 to R158), and the elements of a tensor in
scratchpad (R152, R167). A record is a 256-bit number. -/

namespace Sys2Proof.Machine

open Host (Outcome)

/-! ### The record (R151) -/

def shBase (r : Nat) : Nat := fieldOf r 16 0
def shFmt (r : Nat) : Nat := fieldOf r 21 17
def shRank (r : Nat) : Nat := fieldOf r 23 22 + 1
def shSbase (r : Nat) : Nat := fieldOf r 40 24
/-- Effective extent (R152). -/
def shExt (r j : Nat) : Nat := if j < shRank r then fieldOf r (64 + 16 * j + 15) (64 + 16 * j) else 1
def shExts (r : Nat) : List Nat := (List.range 4).map (shExt r)
/-- Stride of dimension `j` ≥ 1, of the elements or of the scales. -/
def shStride (r j : Nat) : Int := signed 20 (fieldOf r (128 + 20 * (j - 1) + 19) (128 + 20 * (j - 1)))
def shScaleStride (r j : Nat) : Int := signed 20 (fieldOf r (192 + 20 * (j - 1) + 19) (192 + 20 * (j - 1)))
/-- RSVD fields of a record. -/
def shClean (r : Nat) : Nat := setField (setField (setField r 63 41 0) 191 188 0) 255 252 0

def Act.shape (a : Act) (n : Nat) : Option Nat := (a.h.find n).map (fun x => x.toNat)
def Act.setShape (a : Act) (n r : Nat) : Act := { a with h := a.h.set n (BitVec.ofNat 256 r) }

/-- SHLD (R154): each byte of the record is read before or after each write that crossed the word (R97). -/
def execShld (h : Hdr) (f : MForm) (s : State) : Outcome State Fault Refusal :=
  issue 1 h (fun s a =>
    let ad := baseAddr f a
    checkSpad s ad 32 32
      (let (R, t) := s.reads a 1
       let bs := (List.range 32).map (fun i => (R.see s.spad s.spad i).get 0 (ad + i))
       .ok (t.setCur (a.setShape f.d.toNat (shClean (ofLE bs)))))) s

/-- SHST (R154). -/
def execShst (h : Hdr) (f : MForm) (s : State) : Outcome State Fault Refusal :=
  issue 1 h (fun s a =>
    let ad := baseAddr f a
    checkSpad s ad 32 32
      (match a.shape f.d.toNat with
        | none => .fail s 4 (0x41 + f.d.toNat * 256 + 4096)
        | some r => .ok (s.setSpad [putOf ad (toLE 32 r)]))) s

/-- The field of SHSET with its value, or nothing outside its limit (R155): high bit, low bit, value. -/
def shsetField (code : Nat) (u : Nat) (i : Int) : Option (Nat × Nat × Nat) :=
  let stride := fun (lo : Nat) => if -(2 ^ 19) ≤ i && i < 2 ^ 19 then some (lo + 19, lo, wrapTo 20 i) else none
  match code with
  | 0 => if u < spadSize then some (16, 0, u) else none
  | 1 => if u < 32 then some (21, 17, u) else none
  | 2 => if 1 ≤ u && u ≤ 4 then some (23, 22, u - 1) else none
  | 3 => if u < spadSize then some (40, 24, u) else none
  | 4 | 5 | 6 | 7 => if u < 65536 then some (64 + 16 * (code - 4) + 15, 64 + 16 * (code - 4), u) else none
  | 8 | 9 | 10 => stride (128 + 20 * (code - 8))
  | _ => stride (192 + 20 * (code - 11))

/-- SHSET (R155, R183). -/
def execShset (h : Hdr) (f : VForm) (s : State) : Outcome State Fault Refusal :=
  issue 1 h (fun s a =>
    let v := a.ug f.g.toNat
    match shsetField (f.fn.toNat % 16) v (a.sg f.g.toNat) with
    | none => .fail s 3 (0x42 + f.hd.toNat * 256 + 7 * 4096 + v % 2 ^ 48 * 65536)
    | some (hi, lo, x) => onAct (fun a => a.setShape f.hd.toNat (setField ((a.shape f.ha.toNat).getD 0) hi lo x)) s a) s

/-- SHOFS (R155). -/
def execShofs (h : Hdr) (f : VForm) (s : State) : Outcome State Fault Refusal :=
  issue 1 h (fun s a =>
    let r := (a.shape f.ha.toNat).getD 0
    let sb := bitOf f.fn.toNat 0
    let v : Int := (if sb then shSbase r else shBase r : Nat) + a.sg f.g.toNat
    if v < 0 || (spadSize : Int) ≤ v then .fail s 11 (addr64 v)
    else onAct (fun a => a.setShape f.hd.toNat (if sb then setField r 40 24 v.toNat else setField r 16 0 v.toNat)) s a) s

/-! ### Checks (R156) -/

/-- A shape register that an instruction names: its number, the codes it accepts, and what its extents must meet. -/
structure Want where
  reg  : Nat
  fmt  : Nat → Bool
  fits : Nat → Bool := fun _ => true

/-- Strides that are active and break an alignment. -/
def shBadStride (r n : Nat) : Bool :=
  shBase r % n != 0 || (List.range (shRank r - 1)).any (fun k => shStride r (k + 1) % n != 0)

/-- Lowest and highest offset that strides reach, with the bytes of a row. -/
def shReach (r : Nat) (stride : Nat → Int) (row : Nat) : Int × Int :=
  let ds := (List.range (shRank r - 1)).map (fun k => ((shExt r (k + 1) : Int) - 1) * stride (k + 1))
  ((ds.map (fun d => min d 0)).sum, row + (ds.map (fun d => max d 0)).sum)

def shInside (base : Nat) (x : Int × Int) : Bool := 0 ≤ (base : Int) + x.1 && (base : Int) + x.2 ≤ (spadSize : Int)

/-- Bytes of a row along dimension 0. -/
def shRow (r : Nat) : Nat :=
  let f := shFmt r
  if f = 10 then 128 * ((shExt r 0 + 63) / 64) else (shExt r 0 * fmtWidth f + 7) / 8

/-- The number of the first check of a record that fails, 0 for none; `acc` is the accepted feature vector. -/
def shCheck (acc : Nat) (w : Want) (r : Nat) : Nat :=
  let f := shFmt r
  if !(codeOk acc (List.range 24) f && f ≠ 11 && w.fmt f) then 2
  else if (List.range (shRank r)).any (fun j => shExt r j = 0) || (isMx f && shExt r 0 % 32 ≠ 0) || (f = 10 && shExt r 0 % 64 ≠ 0) then 3
  else if !w.fits r then 4
  else if (16 ≤ fmtWidth f && shBadStride r (fmtWidth f / 8)) || (f = 10 && shBadStride r 16) then 5
  else if !shInside (shBase r) (shReach r (shStride r) (shRow r)) ||
      (isMx f && !shInside (shSbase r) (shReach r (shScaleStride r) ((shExt r 0 + 31) / 32))) then 6
  else 0

/-- The fault code of a check (R156). -/
def checkCode (n : Nat) : Nat := match n with
  | 1 => 4
  | 5 => 10
  | 6 => 11
  | _ => 3

/-- The first failing check of the registers in order: register and check number. -/
def checkAll (acc : Nat) (a : Act) : List Want → Option (Nat × Nat)
  | [] => none
  | w :: r =>
    match a.shape w.reg with
    | none => some (w.reg, 1)
    | some x => if shCheck acc w x = 0 then checkAll acc a r else some (w.reg, shCheck acc w x)

/-- A tensor broadcasts to an iteration space (R157). -/
def bcastTo (space : List Nat) (r : Nat) : Bool := (List.range 4).all (fun j => shExt r j = space.getD j 1 || shExt r j = 1)

/-! ### Elements (R152) -/

/-- The index of linear position `n` in a space. -/
def digitsOf (space : List Nat) (n : Nat) : List Nat :=
  let e0 := space.getD 0 1
  let e1 := space.getD 1 1
  let e2 := space.getD 2 1
  [n % e0, n / e0 % e1, n / (e0 * e1) % e2, n / (e0 * e1 * e2)]

def sizeOf' (space : List Nat) : Nat := space.foldl (· * ·) 1
/-- The linear position of an index. -/
def linearOf (space ds : List Nat) : Nat :=
  let e0 := space.getD 0 1
  let e1 := space.getD 1 1
  let e2 := space.getD 2 1
  ds.getD 0 0 + e0 * (ds.getD 1 0 + e1 * (ds.getD 2 0 + e2 * ds.getD 3 0))

/-- The index in a broadcast tensor (R157). -/
def bcast (r : Nat) (ds : List Nat) : List Nat := ds.zipIdx.map (fun e => if shExt r e.2 = 1 then 0 else e.1)

def strideSum (stride : Nat → Int) (ds : List Nat) : Int :=
  ((List.range 3).map (fun k => (ds.getD (k + 1) 0 : Int) * stride (k + 1))).sum

/-- The byte of element `ds`, or of its slot. -/
def elemAddr (r : Nat) (ds : List Nat) : Nat :=
  let f := shFmt r
  let i0 := ds.getD 0 0
  let along : Nat := if f = 10 then 128 * (i0 / 64) else i0 * fmtWidth f / 8
  ((shBase r : Int) + along + strideSum (shStride r) ds).toNat

/-- The scale byte of element `ds` (R152). -/
def scaleAddr (r : Nat) (ds : List Nat) : Nat :=
  ((shSbase r : Int) + (ds.getD 0 0 / 32 : Nat) + strideSum (shScaleStride r) ds).toNat

/-- The code of an element; a CE4M3 element gives its E4M3 code. -/
def readCode (m : Sparse Byte) (r : Nat) (ds : List Nat) : Nat :=
  let f := shFmt r
  let i0 := ds.getD 0 0
  if f = 10 then (ceDecode (bytesAt m (elemAddr r ds) 128)).getD (i0 % 64) 0
  else elemCode (elemFmt f) (i0 % 2 = 1) (bytesAt m (elemAddr r ds) (fmtBytes (elemFmt f)))

/-- The exact value of an element (R56, R60, R73, R76). -/
def readVal (m : Sparse Byte) (r : Nat) (ds : List Nat) : Val :=
  let f := shFmt r
  if isMx f then mxVal f (m.get 0 (scaleAddr r ds)).toNat (readCode m r ds) else elemVal (elemFmt f) (readCode m r ds)

/-- The parts of a complex element (R61). -/
def readParts (m : Sparse Byte) (r : Nat) (ds : List Nat) : Int × Int :=
  let w := fmtWidth (shFmt r) / 2
  let c := readCode m r ds
  (signed w (c % 2 ^ w), signed w (c / 2 ^ w))

/-- The write of an element's code; for MX of its element, not its scale. -/
def putCode (r : Nat) (ds : List Nat) (code : Nat) : Put :=
  spadPut (elemFmt (shFmt r)) (ds.getD 0 0 % 2 = 1) (elemAddr r ds) code

/-- An element's code is written; for MX its element, not its scale. -/
def writeCode (m : Sparse Byte) (r : Nat) (ds : List Nat) (code : Nat) : Sparse Byte :=
  spadStore m (elemFmt (shFmt r)) (ds.getD 0 0 % 2 = 1) (elemAddr r ds) code

/-! ### Store (R167) -/

/-- The integer that an exact value of integers is. -/
def Val.toInt : Val → Int
  | .fin s n d => let q : Int := (n / d : Nat); if s then -q else q
  | _ => 0

/-- An integer in an integer format, wrapped or clamped. -/
def intCode (f : Nat) (sat : Bool) (v : Int) : Nat := wrapTo (fmtWidth f) (if sat then satTo f v else v)

/-- A complex value in a complex format, each part wrapped or clamped. -/
def partsCode (f : Nat) (sat : Bool) (x : Int × Int) : Nat :=
  let w := fmtWidth f / 2
  let p := fun (v : Int) => wrapTo w (if sat then satI w v else v)
  p x.1 + 2 ^ w * p x.2

/-- The code that an exact value has in format `f` (R167); `ints` says that every source is an integer, `b` are the bits of the
rounding. -/
def storeVal (f rm : Nat) (sat ints : Bool) (b : Nat) (t : Val) : Nat :=
  if isInt f then (if ints then intCode f sat t.toInt else wrapTo (fmtWidth f) (roundToInt rm b (intLo f) (intHi f) t))
  else if f = 6 then toE8M0 rm sat b t
  else floatCode f (roundTo f rm sat b t)

end Sys2Proof.Machine
end

