-- ==== Sys2Proof/Machine/Vector.lean ====
section
/-! DEFINITION. Vector instructions (R156 to R183). An instruction acts in one step, at its end; what its reads see of its own writes and
of writes that crossed it since it began is a free choice (R161, R163). -/

namespace Sys2Proof.Machine

open Host (Outcome)

/-! ### The common course -/

/-- The record of shape register `n` once the checks have passed. -/
def Act.sh (a : Act) (n : Nat) : Nat := (a.shape n).getD 0

/-- Sources F, B, I (R165). -/
def srcReal (c : Nat) : Bool := c ≤ 10 || isInt c
/-- Destinations F, I (R165). -/
def dstReal (c : Nat) : Bool := isFloat c || isInt c

/-- The mask register, last of the registers checked (R156, R158). -/
def maskWant (f : VForm) (space : List Nat) : List Want :=
  if bitOf f.mask.toNat 4 then [{ reg := f.mask.toNat % 16, fmt := isInt, fits := bcastTo space }] else []

/-- The number of the mask's read among those of an element. -/
def maskRead : Nat := 7

/-- The element is active (R158); `m` is the scratchpad that the read sees. -/
def maskOn (f : VForm) (a : Act) (m : Sparse Byte) (ds : List Nat) : Bool :=
  if bitOf f.mask.toNat 4 then
    let r := a.sh (f.mask.toNat % 16)
    readCode m r (bcast r ds) != 0
  else true

/-- The course of a vector instruction: the checks of R156, a wait for the generator where a rounding or a draw needs it (R46), and the
effect on the generator and the scratchpad, under free choices of its reads and writes. -/
def vector (h : Hdr) (opc : Nat) (wants : Act → List Want) (waits : Act → Bool)
    (body : Reads → Act → Sparse Byte → Gen × List Put) (s : State) : Outcome State Fault Refusal :=
  issue 1 h (fun s a =>
    match checkAll s.hub.featAcc a (wants a) with
    | some (r, c) => .fail s (checkCode c) (opc + r * 256 + c * 4096)
    | none =>
      if waits a then .wait s else
      let (R, t) := s.reads a 1
      let (g, l) := body R a t.spad
      .ok ((t.putSpad s.focus.g .word R.cross R.place l).setCur (a.setGen g))) s

/-- The bits of one rounding for each of `n` elements in ascending order (R159), where `rounds`, and the generator after them. -/
def bitsList (rounds : Bool) (rm : Nat) : Nat → Gen → List Nat × Gen
  | 0, g => ([], g)
  | n + 1, g =>
    let (b, g1) := if rounds then g.bits rm else (0, g)
    let (l, g2) := bitsList rounds rm n g1
    (b :: l, g2)

/-- Runs `step` on each active element of a space; where `rounds`, every element takes the bits of one rounding (R159). `step` gets the
scratchpads its reads see, the index and the bits, and gives what it writes. -/
def eachElem (f : VForm) (a : Act) (R : Reads) (space : List Nat) (rounds : Bool) (m0 : Sparse Byte)
    (step : (Nat → Sparse Byte) → List Nat → Nat → List Put) : Gen × List Put :=
  let n := sizeOf' space
  let (bits, g) := bitsList rounds f.rm.toNat n a.gen
  (g, R.walk n m0 (fun i src =>
    let ds := digitsOf space i
    if maskOn f a (src maskRead) ds then step src ds (bits.getD i 0) else []))

/-- Element `ds` of a source, broadcast (R157). -/
def srcVal (m : Sparse Byte) (ds : List Nat) (r : Nat) : Val := readVal m r (bcast r ds)
def srcParts (m : Sparse Byte) (ds : List Nat) (r : Nat) : Int × Int := readParts m r (bcast r ds)
def srcCode (m : Sparse Byte) (ds : List Nat) (r : Nat) : Nat := readCode m r (bcast r ds)

/-- The elements `ds` of several sources, each read on its own. -/
def srcVals (src : Nat → Sparse Byte) (ds rs : List Nat) : List Val := rs.zipIdx.map (fun e => srcVal (src e.2) ds e.1)
def srcPartsL (src : Nat → Sparse Byte) (ds rs : List Nat) : List (Int × Int) := rs.zipIdx.map (fun e => srcParts (src e.2) ds e.1)
def srcCodes (src : Nat → Sparse Byte) (ds rs : List Nat) : List Nat := rs.zipIdx.map (fun e => srcCode (src e.2) ds e.1)

/-! ### Elementwise arithmetic (R165, R166) -/

/-- A zero made of integers has no sign (DEDUCED, log 26: an integer has no -0). -/
def plainZero (ints : Bool) (v : Val) : Val := if ints && v.isZero then .fin false 0 1 else v

/-- An elementwise instruction rounds: a float destination, or a float or block source (R165). -/
def elemRounds (d : Nat) (srcs : List Nat) : Bool := isFloat d || srcs.any (fun c => c ≤ 10)

/-- What HD and the sources must hold (R165). -/
def arithWants (f : VForm) (srcs : List Nat) (cplx : Bool) (a : Act) : List Want :=
  let d := a.sh f.hd.toNat
  { reg := f.hd.toNat, fmt := fun c => dstReal c || (cplx && isCplx c) } ::
    (srcs.map (fun r => ({ reg := r, fmt := if isCplx (shFmt d) then isCplx else srcReal, fits := bcastTo (shExts d) } : Want)) ++
      maskWant f (shExts d))

def elementwise (h : Hdr) (opc : Nat) (f : VForm) (srcs : List Nat) (cplx : Bool) (op : Bool → List Val → Val)
    (cop : List (Int × Int) → Int × Int) (s : State) : Outcome State Fault Refusal :=
  let rounds := fun (a : Act) => elemRounds (shFmt (a.sh f.hd.toNat)) (srcs.map (fun r => shFmt (a.sh r)))
  vector h opc (arithWants f srcs cplx) (fun a => rounds a && srWaits f.rm.toNat a)
    (fun R a m0 =>
      let d := a.sh f.hd.toNat
      let c := shFmt d
      let rs := srcs.map a.sh
      let ints := rs.all (fun r => isInt (shFmt r))
      eachElem f a R (shExts d) (rounds a) m0 (fun src ds b =>
        [putCode d ds
          (if isCplx c then partsCode c f.sat (cop (srcPartsL src ds rs))
           else storeVal c f.rm.toNat f.sat ints b (plainZero ints (op (f.rm == 3) (srcVals src ds rs))))])) s

def val1 (f : Val → Val) : List Val → Val
  | x :: _ => f x
  | _ => .nan
def val2 (f : Val → Val → Val) : List Val → Val
  | x :: y :: _ => f x y
  | _ => .nan
def val3 (f : Val → Val → Val → Val) : List Val → Val
  | x :: y :: z :: _ => f x y z
  | _ => .nan
def cplx2 (f : Int → Int → Int) : List (Int × Int) → Int × Int
  | x :: y :: _ => (f x.1 y.1, f x.2 y.2)
  | _ => (0, 0)
def noCplx (_ : List (Int × Int)) : Int × Int := (0, 0)

def srcAB (f : VForm) : List Nat := [f.ha.toNat, f.hb.toNat]

/-- VADD (R166). -/
def execVadd (h : Hdr) (f : VForm) (s : State) : Outcome State Fault Refusal :=
  elementwise h 0x46 f (srcAB f) true (fun dn => val2 (Val.add dn)) (cplx2 (· + ·)) s

/-- VSUB (R166). -/
def execVsub (h : Hdr) (f : VForm) (s : State) : Outcome State Fault Refusal :=
  elementwise h 0x47 f (srcAB f) true (fun dn => val2 (Val.sub dn)) (cplx2 (· - ·)) s

/-- VMUL (R166). -/
def execVmul (h : Hdr) (f : VForm) (s : State) : Outcome State Fault Refusal :=
  elementwise h 0x48 f (srcAB f) false (fun _ => val2 Val.mul) noCplx s

/-- VFMA (R166). -/
def execVfma (h : Hdr) (f : VForm) (s : State) : Outcome State Fault Refusal :=
  elementwise h 0x49 f ((srcAB f) ++ [f.hc.toNat]) false (fun dn => val3 (fun x y z => (x.mul y).add dn z)) noCplx s

/-- VMIN (R166). -/
def execVmin (h : Hdr) (f : VForm) (s : State) : Outcome State Fault Refusal :=
  elementwise h 0x4A f (srcAB f) false (fun _ => val2 Val.min2) noCplx s

/-- VMAX (R166). -/
def execVmax (h : Hdr) (f : VForm) (s : State) : Outcome State Fault Refusal :=
  elementwise h 0x4B f (srcAB f) false (fun _ => val2 Val.max2) noCplx s

/-- VABS (R166). -/
def execVabs (h : Hdr) (f : VForm) (s : State) : Outcome State Fault Refusal :=
  elementwise h 0x4C f [f.ha.toNat] false (fun _ => val1 Val.abs) noCplx s

/-- VNEG (R166). -/
def execVneg (h : Hdr) (f : VForm) (s : State) : Outcome State Fault Refusal :=
  elementwise h 0x4D f [f.ha.toNat] true (fun _ => val1 Val.neg)
    (fun l => match l with
      | x :: _ => (-x.1, -x.2)
      | [] => (0, 0)) s

/-- One slot of a CE4M3 VMOV (R166): `act` says which of its 64 elements are active. -/
def moveSlot (to_ : Nat) (whole : List Byte) (act : List Bool) : List Put :=
  if act.all id then [putOf to_ whole]
  else if act.any id then
    [{ at_ := to_, len := 128, act := fun m =>
        let old := ceDecode (bytesAt m to_ 128)
        let new := ceDecode whole
        putBytes m to_ (ceEncode (act.zipIdx.map (fun e => if e.1 then new.getD e.2 0 else old.getD e.2 0))) }]
  else []

/-- HD in any format, HA in the same (R166). -/
def moveWants (f : VForm) (a : Act) : List Want :=
  let d := a.sh f.hd.toNat
  { reg := f.hd.toNat, fmt := fun _ => true } ::
    { reg := f.ha.toNat, fmt := fun c => c == shFmt d, fits := bcastTo (shExts d) } :: maskWant f (shExts d)

/-- VMOV (R166). -/
def execVmov (h : Hdr) (f : VForm) (s : State) : Outcome State Fault Refusal :=
  vector h 0x44 (moveWants f) (fun _ => false)
    (fun R a m0 =>
      let d := a.sh f.hd.toNat
      let r := a.sh f.ha.toNat
      if shFmt d = 10 then
        let slots := [shExt d 0 / 64, shExt d 1, shExt d 2, shExt d 3]
        (a.gen, R.walk (sizeOf' slots) m0 (fun n src =>
          let sd := digitsOf slots n
          let ds := (64 * sd.getD 0 0) :: sd.tail
          moveSlot (elemAddr d ds) (blockSeen src (elemAddr r (bcast r ds)))
            ((List.range 64).map (fun i => maskOn f a (src (64 + i)) ((64 * sd.getD 0 0 + i) :: sd.tail)))))
      else
        eachElem f a R (shExts d) false m0 (fun src ds _ =>
          putCode d ds (srcCode (src 0) ds r) ::
            (if isMx (shFmt d) then [putOf (scaleAddr d ds) [(src 1).get 0 (scaleAddr r (bcast r ds))]] else []))) s

/-- HD by the format of the value (R165). -/
def fillWants (f : VForm) (a : Act) : List Want :=
  let k := f.fn.toNat % 32
  { reg := f.hd.toNat,
    fmt := fun c => if k = 22 then isCplx c else dstReal c || (c == 6 && k == 0) } :: maskWant f (shExts (a.sh f.hd.toNat))

/-- VFILL rounds a float value, and any value but a complex one into a float destination. -/
def fillRounds (f : VForm) (a : Act) : Bool :=
  let k := f.fn.toNat % 32
  k == 0 || (k != 22 && isFloat (shFmt (a.sh f.hd.toNat)))

/-- VFILL (R165, R166). -/
def execVfill (h : Hdr) (f : VForm) (s : State) : Outcome State Fault Refusal :=
  let k := f.fn.toNat % 32
  let rounds := fillRounds f
  vector h 0x45 (fillWants f) (fun a => rounds a && srWaits f.rm.toNat a)
    (fun R a m0 =>
      let d := a.sh f.hd.toNat
      let c := shFmt d
      let v := a.ug f.g.toNat
      let t := if k = 0 then a.fg f.g.toNat else if k = 16 then Val.ofInt (a.sg f.g.toNat) else Val.ofInt v
      eachElem f a R (shExts d) (rounds a) m0 (fun _ ds b =>
        [putCode d ds
          (if k = 22 then partsCode c f.sat (signed 32 (v % 2 ^ 32), signed 32 (v / 2 ^ 32))
           else storeVal c f.rm.toNat f.sat (k != 0) b t)])) s

/-! ### Bits, shifts, comparison, selection (R168 to R171) -/

/-- Codes in, code out, with no rounding; the sources and HD are as `wants` says. -/
def codewise (h : Hdr) (opc : Nat) (f : VForm) (wants : Act → List Want) (srcs : List Nat) (op : Act → Nat → List Nat → Nat)
    (s : State) : Outcome State Fault Refusal :=
  vector h opc wants (fun _ => false)
    (fun R a m0 =>
      let d := a.sh f.hd.toNat
      eachElem f a R (shExts d) false m0 (fun src ds _ =>
        [putCode d ds (op a (shFmt d) (srcCodes src ds (srcs.map a.sh)))])) s

/-- HD and every source hold the same integer code (R168, R169). -/
def sameInt (f : VForm) (srcs : List Nat) (a : Act) : List Want :=
  let d := a.sh f.hd.toNat
  { reg := f.hd.toNat, fmt := isInt } ::
    srcs.map (fun r => ({ reg := r, fmt := fun c => c == shFmt d, fits := bcastTo (shExts d) } : Want))

def code2 (f : Nat → Nat → Nat) : List Nat → Nat
  | x :: y :: _ => f x y
  | _ => 0

def bitwise (h : Hdr) (opc : Nat) (f : VForm) (op : Nat → Nat → Nat) (s : State) : Outcome State Fault Refusal :=
  codewise h opc f (fun a => sameInt f (srcAB f) a ++ maskWant f (shExts (a.sh f.hd.toNat))) (srcAB f) (fun _ _ => code2 op) s

/-- VAND (R168). -/
def execVand (h : Hdr) (f : VForm) (s : State) : Outcome State Fault Refusal := bitwise h 0x4E f (· &&& ·) s
/-- VOR (R168). -/
def execVor (h : Hdr) (f : VForm) (s : State) : Outcome State Fault Refusal := bitwise h 0x4F f (· ||| ·) s
/-- VXOR (R168). -/
def execVxor (h : Hdr) (f : VForm) (s : State) : Outcome State Fault Refusal := bitwise h 0x50 f (· ^^^ ·) s

/-- The value of an integer code. -/
def intOf (f code : Nat) : Int := if isSInt f then signed (fmtWidth f) code else (code % 2 ^ fmtWidth f : Nat)

/-- HD and HA hold one integer code, and HB, where it gives the amounts, an unsigned one (R169). -/
def shiftWants (f : VForm) (a : Act) : List Want :=
  let d := a.sh f.hd.toNat
  sameInt f [f.ha.toNat] a ++
    (if bitOf f.fn.toNat 0 then [] else [{ reg := f.hb.toNat, fmt := isNInt, fits := bcastTo (shExts d) }]) ++ maskWant f (shExts d)

/-- VSHL and VSHR (R169); an amount from 64 on acts as 64, which no format tells from more. -/
def shift (h : Hdr) (opc : Nat) (f : VForm) (op : Nat → Int → Nat → Nat) (s : State) : Outcome State Fault Refusal :=
  let reg := bitOf f.fn.toNat 0
  codewise h opc f (shiftWants f)
    (if reg then [f.ha.toNat] else (srcAB f))
    (fun a c l => op c (intOf c (l.getD 0 0)) (min 64 (if reg then a.ug f.g.toNat % 256 else l.getD 1 0))) s

/-- VSHL (R169). -/
def execVshl (h : Hdr) (f : VForm) (s : State) : Outcome State Fault Refusal :=
  shift h 0x51 f (fun c v n => intCode c f.sat (v * (2 ^ n : Nat))) s
/-- VSHR (R169). -/
def execVshr (h : Hdr) (f : VForm) (s : State) : Outcome State Fault Refusal :=
  shift h 0x52 f (fun c v n => wrapTo (fmtWidth c) (v / (2 ^ n : Nat))) s

/-- The conditions 0 to 5 on exact values (R170). -/
def valTrue (cc : Nat) (x y : Val) : Bool :=
  if x.isNan || y.isNan then cc == 1 else
  let c := x.cmp y
  match cc with
  | 0 => decide (c = 0)
  | 1 => decide (c ≠ 0)
  | 2 => decide (c < 0)
  | 3 => decide (c ≥ 0)
  | 4 => decide (c ≤ 0)
  | _ => decide (c > 0)

/-- HD holds integers; the sources too, of one width, for the two bit tests (R170). Where the widths differ, check 2 names HB (DESIGN
CHOICE, log 27). -/
def vcmpWants (f : VForm) (a : Act) : List Want :=
  let bits := f.fn.toNat % 16 == 10 || f.fn.toNat % 16 == 11
  let d := a.sh f.hd.toNat
  let w := fmtWidth (shFmt (a.sh f.ha.toNat))
  [{ reg := f.hd.toNat, fmt := isInt },
   { reg := f.ha.toNat, fmt := if bits then isInt else srcReal, fits := bcastTo (shExts d) },
   { reg := f.hb.toNat, fmt := if bits then (fun c => isInt c && fmtWidth c == w) else srcReal, fits := bcastTo (shExts d) }] ++
    maskWant f (shExts d)

/-- VCMP (R170). -/
def execVcmp (h : Hdr) (f : VForm) (s : State) : Outcome State Fault Refusal :=
  let cc := f.fn.toNat % 16
  let bits := cc == 10 || cc == 11
  vector h 0x53 (vcmpWants f) (fun _ => false)
    (fun R a m0 =>
      let d := a.sh f.hd.toNat
      let x := a.sh f.ha.toNat
      let y := a.sh f.hb.toNat
      eachElem f a R (shExts d) false m0 (fun src ds _ =>
        let t := if bits then ((srcCode (src 0) ds x &&& srcCode (src 1) ds y) != 0) == (cc == 10)
          else valTrue cc (srcVal (src 0) ds x) (srcVal (src 1) ds y)
        [putCode d ds (bit t)])) s

/-- HD, the two sources, and the integer selector HC (R171). -/
def vselWants (f : VForm) (a : Act) : List Want :=
  let d := a.sh f.hd.toNat
  [{ reg := f.hd.toNat, fmt := dstReal }, { reg := f.ha.toNat, fmt := srcReal, fits := bcastTo (shExts d) },
   { reg := f.hb.toNat, fmt := srcReal, fits := bcastTo (shExts d) },
   { reg := f.hc.toNat, fmt := isInt, fits := bcastTo (shExts d) }] ++ maskWant f (shExts d)

/-- VSEL (R171). -/
def execVsel (h : Hdr) (f : VForm) (s : State) : Outcome State Fault Refusal :=
  let rounds := fun (a : Act) => elemRounds (shFmt (a.sh f.hd.toNat)) ((srcAB f).map (fun r => shFmt (a.sh r)))
  vector h 0x54 (vselWants f)
    (fun a => rounds a && srWaits f.rm.toNat a)
    (fun R a m0 =>
      let d := a.sh f.hd.toNat
      let x := a.sh f.ha.toNat
      let y := a.sh f.hb.toNat
      let ints := isInt (shFmt x) && isInt (shFmt y)
      eachElem f a R (shExts d) (rounds a) m0 (fun src ds b =>
        let t := if srcCode (src 2) ds (a.sh f.hc.toNat) != 0 then srcVal (src 0) ds x else srcVal (src 1) ds y
        [putCode d ds (storeVal (shFmt d) f.rm.toNat f.sat ints b t)])) s

/-! ### Conversion and quantisation (R172, R173) -/

/-- A pair of formats that R69 does not reject. -/
def pairOk (src dst : Nat) : Bool :=
  if isCplx src || isCplx dst then isCplx src && isCplx dst else !(isInt src && dst == 6)

/-- VCVT of one row of `n` elements into a block format; `vs` are the source values in order. -/
def packBlock (c rm : Nat) (sat : Bool) (g : Gen) (d : Nat) (ds : List Nat) (vs : List Val) : Gen × List Put :=
  if isMx c then
    let (sc, cs, g') := mxQuant c rm g vs
    (g', putOf (scaleAddr d ds) [BitVec.ofNat 8 sc] ::
      cs.zipIdx.map (fun e => putCode d ((ds.getD 0 0 + e.2) :: ds.tail) e.1))
  else
    let (cs, g') := vs.foldl (fun (st : List Nat × Gen) v =>
      let (r, g) := st.2.round 3 rm sat v
      (st.1 ++ [floatCode 3 r], g)) ([], g)
    (g', [putOf (elemAddr d ds) (ceEncode cs)])

/-- HD and HA are a pair that R69 does not reject; a block destination takes no mask (R172). -/
def vcvtWants (f : VForm) (a : Act) : List Want :=
  let d := a.sh f.hd.toNat
  { reg := f.hd.toNat, fmt := fun c => !(isBlock c && bitOf f.mask.toNat 4) } ::
    { reg := f.ha.toNat, fmt := fun x => pairOk x (shFmt d), fits := bcastTo (shExts d) } :: maskWant f (shExts d)

/-- A conversion rounds unless it is from integer to integer or from complex to complex (R172). -/
def vcvtRounds (f : VForm) (a : Act) : Bool :=
  let c := shFmt (a.sh f.hd.toNat)
  let x := shFmt (a.sh f.ha.toNat)
  isBlock c || !((isInt c && isInt x) || (isCplx c && isCplx x))

/-- VCVT (R172). -/
def execVcvt (h : Hdr) (f : VForm) (s : State) : Outcome State Fault Refusal :=
  let fmts := fun (a : Act) => (shFmt (a.sh f.hd.toNat), shFmt (a.sh f.ha.toNat))
  let rounds := vcvtRounds f
  vector h 0x55 (vcvtWants f)
    (fun a => rounds a && srWaits f.rm.toNat a)
    (fun R a m0 =>
      let d := a.sh f.hd.toNat
      let r := a.sh f.ha.toNat
      let (c, x) := fmts a
      if isBlock c then
        let n := if c = 10 then 64 else 32
        let blocks := [shExt d 0 / n, shExt d 1, shExt d 2, shExt d 3]
        R.rows (sizeOf' blocks) m0 a.gen (fun i g now =>
          let bd := digitsOf blocks i
          let ds := (n * bd.getD 0 0) :: bd.tail
          let vs := (List.range n).map (fun j => srcVal (R.see m0 now (n * i + j)) ((n * bd.getD 0 0 + j) :: bd.tail) r)
          packBlock c f.rm.toNat f.sat g d ds vs)
      else
        eachElem f a R (shExts d) (rounds a) m0 (fun src ds b =>
          [putCode d ds
            (if isCplx c then partsCode c f.sat (srcParts (src 0) ds r)
             else storeVal c f.rm.toNat (f.sat && !(isFloat x && isFloat c && exactFloat x c)) (isInt x) b (srcVal (src 0) ds r))])) s

/-- The exponent of the greatest power that VQUANT scales to, and the greatest finite value, by the format of HD (R173). -/
def quantEmax (c : Nat) : Int := match c with
  | 3 => 8 | 4 => 15 | 13 => 6 | 14 => 14 | _ => 2
def quantMax (c : Nat) : Nat := if isInt c then (intHi c).toNat else maxFinite c

/-- The scale code of a group of finite values and the divisor it stands for (R173). -/
def quantScale (lin : Bool) (c sc : Nat) (vs : List Val) : Nat × Val :=
  if lin then
    let d := roundTo sc 0 true 0 ((amax vs).div (.fin false (quantMax c) 1))
    (floatCode sc d, d)
  else
    let x : Int := match amax vs with
      | .fin _ n d => if n = 0 then -127 else floorLog2 n d - quantEmax c
      | _ => -127
    let x := max (-127) (min 127 x)
    ((x + 127).toNat, Val.scale (.fin false 1 1) x)

/-- HD with the extents of HA, HA in whole groups, and HC with one scale for each group (R173). -/
def vquantWants (f : VForm) (a : Act) : List Want :=
  let n := 8 * 2 ^ (f.fn.toNat % 8)
  let fits := fun (want : Nat → List Nat) (x : Nat) => match a.shape f.ha.toNat with
    | none => true
    | some r => shExts x == want r
  [{ reg := f.hd.toNat, fmt := fun c => [3, 4, 5, 12, 13, 14].contains c, fits := fits shExts },
   { reg := f.ha.toNat, fmt := srcReal, fits := fun x => shExt x 0 % n = 0 },
   { reg := f.hc.toNat, fmt := fun c => if bitOf f.fn.toNat 3 then c ≤ 2 else c == 6,
     fits := fits (fun r => (shExt r 0 / n) :: (shExts r).tail) }]

/-- VQUANT (R173). -/
def execVquant (h : Hdr) (f : VForm) (s : State) : Outcome State Fault Refusal :=
  let n := 8 * 2 ^ (f.fn.toNat % 8)
  let lin := bitOf f.fn.toNat 3
  vector h 0x56 (vquantWants f)
    (srWaits f.rm.toNat)
    (fun R a m0 =>
      let d := a.sh f.hd.toNat
      let r := a.sh f.ha.toNat
      let sr := a.sh f.hc.toNat
      let c := shFmt d
      let groups := shExts sr
      R.rows (sizeOf' groups) m0 a.gen (fun i g now =>
        let gd := digitsOf groups i
        let at_ := fun j => (n * gd.getD 0 0 + j) :: gd.tail
        let vs := (List.range n).map (fun j => readVal (R.see m0 now (n * i + j)) r (at_ j))
        let fin := vs.all Val.isFinite
        let (code, div) := if fin then quantScale lin c (shFmt sr) vs
          else (if lin then canonNan (shFmt sr) else 0xFF, .nan)
        vs.zipIdx.foldl (fun (st : Gen × List Put) e =>
          let (b, g) := st.1.bits f.rm.toNat
          let x := if fin && !div.isZero then storeVal c f.rm.toNat true false b (e.1.div div) else 0
          (g, st.2 ++ [putCode d (at_ e.2) x])) (g, [putCode sr gd code]))) s

/-! ### Reductions and scans (R174, R175) -/

/-- A value in the accumulation format: a float rounded, an integer wrapped or clamped. -/
def accVal (c rm : Nat) (sat : Bool) (b : Nat) (v : Val) : Val :=
  if isFloat c then roundTo c rm sat b v else .ofInt (intOf c (intCode c sat v.toInt))

/-- One more element: the operation of FN[4:2], the accumulator so far, the generator. -/
def accStep (op c rm : Nat) (sat : Bool) (st : Option Val × Gen) (v : Val) : Option Val × Gen :=
  match op with
  | 0 =>
    let (b, g) := if isFloat c then st.2.bits rm else (0, st.2)
    (some (accVal c rm sat b (match st.1 with
      | none => v
      | some x => x.add (rm == 3) v)), g)
  | 1 => (some (match st.1 with
      | none => v
      | some x => x.max2 v), st.2)
  | 2 => (some (match st.1 with
      | none => v
      | some x => x.min2 v), st.2)
  | _ => (some (match st.1 with
      | none => v.abs
      | some x => x.max2 v.abs), st.2)

/-- The accumulated value counts as an integer for Store (DESIGN CHOICE, log 27): a sum in an integer format, or a picked integer element;
a float sum of integers counts as a float. -/
def accInts (op c src : Nat) : Bool := if op = 0 then isInt c else isInt src

/-- The Store of a reduction or scan rounds. -/
def accRounds (op c src dst : Nat) : Bool := isFloat dst || !accInts op c src

def accStore (f : VForm) (op c src d : Nat) (ds : List Nat) (g : Gen) (v : Val) : Gen × Put :=
  let (b, g) := if accRounds op c src (shFmt d) then g.bits f.rm.toNat else (0, g)
  (g, putCode d ds (storeVal (shFmt d) f.rm.toNat f.sat (accInts op c src) b v))

def accWaits (f : VForm) (op c : Nat) (a : Act) : Bool :=
  ((op == 0 && isFloat c) || accRounds op c (shFmt (a.sh f.ha.toNat)) (shFmt (a.sh f.hd.toNat))) && srWaits f.rm.toNat a

def accWants (f : VForm) (c : Nat) (outFits : Nat → Nat → Bool) (srcFits : Nat → Bool) (a : Act) : List Want :=
  [{ reg := f.hd.toNat, fmt := dstReal, fits := fun d => match a.shape f.ha.toNat with
      | none => true
      | some r => outFits d r },
   { reg := f.ha.toNat, fmt := if isInt c then isInt else srcReal, fits := srcFits }] ++ maskWant f (shExts (a.sh f.ha.toNat))

/-- HD has the outer extents of HA, whose rank reaches the reduced dimensions (R174). -/
def vredWants (f : VForm) : Act → List Want :=
  let k := f.fn.toNat % 4 + 1
  accWants f f.fmt.toNat (fun d r => (List.range 4).all (fun j => shExt d j = shExt r (j + k))) (fun r => k ≤ shRank r)

/-- HD has the extents of HA (R175). -/
def vscanWants (f : VForm) : Act → List Want := accWants f f.fmt.toNat (fun d r => shExts d == shExts r) (fun _ => true)

/-- VRED (R174). -/
def execVred (h : Hdr) (f : VForm) (s : State) : Outcome State Fault Refusal :=
  let c := f.fmt.toNat
  let k := f.fn.toNat % 4 + 1
  let op := f.fn.toNat / 4 % 8
  vector h 0x57 (vredWants f)
    (accWaits f op c)
    (fun R a m0 =>
      let d := a.sh f.hd.toNat
      let r := a.sh f.ha.toNat
      let inner := (shExts r).take k
      R.rows (sizeOf' (shExts d)) m0 a.gen (fun o g now =>
        let od := digitsOf (shExts d) o
        let (v, g) := (List.range (sizeOf' inner)).foldl (fun (acc : Option Val × Gen) j =>
          let ds := ((digitsOf inner j).take k ++ od).take 4
          let src := fun k => R.see m0 now (8 * (o * sizeOf' inner + j) + k)
          if maskOn f a (src maskRead) ds then accStep op c f.rm.toNat f.sat acc (readVal (src 0) r ds) else acc) (none, g)
        match v with
        | none => (g, [])
        | some v =>
          let (g, p) := accStore f op c (shFmt r) d od g v
          (g, [p]))) s

/-- VSCAN (R175). An exclusive scan adds an element when a later active element of its row needs the sum (log 27). -/
def execVscan (h : Hdr) (f : VForm) (s : State) : Outcome State Fault Refusal :=
  let c := f.fmt.toNat
  let op := f.fn.toNat / 4 % 8
  let ex := bitOf f.fn.toNat 5
  vector h 0x58 (vscanWants f) (accWaits f op c)
    (fun R a m0 =>
      let d := a.sh f.hd.toNat
      let r := a.sh f.ha.toNat
      let e0 := shExt r 0
      R.rows (sizeOf' (shExts r) / max 1 e0) m0 a.gen (fun row g now =>
        let (g, l, _, _) := (List.range e0).foldl (fun (x : Gen × List Put × Option Val × Option Val) i =>
          let (g, l, acc, waiting) := x
          let ds := digitsOf (shExts r) (row * e0 + i)
          let src := fun k => R.see m0 (putEach now l) (8 * (row * e0 + i) + k)
          if !maskOn f a (src maskRead) ds then x else
          let (acc, g) := match waiting with
            | none => (acc, g)
            | some v => accStep op c f.rm.toNat f.sat (acc, g) v
          let v := readVal (src 0) r ds
          if ex then
            let (g, p) := accStore f op c (shFmt r) d ds g (acc.getD (.fin false 0 1))
            (g, l ++ [p], acc, some v)
          else
            let (acc, g) := accStep op c f.rm.toNat f.sat (acc, g) v
            let (g, p) := accStore f op c (shFmt r) d ds g (acc.getD (.fin false 0 1))
            (g, l ++ [p], acc, none)) (g, [], none, none)
        (g, l))) s

/-! ### Special functions (R176, R177) -/

/-- A float HD and a real source (R176). -/
def specialWants (f : VForm) (a : Act) : List Want :=
  let d := a.sh f.hd.toNat
  { reg := f.hd.toNat, fmt := isFloat } :: { reg := f.ha.toNat, fmt := srcReal, fits := bcastTo (shExts d) } :: maskWant f (shExts d)

/-- A special function elementwise: the source in F32, the function, Store. -/
def specialWise (h : Hdr) (opc fn : Nat) (f : VForm) (s : State) : Outcome State Fault Refusal :=
  vector h opc (specialWants f) (srWaits f.rm.toNat)
    (fun R a m0 =>
      let d := a.sh f.hd.toNat
      eachElem f a R (shExts d) true m0 (fun src ds b =>
        let x := f32Bits (roundTo 0 0 false 0 (srcVal (src 0) ds (a.sh f.ha.toNat)))
        [putCode d ds (storeVal (shFmt d) f.rm.toNat f.sat false b (special fn x))])) s

/-- VEXP (R176). -/
def execVexp (h : Hdr) (f : VForm) (s : State) : Outcome State Fault Refusal := specialWise h 0x59 (f.fn.toNat % 2) f s
/-- VLOG (R176). -/
def execVlog (h : Hdr) (f : VForm) (s : State) : Outcome State Fault Refusal := specialWise h 0x5A 2 f s
/-- VRCP (R176). -/
def execVrcp (h : Hdr) (f : VForm) (s : State) : Outcome State Fault Refusal := specialWise h 0x5B 3 f s
/-- VRSQ (R176). -/
def execVrsq (h : Hdr) (f : VForm) (s : State) : Outcome State Fault Refusal := specialWise h 0x5C 4 f s
/-- VTANH (R176). -/
def execVtanh (h : Hdr) (f : VForm) (s : State) : Outcome State Fault Refusal := specialWise h 0x5D 5 f s
/-- VERF (R176). -/
def execVerf (h : Hdr) (f : VForm) (s : State) : Outcome State Fault Refusal := specialWise h 0x5E 6 f s

/-! ### Complex products (R178) -/

/-- The exact product of two complex integers, of the conjugate of the second where `cj`. -/
def cplxMul (cj : Bool) (x y : Int × Int) : Int × Int :=
  let yi := if cj then -y.2 else y.2
  (x.1 * y.1 - x.2 * yi, x.1 * yi + x.2 * y.1)

/-- HD, HA, HB, and HC where it is the second destination of a pair (R178). Where the extents of the pair differ, check 4 names HC (DESIGN
CHOICE, log 27). -/
def cplxWants (f : VForm) (pair : Bool) (a : Act) : List Want :=
  let d := a.sh f.hd.toNat
  [{ reg := f.hd.toNat, fmt := fun c => if pair then c == 15 else isCplx c },
   { reg := f.ha.toNat, fmt := isCplx, fits := bcastTo (shExts d) }, { reg := f.hb.toNat, fmt := isCplx, fits := bcastTo (shExts d) }] ++
    (if pair then [{ reg := f.hc.toNat, fmt := fun c => c == 15, fits := fun x => shExts x == shExts d }] else []) ++
    maskWant f (shExts d)

/-- A complex product elementwise; `acc` says that it is added to the pair of destinations. -/
def cplxWise (h : Hdr) (opc : Nat) (f : VForm) (pair acc : Bool) (s : State) : Outcome State Fault Refusal :=
  vector h opc (cplxWants f pair) (fun _ => false)
    (fun R a m0 =>
      let d := a.sh f.hd.toNat
      let e := a.sh f.hc.toNat
      eachElem f a R (shExts d) false m0 (fun src ds _ =>
        let p := cplxMul (bitOf f.fn.toNat 1) (srcParts (src 0) ds (a.sh f.ha.toNat)) (srcParts (src 1) ds (a.sh f.hb.toNat))
        if pair then
          let re : Int := if acc then signed 32 (readCode (src 2) d ds) + p.1 else p.1
          let im : Int := if acc then signed 32 (readCode (src 3) e ds) + p.2 else p.2
          [putCode d ds (intCode 15 f.sat re), putCode e ds (intCode 15 f.sat im)]
        else [putCode d ds (partsCode (shFmt d) f.sat p)])) s

/-- VCMUL (R178). -/
def execVcmul (h : Hdr) (f : VForm) (s : State) : Outcome State Fault Refusal := cplxWise h 0x5F f (bitOf f.fn.toNat 0) false s
/-- VCMAC (R178). -/
def execVcmac (h : Hdr) (f : VForm) (s : State) : Outcome State Fault Refusal := cplxWise h 0x60 f true true s

/-! ### Gather, scatter, transpose, random fill (R179 to R182) -/

/-- The value of an index element. -/
def indexAt (m : Sparse Byte) (ds : List Nat) (r : Nat) : Int := intOf (shFmt r) (srcCode m ds r)

/-- HD and HA hold one format that is no block format; HB holds the indices, broadcast to HD (R179). -/
def vgathWants (f : VForm) (a : Act) : List Want :=
  let d := a.sh f.hd.toNat
  [{ reg := f.hd.toNat, fmt := fun c => !isBlock c }, { reg := f.ha.toNat, fmt := fun c => c == shFmt d },
   { reg := f.hb.toNat, fmt := isInt, fits := bcastTo (shExts d) }] ++ maskWant f (shExts d)

/-- VGATH (R179). -/
def execVgath (h : Hdr) (f : VForm) (s : State) : Outcome State Fault Refusal :=
  vector h 0x61 (vgathWants f) (fun _ => false)
    (fun R a m0 =>
      let d := a.sh f.hd.toNat
      let r := a.sh f.ha.toNat
      let n := sizeOf' (shExts r)
      eachElem f a R (shExts d) false m0 (fun src ds _ =>
        let v := indexAt (src 1) ds (a.sh f.hb.toNat)
        let inside := decide (0 ≤ v) && decide (v < n)
        let i := (max 0 (min v ((n : Int) - 1))).toNat
        [putCode d ds
          (if inside || bitOf f.fn.toNat 0 then readCode (src 0) r (digitsOf (shExts r) i) else 0)])) s

/-- HD and HA hold one format that is no block format; HB holds the indices, broadcast to HA (R180). -/
def vscatWants (f : VForm) (a : Act) : List Want :=
  let d := a.sh f.hd.toNat
  let r := a.sh f.ha.toNat
  [{ reg := f.hd.toNat, fmt := fun c => !isBlock c }, { reg := f.ha.toNat, fmt := fun c => c == shFmt d },
   { reg := f.hb.toNat, fmt := isInt, fits := bcastTo (shExts r) }] ++ maskWant f (shExts r)

/-- VSCAT (R180). -/
def execVscat (h : Hdr) (f : VForm) (s : State) : Outcome State Fault Refusal :=
  vector h 0x62 (vscatWants f) (fun _ => false)
    (fun R a m0 =>
      let d := a.sh f.hd.toNat
      let r := a.sh f.ha.toNat
      eachElem f a R (shExts r) false m0 (fun src ds _ =>
        let v := indexAt (src 1) ds (a.sh f.hb.toNat)
        if 0 ≤ v && v < sizeOf' (shExts d) then [putCode d (digitsOf (shExts d) v.toNat) (readCode (src 0) r ds)] else [])) s

/-- p(j) of VTRANS (R181). -/
def permAt (fn j : Nat) : Nat := fn / 4 ^ j % 4

/-- HD has the extents of HA, permuted (R181): where they differ, check 4 names HD (DESIGN CHOICE, log 27). -/
def vtransWants (f : VForm) (a : Act) : List Want :=
  let d := a.sh f.hd.toNat
  [{ reg := f.hd.toNat, fmt := fun c => !isBlock c, fits := fun x => match a.shape f.ha.toNat with
      | none => true
      | some r => (List.range 4).all (fun j => shExt x j = shExt r (permAt f.fn.toNat j)) },
   { reg := f.ha.toNat, fmt := fun c => c == shFmt d }] ++ maskWant f (shExts d)

/-- VTRANS (R181). -/
def execVtrans (h : Hdr) (f : VForm) (s : State) : Outcome State Fault Refusal :=
  let fn := f.fn.toNat
  vector h 0x63 (vtransWants f) (fun _ => false)
    (fun R a m0 =>
      let d := a.sh f.hd.toNat
      eachElem f a R (shExts d) false m0 (fun src ds _ =>
        let ss := (List.range 4).foldl (fun l j => l.set (permAt fn j) (ds.getD j 0)) [0, 0, 0, 0]
        [putCode d ds (readCode (src 0) (a.sh f.ha.toNat) ss)])) s

/-- HD in F32, BF16, F16 or an integer format (R182). -/
def vrndWants (f : VForm) (a : Act) : List Want :=
  { reg := f.hd.toNat, fmt := fun c => c ≤ 2 || isInt c } :: maskWant f (shExts (a.sh f.hd.toNat))

/-- `n` draws, in ascending order, and the generator after them. -/
def drawsList : Nat → Gen → List (BitVec 64) × Gen
  | 0, g => ([], g)
  | n + 1, g =>
    let (x, g1) := g.draw
    let (l, g2) := drawsList n g1
    (x :: l, g2)

/-- VRND (R182): one draw per element, inactive elements included. -/
def execVrnd (h : Hdr) (f : VForm) (s : State) : Outcome State Fault Refusal :=
  vector h 0x64 (vrndWants f) (fun a => !a.rngReady)
    (fun R a m0 =>
      let d := a.sh f.hd.toNat
      let c := shFmt d
      let sig := [24, 8, 11].getD c 24
      let (xs, g) := drawsList (sizeOf' (shExts d)) a.gen
      (g, R.walk (sizeOf' (shExts d)) m0 (fun n src =>
        let ds := digitsOf (shExts d) n
        let x := xs.getD n 0
        let code := if isInt c then x.toNat / 2 ^ (64 - fmtWidth c)
          else floatCode c (.fin false (x.toNat / 2 ^ (64 - sig)) (2 ^ sig))
        if maskOn f a (src maskRead) ds then [putCode d ds code] else []))) s

end Sys2Proof.Machine
end

