-- ==== Sys2Proof/Machine/Matrix.lean ====
section
/-! DEFINITION. The shared matrix unit (R221 to R253): the matrix words at issue, the arbiter, and the commands in the unit. A command
takes its effect at its completion, with free choices for the scratchpad writes that crossed it since its COMMIT (R244); completions keep
the order that R227 asks for. -/

namespace Sys2Proof.Machine

open Host (Outcome)

/-! ### At issue (R222, R224, R230, R232, R236, R240, R242) -/

/-- K of a format's class (R233). -/
def mxK (f : Nat) : Nat :=
  match f with
  | 1 | 2 | 23 => 48
  | 5 | 9 | 12 => 192
  | _ => 96

/-- A record with format `c` and effective extents `e`. -/
def exactly (reg c : Nat) (e : List Nat) : Want := { reg := reg, fmt := fun x => x == c, fits := fun r => shExts r == e }

/-- The gate that FN names (R235). -/
def gateOf (fn : Nat) : Option Nat := if bitOf fn 9 then some (fn / 128 % 4) else none

/-- The course of a matrix word: the checks of R236, then a queue entry is reserved, with the effect deferred (R222). -/
def mxIssue (h : Hdr) (opc : Nat) (gate : Option Nat) (wants : List Want) (op : Act → Except Nat MxOp) (s : State) :
    Outcome State Fault Refusal :=
  issue 1 h (fun s a =>
    match checkAll s.hub.featAcc a wants with
    | some (r, c) => .fail s (checkCode c) (opc + r * 256 + c * 4096)
    | none =>
      match op a with
      | .error info => .fail s 3 info
      | .ok o =>
        if s.mxUsed s.focus.g < 16 then deferEff (.matrix { op := o, ctx := a.ctx, gate := gate }) [] s a
        else if 16 ≤ a.mxReserved then .fail s 6 (opc + 16 * 256)
        else .wait s) s

/-- MLDB (R237). -/
def execMldb (h : Hdr) (f : TForm) (s : State) : Outcome State Fault Refusal :=
  let fb := f.fb.toNat
  let k := mxK fb
  let fn := f.fn.toNat
  let major := bitOf fn 0
  mxIssue h 0x70 (gateOf fn)
    (exactly f.ha.toNat (elemFmt' fb) (if fb = 10 then [1536, 1, 1, 1] else if major then [16, k, 1, 1] else [k, 16, 1, 1]) ::
      (if isMx fb then [exactly f.hs.toNat 6 [k / 32, 16, 1, 1]] else []))
    (fun a => .ok (.mldb f.ws.toNat fb major (a.sh f.ha.toNat) (a.sh f.hs.toNat))) s
where
  /-- The format of the source record (R230): the element format for MX. -/
  elemFmt' (c : Nat) : Nat := if isMx c then elemFmt c else c

/-- MMA (R238). -/
def execMma (h : Hdr) (f : TForm) (s : State) : Outcome State Fault Refusal :=
  let fa := f.fa.toNat
  let k := mxK fa
  mxIssue h 0x71 (gateOf f.fn.toNat)
    (exactly f.ha.toNat (elemFmt fa) [k, 16, 1, 1] :: (if isMx fa then [exactly f.hs.toNat 6 [k / 32, 16, 1, 1]] else []))
    (fun a => .ok (.mma f.acc.toNat f.ws.toNat (a.sh f.ha.toNat) (a.sh f.hs.toNat) fa f.fb.toNat f.rm.toNat f.sat
      (bitOf f.fn.toNat 0))) s

/-- MMAC (R238). -/
def execMmac (h : Hdr) (f : TForm) (s : State) : Outcome State Fault Refusal :=
  let fa := f.fa.toNat
  mxIssue h 0x72 (gateOf f.fn.toNat) [exactly f.ha.toNat fa [mxK fa, 16, 1, 1]]
    (fun a => .ok (.mmac f.acc.toNat f.ws.toNat (a.sh f.ha.toNat) fa f.fb.toNat f.sat (bitOf f.fn.toNat 0)
      (bitOf f.fn.toNat 1))) s

/-- MZERO (R239). -/
def execMzero (h : Hdr) (f : TForm) (s : State) : Outcome State Fault Refusal :=
  mxIssue h 0x73 (gateOf f.fn.toNat) [] (fun _ => .ok (.mzero f.acc.toNat (f.fn.toNat % 32 + 1))) s

/-- MST (R240). -/
def execMst (h : Hdr) (f : TForm) (s : State) : Outcome State Fault Refusal :=
  let fn := f.fn.toNat
  mxIssue h 0x74 (gateOf fn)
    (exactly f.ha.toNat f.fb.toNat [16, 16, 1, 1] ::
      (if bitOf fn 3 then [{ reg := f.hs.toNat, fmt := fun c => [0, 1, 2, 6].contains c,
                             fits := fun r => shExts r == [16, 1, 1, 1] || shExts r == [1, 1, 1, 1] }] else []))
    (fun a => .ok (.mst f.acc.toNat (a.sh f.ha.toNat) (a.sh f.hs.toNat) f.fa.toNat f.fb.toNat f.rm.toNat f.sat
      (bitOf fn 0) (bitOf fn 1) (bitOf fn 2) (bitOf fn 3))) s

/-- MBAR (R241). -/
def execMbar (h : Hdr) (f : TForm) (s : State) : Outcome State Fault Refusal :=
  mxIssue h 0x75 none [] (fun _ => .ok (.mbar (f.fn.toNat % 128) (f.fn.toNat / 128))) s

/-- MCFG (R242, R253): the value of gN, or the info word where it breaks the limit. -/
def execMcfg (h : Hdr) (f : TForm) (limit : Nat → Bool) (op : Nat → MxOp) (s : State) : Outcome State Fault Refusal :=
  let fn := f.fn.toNat
  mxIssue h 0x76 none []
    (fun a =>
      let v := a.ug (fn % 64)
      if limit v then .ok (op v) else .error (0x76 + fn / 64 * 256 + v % 2 ^ 48 * 65536)) s

/-- MCFG.WEIGHT (R242). -/
def execMcfgWeight (h : Hdr) (f : TForm) (s : State) : Outcome State Fault Refusal :=
  execMcfg h f (fun v => 1 ≤ v && v ≤ 15) .weight s

/-- MCFG.GATE0 to MCFG.GATE3 (R242). -/
def execMcfgGate (h : Hdr) (f : TForm) (s : State) : Outcome State Fault Refusal :=
  execMcfg h f (fun v => v % 128 ≤ 95) (fun v => .gate (f.fn.toNat / 64 - 1) (v % 128) (v / 2 ^ 32)) s

/-- MCFG.CLRSAT (R242). -/
def execMcfgClrsat (h : Hdr) (f : TForm) (s : State) : Outcome State Fault Refusal :=
  execMcfg h f (fun _ => true) (fun v => .clrsat (v % 2 ^ 32)) s

/-! ### Readiness (R226, R227) -/

/-- The tiles of accumulators that a command uses: first and number. -/
def MxOp.accs : MxOp → Nat × Nat
  | .mma acc _ _ _ _ _ _ _ _ => (acc, 1)
  | .mmac acc _ _ _ _ _ _ _ => (acc, 2)
  | .mzero acc n => (acc, n)
  | .mst acc _ _ _ _ _ _ _ _ c _ => (acc, if c then 2 else 1)
  | .clrsat _ => (0, 32)
  | _ => (0, 0)

/-- It writes its tiles (or, for CLRSAT, orders with those that set its flags). -/
def MxOp.writesAcc : MxOp → Bool
  | .mma _ _ _ _ _ _ _ _ _ | .mmac _ _ _ _ _ _ _ _ | .mzero _ _ | .clrsat _ => true
  | .mst _ _ _ _ _ _ _ z _ _ _ => z
  | _ => false

/-- The weight slot that a command reads, and the one it writes. -/
def MxOp.reads : MxOp → Option Nat
  | .mma _ ws _ _ _ _ _ _ _ | .mmac _ ws _ _ _ _ _ _ => some ws
  | _ => none
def MxOp.loads : MxOp → Option Nat
  | .mldb ws _ _ _ _ => some ws
  | _ => none

def MxOp.isMst : MxOp → Bool
  | .mst _ _ _ _ _ _ _ _ _ _ _ => true
  | _ => false
def MxOp.isMbar : MxOp → Bool
  | .mbar _ _ => true
  | _ => false
/-- 1 for MMA, 2 for MMAC, 0 for the others. -/
def MxOp.mulKind : MxOp → Nat
  | .mma _ _ _ _ _ _ _ _ _ => 1
  | .mmac _ _ _ _ _ _ _ _ => 2
  | _ => 0

/-- The scratchpad bytes from the lowest to the highest of a record. -/
def shSpan (r : Nat) : Int × Int :=
  let x := shReach r (shStride r) (shRow r)
  ((shBase r : Int) + x.1, (shBase r : Int) + x.2)

/-- The records that a command reads, and the one it writes. -/
def MxOp.spadReads : MxOp → List Nat
  | .mldb _ fb _ ha hs => ha :: (if isMx fb then [hs] else [])
  | .mma _ _ ha hs fa _ _ _ _ => ha :: (if isMx fa then [hs] else [])
  | .mmac _ _ ha _ _ _ _ _ => [ha]
  | .mst _ _ hs _ _ _ _ _ _ _ sc => if sc then [hs] else []
  | _ => []
def MxOp.spadWrites : MxOp → List Nat
  | .mst _ ha _ _ _ _ _ _ _ _ _ => [ha]
  | _ => []

def spansMeet (l m : List Nat) : Bool :=
  l.any (fun x => m.any (fun y => (shSpan x).1 < (shSpan y).2 && (shSpan y).1 < (shSpan x).2))

/-- Two commands of one engine touch the same thing, one of them writing it (R227). -/
def MxOp.conflict (x y : MxOp) : Bool :=
  let (a, n) := x.accs
  let (b, m) := y.accs
  ((x.writesAcc || y.writesAcc) && a < b + m && b < a + n) ||
    (x.loads.isSome && (x.loads == y.loads || x.loads == y.reads)) || (y.loads.isSome && y.loads == x.reads) ||
    spansMeet x.spadWrites (y.spadReads ++ y.spadWrites) || spansMeet y.spadWrites x.spadReads

/-- The array forwards the sums of the command before (R227). -/
def MxOp.forwards (last : Option MxOp) (x : MxOp) : Bool :=
  match last with
  | some y => x.mulKind != 0 && x.mulKind == y.mulKind && x.accs == y.accs
  | none => false

def Mx.gate (m : Mx) (i : Nat) : Nat × Nat := m.gates.get (0, 0) i

/-- The gate of the head command is reached, or it has none (R226). -/
def State.gateOpen (s : State) (g : Nat) (c : MxCmd) : Bool :=
  match c.gate with
  | none => true
  | some i => let (b, t) := (s.eng g).mx.gate i; reached ((s.eng g).bar b).phase t

/-- The head command of engine `g` finds OVERRUN at its gate (R248). -/
def State.gateOverrun (s : State) (g : Nat) (c : MxCmd) : Bool :=
  match c.gate with
  | none => false
  | some i => ((s.eng g).bar ((s.eng g).mx.gate i).1).overrun

/-- Ready (R226, R227). -/
def State.mxReady (s : State) (g : Nat) (c : MxCmd) : Bool :=
  let run := (s.unit (unitOf g)).running
  let own := run.filter (fun r => r.eng == g)
  s.gateOpen g c && !s.gateOverrun g c &&
    (match c.op with
      | .mldb ws _ _ _ _ => run.all (fun r => r.cmd.op.loads.isNone && r.cmd.op.reads != some ws)
      | .mst _ _ _ _ _ _ _ _ _ _ _ => run.all (fun r => !r.cmd.op.isMst)
      | .mbar _ _ => own.isEmpty
      | o => o.reads.isNone || run.all (fun r => r.cmd.op.loads != o.reads)) &&
    own.all (fun r => !r.cmd.op.conflict c.op ||
      (MxOp.forwards (s.eng g).mx.last c.op && r.cmd.op.mulKind == c.op.mulKind && r.cmd.op.accs == c.op.accs))

/-! ### The arbiter (R225) -/

/-- The head command of engine `e` of unit `u` is Ready. -/
def State.headReady (s : State) (u e : Nat) : Bool :=
  match (s.eng (8 * u + e)).mx.queue with
  | [] => false
  | c :: _ => s.mxReady (8 * u + e) c

/-- Pick (R225). -/
def State.mxPick (s : State) (u : Nat) : Option Nat :=
  ((List.range 8).map (fun i => ((s.unit u).p + i) % 8)).find? (fun e => s.headReady u e && 0 < (s.eng (8 * u + e)).mx.credit)

/-- Every credit is its weight. -/
def State.mxReload (s : State) (u : Nat) : State :=
  (List.range 8).foldl (fun s e => s.modEng (8 * u + e) (fun E => { E with mx := { E.mx with credit := E.mx.weight } })) s

/-- The state in which Pick has chosen, with the engine chosen. -/
def State.mxChoose (s : State) (u : Nat) : Option (State × Nat) :=
  match s.mxPick u with
  | some e => some (s, e)
  | none =>
    let t := s.mxReload u
    (t.mxPick u).map (fun e => (t, e))

def State.modMx (s : State) (g : Nat) (f : Mx → Mx) : State := s.modEng g (fun E => { E with mx := f E.mx })
def State.setRunning (s : State) (u : Nat) (f : List Running → List Running) : State :=
  s.setUnit u { s.unit u with running := f (s.unit u).running }
def State.modWSlot (s : State) (u w : Nat) (f : WSlot → WSlot) : State :=
  s.setUnit u { s.unit u with slots := (s.unit u).slots.upd {} w f }
def State.wslot (s : State) (u w : Nat) : WSlot := (s.unit u).slots.get {} w

/-! ### Rejection (R248, R253) -/

def MxOp.opc : MxOp → Nat
  | .mldb _ _ _ _ _ => 0x70
  | .mma _ _ _ _ _ _ _ _ _ => 0x71
  | .mmac _ _ _ _ _ _ _ _ => 0x72
  | .mzero _ _ => 0x73
  | .mst _ _ _ _ _ _ _ _ _ _ _ => 0x74
  | .mbar _ _ => 0x75
  | _ => 0x76

/-- ACC of a command's word. -/
def MxOp.acc : MxOp → Nat
  | .mma a _ _ _ _ _ _ _ _ | .mmac a _ _ _ _ _ _ _ | .mzero a _ | .mst a _ _ _ _ _ _ _ _ _ _ => a
  | _ => 0

/-- A command is rejected: REJ is set and one record written; `what` is WS or the barrier. -/
def State.mxReject (s : State) (g : Nat) (c : MxCmd) (code what tag gate : Nat) : State :=
  (s.modMx g (fun m => { m with rej := true, rejSince := true })).append c.ctx
    { code := code, src := 2, who := g / 16 + g % 16 * 2 ^ 10,
      info := c.op.opc + g % 16 * 256 + what % 128 * 2 ^ 12 + c.op.acc * 2 ^ 19 + tag * 2 ^ 24 + gate * 2 ^ 32 }

/-! ### Grant (R231, R238, R239, R242) -/

def zeroTiles (acc : Sparse (BitVec 32)) (a n : Nat) : Sparse (BitVec 32) :=
  acc.filter (fun e => e.1 < 256 * a || 256 * (a + n) ≤ e.1)

/-- A load that is rejected leaves its slot not valid (R237). -/
def State.dropSlot (s : State) (g : Nat) (op : MxOp) : State :=
  match op with
  | .mldb ws _ _ _ _ => s.modWSlot (unitOf g) ws (fun w => { w with valid := false })
  | _ => s

/-- What a granted command does at once: those that complete later are left running. -/
def State.mxStart (s : State) (g : Nat) (c : MxCmd) : State :=
  let u := unitOf g
  let run (s : State) : State := s.setRunning u (fun l => l ++ [{ eng := g, cmd := c }])
  let mul (ws fb : Nat) : State :=
    let w := s.wslot u ws
    if w.valid && w.ctx = c.ctx && w.fmt = fb then run s else s.mxReject g c 4 ws w.ctx 0
  match c.op with
  | .mldb ws fb major _ _ =>
    run (s.modWSlot u ws (fun w => { w with valid := true, ctx := c.ctx, fmt := fb, major := major, ready := false }))
  | .mma _ ws _ _ _ fb _ _ _ => mul ws fb
  | .mmac _ ws _ _ fb _ _ _ => mul ws fb
  | .mst _ _ _ _ _ _ _ _ _ _ _ => run s
  | .mbar _ _ =>
    -- every earlier command has completed, so its rejection is known
    (s.setRunning u (fun l => l ++ [{ eng := g, cmd := c, late := (s.eng g).mx.rejSince }])).modMx g (fun m => { m with rejSince := false })
  | .mzero a n => s.modMx g (fun m => { m with acc := zeroTiles m.acc a n })
  | .weight v => s.modMx g (fun m => { m with weight := v })
  | .gate i b t => s.modMx g (fun m => { m with gates := m.gates.set i (b, t) })
  | .clrsat v => s.modMx g (fun m => { m with satm := m.satm &&& ~~~(BitVec.ofNat 32 v) })

/-- MATRIX_GRANT (R225): the head of engine `g` is granted where the arbiter picks it; a head that finds OVERRUN at its gate is
rejected (R248). A gated command has acquired the sectors landed so far (R246). -/
def execMatrixGrant (g : Nat) (s : State) : Outcome State Fault Refusal :=
  match (s.eng g).mx.queue with
  | [] => .next s
  | c :: _ =>
    let pop (s : State) : State := s.modMx g (fun m => { m with queue := m.queue.drop 1, last := some c.op })
    if s.gateOverrun g c then
      .next (((pop s).dropSlot g c.op).mxReject g c 12 ((s.eng g).mx.gate (c.gate.getD 0)).1 0 (c.gate.getD 0))
    else
      match s.mxChoose (unitOf g) with
      | some (t, e) =>
        if e = g % 8 then
          let t := pop (t.modMx g (fun m => { m with credit := m.credit - 1 }))
          let c := if c.gate.isSome then { c with acq := (s.eng g).past.length } else c
          .next ((t.setUnit (unitOf g) { t.unit (unitOf g) with p := e }).mxStart g c)
        else .next s
      | none => .next s

/-! ### Operands (R228 to R232) -/

/-- The codes of a CE4M3 slot: 24 blocks one after another (R229). -/
def slotBlocks (data : Sparse Byte) : Nat → Nat → List Nat
  | 0, _ => []
  | n + 1, pos =>
    let u := fieldOf (ofLE (bytesAt data pos 2)) 9 6
    let u := if u < 3 || 8 < u then 8 else u
    ceDecode (bytesAt data pos 128) ++ slotBlocks data n (pos + 16 * u)

/-- The code at linear index `i` of a raw slot (R228). -/
def slotCode (data : Sparse Byte) (f i : Nat) : Nat :=
  let w := fmtWidth f
  elemCode f (i % 2 = 1) (bytesAt data (i * w / 8) (fmtBytes f))

/-- The linear index of element (k, n) (R228). -/
def slotIndex (major : Bool) (K k n : Nat) : Nat := if major then n + 16 * k else k + K * n

/-- The value of a slot's element (k, n); `ce` are the decoded codes of a CE4M3 slot. -/
def WSlot.val (w : WSlot) (ce : List Nat) (K k n : Nat) : Val :=
  let i := slotIndex w.major K k n
  if w.fmt = 10 then elemVal 3 (ce.getD i 0)
  else if isMx w.fmt then mxVal w.fmt (w.side.get 0 (k / 32 + K / 32 * n)).toNat (slotCode w.data (elemFmt w.fmt) i)
  else elemVal w.fmt (slotCode w.data w.fmt i)

/-- The parts of a complex slot element. -/
def WSlot.parts (w : WSlot) (K k n : Nat) : Int × Int :=
  let h := fmtWidth w.fmt / 2
  let c := slotCode w.data w.fmt (slotIndex w.major K k n)
  (signed h (c % 2 ^ h), signed h (c / 2 ^ h))

/-- The free choices of the reads and writes of a command of engine `g` (R244): among the writes since its COMMIT, but for those of earlier
commands (R227) and for the sectors that its gate has acquired (R246). -/
def State.mxReads (s : State) (g : Nat) (c : MxCmd) : Reads × State :=
  let (pick, s1) := s.draw
  let (place, s2) := s1.draw
  let free := fun (n : Nat) (x : SpadSrc) => match x with
    | .matrix => false
    | .word => true
    | _ => decide (c.acq < n)
  ({ pick := pick, place := place, cross := (s.eng g).crossing c.since free }, s2)

/-- The scratchpad that read number `k` of a command sees. -/
def Reads.at (R : Reads) (m : Sparse Byte) (k : Nat) : Sparse Byte := R.see m m k

/-- The place of A(m, k) among the reads of a command, two for each element. -/
def readOfA (row k : Nat) : Nat := 2 * (192 * row + k)

/-- A(m, k) (R232): the scale of an MX format is in HS. -/
def opA (src : Nat → Sparse Byte) (fa ha hs row k : Nat) : Val :=
  let ds := [k, row, 0, 0]
  let m := src (readOfA row k)
  if isMx fa then mxVal fa (readCode (src (readOfA row k + 1)) hs [k / 32, row, 0, 0]) (readCode m ha ds) else readVal m ha ds

/-! ### Accumulation (R80, R81, R234) -/

/-- Adds group sums to a float accumulator, one after another: the value and whether an element was clamped (DESIGN CHOICE, log 87: with
SAT, an infinite sum and an overflow that the rounding turns into the greatest finite value are clamps; without SAT nothing is). -/
def accFloat (rm : Nat) (sat : Bool) : Val → List Val → Val × Bool
  | c, [] => (c, false)
  | c, x :: xs =>
    let t := c.add (rm == 3) x
    let clamped := sat && (match roundGrid 0 rm 0 t with
      | .nan => false
      | .inf _ => true
      | .fin _ n d => decide (maxFinite 0 * d < n))
    let (r, b) := accFloat rm sat (roundTo 0 rm sat 0 t) xs
    (r, clamped || b)

/-- Adds group sums to an integer accumulator. -/
def accInt (sat : Bool) : Int → List Int → Int × Bool
  | c, [] => (c, false)
  | c, x :: xs =>
    let t := c + x
    let clamped := sat && (t < -(2 ^ 31) || 2 ^ 31 - 1 < t)
    let (r, b) := accInt sat (if sat then satI 32 t else signed 32 (wrapTo 32 t)) xs
    (r, clamped || b)

/-- The sums of groups of 16 terms (R80): `term k`, exact. -/
def groupVals (dn : Bool) (K : Nat) (term : Nat → Val) : List Val :=
  (List.range (K / 16)).map (fun g => (List.range 16).foldl (fun x i => x.add dn (term (16 * g + i))) (.fin false 0 1))
def groupInts (K : Nat) (term : Nat → Int) : List Int :=
  (List.range (K / 16)).map (fun g => ((List.range 16).map (fun i => term (16 * g + i))).sum)

/-- An accumulator element by tile, row and column. -/
def accKey (tile m n : Nat) : Nat := 256 * tile + 16 * m + n

/-- The 256 elements of a tile, each replaced; a clamp sets the tile's SATM bit (R234). -/
def Mx.eachElem (x : Mx) (tile : Nat) (f : Nat → Nat → BitVec 32 → BitVec 32 × Bool) : Mx :=
  (List.range 256).foldl (fun x i =>
    let key := accKey tile (i / 16) (i % 16)
    let (v, clamp) := f (i / 16) (i % 16) (x.acc.get 0 key)
    { x with acc := x.acc.put 0 key v, satm := if clamp then x.satm ||| (1#32 <<< tile) else x.satm }) x

/-- MMA in the unit (R238). -/
def Mx.mma (x : Mx) (src : Nat → Sparse Byte) (w : WSlot) (acc ha hs fa rm : Nat) (sat z : Bool) : Mx :=
  let K := mxK fa
  let ce := if w.fmt = 10 then slotBlocks w.data 24 0 else []
  let ints := isInt fa
  x.eachElem acc (fun i n old =>
    if ints then
      let term := fun k => (opA src fa ha hs i k).toInt * (w.val ce K k n).toInt
      let (v, b) := accInt sat (if z then 0 else old.toInt) (groupInts K term)
      (BitVec.ofInt 32 v, b)
    else
      let term := fun k => (opA src fa ha hs i k).mul (w.val ce K k n)
      let (v, b) := accFloat rm sat (if z then .fin false 0 1 else floatVal 0 old.toNat) (groupVals (rm == 3) K term)
      (BitVec.ofNat 32 (f32Bits v), b))

/-- MMAC in the unit (R81, R238). -/
def Mx.mmac (x : Mx) (src : Nat → Sparse Byte) (w : WSlot) (acc ha fa : Nat) (sat z cj : Bool) : Mx :=
  let K := mxK fa
  let prod := fun (i n k : Nat) => cplxMul cj (readParts (src (readOfA i k)) ha [k, i, 0, 0]) (w.parts K k n)
  let part := fun (sel : Int × Int → Int) (i n : Nat) (old : BitVec 32) =>
    let (v, b) := accInt sat (if z then 0 else old.toInt) (groupInts K (fun k => sel (prod i n k)))
    (BitVec.ofInt 32 v, b)
  (x.eachElem acc (part Prod.fst)).eachElem (acc + 1) (part Prod.snd)

/-! ### Completion -/

/-- The running command at position `i` of unit `u`, when no earlier one of its engine that shares its tiles still runs (R227). -/
def State.mxDone (s : State) (u i : Nat) : Option Running :=
  let l := (s.unit u).running
  match l[i]? with
  | none => none
  | some r => if (l.take i).any (fun x => x.eng == r.eng && x.cmd.op.conflict r.cmd.op) then none else some r

/-- The command leaves the unit: its queue entry is released. -/
def State.mxRetire (s : State) (u i : Nat) : State := s.setRunning u (fun l => dropAt l i)

/-- Copies the 24 CE4M3 blocks of a source into the slot (R237); none where they exceed it. -/
def loadBlocks (src : Nat → Sparse Byte) (base : Nat) : Nat → Nat → Nat → Sparse Byte → Option (Sparse Byte)
  | 0, _, _, data => some data
  | n + 1, b, pos, data =>
    let blk := blockSeen (fun i => src (64 * b + i)) (base + 128 * b)
    let u := fieldOf (ofLE (blk.take 2)) 9 6
    let u := if u < 3 || 8 < u then 8 else u
    if 2048 < pos + 16 * u then none else loadBlocks src base n (b + 1) (pos + 16 * u) (putBytes data pos (blk.take (16 * u)))

/-- A raw or MX load (R230, R237). -/
def loadRaw (src : Nat → Sparse Byte) (fb : Nat) (major : Bool) (ha : Nat) (data : Sparse Byte) : Sparse Byte :=
  let K := mxK fb
  let e := elemFmt fb
  let e := if isMx fb then e else fb
  (List.range (16 * K)).foldl (fun data i =>
    let k := i % K
    let n := i / K
    let j := slotIndex major K k n
    spadStore data e (j % 2 = 1) (j * fmtWidth e / 8) (readCode (src (2 * i)) ha (if major then [n, k, 0, 0] else [k, n, 0, 0]))) data

def loadScales (src : Nat → Sparse Byte) (K hs : Nat) (side : Sparse Byte) : Sparse Byte :=
  (List.range (K / 32 * 16)).foldl (fun side i =>
    let j := i % (K / 32)
    let n := i / (K / 32)
    side.put 0 (j + K / 32 * n) (BitVec.ofNat 8 (readCode (src (2 * i + 1)) hs [j, n, 0, 0]))) side

/-- MLDB_COMPLETE (R237). -/
def execMldbComplete (u i : Nat) (s : State) : Outcome State Fault Refusal :=
  match s.mxDone u i with
  | none => .next s
  | some r =>
    match r.cmd.op with
    | .mldb ws fb major ha hs =>
      let (R, t) := s.mxReads r.eng r.cmd
      let src := R.at (s.eng r.eng).spad
      let t := t.mxRetire u i
      if fb = 10 then
        match loadBlocks src (shBase ha) 24 0 0 (s.wslot u ws).data with
        | none =>
          .next ((t.modWSlot u ws (fun w => { w with valid := false })).mxReject r.eng r.cmd 3 ws 0 0)
        | some d => .next (t.modWSlot u ws (fun w => { w with data := d, ready := true }))
      else
        .next (t.modWSlot u ws (fun w => { w with
          data := loadRaw src fb major ha w.data,
          side := if isMx fb then loadScales src (mxK fb) hs w.side else w.side,
          ready := true }))
    | _ => .next s

/-- MMA_COMPLETE (R238, R243). -/
def execMmaComplete (u i : Nat) (s : State) : Outcome State Fault Refusal :=
  match s.mxDone u i with
  | none => .next s
  | some r =>
    let (R, t) := s.mxReads r.eng r.cmd
    let src := R.at (s.eng r.eng).spad
    match r.cmd.op with
    | .mma acc ws ha hs fa _ rm sat z => .next ((t.mxRetire u i).modMx r.eng (fun x => x.mma src (s.wslot u ws) acc ha hs fa rm sat z))
    | .mmac acc ws ha fa _ sat z cj => .next ((t.mxRetire u i).modMx r.eng (fun x => x.mmac src (s.wslot u ws) acc ha fa sat z cj))
    | _ => .next s

/-- The write of element `i` of an MST (R240); the scale is read when the element is stored (R244). -/
def mstPut (x : Mx) (R : Reads) (m : Sparse Byte) (acc ha hs fa fb rm : Nat) (sat t c sc : Bool) (i : Nat) : Put :=
  let (row, col) := if t then (i % 16, i / 16) else (i / 16, i % 16)
  let v := x.acc.get 0 (accKey acc row col)
  putCode ha [i % 16, i / 16, 0, 0]
    (if c then partsCode fb sat (v.toInt, (x.acc.get 0 (accKey (acc + 1) row col)).toInt)
     else
      let r := if fa = 0 then floatVal 0 v.toNat else Val.ofInt v.toInt
      let r := if sc then r.mul (srcVal (R.at m i) [col, 0, 0, 0] hs) else r
      storeVal fb rm sat (fa = 15 && !sc) 0 r)

/-- The writes of the elements of a list, in its order. -/
def storeTile (x : Mx) (R : Reads) (m : Sparse Byte) (acc ha hs fa fb rm : Nat) (sat t c sc : Bool) : List Nat → List Put
  | [] => []
  | i :: r =>
    let p := mstPut x R m acc ha hs fa fb rm sat t c sc i
    p :: storeTile x R (p.act m) acc ha hs fa fb rm sat t c sc r

/-- MST_COMPLETE (R240): the elements that are not stored yet are. -/
def execMstComplete (u i : Nat) (s : State) : Outcome State Fault Refusal :=
  match s.mxDone u i with
  | none => .next s
  | some r =>
    match r.cmd.op with
    | .mst acc ha hs fa fb rm sat z t c sc =>
      let (R, s1) := s.mxReads r.eng r.cmd
      let E := s.eng r.eng
      let l := storeTile E.mx R E.spad acc ha hs fa fb rm sat t c sc ((List.range 256).filter (fun k => !r.stored.contains k))
      .next (((s1.mxRetire u i).putSpad r.eng .matrix R.cross R.place l).modMx r.eng (fun x =>
        if z then { x with acc := zeroTiles x.acc acc (if c then 2 else 1) } else x))
    | _ => .next s

/-- Element `k` of a running MST is stored before the command completes (R244). -/
def State.mstElem (s : State) (u i k : Nat) : State :=
  match s.mxDone u i with
  | none => s
  | some r =>
    match r.cmd.op with
    | .mst acc ha hs fa fb rm sat _ t c sc =>
      if 256 ≤ k || r.stored.contains k then s else
      let (R, s1) := s.mxReads r.eng r.cmd
      let E := s.eng r.eng
      (s1.setRunning u (fun l => modifyAt l i (fun x => { x with stored := k :: x.stored }))).putSpad r.eng .matrix R.cross R.place
        (storeTile E.mx R E.spad acc ha hs fa fb rm sat t c sc [k])
    | _ => s

/-- MBAR_POST (R241). Where both cases that replace the arrival hold, the rejection comes first, and a target engine that runs no context
runs another one (DESIGN CHOICE, log 87). -/
def execMbarPost (u i : Nat) (s : State) : Outcome State Fault Refusal :=
  match s.mxDone u i with
  | none => .next s
  | some r =>
    match r.cmd.op with
    | .mbar b x =>
      let g := 8 * u + (r.eng % 8 ^^^ x)
      let t := s.mxRetire u i
      if (s.eng g).ctx ≠ some r.cmd.ctx then .next (t.mxReject r.eng r.cmd 20 b 0 0)
      else if r.late then .next (t.modEng g (fun E => E.setBar b { E.bar b with overrun := true }))
      else .next (t.barUpdate g b 1 0)
    | _ => .next s

/-! ### Deadlock on entries (R222) -/

/-- The guard, pops and pushes of a matrix word. -/
def mxHdr : Instr → Option Hdr
  | .mldb h _ | .mma h _ | .mmac h _ | .mzero h _ | .mst h _ | .mbar h _ | .mcfgWeight h _ | .mcfgGate h _ | .mcfgClrsat h _ => some h
  | _ => none

/-- The activation waits at the head of its C queue for an entry (R222): it has issued a matrix word there, its segment holds fewer than 16
entries, and nothing ends the segment first. -/
def Act.wantsEntry (a : Act) : Bool :=
  !a.busy && a.faults.isEmpty && decide (a.mxReserved < 16) &&
    match a.qc with
    | [] => false
    | e :: _ =>
      a.stalls.any (fun x => x.1 == e.n) &&
        (match decode e.word with
          | .ok i => (mxHdr i).isSome
          | _ => false)

/-- MATRIX_QUEUE_DEADLOCK (R222): the segment of the waiting activation in the highest slot is discarded and re-queued (R48). -/
def execMatrixQueueDeadlock (g : Nat) (s : State) : Outcome State Fault Refusal :=
  let E := s.eng g
  let acts := (List.range 4).filterMap (fun k => (E.act k).map (fun a => (k, a)))
  let total := (acts.map (fun e => e.2.mxReserved)).sum
  if 16 ≤ total && acts.all (fun e => e.2.mxReserved == 0 || e.2.wantsEntry) then
    match (acts.filter (fun e => e.2.wantsEntry)).getLast? with
    | some (k, _) => .next (s.requeue g k)
    | none => .next s
  else .next s

end Sys2Proof.Machine
end

