-- ==== Sys2Proof/Machine/Start.lean ====
section
/-! DEFINITION. The life of an activation: dispatch (R264, R268, R269), its start (R33, R34, R46), returning loads (R95, R191, R416),
pre-emption and stall eviction (R265, R266). -/

namespace Sys2Proof.Machine

open Host (Outcome)

/-! ### Dispatch -/

/-- Check 4 of R257: a record addressed to an activation finds it in its slot. A re-queued record is not checked again (R48), nor is
one that a fault service has released (DEDUCED, log 82: R50 dispatches it). -/
def Engine.check4 (E : Engine) (m : Msg) : Bool :=
  !m.toAct || m.cause != 0 || (match E.act (actSlot m.target) with
    | some a => a.act % 256 == actGen m.target
    | none => false)

/-- The head of a channel of the current context. -/
def Engine.headOf (E : Engine) (ch : Nat) : Option Entry :=
  E.inbox.find? (fun x => x.slot.isNone && x.msg.ch == ch && some x.msg.ctx == E.ctx)

def Engine.heads (E : Engine) : List Entry := (List.range 8).filterMap E.headOf

/-- An entry is eligible (R264): queued, of the current context, and it passes check 4. -/
def Engine.eligible (E : Engine) (x : Entry) : Bool := x.slot.isNone && some x.msg.ctx == E.ctx && E.check4 x.msg

/-- The context that owns the slot a record names (R30): the occupant's. Of a FREE slot the rule does not say it (DESIGN CHOICE, log 97): the
engine's current context, else the record's. -/
def Engine.slotOwner (E : Engine) (m : Msg) : Nat :=
  match E.act (actSlot m.target) with
  | some a => a.ctx
  | none => E.ctx.getD m.ctx

/-- Heads that fail check 4 are dead-lettered (R30, R257); each leaves the inbox, and a spilled message may take its place. -/
def State.purge (s : State) (g : Nat) : Nat → State
  | 0 => s
  | fuel + 1 =>
    let E := s.eng g
    match E.heads.find? (fun x => !E.check4 x.msg) with
    | none => s
    | some x =>
      match posOf (fun y => y == x) E.inbox with
      | none => s
      | some i =>
        (((s.setEng g { E with inbox := dropAt E.inbox i }).refill g).deadLetter x.msg.sctx (E.slotOwner x.msg)
          (msgInfo 1 x.msg.target)).purge g fuel

/-- The older of two entries; a tie goes to the first, which is the one of the lower channel. -/
def older (x y : Entry) : Entry := if y.arrived < x.arrived then y else x

/-- The head that the dispatcher chooses (R264) among those that pass check 4: the oldest aged one, else that of the lowest channel. -/
def Engine.choose (E : Engine) (age now : Nat) : Option Entry :=
  let l := E.heads.filter (fun x => E.check4 x.msg)
  match l.filter (fun x => age != 0 && x.arrived + age < now) with
  | x :: r => some (r.foldl older x)
  | [] => l.head?

/-- The ACT handle and the sequence number of an activation that starts in a slot (R28, R29). -/
def actHandle (g k count : Nat) : Nat := g * 1024 + k * 256 + count % 256
def actSeq (g k count : Nat) : Nat := actHandle g k count / 256 * 2 ^ 32 + count

/-- The slot takes an entry of the inbox, by position: LOADING (R48). -/
def State.occupy (s : State) (g k i : Nat) : State :=
  let E := s.eng g
  let sl := E.slot k
  let ctx := ((E.inbox[i]?).map (fun x => x.msg.ctx)).getD 0
  -- a record that continues no activation starts a new observer (R369); harts have the even numbers
  let old := ((E.inbox[i]?).map (fun x => x.msg.obs)).getD 0
  let obs := if old = 0 then 2 * s.nextId + 1 else old
  { s with nextId := s.nextId + 1 }.setEng g { E with
    scan := 0, rescan := none,
    inbox := modifyAt E.inbox i (fun x => { x with slot := some k, msg := { x.msg with obs := obs } }),
    slots := E.slots.set k { sl with
      act := some { act := actHandle g k sl.count, ctx := ctx, seq := actSeq g k sl.count, loading := true,
                    dispatched := s.now g, obs := obs } } }

/-- The newest task of the logical deque of the current context (R269), and the state without it; a spilled one comes as its slot of
the ring holds it. -/
def State.popTask (s : State) (g : Nat) : Option (Msg × State) :=
  let E := s.eng g
  match E.deque.getLast? with
  | some m => some (m, s.setEng g { E with deque := E.deque.dropLast })
  | none =>
    match E.ctx with
    | none => none
    | some c =>
      let r := E.ring.get {} c
      r.tasks.getLast?.map (fun m =>
        (s.fromImage ((s.ctx c).deqSlot g (r.base + r.tasks.length - 1)) m,
          s.setEng g { E with ring := E.ring.set c { r with tasks := r.tasks.dropLast } }))

/-- DISPATCH (R264): from the inbox, else from the deque. -/
def execDispatch (g k : Nat) (s : State) : Outcome State Fault Refusal :=
  let E0 := s.eng g
  match E0.ctx with
  | none => .next s
  | some c =>
    if 4 ≤ k || (E0.act k).isSome || (s.ctx c).state != .live || (s.cluster (g / 16)).gated || E0.incoming.isSome then .next s else
    let t := s.purge g (E0.inbox.length + E0.spill.length)
    let E := t.eng g
    match E.choose (t.cluster (g / 16)).age (t.now g) with
    | some x =>
      match posOf (fun y => y == x) E.inbox with
      | some i => .next (t.occupy g k i)
      | none => .next t
    | none =>
      if E.inbox.length < 64 then
        match t.popTask g with
        | some (m, u) =>
          .next ((u.modEng g (fun F => { F with inbox := F.inbox ++ [{ msg := m, arrived := t.now g }] })).occupy g k E.inbox.length)
        | none => .next t
      else .next t

/-! ### Start (R33, R34) -/

/-- The values of two runs in registers: run A first, then run B; g0 is discarded. -/
def loadRuns (g : Sparse (BitVec 64)) (vals : List Nat) (a n b m : Nat) : Sparse (BitVec 64) :=
  let put := fun (g : Sparse (BitVec 64)) (r v : Nat) => if r = 0 then g else g.put 0 r (BitVec.ofNat 64 v)
  let g1 := (List.range n).foldl (fun g i => put g (a + i) (vals.getD i 0)) g
  (List.range m).foldl (fun g i => put g (b + i) (vals.getD (n + i) 0)) g1

/-- The loop levels of a record, outermost first. A level that starts before offset 0 begins modulo 2^48, as a PC does (DESIGN CHOICE,
log 83: R34 does not say). -/
def loopsOf (pc depth : Nat) (words : List Nat) : List Loop :=
  (List.range depth).map (fun i =>
    let w := words.getD i 0
    { start := (pc + 2 ^ 48 - 8 * (w / 2 ^ 48 % 65536)) % 2 ^ 48, len := fieldOf w 47 32, remain := w % 2 ^ 32 })

/-- Each level has a body that holds the PC, and lies within the level outside it (R34), their starts compared as numbers (DESIGN
CHOICE, log 83). -/
def loopsOk (pc : Nat) : List Loop → Bool
  | [] => true
  | l :: r =>
    1 ≤ l.len && (pc + 2 ^ 48 - l.start) % 2 ^ 48 / 8 < l.len &&
      (match r with
        | [] => true
        | x :: _ => l.start ≤ x.start && x.start + 8 * x.len ≤ l.start + 8 * l.len) && loopsOk pc r

/-- The activation as its record starts it (R33), or the PC at which the record breaks a rule of R34. -/
def State.startAct (s : State) (a : Act) (x : Entry) : Except Nat Act :=
  let m := x.msg
  let kind := if m.cause = 0 then m.kind else m.cause
  let base := { a with
    loading := false, kind := kind, status := fieldOf (m.word 1) 55 48, rngReady := false }
  if m.kind = 2 then
    .ok { base with pc := inlineBase, g := loadRuns [] [m.word 14, m.word 15] 1 2 0 0 }
  else
    let pc := if m.kind = 0 then s.rd ((s.ctx m.ctx).handlerTab + 8 * m.handler) 8 % 2 ^ 48 else m.word 1 % 2 ^ 48
    let p := m.word 12
    let (ra, n, rb, k, depth) := (fieldOf p 21 16, fieldOf p 25 22, fieldOf p 31 26, fieldOf p 35 32, fieldOf p 37 36)
    let loops := loopsOf pc depth [m.word 13, m.word 14, m.word 15]
    if pc % 8 ≠ 0 || 10 < n + k || 64 < ra + n || 64 < rb + k || !loopsOk pc loops then .error pc
    else
      let g := loadRuns [] ((List.range 10).map (fun i => m.word (2 + i))) ra n rb k
      .ok { base with
        pc := pc, g := m.vals.foldl (fun g e => if e.1 = 0 then g else g.put 0 e.1 (BitVec.ofNat 64 e.2)) g,
        p := BitVec.ofNat 12 p, loops := loops.reverse }

/-- ACTIVATION_LOAD (R33, R34). -/
def execActivationLoad (g k : Nat) (s : State) : Outcome State Fault Refusal :=
  match s.act g k with
  | none => .next s
  | some a =>
    if !a.loading then .next s else
    match s.startAct a ((s.eng g).entry k) with
    | .ok b => .next (s.setAct g k b)
    | .error pc => .next (s.segmentFault g k a { n := 0, pc := pc, code := 4, info := 0 })

/-- RNG_STATE_READY (R46). -/
def execRngStateReady (g k : Nat) (s : State) : Outcome State Fault Refusal :=
  match s.act g k with
  | none => .next s
  | some a =>
    if a.rngReady || a.loading then .next s else
    let x := jumpTimes 48 jumpMat a.seq (BitVec.ofNat 128 (s.ctx a.ctx).seed)
    .next (s.setAct g k { a with rngReady := true, s0 := x.extractLsb' 0 64, s1 := x.extractLsb' 64 64 })

/-! ### Loads (R95, R191) -/

/-- The bytes of a load reach its register, it leaves its queue, and its pushes are made (R95). -/
def State.finishLoad (s : State) (g k i : Nat) (l : Load) (bytes : List Byte) : State :=
  match s.act g k with
  | none => s
  | some a =>
    s.finish g k (({ a with loads := dropAt a.loads i }).wn l.reg (toRegister l.fmt (elemCode l.fmt l.hi bytes)))
      { q := 0, n := l.n, pc := l.pc, u := l.pushu, d := l.pushd }

/-- The load raises a fault instead, and stays at the head of its queue (R105). -/
def State.failLoad (s : State) (g k i : Nat) (l : Load) (code info addr reason : Nat) (share : Nat := 0) : State :=
  (s.modAct g k (fun a => { a with loads := dropAt a.loads i })).raiseAt g k
    { n := l.n, pc := l.pc, code := code, info := info, addr := addr, reason := reason, share := share }

def Load.size (l : Load) : Nat := fmtBytes l.fmt

/-- The load at position `i` of those in flight; queue A issues the next only when it has completed (R191). -/
def Act.nextLoad (a : Act) (i : Nat) : Option Load := a.loads[i]?

/-- The same once its request has left the shaper (R470). -/
def State.sentLoad (s : State) (a : Act) (i : Nat) : Option Load := (a.nextLoad i).filter (fun l => s.unshaped l.ticket)

/-- The constant cache takes a line (R184): which of its 32 lines it replaces is the device's choice. -/
def State.cacheConst (s : State) (g line : Nat) (bs : List Byte) : State :=
  let (d, t) := s.draw
  t.modEng g (fun E => { E with ccache := (roomFor d 1 32 line E.ccache).set line [bs] })

/-- A constant load from its cached line: one of the values that the line may return (R194). -/
def State.constRead (s : State) (g line : Nat) : Option (List Byte) × State :=
  match (s.eng g).ccache.find line with
  | some (v :: vs) => let (d, t) := s.draw; (some ((v :: vs).getD (d % (vs.length + 1)) v), t)
  | _ => (none, s)

/-- The load reads bytes of a view: the view's slice serves it (R415), and no cached line does. -/
def State.viewLoad (s : State) (l : Load) : Bool :=
  match l.tgt with
  | .dpa p _ => !(s.viewBlocks p l.size).isEmpty
  | .remote _ _ => false

/-- LOAD_RETURN (R95, R191): `party` says that the cluster cache already holds the party's other writes; `code` and `data` are a
peer's answer (R477). A miss brings the line to the cache that the load goes through (R193, R194). -/
def execLoadReturn (g k i : Nat) (party : Bool) (code data : Nat) (s : State) : Outcome State Fault Refusal :=
  match s.act g k with
  | none => .next s
  | some a =>
    match s.sentLoad a i with
    | none => .next s
    | some l =>
      let n := l.size
      if s.viewLoad l then .next s else
      match (if l.const then s.constRead g (l.va / 128) else (none, s)) with
      | (some line, t) => .next (t.finishLoad g k i l ((line.drop (l.va % 128)).take n))
      | (none, _) =>
        match s.routeFault a.ctx (g / 16) (g % 16) l.tgt with
        | some info => .next ((s.hopFault info).failLoad g k i l 15 info l.va 0)
        | none =>
          match s.rePort l.va l.tgt l.port with
          | .remote _ _ =>
            let x := remoteCode (code % 32)
            if x = 0 then .next (s.finishLoad g k i l (toLE n data))
            else .next (s.failLoad g k i l x (s.remoteInfo a.ctx l.tgt code l.va) l.va (remoteReason code) (remoteShare code))
          | .dpa p key =>
            if s.hostGone p then .next (s.failLoad g k i l 18 l.va l.va 0)
            else
              let o := engineSeer g a.ctx
              let s := if party then s.seenNow o p n else s
              let (from_, size) := if l.const then (p / 128 * 128, 128) else (p, n)
              if s.heldFrom o from_ size then .next s else
              match s.findsBad from_ size 1 a.ctx with
              | some t => .next t
              | none =>
              match s.recall (g / 16) a.ctx from_ size false false with
              | none => .next s
              | some t =>
                let (bs, t) := t.observe o from_ size key
                if l.const then
                  .next ((t.cacheConst g (l.va / 128) bs).finishLoad g k i l ((bs.drop (l.va % 128)).take n))
                else .next ((if l.alloc then t.cacheData g (p / 128) else t).finishLoad g k i l bs)

/-- VIEW_READ (R415, R416): a load of view bytes is served under its policy, or waits; a pin that no longer stands re-queues the record.
A VIEW_FAULT carries the info word of R420, which R220 gives otherwise (DESIGN CHOICE, log 74). -/
def execViewRead (g k i : Nat) (s : State) : Outcome State Fault Refusal :=
  match s.act g k with
  | none => .next s
  | some a =>
    match s.sentLoad a i with
    | none => .next s
    | some l =>
      match l.tgt with
      | .remote _ _ => .next s
      | .dpa p key =>
        let blocks := s.viewBlocks p l.size
        if blocks.isEmpty then .next s else
        match s.routeFault a.ctx (g / 16) (g % 16) l.tgt with
        | some info => .next ((s.hopFault info).failLoad g k i l 15 info l.va 0)
        | none =>
          match s.serveAll (engineSeer g a.ctx) l.policy blocks a.pins with
          | (.wait, t) => .next t
          | (.gone, t) =>
            -- a fault that the segment has raised comes first (R51)
            .next (if a.mayNot then (t.modAct g k (fun a => { a with loads := dropAt a.loads i, blocked := 0 :: a.blocked })).settle g k
              else t.requeue g k)
          | (.fault info, t) => .next (t.failLoad g k i l 17 info l.va 0)
          | (.ok pins, t) =>
            let (bs, t) := t.versionBytes pins p l.size key
            .next ((t.modAct g k (fun a => { a with pins := pins })).finishLoad g k i l bs)

/-! ### Pre-emption and eviction (R265, R266) -/

/-- An entry of a channel at most `ch` is eligible. -/
def Engine.waiting (E : Engine) (ch : Nat) : Bool := E.inbox.any (fun x => E.eligible x && x.msg.ch ≤ ch)

/-- The running activation that R265 chooses: the highest channel, the latest dispatch among equals. -/
def Engine.victim (E : Engine) : Option Nat :=
  let c := (List.range 4).filterMap (fun k => (E.act k).bind (fun a =>
    if a.loading || (E.entry k).msg.ch = 0 then none else some (k, (E.entry k).msg.ch, a.dispatched)))
  (c.foldl (fun (r : Option (Nat × Nat × Nat)) x => match r with
    | none => some x
    | some y => if y.2.1 < x.2.1 || (y.2.1 = x.2.1 && y.2.2 < x.2.2) then some x else some y) none).map (·.1)

/-- PREEMPTION (R265). -/
def execPreemption (g : Nat) (s : State) : Outcome State Fault Refusal :=
  let E := s.eng g
  if E.waiting 0 && (List.range 4).all (fun k => (E.act k).isSome) then
    match E.victim with
    | some k => .next (s.preempt g k)
    | none => .next s
  else .next s

/-- The head of the queue waits where R266 counts: BWAIT, a copy slot, a matrix queue entry. -/
def Act.evictWait (a : Act) (q : Nat) : Bool :=
  match a.queue q with
  | [] => false
  | e :: _ =>
    match decodeEntry e.word e.pfx with
    | .ok (.bwait h _) | .ok (.cpy h _) | .ok (.cpym h _) => a.canPop q h && condTrue h.guard a
    | .ok i =>
      match mxHdr i with
      | some h => a.canPop q h && condTrue h.guard a
      | none => false
    | _ => false

/-- STALL_EVICTION (R266). -/
def execStallEviction (g k : Nat) (s : State) : Outcome State Fault Refusal :=
  let E := s.eng g
  let lim := (s.cluster (g / 16)).stall
  match E.act k with
  | none => .next s
  | some a =>
    let stalled := [0, 1, 2].any (fun q => a.evictWait q && (match a.queue q with
      | [] => false
      | e :: _ => a.stalls.any (fun x => x.1 == e.n && x.2 + lim < s.now g)))
    if lim ≠ 0 && stalled && !a.mayNot && E.waiting (E.entry k).msg.ch then .next (s.requeue g k) else .next s

end Sys2Proof.Machine
end

