-- ==== Sys2Proof/Machine/Agent.lean ====
section
/-! DEFINITION. The cluster agent: arriving messages (R257, R279, R280, R289), stealing (R270), context switches (R211, R250, R281,
R282), arriving future operations (R272 to R277, R291, R294), the call queue (R315, R396) and waiter deadlines (R276). -/

namespace Sys2Proof.Machine

open Host (Outcome)

/-! ### Releases (R370) -/

/-- The observer that a signal comes from. -/
def Source.seer (src : Source) (ctx : Nat) : Option Seer :=
  match src with
  | .engine c e => some (engineSeer (16 * c + e) ctx)
  | .hart h => some (hartSeer h ctx)
  | _ => none

/-- An effect performed before a signal, which its release covers. -/
def InFlight.before (f : InFlight) (o : Seer) (cover : Nat) : Bool := decide (f.id < cover) && f.seen o

/-- The release of a signal from `src` that arrives in cluster `c` (R370): the state after it, or nothing while it waits. In the sender's
own cluster what it covers is complete at the cluster cache; `wide` asks for PKG, where what the party has written is home too (R417). -/
def State.released (s : State) (src : Source) (ctx cover c : Nat) (wide : Bool) : Option State :=
  match src.seer ctx with
  | some o =>
    if o.cl = c && !wide then some (s.completeFor (fun f => f.before o cover) (2 ^ c))
    else if s.inflight.any (fun f => f.before o cover && !f.tgt.isRemote) then none else some (s.homeward o)
  | none => some s

/-- A signal that leaves the device is a release at POD: an effect that it covers, remote ones among them, is still on its way. -/
def State.owesPod (s : State) (src : Source) (ctx cover : Nat) : Bool :=
  (src.seer ctx).any (fun o => s.inflight.any (fun f => f.before o cover))

/-! ### Arriving messages (R257) -/

/-- A packet may not pass an earlier one of its source, route, TC and class (R262, R468). -/
def State.packetFirst (s : State) (i : Nat) : Option Packet :=
  match s.packets[i]? with
  | none => none
  | some p =>
    if (s.packets.take i).any (fun q =>
        q.src == p.src && q.place == p.place && q.route == p.route && q.ptr == p.ptr && q.tc == p.tc && q.cls == p.cls) then none
    else some p

def State.dropPacket (s : State) (i : Nat) : State := { s with packets := dropAt s.packets i }

/-- The message comes from within its context (R280). -/
def Msg.within (m : Msg) : Bool := m.sctx = m.ctx && m.src ≠ 1 && m.src ≠ 2 && m.src ≠ 3

/-- The record of a message for a context that is gone (R280): none from within the context. -/
def State.msgGone (s : State) (m : Msg) : State := if m.within then s else s.contextGone m.sctx (msgInfo 0 m.target)

/-- A message that arrives in a cycle still open is remembered, in case its context is torn down in it (R280). -/
def State.noteArrival (s : State) (m : Msg) : State :=
  if s.sameCycle && !m.within then { s with arrivals := s.arrivals ++ [(m.ctx, m.sctx, msgInfo 0 m.target)] } else s

/-- Check 5 of R257: the handler table entry is valid. -/
def State.handlerOk (s : State) (m : Msg) : Bool :=
  m.kind != 0 || bitOf (s.rd ((s.ctx m.ctx).handlerTab + 8 * m.handler) 8) 63

/-- The arrival checks of R257 on a message that reached cluster `c`, engine `e` where it came by an engine's port. -/
def State.accept (s : State) (c : Nat) (e : Option Nat) (m : Msg) : State :=
  let g := actEngine m.target
  let dead (r : Nat) : State := s.deadLetter m.sctx (if r = 1 then (s.eng g).slotOwner m else m.ctx) (msgInfo r m.target)
  if m.kind = 3 || 6 ≤ m.src then dead 3
  else if g / 16 ≠ c || e.any (fun e => g % 16 != e) then dead 2
  else if !(s.ctx m.ctx).exists then s.msgGone m
  else if !(s.eng g).check4 m then dead 1
  else if !s.handlerOk m then dead 9
  else (s.noteArrival m).enqueue g m

/-- Entries of the inbox in use. -/
def Engine.load (E : Engine) : Nat := E.inbox.length

/-- The engine of a list with the fewest entries in use, the lowest number among equals. -/
def State.leastLoaded (s : State) : List Nat → Option Nat
  | [] => none
  | g :: r =>
    match s.leastLoaded r with
    | none => some g
    | some h => some (if (s.eng h).load < (s.eng g).load then h else g)

/-- A migrated continuation is placed (R289): on an engine that runs its context, or on the least-loaded one with STATUS 5. -/
def State.placeMigrated (s : State) (c : Nat) (m : Msg) : State :=
  let all := (List.range 16).map (fun e => 16 * c + e)
  let put (g : Nat) (m : Msg) : State :=
    s.accept c none (m.setWord 0 (setField m.hdr 53 50 (g % 16)))
  match s.leastLoaded (all.filter (fun g => (s.eng g).ctx == some m.ctx)) with
  | some g => put g m
  | none => put ((s.leastLoaded all).getD (16 * c)) (m.withStatus 5)

/-- MESSAGE_ARRIVAL (R257): the packet at position `i` has reached its endpoint. A message that ends at an endpoint that takes none is
MISROUTED. -/
def execMessageArrival (i : Nat) (s : State) : Outcome State Fault Refusal :=
  match s.packetFirst i with
  | none => .next s
  | some p =>
    match p.place with
    | .endpoint sw port =>
      let t := s.dropPacket i
      match p.body with
      | .routeFault _ _ (.msg m) => .next (t.deadLetter m.sctx m.ctx (msgInfo 10 m.target))
      | .routeFault _ _ (.migrated m) => .next (t.deadLetter m.sctx m.ctx (msgInfo 10 m.target))
      | .routeFault _ _ (.future h _) => .next (t.deadLetter p.ctx p.ctx (futInfo 10 h))
      | .migrated m =>
        if (s.cluster sw).gated then .next s else
        match t.released p.src p.ctx p.cover sw false with
        | none => .next s
        | some t => .next (t.placeMigrated sw m)
      | .msg m =>
        if sw < 1024 && (port < 16 || port = 20) then
          if (s.cluster sw).gated then .next s else
          match t.released p.src p.ctx p.cover sw false with
          | none => .next s
          | some t => .next (t.accept sw (if port = 20 then none else some port) m)
        else .next (t.deadLetter m.sctx m.ctx (msgInfo 2 m.target))
      | .routeFault _ _ _ => .next t
      | _ => .next s
    | _ => .next s

/-! ### Stealing (R270) -/

/-- The victim at a position of engine `g`'s scan for a steal domain. -/
def victimAt (g dom pos : Nat) : Option Nat :=
  let c := g / 16
  let d := c / 256
  if pos < 15 then some (16 * c + (g % 16 + 1 + pos) % 16)
  else
    let i := pos - 15
    if i < 4080 then
      (if dom = 0 then none else some (16 * (256 * d + (c % 256 + 1 + i / 16) % 256) + i % 16))
    else
      let j := i - 4080
      if dom ≠ 2 || 12288 ≤ j then none
      else some (16 * (256 * ((d + 1 + j / 4096) % 4) + j % 4096 / 16) + j % 16)

/-- The oldest task of the logical deque of context `c`, current on engine `g`, and the state without it (R269). -/
def State.stealTask (s : State) (g c : Nat) : Option (Msg × State) :=
  let E := s.eng g
  let r := E.ring.get {} c
  match r.tasks with
  | m :: l => some (s.fromImage ((s.ctx c).deqSlot g r.base) m, s.setEng g { E with ring := E.ring.set c { base := r.base + 1, tasks := l } })
  | [] =>
    match E.deque with
    | m :: l => some (m, s.setEng g { E with deque := l })
    | [] => none

/-- Context `c`, current on the engine, has no task there. -/
def Engine.noTask (E : Engine) (c : Nat) : Bool := E.deque.isEmpty && (E.ring.get {} c).tasks.isEmpty

/-- The conditions under which an engine steals, and its context (R270). -/
def State.mayScan (s : State) (g : Nat) : Option Nat :=
  let E := s.eng g
  match E.ctx with
  | none => none
  | some c =>
    if (s.ctx c).state == .live && !(s.cluster (g / 16)).gated && (List.range 4).any (fun k => (E.act k).isNone) &&
        !E.inbox.any E.eligible && E.noTask c && E.inbox.length < 64 && E.incoming.isNone
    then some c else none

/-- STEAL (R270): one steal request, to the victim next in the scan. -/
def execSteal (g : Nat) (s : State) : Outcome State Fault Refusal :=
  match s.mayScan g with
  | none => .next s
  | some c =>
    let E := s.eng g
    if E.rescan.isSome then .next s else
    match victimAt g (s.ctx c).steal E.scan with
    | none => .next (s.setEng g { E with scan := 0, rescan := some (s.now g) })
    | some v =>
      let pass : State := s.setEng g { E with scan := E.scan + 1 }
      if (s.eng v).ctx ≠ some c then .next pass else
      match s.stealTask v c with
      | none => .next pass
      | some (m, u) =>
        match u.released (engineSource v) c m.cover (g / 16) ((s.ctx c).steal != 0) with
        | none => .next s
        | some t =>
          .next ((t.active (g / 16)).modEng g (fun E => { E with scan := 0, inbox := E.inbox ++ [{ msg := m, arrived := t.now g }] }))

/-- STEAL_RESCAN (R270). -/
def execStealRescan (g : Nat) (s : State) : Outcome State Fault Refusal :=
  let E := s.eng g
  match E.rescan with
  | none => .next s
  | some t =>
    if t + 64 ≤ s.now g && (s.mayScan g).isSome then .next (s.setEng g { E with scan := 0, rescan := none }) else .next s

/-! ### Context switches (R281) -/

/-- An entry of the context could be dispatched if the context were current. -/
def Engine.wants (E : Engine) (ctx : Nat) : Bool := E.inbox.any (fun x => x.slot.isNone && x.msg.ctx == ctx && E.check4 x.msg)

/-- The current context has nothing runnable: no activation, no eligible entry and no task; or it may not run. -/
def State.nothingRuns (s : State) (g : Nat) : Bool :=
  let E := s.eng g
  match E.ctx with
  | none => true
  | some c =>
    (s.ctx c).state != .live ||
      ((List.range 4).all (fun k => (E.act k).isNone) && !E.inbox.any E.eligible && E.noTask c)

/-- The outgoing context's copies have finished or only hold pages (R211), its granted matrix commands have completed (R250), and no
activation runs (R281). -/
def State.mayLeave (s : State) (g : Nat) : Bool :=
  let E := s.eng g
  E.copies.all (fun c => some c.ctx != E.ctx || (!c.issuing && c.replay.isEmpty && c.flying.isEmpty)) &&
    (s.unit (unitOf g)).running.all (fun r => r.eng != g) && (List.range 4).all (fun k => (E.act k).isNone)

/-- Every running activation is discarded and its record held (R48, R281), but for one that has raised a fault or performs its effects:
that comes first (R51). -/
def State.requeueAll (s : State) (g : Nat) : State :=
  (List.range 4).foldl (fun t k => t.preempt g k) s

/-! #### The SAVE area (R250, R282, R395): scratchpad, accumulators, barriers, matrix state. Its layout is the model's (log 81). -/

/-- Memory with `n` bytes from `a` on replaced by those of a sparse map that starts at 0. -/
def putArea (m : Sparse Byte) (a n : Nat) (x : Sparse Byte) : Sparse Byte :=
  (x.filter (fun e => e.1 < n)).foldl (fun m e => m.put 0 (a + e.1) e.2) (m.filter (fun e => e.1 < a || a + n ≤ e.1))

/-- The `n` bytes from `a` on as a sparse map that starts at 0. -/
def takeArea (m : Sparse Byte) (a n : Nat) : Sparse Byte :=
  (m.filter (fun e => a ≤ e.1 && e.1 < a + n)).map (fun e => (e.1 - a, e.2))

/-- A matrix command as numbers: its kind, its context, its gate, and its operands. -/
def MxCmd.nums (c : MxCmd) : List Nat :=
  let b := fun (x : Bool) => bit x
  (match c.op with
    | .mldb ws fb mj ha hs => [1, ws, fb, b mj, ha, hs]
    | .mma acc ws ha hs fa fb rm sat z => [2, acc, ws, ha, hs, fa, fb, rm, b sat, b z]
    | .mmac acc ws ha fa fb sat z cj => [3, acc, ws, ha, fa, fb, b sat, b z, b cj]
    | .mzero acc n => [4, acc, n]
    | .mst acc ha hs fa fb rm sat z t k sc => [5, acc, ha, hs, fa, fb, rm, b sat, b z, b t, b k, b sc]
    | .mbar bar x => [6, bar, x]
    | .weight v => [7, v]
    | .gate i bar t => [8, i, bar, t]
    | .clrsat m => [9, m]) |> fun l => [c.ctx, (c.gate.map (· + 1)).getD 0] ++ l

/-- The command that numbers stand for. -/
def MxCmd.ofNums (l : List Nat) : Option MxCmd :=
  let x := fun (i : Nat) => l.getD (i + 2) 0
  let b := fun (i : Nat) => x i % 2 == 1
  let op : Option MxOp := match x 0 with
    | 1 => some (.mldb (x 1) (x 2) (b 3) (x 4) (x 5))
    | 2 => some (.mma (x 1) (x 2) (x 3) (x 4) (x 5) (x 6) (x 7) (b 8) (b 9))
    | 3 => some (.mmac (x 1) (x 2) (x 3) (x 4) (x 5) (b 6) (b 7) (b 8))
    | 4 => some (.mzero (x 1) (x 2))
    | 5 => some (.mst (x 1) (x 2) (x 3) (x 4) (x 5) (x 6) (b 7) (b 8) (b 9) (b 10) (b 11))
    | 6 => some (.mbar (x 1) (x 2))
    | 7 => some (.weight (x 1))
    | 8 => some (.gate (x 1) (x 2) (x 3))
    | 9 => some (.clrsat (x 1))
    | _ => none
  op.map (fun o => { op := o, ctx := l.getD 0 0, gate := if l.getD 1 0 = 0 then none else some (l.getD 1 0 - 1) })

/-- SAVE for engine `g` (R395). -/
def Ctx.saveArea (x : Ctx) (g : Nat) : Nat := x.field 104 8 % 2 ^ 48 + 147456 * g

/-- The matrix state and the barriers as numbers of 32 bytes each, from byte 131,072 of the area on. -/
def Engine.saveNums (E : Engine) : List Nat :=
  [E.mx.weight, E.mx.satm.toNat, bit E.mx.rej, bit E.mx.rejSince] ++
    (List.range 4).map (fun i => (E.mx.gates.get (0, 0) i).1 + 256 * (E.mx.gates.get (0, 0) i).2) ++
    (List.range 96).map (fun i =>
      let b := (E.bars.get {} i).settle
      b.phase + 2 ^ 32 * b.expect + 2 ^ 48 * b.arr + 2 ^ 64 * wrapTo 40 b.pend + 2 ^ 104 * bit b.overrun) ++
    [E.mx.queue.length] ++ (E.mx.queue.map (fun c => (c.nums ++ List.replicate 14 0).take 14)).flatten

/-- A barrier from its number; its reset value is not listed. -/
def barOf (v : Nat) : Bar :=
  { phase := v % 2 ^ 32, expect := fieldOf v 47 32, arr := fieldOf v 63 48, pend := signed 40 (fieldOf v 103 64), overrun := bitOf v 104 }

/-- Step 3 of R281: the outgoing context's scratchpad, barriers and matrix state go to its SAVE area, and its tasks to the ring, where one
that finds no room is dropped as R269 drops it (DESIGN CHOICE, log 45). -/
def State.saveEngine (s : State) (g : Nat) : State :=
  let E := s.eng g
  match E.ctx with
  | none => s
  | some c =>
    let a := (s.ctx c).saveArea g
    let acc := E.mx.acc.foldl (fun (m : Sparse Byte) e => putBytes m (4 * e.1) (toLE 4 e.2.toNat)) []
    let m1 := putArea (putArea s.mem a 98304 E.spad) (a + 98304) 32768 acc
    let m2 := putBytes m1 (a + 131072) ((E.saveNums.map (toLE 32)).flatten)
    let t := ({ s with mem := m2 } : State).modEng g (fun E => { E with
      saved := if E.saved.contains c then E.saved else c :: E.saved, ctx := none, deque := [] })
    -- no context is current now, so the tasks go to the ring (R268)
    E.deque.foldl (fun (t : State) m => t.pushTask g m) t

/-- The matrix state that a SAVE area of a context holds: its commands are the context's (R395). -/
def State.savedMx (s : State) (ctx a : Nat) : Mx :=
  let v := fun (i : Nat) => s.rd (a + 131072 + 32 * i) 32
  let acc := (takeArea s.mem (a + 98304) 32768).foldl (fun (m : Sparse (BitVec 32)) e =>
    m.put 0 (e.1 / 4) (m.get 0 (e.1 / 4) + BitVec.ofNat 32 (e.2.toNat * 256 ^ (e.1 % 4)))) []
  { acc := acc, weight := v 0 % 16, credit := v 0 % 16, satm := BitVec.ofNat 32 (v 1), rej := bitOf (v 2) 0, rejSince := bitOf (v 3) 0
    gates := (List.range 4).filterMap (fun i => if v (4 + i) = 0 then none else some (i, (v (4 + i) % 128, v (4 + i) / 256 % 2 ^ 32))),
    queue := (List.range (min 16 (v 104))).filterMap (fun i => 
      (MxCmd.ofNums ((List.range 14).map (fun j => v (105 + 14 * i + j)))).map (fun c => { c with ctx := ctx })) }

/-- The barriers that a SAVE area holds. -/
def State.savedBars (s : State) (a : Nat) : Sparse Bar :=
  (List.range 96).filterMap (fun i =>
    let b := barOf (s.rd (a + 131072 + 32 * (8 + i)) 32)
    if b = {} then none else some (i, b))

/-- Step 5 of R281: the incoming context's state comes from its SAVE area, or is fresh; the caches are invalid, and the matrix credit
starts at the weight. -/
def State.loadEngine (s : State) (g ctx : Nat) : State :=
  let a := (s.ctx ctx).saveArea g
  s.modEng g (fun E =>
    let old := E.saved.contains ctx
    { E with
      spad := if old then takeArea s.mem a 98304 else [], bars := if old then s.savedBars a else [], mx := if old then s.savedMx ctx a else {},
      saved := E.saved.filter (fun c => c != ctx), ctx := some ctx, incoming := none, since := s.now g,
      past := [], copies := E.copies.map (fun c => { c with since := modifyAt c.since (g % 16) (fun _ => 0) }), deque := [], icache := [], ccache := [], dcache := [], scan := 0, rescan := none })

/-- CONTEXT_SWITCH (R281): dispatch stops and the running activations are discarded; once none is left and the copies and granted matrix
commands have finished, the state of the outgoing context is saved and that of the incoming one loaded. -/
def execContextSwitch (g ctx : Nat) (s : State) : Outcome State Fault Refusal :=
  let E := s.eng g
  let x := s.cluster (g / 16)
  let slice := x.slice != 0 && decide (E.since + x.slice * 2 ^ 16 ≤ s.now g)
  let starts := E.incoming.isNone && decide (E.ctx ≠ some ctx) && (s.ctx ctx).state == .live && !x.gated && E.wants ctx &&
    (slice || s.nothingRuns g)
  if E.incoming = some ctx && (s.ctx ctx).state != .live then .next (s.setEng g { E with incoming := none })
  else if starts || E.incoming = some ctx then
    let t := (s.requeueAll g).modEng g (fun E => { E with incoming := some ctx })
    .next (if t.mayLeave g then ((t.saveEngine g).loadEngine g ctx).refillAll g 64 else t)
  else .next s

/-! ### Call queues (R315, R396) -/

/-- What a device access to a ring of window 0 gives; a write that waits names its granule. -/
inductive RingRes where
  | ok (s : State)
  | fails (s : State)
  | wait (gr : Nat)
  deriving Repr

/-- The record of a failed access to a ring (R396). -/
def State.structFault (s : State) (ctx va : Nat) (x : XFault) : State :=
  s.append ctx { code := x.code, src := 6, struct := true, info := if x.code = 7 then 0 else va, addr := va, reason := x.reason, share := x.share }

/-- The device writes bytes of one granule at an address of window 0 (R396). -/
def State.ringWrite (s : State) (ctx va : Nat) (bs : List Byte) : RingRes :=
  match s.translate ctx .w va bs.length with
  | (.bad x, t) => .fails (t.structFault ctx va x)
  | (.ok (.dpa a key) _, t) =>
    match t.allowWrite hubParty ctx a bs.length false with
    | none => .wait (a / 128)
    | some t => .ok (t.writeAt { ctx := ctx } a key bs)
  | (.ok (.remote _ _) _, t) => .fails t

/-- The descriptor of a call queue: base, ring size, HEAD, TAIL. -/
structure CallQ where
  base : Nat
  log  : Nat
  head : Nat
  tail : Nat
  deriving DecidableEq, Repr

def State.callQ (s : State) (ctx : Nat) : CallQ :=
  let d := (s.ctx ctx).cqDesc
  { base := s.rd d 8 % 2 ^ 48, log := fieldOf (s.rd d 8) 52 48, head := s.rd (d + 8) 4, tail := s.rd (d + 12) 4 }

/-- A ring that the layout of R315 allows. -/
def CallQ.formed (q : CallQ) : Bool := q.base % 64 == 0 && q.log ≤ 16
def CallQ.used (q : CallQ) : Nat := (q.tail + 2 ^ 32 - q.head) % 2 ^ 32
def CallQ.slot (q : CallQ) (i : Nat) : Nat := q.base + 64 * (i % 2 ^ q.log)

/-- Appends a call record, then TAIL, then the doorbell (R315). -/
def State.callAppend (s : State) (ctx : Nat) (rcd : List Byte) : RingRes :=
  let q := s.callQ ctx
  let d := (s.ctx ctx).cqDesc
  if !q.formed || 2 ^ q.log ≤ q.used then .fails s else
  match s.ringWrite ctx (q.slot q.tail) rcd with
  | .ok t =>
    let tail := (q.tail + 1) % 2 ^ 32
    let t := t.wrHome (d + 12) 4 tail
    let bell := t.rd (d + 16) 4
    .ok (if bell = 0 then t else t.sendFut .hub ctx bell (.resolve tail))
  | r => r

/-! ### Arriving future operations (R272) -/

/-- The ROUTE fault of an operation on the future's entry that a source waits for (R271, R467). -/
def State.futRoute (s : State) (src : Source) (c : Nat) : Option Nat :=
  match s.walkRoute (src.agentRoute c) 19 0 src.entry.1 src.entry.2 with
  | .fault i => some i
  | _ => none

/-- The entry remembers a release that is complete at its own cluster alone (R370). -/
def State.coverFut (s : State) (src : Source) (ctx cover hd : Nat) : State :=
  match src.seer ctx with
  | some o => if s.inflight.any (fun f => f.before o cover) then
      let f := s.fut hd
      s.setFut hd { f with cover := max f.cover cover }
    else s
  | none => s

/-- Performs a future operation at its agent (R272, R274, R275, R277, R294): the state after it, or the granule for whose write it
waits. -/
def State.applyFut (s : State) (p : Packet) (h : Nat) (op : FutOp) : Except Nat State :=
  let dead (t : State) (r : Nat) : State := t.deadLetter p.ctx p.ctx (futInfo r h)
  match s.findFut h p.ctx with
  | none => .ok (dead s 8)
  | some f =>
    let live := f.state == .live
    let covered := s.coverFut p.src p.ctx p.cover h
    match op with
    | .resolve v => .ok (if live then covered.resolveFut h (some v) else dead s 6)
    | .dec n flt => .ok (if live then covered.decFut h n flt else dead s 6)
    | .inc n => .ok (if live then s.setFut h { f with count := signed 32 (wrapTo 32 (f.count + n)) } else dead s 6)
    | .free => .ok (s.freeFut h)
    | .bind pq rcd =>
      if !live then .ok (dead s 6) else
      match (s.setFut h { f with pq := some pq }).callAppend p.ctx rcd with
      | .ok t => .ok t
      | .fails t => .ok (dead (t.lapseFut h 3) 7)
      | .wait gr => .error gr

/-- FUTURE_OPERATION_ARRIVAL (R272): the packet at position `i` has reached the agent. -/
def execFutureOperationArrival (i : Nat) (s : State) : Outcome State Fault Refusal :=
  match s.packetFirst i with
  | none => .next s
  | some p =>
    match p.body, p.place with
    | .future h op, .endpoint _ _ =>
      let c := hCluster h
      if (s.cluster c).gated then .next s else
      let t := s.dropPacket i
      if !(s.ctx p.ctx).exists then .next t else
      let wide := (match op with
        | .bind _ _ => true
        | _ => false) || ((s.findFut h p.ctx).any (fun f => f.farWaiter c))
      match t.released p.src p.ctx p.cover c wide with
      | none => .next s
      | some t =>
        match t.applyFut p h op with
        | .error gr => .next (s.wantPt gr)
        | .ok t => .next t
    | _, _ => .next s

/-- WAITER_DEADLINE (R276): the deadline of waiter `i` of entry `ix` of cluster `c` has passed. -/
def execWaiterDeadline (c ix i : Nat) (s : State) : Outcome State Fault Refusal :=
  let f := s.futAt c ix
  let h := mkHandle c ix f.gen
  match f.waiters[i]? with
  | none => .next s
  | some w =>
    -- in a cycle that is still open a resolution wins (R276)
    if !w.deadline.any (fun d => d ≤ s.hubTime) || f.state != .live || s.sameCycle then .next s
    else if w.lapse then .next (s.lapseFut h 1)
    else .next ((s.setFut h { f with waiters := dropAt f.waiters i }).deliver c f.ctx w 1 f.value)

end Sys2Proof.Machine
end

