-- ==== Sys2Proof/Machine/Causeway.lean ====
section
/-! DEFINITION. The Causeway map (R473, R474) and the home route tables of boot (R393), as the device writes them to memory. -/

namespace Sys2Proof.Machine

/-! ### Records of the map (R473) -/

def switchCount : Nat := 1185
/-- Bytes of the map (R445). -/
def mapBytes : Nat := 2048 + 2112 * switchCount

/-- The map of boot: SEQ 0, no doorbells, every record. -/
def State.writeMap (s : State) : State :=
  let head := s.wrBytes s.hub.cwm (toLE 8 0 ++ toLE 2 s.hub.devid ++ toLE 2 switchCount ++ List.replicate 2036 0)
  (List.range switchCount).foldl (fun t sw =>
    (List.range 64).foldl (fun t p => (t.writePort sw false p).writePort sw true p) (t.writeHeader sw)) head

/-! ### Updates (R474) -/

/-- The doorbells of the LIVE contexts are resolved with SEQ. -/
def State.ringDoorbells (s : State) (seq : Nat) : State :=
  (List.range 256).foldl (fun t c =>
    let h := t.rd (t.hub.cwm + 256 + 4 * c) 4
    if (t.ctx c).state = .live && h ≠ 0 then t.sendFut .hub c h (.resolve seq) else t) s

/-- An update of the records of one port and its switch, in three steps, and the doorbells. -/
def State.mapUpdate (s : State) (sw : Nat) (up : Bool) (p : Nat) : State :=
  if s.hub.bootState ≠ 3 then s else
  let seq := s.rd s.hub.cwm 8
  let t := s.wr s.hub.cwm 8 ((seq + 1) % 2 ^ 64)
  let t := (t.writeHeader sw).writePort sw up p
  (t.wr s.hub.cwm 8 ((seq + 2) % 2 ^ 64)).ringDoorbells ((seq + 2) % 2 ^ 64)

/-- The Nalornaz port of link `k` changes, and the map with it. -/
def State.setLinkPort (s : State) (k : Nat) (x : Port) : State :=
  ({ s with ports := s.ports.set (linkKey k) x } : State).mapUpdate 1184 true (32 + k)

def State.linkPort (s : State) (k : Nat) : Port := s.ports.get {} (linkKey k)

/-! ### Home route tables (R393) -/

/-- The boot entry of cluster `c` for home `h`; the planes of the way to a home of the hub die are the device's choice. -/
def bootRoute (c h pick : Nat) : Nat :=
  if h < 128 then
    let d := h / 32
    let r := h % 32 / 4
    let q := r / 4
    let u := r % 4
    if d = c / 256 then mkRoute 2 [24 + q, 16 + u, 16 + h % 4] 3 else mkRoute 3 [24 + q, 16 + u, 20, 8 * d + r, 16 + h % 4] 3
  else mkRoute 3 [24 + pick % 2, 16 + pick / 2 % 4, 20, h - 96] 3

/-- The tables of every cluster. -/
def State.writeRoutes (s : State) : State :=
  (List.range (1024 * 146)).foldl (fun t i =>
    let (d, t) := t.draw
    t.wr (t.hub.hrt + 16 * i) 16 (bootRoute (i / 146) (i % 146) d)) s

end Sys2Proof.Machine
end

