-- ==== Sys2Proof/Machine/Hash.lean ====
section
/-! DEFINITION. SHA-512 (R441, R446, R493; FIPS 180-4) and Ed25519 verification (R441; RFC 8032 with the choices of R441): the cofactored
equation, S below the group order, canonical encodings. -/

namespace Sys2Proof.Machine

/-! ### SHA-512 -/

/-- The greatest number of at most `bits` more binary digits below `r` whose `e`-th power does not exceed `n`. -/
def rootFrom (e n : Nat) : Nat → Nat → Nat
  | 0, r => r
  | bits + 1, r => rootFrom e n bits (if (r + 2 ^ bits) ^ e ≤ n then r + 2 ^ bits else r)

/-- The primes below a bound. -/
def primesBelow (n : Nat) : List Nat :=
  (List.range n).filter (fun p => 2 ≤ p && (List.range p).all (fun d => d < 2 || p % d != 0))

/-- The first 64 bits of the fractional part of the `e`-th root of a prime. -/
def rootWord (e p : Nat) : BitVec 64 := BitVec.ofNat 64 (rootFrom e (p * 2 ^ (64 * e)) 70 0)

/-- The initial hash value: from the square roots of the first eight primes. -/
def shaIv : List (BitVec 64) := (primesBelow 20).map (rootWord 2)
/-- The round constants: from the cube roots of the first eighty. -/
def shaK : List (BitVec 64) := (primesBelow 410).map (rootWord 3)

/-- The exclusive or of a word's rotations by the amounts of a list. -/
def rotations (x : BitVec 64) (l : List Nat) : BitVec 64 := l.foldl (fun y n => y ^^^ x.rotateRight n) 0

/-- The number whose bytes, most significant first, are `bs`. -/
def ofBE (bs : List Byte) : Nat := bs.foldl (fun n b => 256 * n + b.toNat) 0
def toBE (n v : Nat) : List Byte := (toLE n v).reverse

/-- `n` further words of the message schedule, which is kept newest first. -/
def shaExtend : Nat → List (BitVec 64) → List (BitVec 64)
  | 0, w => w
  | n + 1, w =>
    let old := w.getD 14 0
    let new := w.getD 1 0
    let next := w.getD 15 0 + w.getD 6 0 + (rotations old [1, 8] ^^^ old >>> 7) + (rotations new [19, 61] ^^^ new >>> 6)
    shaExtend n (next :: w)

/-- The rounds of a block. A round makes one new value of each of the two chains that a to d and e to h are the last four values of. -/
def shaRounds : List (BitVec 64) → List (BitVec 64) → List (BitVec 64) → List (BitVec 64) × List (BitVec 64)
  | kw :: r, a, e =>
    let at_ := fun (l : List (BitVec 64)) (i : Nat) => l.getD i 0
    let choose := at_ e 2 ^^^ at_ e 0 &&& (at_ e 1 ^^^ at_ e 2)
    let most := at_ a 0 &&& at_ a 1 ||| at_ a 2 &&& (at_ a 0 ||| at_ a 1)
    let t := kw + at_ e 3 + choose + rotations (at_ e 0) [14, 18, 41]
    shaRounds r ((t + most + rotations (at_ a 0) [28, 34, 39]) :: a.take 3) ((at_ a 3 + t) :: e.take 3)
  | [], a, e => (a, e)

/-- One block of 128 bytes. -/
def shaBlock (h : List (BitVec 64)) (blk : List Byte) : List (BitVec 64) :=
  let w := (List.range 16).map (fun i => BitVec.ofNat 64 (ofBE ((blk.drop (8 * i)).take 8)))
  let kw := (shaK.zip (shaExtend 64 w.reverse).reverse).map (fun x => x.1 + x.2)
  let (a, e) := shaRounds kw (h.take 4) (h.drop 4)
  (h.zip (a ++ e)).map (fun x => x.1 + x.2)

def shaBlocks : Nat → List (BitVec 64) → List Byte → List (BitVec 64)
  | 0, h, _ => h
  | n + 1, h, bs => shaBlocks n (shaBlock h bs) (bs.drop 128)

/-- The message with its padding and length. -/
def shaPad (m : List Byte) : List Byte :=
  m ++ [0x80] ++ List.replicate ((239 - m.length % 128) % 128) 0 ++ toBE 16 (8 * m.length)

/-- SHA-512: the digest byte string. -/
def sha512 (m : List Byte) : List Byte :=
  let p := shaPad m
  ((shaBlocks (p.length / 128) shaIv p).map (fun x => toBE 8 x.toNat)).flatten

/-! ### Ed25519 -/

/-- The field prime and the group order. -/
def edP : Nat := 2 ^ 255 - 19
def edL : Nat := 2 ^ 252 + 27742317777372353535851937790883648493

/-- `b ^ e` modulo `m`; `fuel` bounds the bits of `e`. -/
def modPow (m : Nat) : Nat → Nat → Nat → Nat
  | 0, _, _ => 1
  | fuel + 1, b, e =>
    let h := modPow m fuel (b * b % m) (e / 2)
    if e % 2 = 1 then b * h % m else h

def edInv (x : Nat) : Nat := modPow edP 256 x (edP - 2)
def edD : Nat := (edP - 121665) * edInv 121666 % edP
def edSub (a b : Nat) : Nat := (a + edP - b) % edP

/-- A point in extended coordinates. -/
structure EdPt where
  x : Nat
  y : Nat
  z : Nat
  t : Nat
  deriving DecidableEq, Repr

def EdPt.zero : EdPt := { x := 0, y := 1, z := 1, t := 0 }

def EdPt.add (p q : EdPt) : EdPt :=
  let a := edSub p.y p.x * edSub q.y q.x % edP
  let b := (p.y + p.x) * (q.y + q.x) % edP
  let c := 2 * edD * p.t * q.t % edP
  let d := 2 * p.z * q.z % edP
  let e := edSub b a
  let f := edSub d c
  let g := (d + c) % edP
  let h := (b + a) % edP
  { x := e * f % edP, y := g * h % edP, t := e * h % edP, z := f * g % edP }

/-- `[k]P`; `fuel` bounds the bits of `k`. -/
def EdPt.mul : Nat → EdPt → Nat → EdPt
  | 0, _, _ => EdPt.zero
  | fuel + 1, p, k =>
    let r := EdPt.mul fuel (p.add p) (k / 2)
    if k % 2 = 1 then p.add r else r

def EdPt.same (p q : EdPt) : Bool := p.x * q.z % edP == q.x * p.z % edP && p.y * q.z % edP == q.y * p.z % edP

/-- The point that 32 bytes encode, if they are a canonical encoding of one. -/
def edDecode (bs : List Byte) : Option EdPt :=
  let n := ofLE bs
  let y := n % 2 ^ 255
  let sign := n / 2 ^ 255
  if edP ≤ y then none else
  let u := edSub (y * y % edP) 1
  let v := (edD * y % edP * y + 1) % edP
  let v3 := v * v % edP * v % edP
  let x0 := u * v3 % edP * modPow edP 256 (u * v3 % edP * v3 % edP * v % edP) ((edP - 5) / 8) % edP
  let vx := v * x0 % edP * x0 % edP
  let x? := if vx = u then some x0
    else if vx = edSub 0 u then some (x0 * modPow edP 256 2 ((edP - 1) / 4) % edP) else none
  match x? with
  | none => none
  | some x =>
    if x = 0 && sign = 1 then none else
    let x := if x % 2 = sign then x else edSub 0 x
    some { x := x, y := y, z := 1, t := x * y % edP }

/-- The base point: y is 4/5 and x is even. -/
def edBase : EdPt := (edDecode (toLE 32 (4 * edInv 5 % edP))).getD EdPt.zero

/-- Ed25519 verification (R441). -/
def edVerify (key sig msg : List Byte) : Bool :=
  let rb := sig.take 32
  let sv := ofLE (sig.drop 32)
  match edDecode key, edDecode rb with
  | some a, some r =>
    let k := ofLE (sha512 (rb ++ key ++ msg)) % edL
    decide (sv < edL) && ((edBase.mul 256 sv).mul 4 8).same ((r.mul 4 8).add ((a.mul 256 k).mul 4 8))
  | _, _ => false

end Sys2Proof.Machine
end

