-- ==== Sys2Proof/Machine/HartMem.lean ====
section
/-! DEFINITION. Memory as a Sedge hart reaches it: traps, supervisor translation (R297), the access checks and capabilities (R298, R305
to R307), coherent reads and writes (R299, R329, R411, R415) and the standard accesses of R306 and R385. What the RISC-V
specifications give (trap entry, page-table format) is taken from them (PRESUMED, log 7). -/

namespace Sys2Proof.Machine

open Host (Outcome)

/-! ### Registers and traps -/

def Hart.xr (H : Hart) (r : Nat) : Nat := if r = 0 then 0 else (H.x.get 0 r).toNat
def Hart.setX (H : Hart) (r v : Nat) : Hart := if r = 0 then H else { H with x := H.x.put 0 r (BitVec.ofNat 64 v) }
/-- The hart goes on at the next word. -/
def Hart.nextPc (H : Hart) (n : Nat) : Hart := { H with pc := (H.pc + n) % 2 ^ 64 }

/-- The hart is a server (R303). -/
def State.isServer (s : State) (h : Nat) : Bool :=
  match s.serverMask with
  | some x => bitOf x h
  | none => h % 64 = 0

def modeCode : Mode → Nat
  | .u => 0
  | .s => 1
  | .m => 3
def modeOf : Nat → Mode
  | 0 => .u
  | 1 => .s
  | _ => .m

/-- A trap into M or S mode (R307: delegation follows medeleg; log 7). `irq` says that it is an interrupt. -/
def Hart.trapTo (H : Hart) (sup irq : Bool) (cause tval : Nat) : Hart :=
  let c := H.csr
  let code := cause + (if irq then 2 ^ 63 else 0)
  let dest := fun (tvec : Nat) => tvec / 4 * 4 + (if irq && tvec % 4 = 1 then 4 * cause else 0)
  if sup then
    let ms := setField (setField (setField c.mstatus 5 5 (fieldOf c.mstatus 1 1)) 8 8 (bit (H.mode == .s))) 1 1 0
    { H with mode := .s, pc := dest c.stvec,
             csr := { c with mstatus := ms, sepc := H.pc, scause := code, stval := tval } }
  else
    let ms := setField (setField (setField c.mstatus 7 7 (fieldOf c.mstatus 3 3)) 12 11 (modeCode H.mode)) 3 3 0
    { H with mode := .m, pc := dest c.mtvec,
             csr := { c with mstatus := ms, mepc := H.pc, mcause := code, mtval := tval } }

/-- Taking an exception. -/
def Hart.trap (H : Hart) (cause tval : Nat) : Hart := H.trapTo (H.mode != .m && bitOf H.csr.medeleg cause) false cause tval

/-! ### Translation and checks -/

/-- An access: what it needs of a page; `cw` says that it needs W of a capability beside that (R306: LR, CBO.CLEAN, CBO.FLUSH), `st`
that it is of the store kind. -/
structure HNeed where
  r : Bool := false
  w : Bool := false
  x : Bool := false
  cw : Bool := false
  st : Bool := false
  deriving DecidableEq, Repr

def hLoad : HNeed := { r := true }
def hStore : HNeed := { w := true }
def hBoth : HNeed := { r := true, w := true }
def hFetch : HNeed := { x := true }
def hLr : HNeed := { r := true, cw := true }
def hCbo : HNeed := { r := true, cw := true, st := true }

/-- Cause numbers: page fault and access fault of the access's kind (R298), and KIND of CL_SEDGE_FLT. -/
def HNeed.pageFault (n : HNeed) : Nat := if n.x then 12 else if n.w || n.st then 15 else 13
def HNeed.accessFault (n : HNeed) : Nat := if n.x then 1 else if n.w || n.st then 7 else 5
def HNeed.kind (n : HNeed) : Nat := if n.x then 2 else if n.w || n.st then 1 else 0

/-- An exception of an access: its cause, the virtual address, and the physical address where a capability refused it. -/
structure HFault where
  cause : Nat
  va    : Nat
  cap   : Option Nat := none
  deriving DecidableEq, Repr

/-- The mode whose rules a data access obeys: MPRV (log 7). -/
def Hart.dataMode (H : Hart) (n : HNeed) : Mode :=
  if !n.x && H.mode == .m && bitOf H.csr.mstatus 17 then modeOf (fieldOf H.csr.mstatus 12 11) else H.mode

/-- A leaf entry grants the access (log 7). -/
def pteOk (H : Hart) (md : Mode) (n : HNeed) (e lvl : Nat) : Bool :=
  let ppn := fieldOf e 53 10
  let napot := bitOf e 63
  (!n.x || bitOf e 3) && (!n.w || bitOf e 2) && (!n.r || bitOf e 1 || (bitOf H.csr.mstatus 19 && bitOf e 3)) &&
    (if md == .u then bitOf e 4 else !bitOf e 4 || (bitOf H.csr.mstatus 18 && !n.x)) &&
    ppn % 512 ^ lvl == 0 && bitOf e 6 && (!n.w || bitOf e 7) && (!napot || (lvl == 0 && ppn % 16 == 8))

/-- The supervisor page-table walk of hart `h` from table `t` at level `lvl`; implicit accesses use CL_SEDGE_CTX.KEY and are not checked
(R306). They travel by the routes of the hart's port (R393). -/
def State.hartWalk (s : State) (h : Nat) (H : Hart) (md : Mode) (n : HNeed) (va : Nat) : Nat → Nat → Except Nat Nat × State
  | 0, _ => (.error n.pageFault, s)
  | lvl + 1, t =>
    let a := t + 8 * (va / 2 ^ (12 + 9 * lvl) % 512)
    if !inDram a 8 then (.error n.accessFault, s) else
    match s.homeFault (h / 4) (16 + h % 4) a with
    | some info => (.error n.accessFault, s.hopFault info)
    | none =>
    let (bs, s) := (s.takeBack a 8 false).readKeyed a 8 H.key
    let e := ofLE bs
    let ppn := fieldOf e 53 10
    if !bitOf e 0 || (!bitOf e 1 && bitOf e 2) || fieldOf e 60 54 != 0 || fieldOf e 62 61 == 3 then (.error n.pageFault, s)
    else if bitOf e 1 || bitOf e 3 then
      if pteOk H md n e lvl then
        if bitOf e 63 then (.ok (ppn / 16 * 65536 + va % 65536), s)
        else (.ok (ppn * 4096 + va % 2 ^ (12 + 9 * lvl)), s)
      else (.error n.pageFault, s)
    else if fieldOf e 63 61 != 0 || bitOf e 4 || bitOf e 6 || bitOf e 7 then (.error n.pageFault, s)
    else s.hartWalk h H md n va lvl (ppn * 4096)

/-- The physical address of a virtual one: Bare, Sv48 or Sv57 (R297). -/
def State.hartXlate (s : State) (h : Nat) (H : Hart) (n : HNeed) (va : Nat) : Except Nat Nat × State :=
  let md := H.dataMode n
  let st := H.csr.satp / 2 ^ 60
  if md == .m || (st ≠ 9 && st ≠ 10) then (.ok va, s) else
  let bits := if st = 10 then 57 else 48
  let top := va / 2 ^ (bits - 1)
  if top ≠ 0 && top ≠ 2 ^ (65 - bits) - 1 then (.error n.pageFault, s)
  else s.hartWalk h H md n va (if st = 10 then 5 else 4) (H.csr.satp % 2 ^ 44 * 4096)

/-- A piece of an access: virtual and physical address, bytes, key index. -/
structure Piece where
  va  : Nat
  pa  : Nat
  n   : Nat
  key : Nat := 0
  deriving DecidableEq, Repr

/-- Translates the pieces of an access. -/
def State.hartPieces (s : State) (h : Nat) (H : Hart) (n : HNeed) : List (Nat × Nat) → Except HFault (List Piece) × State
  | [] => (.ok [], s)
  | (va, k) :: r =>
    match s.hartXlate h H n (va % 2 ^ 64) with
    | (.error c, t) => (.error { cause := c, va := va }, t)
    | (.ok pa, t) =>
      match t.hartPieces h H n r with
      | (.error f, t') => (.error f, t')
      | (.ok ps, t') => (.ok ({ va := va, pa := pa, n := k } :: ps), t')

/-- Capability register `i` (R305). -/
def Hart.cap (H : Hart) (i : Nat) : Nat := H.caps.get 0 i
def capValid (c : Nat) : Bool := bitOf c 112
/-- The register covers the bytes whole and grants the need (R306). -/
def capGrants (c : Nat) (n : HNeed) (a k : Nat) : Bool :=
  capValid c && decide (c % 2 ^ 48 ≤ a) && decide (a + k ≤ fieldOf c 111 64) && (!n.r || bitOf c 48) && (!(n.w || n.cw) || bitOf c 49) &&
    (!n.x || bitOf c 50)

/-- The bytes that follow a piece without a gap, up to the end of the run. -/
def runEnd (e : Nat) : List Piece → Nat
  | [] => e
  | p :: r => if p.pa = e then runEnd (e + p.n) r else e

/-- The checks on physical addresses (R298, R306) of the pieces; `prev` is the end and the key of the piece
before; `caps` says that the feature SANDBOX is accepted (R23), `flash` that the access may reach the flash tier (R385). -/
def Hart.checkPieces (H : Hart) (caps flash : Bool) (n : HNeed) : Option (Nat × Nat) → List Piece → Except HFault (List Piece)
  | _, [] => .ok []
  | prev, p :: r =>
    if 2 ^ 48 ≤ p.pa || !(inDram p.pa p.n || (flash && inFlash p.pa p.n)) then .error { cause := n.accessFault, va := p.va }
    else
      let go (key : Nat) : Except HFault (List Piece) :=
        match H.checkPieces caps flash n (some (p.pa + p.n, key)) r with
        | .error f => .error f
        | .ok ps => .ok ({ p with key := key } :: ps)
      if H.dataMode n != .u || !caps then go H.key
      else
        let held := match prev with
          | some (e, key) => if e = p.pa then some key else none
          | none => none
        match held with
        | some key => go key
        | none =>
            match (List.range 16).find? (fun i => capGrants (H.cap i) n p.pa (runEnd (p.pa + p.n) r - p.pa)) with
            | some i => go (fieldOf (H.cap i) 63 52)
            | none => .error { cause := n.accessFault, va := p.va, cap := some p.pa }

/-- An ordinary load or store of the hart reaches the flash tier (R385), where the feature FLASH_TIER is accepted (R23, DEDUCED, log 72). -/
def State.mayFlash (s : State) (h : Nat) : Bool := s.isServer h && (s.hart h).mode != .u && s.feat 12

/-- The first piece whose request to its home fails a switch check on the route of the hart's port (R393), with the info word of R467. -/
def State.pieceRoute (s : State) (h : Nat) (ps : List Piece) : Option (Piece × Nat) :=
  firstSome (fun p => if inDram p.pa p.n then (s.homeFault (h / 4) (16 + h % 4) p.pa).map (fun i => (p, i)) else none) ps

/-- An access of hart `h` to `k` bytes at a virtual address, translated and checked: its pieces, each within one granule. One that fails a
switch check on its way to a home is an access fault of its kind (DESIGN CHOICE, log 84). -/
def State.hartAccess (s : State) (h : Nat) (n : HNeed) (va k : Nat) (flash : Bool := false) : Except HFault (List Piece) × State :=
  let H := s.hart h
  match s.hartPieces h H n (cutRun (k / 128 + 2) va k) with
  | (.error f, t) => (.error f, t)
  | (.ok ps, t) =>
    match H.checkPieces (s.feat 6) flash n none ps with
    | .error f => (.error f, t)
    | .ok ps =>
      match t.pieceRoute h ps with
      | some (p, info) => (.error { cause := n.accessFault, va := p.va }, t.hopFault info)
      | none =>
        -- an uncorrectable error that a read finds is an access fault and ends no context (R456)
        match (if n.r || n.x then firstSome (fun p => (t.findsBad p.pa p.n 5 0).map (fun u => (p, u))) ps else none) with
        | some (p, u) => (.error { cause := n.accessFault, va := p.va }, u)
        | none => (.ok ps, t)

/-- The exception of an access is taken (R307): CL_SEDGE_FLT is written for a capability, and its CAP bit cleared for another access
fault. -/
def State.hartFault (s : State) (h : Nat) (n : HNeed) (f : HFault) : State :=
  s.modHart h (fun H =>
    let H := match f.cap with
      | some a => { H with flt := a % 2 ^ 48 + n.kind * 2 ^ 48 + 2 ^ 63 }
      | none => if f.cause = n.accessFault then { H with flt := H.flt % 2 ^ 63 } else H
    H.trap f.cause f.va)

/-! ### Reads and writes -/

/-- What a coherent read gives: the bytes; it waits; or an access fault (a FAULTED view block, log 32). -/
inductive HRead where
  | ok (bs : List Byte) (s : State)
  | wait (s : State)
  | fault (s : State)
  deriving Repr

/-- The hart's caches hold a granule (R331). -/
def State.hartLine (s : State) (h gr : Nat) : State :=
  s.modHart h (fun H => { H with lines := if H.lines.contains gr then H.lines else gr :: H.lines })

/-- The bytes of one piece as the hart reads them: the party's writes that are complete at the cluster cache among them (R364). A flash
address is read at its controller (R385). -/
def State.hartRead1 (s : State) (h : Nat) (p : Piece) : HRead :=
  let o := hartSeer h (s.hart h).ctx
  if inFlash p.pa p.n then .ok (bytesAt s.mem p.pa p.n) s
  else
    let blocks := s.viewBlocks p.pa p.n
    if blocks.isEmpty then
      if s.heldFrom o p.pa p.n then .wait s else
      match s.recall o.cl o.ctx p.pa p.n false false with
      | none => .wait s
      | some t =>
        let (bs, t) := t.observe o p.pa p.n p.key
        .ok bs (t.hartLine h (p.pa / 128))
    else
      match s.serveAll o 0 blocks [] with
      | (.ok pins, t) =>
        let (bs, t) := t.versionBytes pins p.pa p.n p.key
        .ok bs t
      | (.fault _, t) => .fault t
      | (_, t) => .wait t

/-- The bytes of all pieces. -/
def State.hartRead (s : State) (h : Nat) : List Piece → HRead
  | [] => .ok [] s
  | p :: r =>
    match s.hartRead1 h p with
    | .ok bs t =>
      match t.hartRead h r with
      | .ok bs' t' => .ok (bs ++ bs') t'
      | x => x
    | x => x

/-- The number of a hart as an observer (R363, R369). -/
def hartObs (h : Nat) : Nat := 2 * h + 2

/-- The pieces of a store can be written (R343, R345, R365, R371, R390): the state after the recalls, or nothing. -/
def State.hartAdmit (s : State) (h : Nat) : List Piece → Option State
  | [] => some s
  | p :: r =>
    let o := hartSeer h (s.hart h).ctx
    if inFlash p.pa p.n then s.hartAdmit h r
    else if s.inflight.any (fun f => (f.seen o && f.tgt.meets f.op.size p.pa p.n) || f.rel.contains (hartObs h)) then none
    else
      match s.allowWrite o.cl o.ctx p.pa p.n false with
      | none => none
      | some t => (t.hartLine h (p.pa / 128)).hartAdmit h r

/-- The bytes of a store, piece by piece. -/
def hartChunks : List Piece → List Byte → List Chunk1
  | [], _ => []
  | p :: r, bs => { a := p.pa, key := p.key, bs := bs.take p.n } :: hartChunks r (bs.drop p.n)

/-- One store of the hart (R299): refused as a whole in a view (R411), or performed; nothing while it waits. A flash address is written at
its controller (R385). -/
def State.hartWrite (s : State) (h : Nat) (ps : List Piece) (bs : List Byte) : Option State :=
  let ctx := (s.hart h).ctx
  match s.hartAdmit h ps with
  | none => none
  | some t =>
    let xs := hartChunks ps bs
    let fl := fun (x : Chunk1) => inFlash x.a x.bs.length
    some ((xs.filter fl).foldl (fun t x => t.wrBytes x.a x.bs)
      (t.writeAll { ctx := ctx, party := some (h / 4, ctx) } (xs.filter (fun x => !fl x))))

/-- A store that waits recalls the users of the page tables that it writes (R390). -/
def State.wantAll (s : State) (ps : List Piece) : State := ps.foldl (fun t p => t.wantPt (p.pa / 128)) s

/-! ### The standard accesses (R299, R306, R385) -/

/-- A two's-complement or plain value of `n` bytes as a 64-bit register holds it. -/
def hartExtend (sx : Bool) (n v : Nat) : Nat := if sx then wrapTo 64 (signed (8 * n) v) else v % 2 ^ (8 * n)

/-- The AMO numbered `op` (4 to 12) on `w`-bit values. -/
def amoNew (op w old v : Nat) : Nat :=
  let so := signed w old
  let sv := signed w (v % 2 ^ w)
  let v := v % 2 ^ w
  match op with
  | 4 => v
  | 5 => (old + v) % 2 ^ w
  | 6 => old ^^^ v
  | 7 => old &&& v
  | 8 => old ||| v
  | 9 => if sv < so then v else old
  | 10 => if so < sv then v else old
  | 11 => min old v
  | _ => max old v

/-- A cache-block instruction is legal in the hart's mode (R299; menvcfg and senvcfg, log 7). -/
def Hart.cboLegal (H : Hart) (op : Nat) : Bool :=
  let ok := fun (e : Nat) => match op with
    | 15 => bitOf e 7
    | 18 => fieldOf e 5 4 != 0
    | _ => bitOf e 6
  match H.mode with
  | .m => true
  | .s => ok H.csr.menvcfg
  | .u => ok H.csr.menvcfg && ok H.csr.senvcfg

/-- The access is complete: its result, and the hart at its next instruction. -/
def State.hartDone (s : State) (h len rd : Nat) (v : Option Nat) : State :=
  s.modHart h (fun H => match v with
    | some v => (H.setX rd v).nextPc len
    | none => H.nextPc len)

/-- Length of a standard load or store, 2 or 4 bytes: the event does not tell it (log 33). -/
def State.stdLen (s : State) : Nat × State :=
  let (d, t) := s.draw
  (if d % 2 = 0 then 4 else 2, t)

/-- An access whose checks have passed reads, and goes on with what it read; or the exception is taken. -/
def State.hartThen (s : State) (h : Nat) (n : HNeed) (va k : Nat) (flash : Bool) (f : List Byte → List Piece → State → Option State) :
    State :=
  match s.hartAccess h n va k flash with
  | (.error e, t) => t.hartFault h n e
  | (.ok ps, t) =>
    match t.hartRead h ps with
    | .ok bs t' => (f bs ps t').getD (s.wantAll ps)
    | .wait t' => t'
    | .fault t' => t'.hartFault h n { cause := n.accessFault, va := va }

/-- A load (R306, R385). -/
def State.hartLoad (s : State) (h va n rd : Nat) (sx : Bool) : State :=
  s.hartThen h hLoad va n (s.mayFlash h) (fun bs _ t =>
    let (len, t) := t.stdLen
    some (t.hartDone h len rd (some (hartExtend sx n (ofLE bs)))))

/-- A store (R306, R385). -/
def State.hartStore (s : State) (h va n v : Nat) : State :=
  match s.hartAccess h hStore va n (s.mayFlash h) with
  | (.error e, t) => t.hartFault h hStore e
  | (.ok ps, t) =>
    match t.hartWrite h ps (toLE n v) with
    | none => s.wantAll ps
    | some t =>
      let (len, t) := t.stdLen
      t.hartDone h len 0 none

/-- A release by the hart at PKG (R370): it waits for what it has seen of its cluster's writes to be complete there. -/
def State.hartRelWaits (s : State) (h lvl : Nat) : Bool := s.relWaits (.hart h) (hartSeer h (s.hart h).ctx) lvl 0

/-- An AMO, LR or SC (R306): `op` 4 to 12 are the AMOs, 13 LR, 14 SC. An SC fails where the reservation is gone, and may fail otherwise. -/
def State.hartAmo (s : State) (h op va n v rd : Nat) : State :=
  s.hartThen h (if op = 13 then hLr else hBoth) va n false (fun bs ps t =>
    let old := ofLE bs
    let res := hartExtend true n old
    let pa := (ps.map (fun p => p.pa)).headD 0
    if op = 13 then some ((t.modHart h (fun H => { H with resv := some pa })).hartDone h 4 rd (some res))
    else if op = 14 then
      let (d, t) := t.draw
      let gone := fun (t : State) => t.modHart h (fun H => { H with resv := none })
      if (t.hart h).resv = some pa && d % 2 = 0 then (t.hartWrite h ps (toLE n v)).map (fun t => (gone t).hartDone h 4 rd (some 0))
      else some ((gone t).hartDone h 4 rd (some 1))
    else (t.hartWrite h ps (toLE n (amoNew op (8 * n) old v))).map (fun t => t.hartDone h 4 rd (some res)))

/-- The caches of all parties give up a line that CBO.FLUSH or CBO.INVAL names, and what is modified there is drained; CBO.CLEAN drains it
(R299, R343). -/
def State.hartClean (s : State) (h op : Nat) : List Piece → Option State
  | [] => some s
  | p :: r =>
    match s.recall (h / 4) (s.hart h).ctx p.pa p.n (op != 16) (op != 16) with
    | none => none
    | some t =>
      let t := t.flush (fun _ => true) [p.pa / 128]
      (if op = 16 then t else t.modHart h (fun H => { H with lines := H.lines.filter (fun x => x != p.pa / 128) })).hartClean h op r

/-- A cache-block instruction (R299): `op` 15 CBO.ZERO, 16 CLEAN, 17 FLUSH, 18 INVAL. The exception names the address in rs1 (R307). -/
def State.hartCbo (s : State) (h op va : Nat) : State :=
  let blk := if op = 15 then 64 else 128
  let need := if op = 15 then hStore else hCbo
  match s.hartAccess h need (va / blk * blk) blk with
  | (.error e, t) => t.hartFault h need { e with va := va }
  | (.ok ps, t) =>
    match (if op = 15 then t.hartWrite h ps (toLE 64 0) else t.hartClean h op ps) with
    | none => s.wantAll ps
    | some t => t.hartDone h 4 0 none

/-- HART_MEMORY_ACCESS (R306): a fetch, load, store, AMO, LR, SC, cache-block instruction or FENCE of the standard instruction set at a
virtual address. Bits 5 and 6 of `op` are aq and rl; `v` holds the sets of a FENCE, the predecessors' in bits 7 to 4 as the instruction
has them. An access with rl and a FENCE with W before it are releases at PKG (R370, R382); the hart's own accesses are performed in
order. -/
def execHartMemoryAccess (h op va n v rd : Nat) (s : State) : Outcome State Fault Refusal :=
  let H := s.hart h
  let k := op % 32
  let sized := (n = 1 || n = 2 || n = 4 || n = 8)
  let rel := if k = 19 then bitOf v 4 else 4 ≤ k && k ≤ 14 && bitOf op 6
  if H.run != .run || 4096 ≤ h || (rel && s.hartRelWaits h 2) then .next s
  else
  let s := if rel then s.homeward (hartSeer h H.ctx) else s
  if k = 0 then
    if n ≠ 2 && n ≠ 4 then .next s else
    match s.hartAccess h hFetch va n with
    | (.error e, t) => .next (t.hartFault h hFetch e)
    | (.ok _, t) => .next t
  else if k = 1 || k = 2 then .next (if sized then s.hartLoad h va n rd (k == 2) else s)
  else if k = 3 then .next (if sized then s.hartStore h va n v else s)
  else if k ≤ 14 then
    if n ≠ 4 && n ≠ 8 then .next s
    else if va % n ≠ 0 then .next (s.modHart h (fun H => H.trap (if k = 13 then 4 else 6) va))
    else .next (s.hartAmo h k va n v rd)
  else if k ≤ 18 then .next (if H.cboLegal k then s.hartCbo h k va else s.modHart h (fun H => H.trap 2 0))
  else .next (if k = 19 then s.hartDone h 4 0 none else s)

/-- FLASH_ACCESS (R385): an ordinary load or store that reaches the flash tier: of a server hart in S or M mode it is served there, and of
any other hart it is an access fault (R298). -/
def execFlashAccess (h op va n v rd : Nat) (s : State) : Outcome State Fault Refusal :=
  let H := s.hart h
  let need := if op = 3 then hStore else hLoad
  if H.run != .run || 4096 ≤ h || !(op = 1 || op = 2 || op = 3) || !(n = 1 || n = 2 || n = 4 || n = 8) then .next s
  else
    match s.hartPieces h H need (cutRun 2 va n) with
    | (.ok ps, _) =>
      if ps.all (fun p => inFlash p.pa p.n) then .next (if op = 3 then s.hartStore h va n v else s.hartLoad h va n rd (op == 2)) else .next s
    | (.error _, _) => .next s

/-! ### CSRs (R301, R302) -/

def Mode.level : Mode → Nat := modeCode

/-- sstatus as a part of mstatus (log 7). -/
def sstatusMask : Nat := 0x80000003000DE762

/-- What a CSR of the extension, or one that the model holds of the standard ones, reads. -/
def State.readCsr (s : State) (h n : Nat) : Option Nat :=
  let H := s.hart h
  let c := H.csr
  if 0x5E0 ≤ n && n < 0x600 then
    -- KEY belongs to MEM_ENC (R23)
    some (H.cap ((n - 0x5E0) / 2) / (if n % 2 = 0 then 1 else 2 ^ 64) % (if n % 2 = 0 && !s.feat 13 then 2 ^ 52 else 2 ^ 64))
  else match n with
  | 0x5C0 => some (H.ctx + H.key * 256)
  | 0x5C1 => some H.uctl
  | 0x5C2 => some H.flt
  | 0x8C0 => some H.xst
  | 0x8C1 => some H.xval
  | 0xDC0 => some (h + bit (s.isServer h) * 4096)
  | 0xF14 => some h
  | 0x100 => some (c.mstatus &&& sstatusMask)
  | 0x300 => some c.mstatus
  | 0x302 => some c.medeleg
  | 0x303 => some c.mideleg
  | 0x304 => some c.mie
  | 0x305 => some c.mtvec
  | 0x30A => some c.menvcfg
  | 0x341 => some c.mepc
  | 0x342 => some c.mcause
  | 0x343 => some c.mtval
  | 0x105 => some c.stvec
  | 0x10A => some c.senvcfg
  | 0x141 => some c.sepc
  | 0x142 => some c.scause
  | 0x143 => some c.stval
  | 0x180 => some c.satp
  | _ => none

/-- The registers of R301 and the standard ones that software may write. -/
def csrReadOnly (n : Nat) : Bool := fieldOf n 11 10 = 3 || n = 0x5C2 || n = 0x8C0 || n = 0x8C1 || (0x5E0 ≤ n && n < 0x600)

/-- A CSR is written; RSVD bits ignore the write (R8, R301), and so do UCALL without CALLQ and KEY without MEM_ENC (R23). -/
def Hart.writeCsr (H : Hart) (callq enc : Bool) (n v : Nat) : Hart :=
  let c := H.csr
  match n with
  | 0x5C0 => { H with ctx := v % 256, key := if enc then fieldOf v 19 8 else 0 }
  | 0x5C1 => { H with uctl := v % (if callq then 8 else 4) }
  | 0x100 => { H with csr := { c with mstatus := (c.mstatus &&& (2 ^ 64 - 1 - sstatusMask)) ||| (v &&& sstatusMask) } }
  | 0x300 => { H with csr := { c with mstatus := v } }
  | 0x302 => { H with csr := { c with medeleg := v } }
  | 0x303 => { H with csr := { c with mideleg := v } }
  | 0x304 => { H with csr := { c with mie := v } }
  | 0x305 => { H with csr := { c with mtvec := v } }
  | 0x30A => { H with csr := { c with menvcfg := v } }
  | 0x341 => { H with csr := { c with mepc := v } }
  | 0x342 => { H with csr := { c with mcause := v } }
  | 0x343 => { H with csr := { c with mtval := v } }
  | 0x105 => { H with csr := { c with stvec := v } }
  | 0x10A => { H with csr := { c with senvcfg := v } }
  | 0x141 => { H with csr := { c with sepc := v } }
  | 0x142 => { H with csr := { c with scause := v } }
  | 0x143 => { H with csr := { c with stval := v } }
  | 0x180 => if v / 2 ^ 60 = 0 || v / 2 ^ 60 = 9 || v / 2 ^ 60 = 10 then { H with csr := { c with satp := v } } else H
  | _ => H

/-- SEDGE_CSR_WRITE (R301, R302): a standard CSR instruction: `op` 0 reads, 1 writes, 2 sets, 3 clears the bits of `v`. A CSR that
neither R301 names nor the model holds has no such event. -/
def execSedgeCsrWrite (h csr op v rd : Nat) (s : State) : Outcome State Fault Refusal :=
  let H := s.hart h
  let op := op % 4
  if H.run != .run || 4096 ≤ h then .next s else
  match s.readCsr h csr with
  | none => .next s
  | some old =>
    if H.mode.level < fieldOf csr 9 8 || (op != 0 && csrReadOnly csr) then .next (s.modHart h (fun H => H.trap 2 0))
    else
      let new := match op with
        | 1 => v % 2 ^ 64
        | 2 => old ||| v % 2 ^ 64
        | _ => old &&& (2 ^ 64 - 1 - v % 2 ^ 64)
      .next (s.modHart h (fun H => ((if op = 0 then H else H.writeCsr (s.feat 5) (s.feat 13) csr new).setX rd old).nextPc 4))

end Sys2Proof.Machine
end

