-- ==== Sys2Proof/Machine/Sedge.lean ====
section
/-! DEFINITION. The extension instructions of the Sedge harts (R308 to R325) but for XVREG, and the events of XFWAIT and XFRESTOK. -/

namespace Sys2Proof.Machine

open Host (Outcome)

/-! ### The course of an extension instruction (R309 to R313) -/

/-- What an extension instruction does: it completes with a status and, where its register holds data, that; it raises an exception;
it cannot complete yet; or the hart waits in it. -/
inductive XOut where
  | done (s : State) (status : Nat) (data : Option Nat)
  | trap (s : State)
  | wait (s : State)
  | held (s : State)
  deriving Repr

/-- Who may execute an instruction (R309): in U mode when `user`, on servers only, with a feature. -/
structure XPerm where
  user    : Hart → Bool
  server  : Bool := false
  feature : Nat := 0

/-- An instruction of the extension on the hart in focus (R309 to R313). `acts` says that it acts for the context (R312); `isData`
that rd holds data and not the status; `toRd` that it writes rd. -/
def extension (p : XPerm) (acts isData toRd : Bool) (f : HForm) (body : Nat → Hart → State → XOut) (s : State) :
    Outcome State Fault Refusal :=
  let h := s.focus.hart
  let H := s.hart h
  if H.run != .run then .next s
  else if (H.mode == .u && !p.user H) || (p.server && !s.isServer h) || !s.feat p.feature then
    .next (s.modHart h (fun H => H.trap 2 0))
  else
    let done (t : State) (st : Nat) (d : Option Nat) : State :=
      t.modHart h (fun H =>
        let H := { H with xst := st }
        (if toRd then H.setX f.d.toNat (d.getD (if isData then 0 else st)) else H).nextPc 4)
    if acts && !(s.ctx H.ctx).exists then .next (done s 11 none)
    else
      match body h H s with
      | .done t st d => .next (done t st d)
      | .trap t => .next t
      | .wait t => .next t
      | .held t => .next (t.modHart h (fun H => H.nextPc 4))

def hx (H : Hart) (r : BitVec 5) : Nat := H.xr r.toNat

/-- A memory operand is checked before any is read (R310): the exception is taken, or the instruction goes on with its pieces. -/
def State.checkOperand (s : State) (h va k align : Nat) (f : List Piece → State → XOut) : XOut :=
  if va % align ≠ 0 then .trap (s.modHart h (fun H => H.trap 4 va)) else
  match s.hartAccess h hLoad va k with
  | (.error e, t) => .trap (t.hartFault h hLoad e)
  | (.ok ps, t) => f ps t

/-- A checked operand is read. Nothing of the instruction has taken effect when it waits or is stopped by an exception (R310); what the
read has set going in memory stays (R416). -/
def State.readOperand (s : State) (h va : Nat) (ps : List Piece) (f : List Byte → State → XOut) : XOut :=
  match s.hartRead h ps with
  | .ok bs t => f bs t
  | .wait t => .wait t
  | .fault t => .trap (t.hartFault h hLoad { cause := 5, va := va })

/-- A single memory operand is checked and read. -/
def State.operand (s : State) (h va k align : Nat) (f : List Byte → State → XOut) : XOut :=
  s.checkOperand h va k align (fun ps t => t.readOperand h va ps f)

/-! ### XSEND (R314) -/

/-- XSEND (R314). -/
def execXsend (f : HForm) (s : State) : Outcome State Fault Refusal :=
  extension { user := fun H => bitOf H.uctl 0 } true false true f (fun h H s =>
    s.checkOperand h (hx H f.a) 128 128 (fun ps t => t.checkOperand h (hx H f.b) 16 16 (fun qs t =>
      t.readOperand h (hx H f.a) ps (fun img t => t.readOperand h (hx H f.b) qs (fun rt s =>
        let ws := (List.range 16).map (fun i => ofLE ((img.drop (8 * i)).take 8))
        let m : Msg := { words := ws }
        let server := s.isServer h
        if m.kind = 3 || (m.kind = 1 && !(server && H.mode != .u)) || (m.ctx ≠ H.ctx && !server) then .done s 9 none
        else
          let m := m.setWord 0 (setField (setField m.hdr 23 16 H.ctx) 26 24 1)
          -- a release at PKG, but for an engine of the hart's cluster (R370)
          let s := if actEngine m.target / 16 = h / 4 then s else s.markRelease (hartSeer h H.ctx) (hartObs h)
          .done (s.inject (.hart h) H.ctx (ofLE rt) 0 tcMsg 4 m.target (.msg m)) 0 none))))) s

/-! ### Futures (R318 to R320) -/

/-- An operation that the source waits for has met a route fault (R467): a dead letter, with a status that the specification does not
state. -/
def State.noRoute (s : State) (ctx hd : Nat) : XOut :=
  let (d, t) := (s.deadLetter ctx ctx (futInfo 10 hd)).draw
  .done t (d % 13) none

/-- The agent of a handle's future answers a hart (R318): a null generation is BAD_OPERAND; a gated cluster, and a message of the hart that
has not reached the agent (R311), make the hart wait; a route fault is a dead letter, with a status that the specification does not
state (log 34). -/
def State.askAgent (s : State) (h : Nat) (H : Hart) (hd : Nat) (f : Option Fut → State → XOut) : XOut :=
  if hGen hd = 0 then .done s 9 none
  else if (s.cluster (hCluster hd)).gated || s.signalOwed (.hart h) (fun c => c == hCluster hd) then .wait s
  else
    match s.futRoute (.hart h) (hCluster hd) with
    | some info => (s.hopFault info).noRoute H.ctx hd
    | none => f (s.findFut hd H.ctx) s

/-- The update of an entry by a hart is a release (R370): at the level common to the hart, the future's cluster and every waiter. -/
def State.updateAgent (s : State) (h : Nat) (H : Hart) (hd : Nat) (f : Option Fut → State → XOut) : XOut :=
  s.askAgent h H hd (fun x t =>
    match t.released (.hart h) H.ctx t.nextId (hCluster hd) (x.any (fun x => x.farWaiter (hCluster hd))) with
    | none => .wait s
    | some t => f x (t.coverFut (.hart h) H.ctx t.nextId hd))

/-- A question at an entry is an acquire (R371): it waits for what the last resolution of the entry released. -/
def State.acquireAgent (s : State) (h : Nat) (H : Hart) (hd : Nat) (f : Option Fut → State → XOut) : XOut :=
  s.askAgent h H hd (fun x t => if t.farRelease hd (h / 4) then .wait s else f x t)

/-- The records of R279 for an operation on a stale or LAPSED future (R318), with the status. -/
def State.noFuture (s : State) (ctx hd reason status : Nat) : XOut :=
  .done (s.deadLetter ctx ctx (futInfo reason hd)) status none

/-- What XFRES does at the agent with the entry that its handle names (R318). -/
def State.resolveAt (s : State) (ctx hd v : Nat) (x : Option Fut) : XOut :=
  match x with
  | none => s.noFuture ctx hd 8 3
  | some x => if x.state = .live then .done (s.resolveFut hd (some v)) 0 none else s.noFuture ctx hd 6 4

/-- What XFDEC does at the agent (R318). -/
def State.decAt (s : State) (ctx hd n : Nat) (x : Option Fut) : XOut :=
  match x with
  | none => s.noFuture ctx hd 8 3
  | some x => if x.state = .live then .done (s.decFut hd n false) 0 none else s.noFuture ctx hd 6 4

/-- The amounts of a decrement (R318). -/
def decAmount (n : Nat) : Bool := n ≠ 0 && n < 2 ^ 31

/-- XFRES (R318). -/
def execXfres (f : HForm) (s : State) : Outcome State Fault Refusal :=
  extension { user := fun H => bitOf H.uctl 1 } true false true f (fun h H s =>
    let hd := hx H f.a % 2 ^ 32
    s.updateAgent h H hd (fun x s => s.resolveAt H.ctx hd (hx H f.b) x)) s

/-- XFDEC (R318). -/
def execXfdec (f : HForm) (s : State) : Outcome State Fault Refusal :=
  extension { user := fun H => bitOf H.uctl 1 } true false true f (fun h H s =>
    let hd := hx H f.a % 2 ^ 32
    if !decAmount (hx H f.b) then .done s 9 none else
    s.updateAgent h H hd (fun x s => s.decAt H.ctx hd (hx H f.b) x)) s

/-- XFTEST (R318), in four modes. -/
def execXftest (f : HForm) (md : BitVec 2) (s : State) : Outcome State Fault Refusal :=
  extension { user := fun H => bitOf H.uctl 1 } true true true f (fun h H s =>
    let hd := hx H f.a % 2 ^ 32
    s.acquireAgent h H hd (fun x s =>
      match x with
      | none => .done s 3 none
      | some x =>
        .done s 0 (some (match md.toNat with
          | 0 => bit (reached x.phase (hx H f.b % 2 ^ 32) && x.state == .live)
          | 1 => x.value
          | 2 => x.counts
          | _ => x.flags)))) s

/-- XFWAIT (R320). -/
def execXfwait (f : HForm) (nx : BitVec 1) (s : State) : Outcome State Fault Refusal :=
  extension { user := fun H => bitOf H.uctl 1 } true false true f (fun h H s =>
    let hd := hx H f.a % 2 ^ 32
    s.acquireAgent h H hd (fun x s =>
      match x with
      | none => .done s 3 none
      | some x =>
        let target := if nx = 1 then (x.phase + 1) % 2 ^ 32 else hx H f.b % 2 ^ 32
        let tmo := hx H f.b / 2 ^ 32
        if x.state = .lapsed then .done s 4 none
        else if reached x.phase target then .done (s.modHart h (fun H => { H with xval := x.value })) 0 none
        else
          let w : Waiter := { hart := some h, target := target, deadline := if tmo = 0 then none else some (s.hubTime + tmo) }
          match s.fileWaiter hd w with
          | none => .done s 12 none
          | some t => .held (t.modHart h (fun H => { H with run := .wait hd f.d.toNat })))) s

/-- The waiter of a hart is withdrawn (R320). -/
def State.withdraw (s : State) (h hd : Nat) : State :=
  let x := s.fut hd
  s.setFut hd { x with waiters := x.waiters.filter (fun w => w.hart != some h) }

/-- The interrupt `cause` would be taken by the hart, and whether in S mode: a delegated one is masked in M mode (log 7). -/
def Hart.takes (H : Hart) (cause : Nat) : Option Bool :=
  let c := H.csr
  let sup := bitOf c.mideleg cause
  let on := match H.mode with
    | .u => true
    | .s => !sup || bitOf c.mstatus 1
    | .m => !sup && bitOf c.mstatus 3
  if bitOf c.mie cause && on then some sup else none

/-- XFWAIT_INTERRUPTED (R320): the pending interrupt `cause` withdraws the waiter; XFWAIT completes with INTERRUPTED, and the trap is
taken at the next instruction. A hart to which its waiter was delivered in that cycle takes the interrupt afterwards. -/
def execXfwaitInterrupted (h cause : Nat) (s : State) : Outcome State Fault Refusal :=
  let H := s.hart h
  match H.run, H.takes cause with
  | .wait hd rd, some sup =>
    .next ((s.withdraw h hd).modHart h (fun H => ({ H with run := .run, xst := 7 }.setX rd 7).trapTo sup true cause 0))
  | .run, some sup => .next (s.modHart h (fun H => H.trapTo sup true cause 0))
  | _, _ => .next s

/-! ### Prefill queues (R316, R317, R319) -/

/-- The descriptor of a prefill queue (R316). -/
structure PrefillQ where
  at0  : Nat
  ring : Nat
  log  : Nat
  head : Nat
  tail : Nat
  resv : Nat
  deriving DecidableEq, Repr

def State.prefillQ (s : State) (ctx q : Nat) : PrefillQ :=
  let d := (s.ctx ctx).pqTab + 32 * q
  { at0 := d, ring := s.rd d 8 % 2 ^ 48, log := fieldOf (s.rd d 8) 52 48, head := s.rd (d + 8) 4, tail := s.rd (d + 12) 4,
    resv := s.rd (d + 16) 4 }

/-- The byte runs of ring indices `i` to `i + n - 1`: address and bytes, at most two. -/
def PrefillQ.runs (q : PrefillQ) (i n : Nat) : List (Nat × Nat) :=
  let k := i % 2 ^ q.log
  let first := min n (2 ^ q.log - k)
  (q.ring + 4 * k, 4 * first) :: (if n = first then [] else [(q.ring, 4 * (n - first))])

/-- Their pieces, each within a granule. -/
def PrefillQ.pieces (q : PrefillQ) (i n : Nat) : List (Nat × Nat) :=
  ((q.runs i n).map (fun r => cutRun (r.2 / 128 + 2) r.1 r.2)).flatten

/-- Translations for writing of the pieces of a ring (R317, R396): the device addresses and the granules used. -/
def State.ringPieces (s : State) (ctx : Nat) : List (Nat × Nat) → Except (State × Unit) (List (Nat × Nat × Nat) × List Nat) × State
  | [] => (.ok ([], []), s)
  | (va, n) :: r =>
    match s.translate ctx .w va n with
    | (.bad x, t) => (.error (t.structFault ctx va x, ()), s)
    | (.ok (.remote _ _) _, t) => (.error (t, ()), s)
    | (.ok (.dpa a key) u, t) =>
      match t.ringPieces ctx r with
      | (.error e, t') => (.error e, t')
      | (.ok (ps, us), t') => (.ok ((a, n, key) :: ps, u ++ us), t')

/-- The tokens are written, piece by piece; nothing while a recall is not complete. -/
def State.writeTokens (s : State) (ctx : Nat) : List (Nat × Nat × Nat) → List Byte → Option State
  | [], _ => some s
  | (a, n, key) :: r, bs =>
    match s.allowWrite hubParty ctx a n false with
    | none => none
    | some t => (t.writeAt { ctx := ctx } a key (bs.take n)).writeTokens ctx r (bs.drop n)

/-- What XFRESTOK does at the agent (R317, R319): the tokens are reserved and written; the injection then waits for its turn. -/
def State.injectAt (s : State) (ctx hd value : Nat) (toks : List Byte) (who conn : Option Nat) (x : Option Fut) : XOut :=
  match x with
  | none => s.noFuture ctx hd 8 3
  | some x =>
    if x.state ≠ .live then s.noFuture ctx hd 6 4 else
    match x.pq with
    | none => .done s 6 none
    | some n =>
      if (s.ctx ctx).pqCnt ≤ n then .done s 9 none else
      let q := s.prefillQ ctx n
      let ntok := toks.length / 4
      let used := (q.resv + 2 ^ 32 - q.head) % 2 ^ 32
      if q.ring % 128 ≠ 0 || q.log < 4 || 24 < q.log then .done s 9 none
      else if 2 ^ q.log < used || 2 ^ q.log - used < ntok then .done s 5 none
      else
        match s.ringPieces ctx (q.pieces q.resv ntok) with
        | (.error (t, _), _) => .done t 5 none
        | (.ok (ps, us), t) =>
          match t.writeTokens ctx ps toks with
          | none => .wait (ps.foldl (fun s p => s.wantPt (p.1 / 128)) s)
          | some t =>
            let t := t.wrHome (q.at0 + 16) 4 ((q.resv + ntok) % 2 ^ 32)
            let j : Inject := { ctx := ctx, q := n, start := q.resv, ntok := ntok, h := hd, value := value, hart := who, uses := us, conn := conn }
            .held { t with injects := t.injects ++ [j] }

/-- XFRESTOK (R319): a bound future's tokens are reserved and written; the hart waits until they are visible. -/
def execXfrestok (f : HForm) (s : State) : Outcome State Fault Refusal :=
  extension { user := fun H => bitOf H.uctl 2, feature := 5 } true false true f (fun h H s =>
    let hd := hx H f.a % 2 ^ 32
    let va := hx H f.b
    s.operand h va 16 8 (fun hdr t =>
      let value := ofLE (hdr.take 8)
      let ntok := ofLE ((hdr.drop 8).take 2)
      if 4096 < ntok then .done t 9 none else
      t.checkOperand h va (16 + 4 * ntok) 8 (fun ps t =>
        t.readOperand h va ps (fun blk t =>
        t.updateAgent h H hd (fun x t =>
          match t.injectAt H.ctx hd value (blk.drop 16) (some h) none x with
          | .held t => .held (t.modHart h (fun H => { H with run := .inject f.d.toNat }))
          | r => r))))) s

/-- The endpoint's reply to a remote resolution (R437): the handle and the status. -/
def State.reply (s : State) (hd st : Nat) : State := s.modHub (fun h => { h with replies := h.replies ++ [(hd, st)] })

/-- The future of an injection is resolved, or found stale or LAPSED (R319): the status. -/
def State.endInject (s : State) (j : Inject) : Nat × State :=
  match s.findFut j.h j.ctx with
  | none => (3, s.deadLetter j.ctx j.ctx (futInfo 8 j.h))
  | some x =>
    if x.state = .live then (0, s.resolveFut j.h (some j.value)) else (4, s.deadLetter j.ctx j.ctx (futInfo 6 j.h))

/-- PREFILL_TAIL_ADVANCE (R317, R319): TAIL has reached the injection's first index; it advances, and the future is resolved, unless the
connection has been reset (R426). -/
def execPrefillTailAdvance (i : Nat) (s : State) : Outcome State Fault Refusal :=
  match s.injects[i]? with
  | none => .next s
  | some j =>
    let q := s.prefillQ j.ctx j.q
    if q.tail ≠ j.start then .next s else
    let t := ({ s with injects := dropAt s.injects i } : State).wrHome (q.at0 + 12) 4 ((j.start + j.ntok) % 2 ^ 32)
    if j.reset then .next t else
    let (st, t) := t.endInject j
    .next (match j.hart with
      | none => t.reply j.h st
      | some h => t.modHart h (fun H => match H.run with
        | .inject rd => { H with run := .run, xst := st }.setX rd st
        | _ => H))

/-! ### XCQPOP, XFENCE, capabilities, XCPYR (R321 to R324) -/

/-- XCQPOP (R321, R396). -/
def execXcqpop (f : HForm) (s : State) : Outcome State Fault Refusal :=
  extension { user := fun H => bitOf H.uctl 2, feature := 5 } true false true f (fun h H s =>
    let va := hx H f.a
    if va % 64 ≠ 0 then .trap (s.modHart h (fun H => H.trap 6 va)) else
    match s.hartAccess h hStore va 64 with
    | (.error e, t) => .trap (t.hartFault h hStore e)
    | (.ok ps, s) =>
      let q := s.callQ H.ctx
      if !q.formed || q.head = q.tail then .done s 8 none else
      let src := q.slot q.head
      match s.translate H.ctx .r src 64 with
      | (.bad x, t) => .done (t.structFault H.ctx src x) 8 none
      | (.ok (.remote _ _) _, t) => .done t 8 none
      | (.ok (.dpa a key) _, t) =>
        match t.recall hubParty H.ctx a 64 false false with
        | none => .wait s
        | some t =>
          let (bs, t) := t.readKeyed a 64 key
          match t.hartWrite h ps bs with
          | none => .wait (s.wantAll ps)
          | some t => .done (t.wrHome ((t.ctx H.ctx).cqDesc + 8) 4 ((q.head + 1) % 2 ^ 32)) 0 none) s

/-- XFENCE (R322, R370): the hart's own accesses are complete when it executes; a release waits for what the hart has seen of its cluster's
writes, as FENCE does. A scope or kind that is none is an illegal instruction, and so are k0 to k7 without NAMED_SCOPE. -/
def execXfence (f : HForm) (kind : BitVec 2) (s : State) : Outcome State Fault Refusal :=
  extension { user := fun _ => true } false false false f (fun h H s =>
    let sc := f.b.toNat
    let o := hartSeer h H.ctx
    if kind = 0 || !((1 ≤ sc && sc ≤ 3) || (8 ≤ sc && sc < 16 && s.feat 16)) then .trap (s.modHart h (fun H => H.trap 2 0))
    else if kind.toNat % 2 = 0 then .done s 0 none
    else if s.relWaits (.hart h) o (s.fenceLevel o.cl H.ctx sc) (s.fenceMask o.cl H.ctx sc) then .wait s
    else .done (s.releaseFor o (s.fenceLevel o.cl H.ctx sc) (s.fenceMask o.cl H.ctx sc)) 0 none) s

/-- XCAPSET (R323). -/
def execXcapset (f : HForm) (i : BitVec 4) (s : State) : Outcome State Fault Refusal :=
  extension { user := fun _ => false, feature := 6 } false false true f (fun h H s =>
    let lo := hx H f.a
    let hi := hx H f.b
    if lo % 128 ≠ 0 || hi % 128 ≠ 0 || hi % 2 ^ 48 ≤ lo % 2 ^ 48 || bitOf lo 51 || fieldOf hi 63 49 ≠ 0 then .done s 9 none
    else
      let v := (if s.feat 13 then lo else lo % 2 ^ 52) + (hi % 2 ^ 48 + 2 ^ 48) * 2 ^ 64
      .done (s.modHart h (fun H => { H with caps := H.caps.put 0 i.toNat v })) 0 none) s

/-- XCAPCLR (R323). -/
def execXcapclr (f : HForm) (s : State) : Outcome State Fault Refusal :=
  extension { user := fun _ => false, feature := 6 } false false true f (fun h H s =>
    let mask := hx H f.a
    let clear := fun (caps : Sparse Nat) (i : Nat) =>
      if bitOf mask i then caps.put 0 i (setField (caps.get 0 i) 112 112 0) else caps
    .done (s.modHart h (fun H => { H with caps := (List.range 16).foldl clear H.caps })) 0 none) s

/-- XCPYR (R324): the page's replay is asked for. -/
def execXcpyr (f : HForm) (s : State) : Outcome State Fault Refusal :=
  extension { user := fun _ => false, server := true } true false true f (fun _ H s =>
    let v := hx H f.a
    let page := hx H f.b
    let g := fieldOf v 29 20 * 16 + fieldOf v 19 16
    let E := s.eng g
    let mine := fun (c : Copy) => c.ctx == H.ctx && c.id == v % 2 ^ 16
    let this := fun (p : HeldPage) => p.held && p.page == page
    if E.copies.any (fun c => mine c && c.pages.any this) then
      let mark := fun (c : Copy) =>
        if mine c then { c with pages := c.pages.map (fun p => if this p then { p with asked := true } else p) } else c
      .done (s.setEng g { E with copies := E.copies.map mark }) 0 none
    else .done s 10 none) s

end Sys2Proof.Machine
end

