-- ==== Sys2Proof/Machine/ViewReg.lean ====
section
/-! DEFINITION. XVREG (R325, R408 to R410): the registration of a view with its checks, its end, and the retry of its blocks. -/

namespace Sys2Proof.Machine

open Host (Outcome)

/-- The registration block (R408), as eight words. -/
structure RegBlock where
  w : List Nat
  deriving DecidableEq, Repr

def RegBlock.word (r : RegBlock) (i : Nat) : Nat := r.w.getD i 0
def RegBlock.op (r : RegBlock) : Nat := fieldOf (r.word 1) 54 53
def RegBlock.kind (r : RegBlock) : Nat := fieldOf (r.word 1) 38 36
def RegBlock.vfmt (r : RegBlock) : Nat := fieldOf (r.word 1) 48 44

/-- The view that a registration block describes, before its frames are latched. -/
def RegBlock.view (r : RegBlock) (ctx : Nat) : View :=
  { ctx := ctx, num := 0, master := r.word 0, nrb := r.word 1 % 2 ^ 18, ncb := fieldOf (r.word 1) 35 18, kind := r.kind,
    mfmt := fieldOf (r.word 1) 43 39, vfmt := r.vfmt, rm := fieldOf (r.word 1) 51 49, sat := bitOf (r.word 1) 52,
    mstride := r.word 2, vbase := r.word 3, vstride := r.word 4, sbase := r.word 5, sstride := r.word 6, alt := r.word 7,
    frames := [] }

/-- Rows of the view and their bytes (R407, R408). -/
def View.viewRows (v : View) : Nat × Nat :=
  if v.kind = 2 then (64 * v.ncb, v.rowBytes * v.nrb) else (32 * v.nrb, v.rowBytes * v.ncb)

/-- VFMT of a kind (R407). -/
def viewFmtOk (kind vfmt : Nat) : Bool :=
  match kind with
  | 0 => 7 ≤ vfmt && vfmt ≤ 9
  | 1 => vfmt = 10
  | _ => vfmt ≤ 5

/-- Check 1 of R409: values, RSVD fields, alignments and strides of R408. -/
def RegBlock.formed (r : RegBlock) : Bool :=
  let v := r.view 0
  v.kind < 4 && v.mfmt < 3 && viewFmtOk v.kind v.vfmt && v.rm < 5 && r.word 1 / 2 ^ 55 == 0 && v.nrb != 0 && v.ncb != 0 &&
    v.master < 2 ^ 48 && v.master % 128 == 0 && v.mstride < 2 ^ 40 && v.mstride % 128 == 0 && 64 * v.ncb * v.mw ≤ v.mstride &&
    v.vbase % 128 == 0 && v.vstride < 2 ^ 40 && v.vstride % 64 == 0 && v.viewRows.2 ≤ v.vstride &&
    v.alt < 2 ^ 48 && v.alt % 65536 == 0 && inDram v.alt v.altLen &&
    (match v.kind with
      | 0 => v.sbase % 64 == 0 && v.sbase < 2 ^ 48 && v.sstride < 2 ^ 40 && 2 * v.ncb ≤ v.sstride
      | 3 => v.sbase % 128 == 0 && v.sstride == 0 && 2 * 2 ^ 48 ≤ v.vbase
      | _ => v.sbase == 0 && v.sstride == 0)

/-- The feature beside VIEWS that a kind needs (R24, R407). -/
def kindFeature (kind : Nat) : Nat :=
  match kind with
  | 0 => 1
  | 1 => 2
  | 2 => 4
  | _ => 7

/-- The 64 KiB frames that `rows` rows of `n` bytes touch, each once. -/
def rowFrames (base stride n rows : Nat) : List Nat :=
  (((List.range rows).map (fun r =>
    let a := base + r * stride
    (List.range ((a + n - 1) / 65536 - a / 65536 + 1)).map (fun k => a / 65536 + k))).flatten).eraseDups

/-- Check 4 of R409: the frames translate for a need, on tier 0 or 1; latches them. -/
def State.latch (s : State) (ctx : Nat) (need : Need) : List Nat → Option (List (Nat × Nat × Nat)) × State
  | [] => (some [], s)
  | f :: r =>
    if 2 ^ 32 ≤ f then (none, s) else
    match s.translate0 ctx need (f * 65536) with
    | (.ok (.dpa a key) _, t) =>
      if !inDram (a / 65536 * 65536) 65536 then (none, t) else
      match t.latch ctx need r with
      | (some l, t') => (some ((f, a / 65536, key) :: l), t')
      | (none, t') => (none, t')
    | (_, t) => (none, t)

/-- The granules of rows, by the latched frames. -/
def View.rowGrans (v : View) (base stride n rows : Nat) : List Nat :=
  (((List.range rows).map (fun r =>
    let a := base + r * stride
    (List.range ((a + n - 1) / 128 - a / 128 + 1)).filterMap (fun k => (v.dpaOf (a / 128 * 128 + 128 * k)).map (fun x => x.1 / 128)))).flatten
  ).eraseDups

/-- Granules of the master, and of the view, scale and alternate areas. -/
def View.masterArea (v : View) : List Nat := v.rowGrans v.master v.mstride (64 * v.ncb * v.mw) (32 * v.nrb)
def View.ownArea (v : View) : List Nat :=
  (if v.kind = 3 then [] else v.rowGrans v.vbase v.vstride v.viewRows.2 v.viewRows.1) ++
    (if v.kind = 0 then v.rowGrans v.sbase v.sstride (2 * v.ncb) (32 * v.nrb) else []) ++
    (List.range (v.altLen / 128)).map (fun k => v.alt / 128 + k)

/-- Checks 5 and 6 of R409. -/
def State.clashes (s : State) (v : View) : Bool :=
  let own := v.ownArea
  let mine := v.masterArea
  own.any (fun gr => mine.contains gr || s.marked gr || !(s.masterBlocks gr).isEmpty) || mine.any s.marked ||
    mine.any (fun gr => 4 ≤ ((s.masterBlocks gr).map (fun e => e.1)).eraseDups.length)

/-- Check 3 of R409. -/
def State.roomFor (s : State) (v : View) : Bool :=
  let l := s.views.filter (fun x => x.ctx == v.ctx)
  l.length < 1023 && (l.map View.nb).sum + v.nb ≤ 2 ^ 24

/-- A view number that the context does not use: which one is the device's choice. -/
def freeViewNum (used : List Nat) (start : Nat) : Nat :=
  (((List.range 1023).map (fun k => (start + k) % 1023 + 1)).find? (fun n => !used.contains n)).getD 0

/-- Every block is computed once (R409). -/
def State.firstVersions (s : State) (i : Nat) : List Nat → State
  | [] => s
  | b :: r => (((s.putTag i b).recompute i b).publish i b).firstVersions i r

/-- XVREG with OP 0 (R409). -/
def State.register (s : State) (ctx : Nat) (r : RegBlock) : XOut :=
  let v := r.view ctx
  let bad (t : State) : XOut := .done t 9 none
  if !r.formed then bad s
  else if !s.feat (kindFeature v.kind) then bad s
  else if !s.roomFor v then bad s
  else
    match s.latch ctx .r (rowFrames v.master v.mstride (64 * v.ncb * v.mw) (32 * v.nrb)) with
    | (none, t) => bad t
    | (some mf, t) =>
      let vf := if v.kind = 3 then [] else rowFrames v.vbase v.vstride v.viewRows.2 v.viewRows.1
      let sf := if v.kind = 0 then rowFrames v.sbase v.sstride (2 * v.ncb) (32 * v.nrb) else []
      match t.latch ctx .w (vf ++ sf).eraseDups with
      | (none, t) => bad t
      | (some wf, t) =>
        let v := { v with frames := (mf ++ wf).eraseDups }
        if t.clashes v then bad t else
        let (d, t) := t.draw
        let v := { v with num := freeViewNum ((t.views.filter (fun x => x.ctx == ctx)).map (fun x => x.num)) d }
        let i := t.views.length
        .done ((({ t with views := t.views ++ [v] } : State).firstVersions i (List.range v.nb))) 0 (some v.num)

/-- Bytes of block `b`'s buffer that hold elements, and those that hold scales. -/
def View.blockRuns (v : View) : List (Nat × Nat) :=
  (0, (if v.kind = 2 then 64 else 32) * v.rowBytes) :: (if v.kind = 0 then [(scaleOfs, 64)] else [])

/-- The version in the alternate buffer is copied into the view area (R410). -/
def State.settleBlock (s : State) (v : View) (b : Nat) : State :=
  if (v.block b).cur = 1 && !(v.block b).noVersion then
    (v.blockRuns.map (fun r => (List.range r.2).map (fun k => r.1 + k))).flatten.foldl (fun t ofs =>
      t.putView v b ofs 0 [Sparse.get 0 t.mem (v.bufDpa b ofs 1).1]) s
  else s

/-- Pins of a view that is gone are dropped. -/
def State.unpin (s : State) (uid : Nat) : State :=
  let keep := fun (l : List Pin) => l.filter (fun p => p.view != uid)
  { s with engines := s.engines.map (fun e =>
      (e.1, { e.2 with
        copies := e.2.copies.map (fun c => { c with pins := keep c.pins }),
        slots := e.2.slots.map (fun k => (k.1, { k.2 with act := k.2.act.map (fun a => { a with pins := keep a.pins }) })) })) }

/-- The view at position `i` is no longer registered. -/
def State.dropView (s : State) (i : Nat) : State :=
  match s.views[i]? with
  | none => s
  | some v => ({ s with views := dropAt s.views i } : State).unpin v.uid

/-- XVREG with OP 1 (R410); nothing while a recomputation is in progress. -/
def State.unregister (s : State) (ctx : Nat) (r : RegBlock) : XOut :=
  let n := r.word 0 % 2 ^ 10
  match posOf (fun (v : View) => v.ctx == ctx && v.num == n) s.views with
  | none => .done s 9 none
  | some i =>
    match s.views[i]? with
    | none => .done s 9 none
    | some v =>
      if v.blocks.any (fun b => b.2.running.isSome) then .wait s else
      .done (((if v.kind = 3 then s else (List.range v.nb).foldl (fun t b => t.settleBlock v b) s)).dropView i) 0 (some n)

/-- XVREG with OP 2 (R410). -/
def State.retry (s : State) (ctx : Nat) (r : RegBlock) : XOut :=
  let n := r.word 0 % 2 ^ 10
  let b := fieldOf (r.word 0) 39 10
  match posOf (fun (v : View) => v.ctx == ctx && v.num == n) s.views with
  | none => .done s 9 none
  | some i =>
    match s.views[i]? with
    | none => .done s 9 none
    | some v =>
      let ask (t : State) (b : Nat) : State := t.modBlock i b (fun x => { x with pending := true })
      if b = 2 ^ 30 - 1 then
        .done (((List.range v.nb).filter (fun b => (v.block b).faulted)).foldl ask s) 0 (some n)
      else if v.nb ≤ b then .done s 9 none
      else .done (ask s b) 0 (some n)

/-- The body of the word XVREG: the registration block says which of the three operations it is (R408). -/
def viewRegister (f : HForm) (s : State) : Outcome State Fault Refusal :=
  extension { user := fun _ => false, server := true, feature := 4 } true true true f (fun h H s =>
    s.operand h (hx H f.a) 64 64 (fun bs s =>
      let r : RegBlock := { w := (List.range 8).map (fun i => ofLE ((bs.drop (8 * i)).take 8)) }
      match r.op with
      | 0 => s.register H.ctx r
      | 1 => s.unregister H.ctx r
      | 2 => s.retry H.ctx r
      | _ => .done s 9 none)) s

/-- XVREG (R325, R409). -/
def execXvreg (f : HForm) (s : State) : Outcome State Fault Refusal := viewRegister f s

/-- XVREG_UNREGISTER (R410): the same word, with OP 1 in its block. -/
def execXvregUnregister (f : HForm) (s : State) : Outcome State Fault Refusal := viewRegister f s

/-- XVREG_RETRY (R410): the same word, with OP 2 in its block. -/
def execXvregRetry (f : HForm) (s : State) : Outcome State Fault Refusal := viewRegister f s

end Sys2Proof.Machine
end

