-- ==== Sys2Proof/Machine/Contexts.lean ====
section
/-! DEFINITION. Contexts through the hub (R397): creation with its checks, teardown with its effects (R48, R51, R211, R251, R280, R335,
R351, R410, R478) and its end; page-table writes (R390), host lines (R345) and host snoops (R433). -/

namespace Sys2Proof.Machine

open Host (Outcome)

/-! ### The hub's gate (R421, R444) -/

/-- A host on port `p` reaches the hub window: its link is up and the boot chain has opened the ports. -/
def State.hostOpen (s : State) (p : Nat) : Bool := p < 2 && s.linkUp p && s.hub.bootState == 3

/-- Sets bit `k` of HUB_ERR (R422). -/
def State.hubErr (s : State) (k : Nat) : State := s.modHub (fun h => { h with err := h.err ||| 2 ^ k })

/-- A register write that acts from the lease holder only (R421). -/
def State.fromHolder (s : State) (p : Nat) (f : State → State) : State :=
  if !s.hostOpen p then s else if s.hub.holder = p then f s else s.hubErr 1

/-! ### Creation (R395, R397) -/

/-- A structure lies wholly in HBM or LPDDR at an alignment (R397). -/
def placed (a n align : Nat) : Bool := a % align == 0 && inDram a n

/-- The record that CREATE reads, as a context. -/
def State.recordAt (s : State) (a : Nat) : Ctx := { rcd := bytesAt s.mem a 256 }

/-- The checks of CREATE on a record (R395, R397). -/
def State.recordOk (s : State) (a : Nat) : Bool :=
  let x := s.recordAt a
  let fq := s.rd x.fqDesc 8
  let lg := fieldOf fq 52 48
  let ranged := fun (n : Nat) => 1 ≤ n && n ≤ 16
  placed a 256 256 && placed x.ptRoot 8192 8192 && (x.winCnt ≤ 2 || placed x.winTab (128 * x.winCnt) 128) &&
    1 ≤ x.tileCnt && x.tileCnt ≤ 16384 && placed (x.field 16 8 % 2 ^ 48) (64 * x.tileCnt) 64 && placed x.handlerTab 32768 8 &&
    placed x.fqDesc 32 32 && 4 ≤ lg && lg ≤ 16 && placed (fq % 2 ^ 48) (64 * 2 ^ lg) 64 && (!s.feat 5 || (placed x.cqDesc 32 32 &&
    (x.pqCnt = 0 || placed x.pqTab (32 * x.pqCnt) 32))) && placed (x.field 72 8 % 2 ^ 48) (2 ^ 18 * 1024) 64 &&
    ranged x.wlog && placed (x.field 80 8 % 2 ^ 48) (256 * 2 ^ x.wlog * 1024) 256 &&
    ranged x.mlog && placed (x.field 88 8 % 2 ^ 48) (256 * 2 ^ x.mlog * 16384) 256 &&
    ranged x.dlog && placed (x.field 96 8 % 2 ^ 48) (256 * 2 ^ x.dlog * 16384) 256 &&
    placed (x.field 104 8 % 2 ^ 48) (147456 * 16384) 256 && x.quota ≤ 4096 && x.steal ≤ 2

/-- HUB_CTX_STAT (R397). -/
def State.ctxStat (s : State) (c result : Nat) : State := s.modHub (fun h => { h with ctxStat := c + result * 256 })

/-- The vector of a finished command (R431). -/
def State.cmdIrq (s : State) (c : Nat) : State :=
  let v := s.hub.irqCtx.get 0 c
  if bitOf v 23 then s.raiseVec (fieldOf v 22 12) else s

/-- Extends MR `i` by a digest (R446). -/
def State.extendMr (s : State) (i : Nat) (d : List Byte) : State :=
  s.modBittern (fun b => { b with mr := b.mr.set i (ofLE (sha512 (toLE 64 (b.mr.get 0 i) ++ d))) })

/-- The state in which the feature writes of the cycle in progress are ignored, and recorded as errors (R22, R422). -/
def State.unwriteFeatures (s : State) : State :=
  match s.hub.featWas with
  | none => s
  | some v => (s.hubErr 0).modHub (fun h => { h with featAcc := v, featWas := none })

/-- The accepted feature vector locks with the first creation, and a write of the same cycle is ignored (R22); MR4 is extended with it
(R446). -/
def State.lockFeatures (s : State) : State :=
  if s.hub.locked then s
  else
    let s := s.unwriteFeatures
    (s.extendMr 4 (toLE 32 s.hub.featAcc ++ List.replicate 32 0)).modHub (fun h => { h with locked := true })

/-- A context is made LIVE from its record (R46, R359, R397, R483). -/
def State.createCtx (s : State) (c a : Nat) : State :=
  let x := s.recordAt a
  let old := s.ctx c
  let t := s.lockFeatures.setCtx c { x with
    state := .live, tiles := old.tiles, seed := if x.seedOf = 0 then 1 else x.seedOf }
  -- GEN goes on where the last context of the number left it (R334)
  let t := old.tiles.foldl (fun t e => if e.1 < x.tileCnt then t.setTile c e.1 e.2 else t) t
  t.modHub (fun h => { h with ctxTc := h.ctxTc.del c, akey := h.akey.del c })

/-- A HUB_CTX_CMD from port `p` (R397): ignored while one is in progress. -/
def State.ctxCommand (s : State) (p : Nat) (f : State → State) : State :=
  s.fromHolder p (fun s => if fieldOf s.hub.ctxStat 10 8 = 1 then s else f s)

/-- CTX_CREATE (R397). -/
def execCtxCreate (p c rcd : Nat) (s : State) : Outcome State Fault Refusal :=
  .next (s.ctxCommand p (fun s =>
    let c := c % 256
    let a := rcd % 2 ^ 48
    if (s.ctx c).state ≠ .free then (s.ctxStat c 2).cmdIrq c
    -- a creation sees the features without a write of its own cycle (R22)
    else if !s.unwriteFeatures.recordOk a then (s.ctxStat c 3).cmdIrq c
    else ((s.createCtx c a).ctxStat c 0).cmdIrq c))

/-! ### Teardown (R397) -/

/-- A COMMIT or yielding instruction that could perform its effects, or is performing them, when the teardown arrives (R51): it performs
a prefix of them in program order. What it files for the dying context is freed with the context. -/
def State.cutCommit (s : State) (g k : Nat) : State :=
  let (d, s) := s.draw
  match s.act g k with
  | none => s
  | some a =>
    if d = 0 || !a.faults.isEmpty then s else
    let run (q : Nat) (e : QEntry) : State :=
      let b := { a with deferred := a.deferred.take (d % (a.deferred.length + 1)) }
      let t := { s.setAct g k b with focus := { g := g, k := k, pc := e.pc, n := e.n, last := e.last } }
      let out := match decodeEntry e.word e.pfx, q with
        | .ok (.commit h f), 2 => execCommit h f t
        | .ok (.yield h f), 2 => execYield h f t
        | .ok (.exit h f), 2 => execExit h f t
        | .ok (.migrate h f), 2 => execMigrate h f t
        | .ok (.await h f), 2 => execAwait h f t
        | .ok (.tacq h f), 2 => execTacq h f t
        | .ok (.lrw h f), 0 => execLrw h f t
        | _, _ => .next t
      match out with
      | .next t' => { t' with focus := s.focus }
      | _ => s
    match a.qs, a.qa with
    | e :: _, _ => run 2 e
    | [], e :: _ => run 0 e
    | [], [] => s

/-- The slots whose activation belongs to a context. -/
def State.slotsOf (s : State) (c : Nat) : List (Nat × Nat) :=
  (s.engines.map (fun e => e.2.slots.filterMap (fun k => match k.2.act with
    | some a => if a.ctx = c then some (e.1, k.1) else none
    | none => none))).flatten

/-- What an engine holds of a context is freed (R211, R251, R280, R282): its copies issue no further sector. -/
def Engine.forget (E : Engine) (c : Nat) : Engine :=
  let F : Engine := { E with
    incoming := if E.incoming = some c then none else E.incoming,
    inbox := E.inbox.filter (fun x => x.msg.ctx != c), spill := E.spill.filter (fun x => x.msg.ctx != c),
    ring := E.ring.del c, saved := E.saved.filter (fun x => x != c),
    copies := (E.copies.filter (fun x => x.ctx != c || !x.flying.isEmpty)).map (fun x =>
      if x.ctx = c then { x with next := max x.next x.total, replay := [], pages := [] } else x),
    mx := { E.mx with queue := E.mx.queue.filter (fun m => m.ctx != c) } }
  if E.ctx = some c then { F with ctx := none, deque := [] } else F

/-- A hart that waits on a future of the context resumes with CONTEXT (R320). -/
def State.wakeHart (s : State) (h : Nat) : State :=
  s.modHart h (fun H => match H.run with
    | .wait _ rd => { H with run := .run, xst := 11 }.setX rd 11
    | _ => H)

/-- The context's futures become free, without delivery (R280). -/
def State.freeFutures (s : State) (c : Nat) : State :=
  let s : State := { s with clusters := s.clusters.map (fun e => (e.1, { e.2 with holds := e.2.holds.filter (fun w => w.ctx != c) })) }
  s.clusters.foldl (fun t e =>
    e.2.futs.foldl (fun t f =>
      if f.2.state != .free && f.2.ctx == c then
        let t := t.dropFut (mkHandle e.1 f.1 f.2.gen)
        (f.2.waiters.filterMap (fun w => w.hart)).foldl State.wakeHart t
      else t) t) s

/-- The context's reservations pass to the next waiter with STATUS 8, and its waiters are removed (R351). -/
def State.passAll (s : State) (c : Nat) : Nat → State
  | 0 => s
  | fuel + 1 =>
    match posOf (fun (r : Resv) => r.holder.ctx == c && r.passing.isNone) s.resvs with
    | none => s
    | some i => (s.passWord i 8).passAll c fuel

def State.freeReservations (s : State) (c : Nat) : State :=
  let t : State := { s with
    resvs := (s.resvs.map (fun r => { r with waiters := r.waiters.filter (fun u => u.ctx != c) })).filter
      (fun r => r.passing.isNone || !r.waiters.isEmpty),
    resvReqs := s.resvReqs.filter (fun q => q.user.ctx != c) }
  t.passAll c t.resvs.length

/-- The group is released (R478): its pending instance ends as an abort without a record, and it is FREE. -/
def State.releaseGroup (s : State) (n : Nat) : State :=
  let t := match s.collRuns.find? (fun r => r.group == n) with
    | some r => s.abortRun r 19 none
    | none => s
  { t with groups := t.groups.set n {}, collRuns := t.collRuns.filter (fun r => r.group != n) }

/-- The views of the context are unregistered without the copy (R410). -/
def State.dropViews (s : State) (c : Nat) : Nat → State
  | 0 => s
  | fuel + 1 =>
    match posOf (fun (v : View) => v.ctx == c) s.views with
    | none => s
    | some i => (s.dropView i).dropViews c fuel

/-- Weight slots that the context owns are no longer VALID (R251). -/
def State.clearWeights (s : State) (c : Nat) : State :=
  { s with units := s.units.map (fun u => (u.1, { u.2 with
      slots := u.2.slots.map (fun w => (w.1, if w.2.ctx = c then { w.2 with valid := false } else w.2)) })) }

/-- The effects of TEARDOWN (R397): the context becomes DYING at once. -/
def State.teardown (s : State) (c : Nat) : State :=
  let slots := s.slotsOf c
  let s1 := slots.foldl (fun t k => t.cutCommit k.1 k.2) s
  let s2 := slots.foldl (fun t k => t.discardAct k.1 k.2) s1
  let s3 := s2.modCtx c (fun x => { x with
    state := .dying, masks := [], tiles := x.tiles.map (fun e =>
      let t := if e.1 < x.tileCnt then s2.tileAt c e.1 else e.2
      (e.1, if t.defd then t.next else t)) })
  let s4 : State := { s3 with
    engines := s3.engines.map (fun e => (e.1, e.2.forget c)),
    requests := s3.requests.filter (fun r => r.ctx != c) }
  let s4 := s4.engines.foldl (fun t e => t.refillAll e.1 64) s4
  let s5 := (s4.freeFutures c).freeReservations c
  let s6 := (List.range 64).foldl (fun t n => if (t.group n).state != .free && (t.group n).ctx == c then t.releaseGroup n else t) s5
  let s7 := ((s6.dropViews c s6.views.length).clearWeights c).releaseWhere (fun t => t.ctx == c) (fun t => t.released false)
  -- what has arrived in the cycle of the teardown is gone (R280)
  (s7.arrivals.filter (fun x => x.1 = c)).foldl (fun t x => t.contextGone x.2.1 x.2.2) s7

/-- CTX_TEARDOWN (R397). -/
def execCtxTeardown (p c : Nat) (s : State) : Outcome State Fault Refusal :=
  .next (s.ctxCommand p (fun s =>
    let c := c % 256
    if (s.ctx c).state ≠ .live then (s.ctxStat c 2).cmdIrq c else (s.teardown c).ctxStat c 1))

/-- Everything of the context has ended (R397). -/
def State.ended (s : State) (c : Nat) : Bool :=
  s.inflight.all (fun f => f.ctx != c) && s.returns.all (fun r => r.ctx != c) && s.chunks.all (fun k => k.ctx != c) &&
    s.injects.all (fun j => j.ctx != c) && s.tenures.all (fun t => t.implicit || t.ctx != c) &&
    s.units.all (fun u => u.2.running.all (fun r => r.cmd.ctx != c))

/-- CTX_TEARDOWN_COMPLETE (R397): sectors of cancelled copies that have not landed do not land any more (R211). -/
def execCtxTeardownComplete (c : Nat) (s : State) : Outcome State Fault Refusal :=
  if (s.ctx c).state ≠ .dying || !s.ended c then .next s else
  let s := s.endTenures (fun t => t.ctx == c)
  let t : State := { s with
    engines := s.engines.map (fun e => (e.1, { e.2 with copies := e.2.copies.filter (fun x => x.ctx != c) })) }
  let t := (t.clearWeights c).modCtx c (fun x => { tiles := x.tiles })
  .next (if s.hub.ctxStat = c + 256 then (t.ctxStat c 0).cmdIrq c else t)

/-! ### Page-table writes (R390) -/

/-- PAGE_TABLE_WRITE (R390): a write to the page-table granule at position `i` of those wanted recalls the translations taken from it: the
segments that hold one are discarded as by pre-emption. The write itself is performed by its own event once every effect performed with
one has completed. -/
def execPageTableWrite (i : Nat) (s : State) : Outcome State Fault Refusal :=
  match s.ptWrites[i]? with
  | none => .next s
  | some gr => .next ((s.holders gr).foldl (fun t k => t.preempt k.1 k.2) { s with ptWrites := dropAt s.ptWrites i })

/-! ### Hosts and lines (R345, R433) -/

/-- The host of a port loses its lines, and the bridge drains its buffers. -/
def State.dropLines (s : State) (p : Nat) : State :=
  let t : State := { s with hostLines := s.hostLines.filter (fun l => l.1 != p) }
  (t.buffers.filter (fun x => x.1 == p)).foldl (fun t x => t.drainBridge x.1 x.2) t

/-- A host reads a line whose check bits are bad: poisoned data, and the error is recorded (R456). -/
def State.hostReads (s : State) (p a : Nat) : State :=
  match s.findsBad a 64 5 0 with
  | none => s
  | some t => t.modHub (fun h => { h with poisoned := (p, a) :: h.poisoned.filter (fun x => x != (p, a)) })

/-- HOST_LINE_REQUEST (R345): a host on port `p` asks for the 64-byte line at `a`: `op` 0 shared, 1 exclusive, 2 gives an exclusive line
back with its data, 3 drops a line, 4 writes the line through. A host's own memory it writes at will (op 4). A host write waits for the
users of a page table that it changes (R390). -/
def execHostLineRequest (p a op : Nat) (data : List Byte) (s : State) : Outcome State Fault Refusal :=
  let a := a / 64 * 64
  let gr := a / 128
  let bs := (data ++ List.replicate 64 0).take 64
  let mine := fun (l : Nat × Nat × Bool) => l.1 == p && l.2.1 == a
  let rest := s.hostLines.filter (fun l => !mine l)
  let w : Writer := { ctx := 0, rec? := false }
  if !s.hostOpen p then .next s
  else if a / 2 ^ 46 = 2 + p then .next (if op = 4 then s.wrBytes a bs else s)
  else if !inDram a 64 then .next s
  else match op with
  | 0 =>
    match s.recall (1024 + p) 256 a 64 false false with
    | none => .next s
    | some t => .next (({ t with hostLines := rest ++ [(p, a, false)] }.drainBridge p gr).hostReads p a)
  | 1 =>
    match s.allowWrite (1024 + p) 256 a 64 false with
    | none => .next (s.wantPt gr)
    | some t => .next (({ t with hostLines := rest ++ [(p, a, true)] } : State).hostReads p a)
  | 2 =>
    if !s.hostLines.any (fun l => mine l && l.2.2) then .next s
    else if s.ptBusy gr then .next (s.wantPt gr)
    else .next (({ s.writeAt w a (s.granKey.get 0 gr) bs with hostLines := rest } : State).drainBridge p gr)
  | 3 => .next ({ s with hostLines := rest }.drainBridge p gr)
  | 4 =>
    match s.allowWrite (1024 + p) 256 a 64 false with
    | none => .next (s.wantPt gr)
    | some t => .next (t.writeAt w a (t.granKey.get 0 gr) bs)
  | _ => .next s

/-- HOST_SNOOP (R433): a host snoops the line at `a` of its own memory: a recall at the bridge. A gated cluster holds nothing modified,
so it is answered from the snoop filter. -/
def execHostSnoop (p a : Nat) (s : State) : Outcome State Fault Refusal :=
  let a := a / 64 * 64
  if !s.hostOpen p || a / 2 ^ 46 ≠ 2 + p then .next s else
  match s.recall (1024 + p) 256 a 64 true false with
  | none => .next s
  | some t => .next t

end Sys2Proof.Machine
end

