-- ==== Sys2Proof/Machine/Hub.lean ====
section
/-! DEFINITION. The hub window (R421, R422): the lease (R423 to R426), features (R427), launch queues (R429, R430), interrupts (R431,
R432), registers without behaviour of their own, and collective groups (R478). -/

namespace Sys2Proof.Machine

open Host (Outcome)

/-! ### The lease (R423 to R426) -/

/-- The vector of HUB_IRQ_SYS (R431). -/
def State.sysIrq (s : State) : State := if bitOf s.hub.irqSys 11 then s.raiseVec (s.hub.irqSys % 2048) else s

/-- ARM of port `p`. -/
def Hub.arm (h : Hub) (p : Nat) : Bool := if p = 0 then h.arm0 else h.arm1
def Hub.setArm (h : Hub) (p : Nat) (b : Bool) : Hub := if p = 0 then { h with arm0 := b } else { h with arm1 := b }
/-- A write to ARM acts for the writing port alone (R424); without DUAL_HOST it is ignored (R23). -/
def Hub.writeArm (h : Hub) (p v : Nat) : Hub := if bitOf h.featAcc 11 then h.setArm p (bitOf v (2 + p)) else h

/-- PERIOD is written, 0 leaving it unchanged, REMAIN restarts and ARM of the writing port is written (R423, R424). -/
def Hub.lease (h : Hub) (p v : Nat) : Hub :=
  let period := if fieldOf v 47 32 = 0 then h.period else fieldOf v 47 32
  ({ h with period := period, remain := period } : Hub).writeArm p v

/-- Every context in one state goes into another. -/
def State.moveCtxs (s : State) (old new : CtxState) : State :=
  { s with ctxs := s.ctxs.map (fun e => if e.2.state = old then (e.1, { e.2 with state := new }) else e) }

/-- A claim (R424, R426). -/
def State.claim (s : State) (p v : Nat) : State :=
  ((s.moveCtxs .held .live).modHub (fun h =>
    { h.lease p v with holder := p, epoch := (h.epoch + 1) % 256, orphan := none })).sysIrq

/-- LEASE_CLAIM (R424): a write to HUB_LEASE from port `p` while no one holds the lease. One from port 1 waits for the end of the cycle in
progress, because one from port 0 in the same cycle is applied first. -/
def execLeaseClaim (p v : Nat) (s : State) : Outcome State Fault Refusal :=
  .next (if s.hostOpen p && s.hub.holder = 2 then
    (if p = 1 && s.sameCycle then s.modHub (fun h => { h with lateClaim := some v }) else s.claim p v)
  else s)

/-- The cycle in progress ends, and a claim of port 1 that waited for it is applied (R424). -/
def State.closeCycle (s : State) : State :=
  let t := s.endCycle
  match t.hub.lateClaim with
  | none => t
  | some v =>
    let u := t.modHub (fun h => { h with lateClaim := none })
    if u.hub.holder = 2 then u.claim 1 v else u.modHub (fun h => h.writeArm 1 v)

/-- LEASE_RENEW (R424): a write from the holder. -/
def execLeaseRenew (p v : Nat) (s : State) : Outcome State Fault Refusal :=
  .next (if s.hostOpen p && s.hub.holder = p then s.modHub (fun h => h.lease p v) else s)

/-- LEASE_ARM (R424): a write from the other port. -/
def execLeaseArm (p v : Nat) (s : State) : Outcome State Fault Refusal :=
  .next (if s.hostOpen p && s.hub.holder ≠ 2 && s.hub.holder ≠ p then s.modHub (fun h => h.writeArm p v) else s)

/-- Slots whose activation may be pre-empted: its context is in a state, and it performs no effects. -/
def State.idleSlots (s : State) (st : CtxState) : List (Nat × Nat) :=
  (s.engines.map (fun e => e.2.slots.filterMap (fun k => match k.2.act with
    | some a => if (s.ctx a.ctx).state = st && !a.busy then some (e.1, k.1) else none
    | none => none))).flatten

/-- Every LIVE context becomes HELD and its activations are pre-empted (R426). An activation that performs effects follows when it has
performed them. -/
def State.holdAll (s : State) : State :=
  ((s.idleSlots .live).foldl (fun t k => t.preempt k.1 k.2) s).moveCtxs .live .held

/-- Accesses of window 1 on their way may have reached the bridge of the holder before the lease leaves it (R425): which have is the
device's choice, one bit of a free number each. -/
def State.atBridge (s : State) : State :=
  let p := s.hub.holder
  let (d, s) := s.draw
  let at0 := fun (va i : Nat) (port : Option Nat) => if va / 2 ^ 48 = 1 && port.isNone && bitOf d i then some p else port
  let segs := fun (i : Nat) (l : List Seg) => l.zipIdx.map (fun e => { e.1 with port := at0 e.1.va (3 * (64 * i + e.2)) e.1.port })
  { s with
    inflight := s.inflight.zipIdx.map (fun e => { e.1 with port := at0 e.1.va (3 * e.2 + 1) e.1.port })
    engines := s.engines.map (fun x => (x.1, { x.2 with
      slots := x.2.slots.map (fun k => (k.1, { k.2 with act := k.2.act.map (fun a => { a with
        loads := a.loads.zipIdx.map (fun e => { e.1 with port := at0 e.1.va (3 * (64 * x.1 + 16 * k.1 + e.2) + 2) e.1.port }) }) }))
      copies := x.2.copies.map (fun c => { c with
        flying := c.flying.zipIdx.map (fun e => { e.1 with
          src := segs (4096 * x.1 + 2 * e.2) e.1.src, dst := segs (4096 * x.1 + 2 * e.2 + 1) e.1.dst }) }) })) }

/-- The connections that the former holder opened are reset (R426): which they are is the world's choice, and resolutions that wait on one
are not applied. -/
def State.resetConnections (s : State) : State :=
  let (d, s) := s.draw
  { s with injects := s.injects.map (fun j => if j.conn.any (bitOf d) then { j with reset := true } else j) }

/-- The lease expires (R425): the standby takes over, or no one holds it. -/
def State.expire (s : State) : State :=
  let y := 1 - s.hub.holder
  let s := s.atBridge
  if s.feat 11 && s.hub.arm y && s.linkUp y then
    (s.modHub (fun h => { h.setArm y false with holder := y, remain := h.period, epoch := (h.epoch + 1) % 256 })).sysIrq
  else (s.holdAll.resetConnections.modHub (fun h => { h with holder := 2, remain := 0, orphan := some s.hubTime })).sysIrq

/-- LEASE_EXPIRY (R425). -/
def execLeaseExpiry (s : State) : Outcome State Fault Refusal :=
  .next (if s.hub.holder < 2 && s.hub.remain = 0 then s.expire else s)

/-- The link of port `p` is up or down. -/
def State.setLink (s : State) (p : Nat) (b : Bool) : State :=
  s.modHub (fun h => if p = 0 then { h with link0 := b } else { h with link1 := b })

/-- HOST_WARM_RESTART (R425): a link-down, a hot reset or a CXL reset of port `p`, which of them is the world's choice. The host's lines are
lost with it. -/
def execHostWarmRestart (p : Nat) (s : State) : Outcome State Fault Refusal :=
  if 2 ≤ p then .next s else
  let (d, s) := s.draw
  let t := if d % 2 = 0 then s.setLink p false else s
  let t := t.dropLines p
  .next (if t.hub.holder = p then t.expire else t.modHub (fun h => h.setArm p false))

/-- HOST_LINK_UP (R425). -/
def execHostLinkUp (p : Nat) (s : State) : Outcome State Fault Refusal := .next (if p < 2 then s.setLink p true else s)

/-- The HELD contexts. -/
def State.heldCtxs (s : State) : List Nat := (s.ctxs.filter (fun e => e.2.state == .held)).map (fun e => e.1)

/-- GRACE has passed since the lease was left without a holder (R426). -/
def State.graceOver (s : State) : Bool :=
  s.hub.holder == 2 && s.hub.orphan.any (fun t => t + s.hub.grace * 1000 < s.hubTime)

/-- GRACE_EXPIRY (R426). -/
def execGraceExpiry (s : State) : Outcome State Fault Refusal :=
  .next (if s.graceOver then
    (s.heldCtxs.foldl State.teardown s).modHub (fun h => { h with orphan := none })
  else s)

/-! ### Features (R21, R22, R427) -/

/-- The advertised vector (R21). -/
def advertised : Nat := 0x3FFFF

/-- FEATURE_ACCEPT_WRITE (R427): word `i` of the accepted vector. Words 1 to 3 advertise nothing. -/
def execFeatureAcceptWrite (p i v : Nat) (s : State) : Outcome State Fault Refusal :=
  if 4 ≤ i then .next s else
  .next (s.fromHolder p (fun s =>
    if s.hub.locked then s.hubErr 0
    else if i = 0 then
      s.modHub (fun h => { h with
        featAcc := (v &&& advertised) ||| 1, featWas := if s.sameCycle then some (h.featWas.getD h.featAcc) else none })
    else s))

/-! ### Launch queues (R429, R430) -/

def State.lq (s : State) (q : Nat) : LaunchQ := s.hub.queues.get {} q
def State.setLq (s : State) (q : Nat) (L : LaunchQ) : State := s.modHub (fun h => { h with queues := h.queues.set q L })
def LaunchQ.en (L : LaunchQ) : Bool := bitOf L.cfg 0
def LaunchQ.ring (L : LaunchQ) : Nat := fieldOf L.cfg 47 8 * 256
def LaunchQ.log (L : LaunchQ) : Nat := fieldOf L.cfg 52 48
def LaunchQ.ctx (L : LaunchQ) : Nat := fieldOf L.cfg 60 53
/-- Limits of HUB_LQ_CFG (R429). -/
def LaunchQ.formed (L : LaunchQ) : Bool := 1 ≤ L.log && L.log ≤ 16 && inDram L.ring (256 * 2 ^ L.log)

/-- LAUNCH_QUEUE_ENABLE (R429): a write to HUB_LQ_CFG. -/
def execLaunchQueueEnable (p q v : Nat) (s : State) : Outcome State Fault Refusal :=
  if 64 ≤ q then .next s else
  .next (s.fromHolder p (fun s =>
    let L := s.lq q
    if L.en then s.setLq q { L with cfg := setField L.cfg 0 0 v }
    else
      let w : LaunchQ := { L with cfg := fieldOf v 60 8 * 256 }
      if !bitOf v 0 then s.setLq q w
      else if !w.formed then (s.setLq q w).hubErr 5
      else s.setLq q { w with cfg := w.cfg + 1, head := L.tail, stat := 0 }))

/-- LAUNCH_QUEUE_TAIL_WRITE (R430). -/
def execLaunchQueueTailWrite (p q v : Nat) (s : State) : Outcome State Fault Refusal :=
  if 64 ≤ q then .next s else
  .next (s.fromHolder p (fun s =>
    let L : LaunchQ := { s.lq q with tail := v % 2 ^ 32 }
    if L.en && 2 ^ L.log < (L.tail + 2 ^ 32 - L.head) % 2 ^ 32 then (s.setLq q { L with cfg := setField L.cfg 0 0 0 }).hubErr 2
    else s.setLq q L))

/-- The default route of a launch (R430). -/
def launchRoute (target : Nat) : Nat :=
  let t := fieldOf target 23 14
  mkRoute 0 [8 * fieldOf t 9 8 + t % 16 % 8, fieldOf t 7 4, t % 16, fieldOf target 13 10] 0

/-- The message and the route that the hub injects for a ring entry (R430). -/
def launchEntry (ctx : Nat) (bs : List Byte) : Msg × Nat :=
  let m : Msg := { words := (List.range 16).map (fun i => ofLE ((bs.drop (8 * i)).take 8)) }
  let r := ofLE ((bs.drop 128).take 16)
  (m.setWord 0 (setField (setField (setField m.hdr 15 8 ctx) 23 16 ctx) 26 24 2),
    if rHops r = 0 then launchRoute m.target else r)

/-- LAUNCH_INJECT (R430): the entry at HEAD of queue `q`. A host that holds one of its lines modified gives it up first (R345). -/
def execLaunchInject (q : Nat) (s : State) : Outcome State Fault Refusal :=
  let L := s.lq q
  if 64 ≤ q || !L.en || 2 ≤ s.hub.holder || L.head = L.tail then .next s else
  let a := L.ring + 256 * (L.head % 2 ^ L.log)
  match (s.recall hubParty 256 a 128 false false).bind (fun t => t.recall hubParty 256 (a + 128) 128 false false) with
  | none => .next s
  | some s =>
    let (m, route) := launchEntry L.ctx (bytesAt s.mem a 256)
    let t := s.setLq q { L with head := (L.head + 1) % 2 ^ 32 }
    if (s.ctx L.ctx).state ≠ .live then .next (t.setLq q { t.lq q with stat := min (L.stat + 1) (2 ^ 32 - 1) })
    else if m.kind = 1 then .next (t.deadLetter L.ctx L.ctx (msgInfo 3 m.target))
    else .next (t.inject .hub L.ctx route 0 tcMsg 4 m.target (.msg m))

/-! ### Interrupts (R431, R432) -/

/-- MSIX_SEND (R432): the pending vector at position `i` goes to the holder once every earlier device write into the memory of that host
has been accepted. -/
def execMsixSend (i : Nat) (s : State) : Outcome State Fault Refusal :=
  match s.hub.pendIrq[i]? with
  | none => .next s
  | some (v, cover) =>
    let p := s.hub.holder
    let late := fun (f : InFlight) => decide (f.id < cover) &&
      (match s.rePort f.va f.tgt f.port with
        | .dpa a _ => a / 2 ^ 46 == 2 + p
        | .remote _ _ => false)
    if 2 ≤ p || !s.linkUp p || s.inflight.any late then .next s
    else .next (s.modHub (fun h => { h with pendIrq := dropAt h.pendIrq i, sentIrq := h.sentIrq ++ [(p, v)] }))

/-! ### Registers without behaviour of their own (R421, R442, R483) -/

/-- An ingest stream may be set up only while it is disabled (R438). -/
def Hub.setStream (h : Hub) (n : Nat) (f : Ingest → Ingest) : Hub :=
  let x := h.ingest.get {} n
  if bitOf x.cfg 0 then h else { h with ingest := h.ingest.set n (f x) }

/-- What a permitted write of `v` to the register at `ofs` does, where it has no event of its own; registers of a feature
that is not accepted ignore it (R23). -/
def Hub.plain (h : Hub) (ctxs : Bool) (ofs v : Nat) : Hub :=
  if ofs = 0x10 then { h with grace := v % 2 ^ 32 }
  else if ofs = 0x38 then (if 60 ≤ fieldOf v 15 8 && fieldOf v 15 8 ≤ 100 then { h with throt := fieldOf v 15 8 } else h)
  else if ofs = 0xA0 then { h with mce := v % 2 ^ 60 }
  else if ofs = 0x100 then { h with irqSys := v % 2 ^ 12 }
  else if ofs = 0x208 then (if ctxs then h else { h with devid := v % 2 ^ 16 })
  else if 0x800 ≤ ofs && ofs < 0x1000 then { h with irqCtx := h.irqCtx.set (ofs / 8 % 256) (v % 2 ^ 24) }
  else if 0x2000 ≤ ofs && ofs < 0x2800 && bitOf h.featAcc 7 then { h with rkey := h.rkey.set (ofs / 8 % 256) (v % 2 ^ 64) }
  else if 0x3000 ≤ ofs && ofs < 0x3800 then { h with ctxTc := h.ctxTc.set (ofs / 8 % 256) (v % 2 ^ 34) }
  else if 0x3800 ≤ ofs && ofs < 0x4000 then { h with akey := h.akey.set (ofs / 8 % 256) (v % 2 ^ 64) }
  else if 0x4000 ≤ ofs && ofs < 0x4800 && bitOf h.featAcc 8 then
    (match ofs / 8 % 4 with
      | 1 => h.setStream (ofs / 32 % 64) (fun x => { x with ring := v % 2 ^ 48 })
      | 2 => h.setStream (ofs / 32 % 64) (fun x => { x with state := v % 2 ^ 48 })
      | 3 => h.setStream (ofs / 32 % 64) (fun x => { x with mark := v % 2 ^ 42 })
      | _ => h)
  else h

/-- The table of R421 gives the register to the holder (with R442 and R483). -/
def holderReg (ofs : Nat) : Bool :=
  ofs == 0x10 || (0x28 ≤ ofs && ofs ≤ 0x38) || (0x60 ≤ ofs && ofs ≤ 0xA8) || ofs == 0x100 || (0x200 ≤ ofs && ofs ≤ 0x210) ||
    (0x220 ≤ ofs && ofs ≤ 0x230) || (0x800 ≤ ofs && ofs < 0x1800) ||
    (0x2000 ≤ ofs && ofs < 0x2800) || (0x3000 ≤ ofs && ofs < 0x4800)

/-- A context exists in any state but FREE. -/
def State.anyCtx (s : State) : Bool := s.ctxs.any (fun e => e.2.state != .free)

/-- The Causeway map holds a copy of NZ_DEVID (R473). -/
def State.showDevid (s : State) (ofs : Nat) : State :=
  if ofs = 0x208 && s.hub.bootState = 3 then s.wr (s.hub.cwm + 8) 2 s.hub.devid else s

/-- REGISTER_WRITE (R421): `n` bytes of `v` at offset `ofs` of the window, from port `p`. Registers whose writes are events of their own
change by those. -/
def execRegisterWrite (p ofs n v : Nat) (s : State) : Outcome State Fault Refusal :=
  if !s.hostOpen p then .next s
  else if n ≠ 8 || ofs % 8 ≠ 0 then .next (s.hubErr 4)
  else if ofs = 0x08 then .next s
  else if ofs = 0x18 then .next (s.modHub (fun h => { h with err := h.err &&& (2 ^ 6 - 1 - v % 2 ^ 6) }))
  else if !holderReg ofs || s.hub.holder ≠ p then .next (s.hubErr 1)
  else .next ((s.modHub (fun h => h.plain s.anyCtx ofs v)).showDevid ofs)

/-! ### Collective groups (R478, R483) -/

/-- The group record at a device physical address, when it is a good one (R478). -/
def State.groupRecord (s : State) (ctx a : Nat) : Option Group :=
  let mask := s.rd a 2048
  let w := s.rd (a + 2048) 2
  let b := s.rd (a + 2050) 1
  if a % 64 = 0 && inDram a 2112 && mask ≠ 0 && w < 2 ^ 14 && bitOf mask w && b < 8 && s.rd (a + 2051) 1 = 0 &&
      s.rd (a + 2056) 56 = 0 then
    some { state := .registered, ctx := ctx, mask := mask, root := w, q := b % 2, u := b / 2, tmo := s.rd (a + 2052) 4 }
  else none

/-- NZ_COLL_STAT (R483). -/
def State.collResult (s : State) (grp result : Nat) : State := s.modHub (fun h => { h with collStat := grp + result * 64 })

/-- The group's instance counters of its participants restart (R478). -/
def State.resetSeqs (s : State) (grp mask : Nat) : State :=
  { s with engines := s.engines.map (fun e =>
      if bitOf mask e.1 then (e.1, { e.2 with collSeq := e.2.collSeq.set grp 0 }) else e) }

/-- COLL_REGISTER (R478). -/
def execCollRegister (p grp ctx rcd : Nat) (s : State) : Outcome State Fault Refusal :=
  .next (s.fromHolder p (fun s =>
    let grp := grp % 64
    let ctx := ctx % 256
    if (s.group grp).state ≠ .free || (s.ctx ctx).state ≠ .live then s.collResult grp 2
    else
      match s.groupRecord ctx (rcd % 2 ^ 48) with
      | none => s.collResult grp 3
      | some x => (({ s with groups := s.groups.set grp x } : State).resetSeqs grp x.mask).collResult grp 0))

/-- COLL_RELEASE (R478). -/
def execCollRelease (p grp : Nat) (s : State) : Outcome State Fault Refusal :=
  .next (s.fromHolder p (fun s =>
    let grp := grp % 64
    if (s.group grp).state = .free then s.collResult grp 2 else (s.releaseGroup grp).collResult grp 0))

end Sys2Proof.Machine
end

