-- ==== Sys2Proof/Machine/Fabric.lean ====
section
/-! DEFINITION. The fabric (R458 to R477): switches that forward packets and send route faults, the TC0 shaper, the Nalornaz links, and the
remote agent. -/

namespace Sys2Proof.Machine

open Host (Outcome)

/-! ### Switches (R458, R465 to R467) -/

/-- The reverse path of a packet that stands at its switch with hop pointer `k`, having arrived on port `a` (R466). -/
def reversePath (route k a : Nat) : Nat :=
  mkRoute (k - rTurn route) (a :: (List.range k).map (fun j => rHop route (k - 1 - j))) 15

def Payload.isFault : Payload → Bool
  | .routeFault _ _ _ => true
  | _ => false

/-- A packet that may travel a reverse path (R462). -/
def Packet.back (p : Packet) : Bool := p.kind == 2 || p.kind == 7

/-- The packet fails check `c` at switch `sw`: it is discarded, and a route fault goes back (R467). -/
def State.failHop (s : State) (i sw port c : Nat) (p : Packet) : State :=
  let t := s.dropPacket i
  if p.body.isFault then t.countDiscard sw
  else
    let info := routeInfo c p.ptr sw
    let q : Packet := { p with
      route := reversePath p.route p.ptr (port % 64), ptr := 0, kind := 7, cls := 1, len := 1, srcDev := s.hub.devid, spec := info,
      place := .switch sw 0, body := .routeFault info p.header p.body }
    ({ t with packets := t.packets ++ [q] } : State).countFault sw

/-! #### Output ports (R471) -/

/-- The output port that a packet at a switch asks for, where its hop passes the checks. -/
def State.outPort (s : State) (p : Packet) : Option Nat :=
  match p.place with
  | .switch sw port =>
    if p.malformed then none else
    match s.checkHop p.route p.ptr sw port p.back with
    | .goes _ => some (portKey sw (decide (p.ptr < rTurn p.route)) (rHop p.route p.ptr))
    | .fails _ => none
  | _ => none

/-- The weights of TC1, TC2 and TC3. -/
def tcWeight (tc : Nat) : Int := [0, 8, 4, 1].getD tc 0

def Arb.share (x : Arb) (tc : Nat) : Int := x.left.getD (tc - 1) 0

/-- A new round, as often as it takes, once no waiting TC has flits left: a share left unused is lost. -/
def Arb.renew (x : Arb) (waiting : Nat → Bool) : Nat → Arb
  | 0 => x
  | fuel + 1 =>
    if [1, 2, 3].any (fun k => waiting k && 0 < x.share k) then x
    else ({ x with left := [1, 2, 3].map (fun k => (if waiting k then x.share k else 0) + tcWeight k) } : Arb).renew waiting fuel

/-- Packet `p` is the next of its output port among the packets that wait there: TC0 first, then the lowest TC with flits left in its round
(log 89); RSP before REQ and COL, which alternate. -/
def Arb.next (x : Arb) (l : List Packet) (p : Packet) : Bool :=
  let waits := fun (k : Nat) => l.any (fun q => q.tc == k)
  let tc := if waits 0 then some 0 else [1, 2, 3].find? (fun k => waits k && 0 < x.share k)
  let has := fun (c : Nat) => l.any (fun q => q.tc == p.tc && q.cls == c)
  tc == some p.tc &&
    (if has 1 then p.cls == 1
     else if has 0 && has 2 then p.cls == (if x.col.getD p.tc false then 0 else 2) else true)

/-- The port has sent a packet. -/
def Arb.sent (x : Arb) (p : Packet) : Arb :=
  { left := if p.tc = 0 then x.left else modifyAt x.left (p.tc - 1) (fun v => v - p.flits)
    col := if p.cls = 1 then x.col else modifyAt x.col p.tc (fun _ => p.cls == 2) }

/-- The port's turn falls on packet `p` (R471): its service after it. -/
def State.portTurn (s : State) (key : Nat) (p : Packet) : Option Arb :=
  let l := s.packets.filter (fun q => s.outPort q == some key)
  let x := (s.arbs.get {} key).renew (fun k => l.any (fun q => q.tc == k)) 16
  if x.next l p then some (x.sent p) else none

/-- SWITCH_FORWARD (R465, R471): the switch at which packet `i` stands takes its next hop, when its output port's turn falls on it. A packet
that leaves on a Nalornaz link is another device's. -/
def execSwitchForward (i : Nat) (s : State) : Outcome State Fault Refusal :=
  match s.packetFirst i with
  | none => .next s
  | some p =>
    match p.place with
    | .switch sw port =>
      if p.malformed then .next ((s.dropPacket i).countDiscard sw)
      else
        match s.checkHop p.route p.ptr sw port p.back with
        | .fails c => .next (s.failHop i sw port c p)
        | .goes b =>
          let key := portKey sw (decide (p.ptr < rTurn p.route)) (rHop p.route p.ptr)
          match s.portTurn key p with
          | none => .next s
          | some x =>
          let s0 := s
          let s : State := { s with arbs := s.arbs.set key x }
          let q : Packet := { p with route := rSetHop p.route p.ptr (port % 64), ptr := p.ptr + 1 }
          match b with
          | .switch sw' port' => .next { s with packets := s.packets.set i { q with place := .switch sw' port' } }
          | .endpoint _ _ => .next { s with packets := s.packets.set i { q with place := .endpoint sw (rHop p.route p.ptr) } }
          | .link _ => .next (if s.owesPod p.src p.ctx p.cover then s0 else s.dropPacket i)
    | _ => .next s

/-- ROUTE_RESPONSE_TIMEOUT (R467): neither the response nor a route fault of a performed effect has arrived within 2 ms: the request has
been lost on its way (DESIGN CHOICE, log 108). -/
def execRouteResponseTimeout (i : Nat) (s : State) : Outcome State Fault Refusal :=
  match s.nextFlight i with
  | none => .next s
  | some f => .next (if f.since + 2000 ≤ s.hubTime && s.unshaped f.ticket then (s.dropFlight i).effectRecord f 15 (2 ^ 24) else s)

/-- The same for the load at position `i` of those in flight: it raises the fault. -/
def State.loadTimeout (s : State) (g k i : Nat) : State :=
  match (s.act g k).bind (fun a => a.nextLoad i) with
  | none => s
  | some l => if l.since + 2000 ≤ s.hubTime && s.unshaped l.ticket then s.failLoad g k i l 15 (2 ^ 24) l.va 0 else s

/-- The same for the sector at position `j` of those in flight of the copy at position `i`: it is skipped (R209). -/
def State.sectorTimeout (s : State) (g i j : Nat) : State :=
  match (s.eng g).copies[i]? with
  | none => s
  | some c =>
    match c.flying[j]? with
    | none => s
    | some x =>
      if x.since + 2000 ≤ s.hubTime && s.unshaped x.ticket then
        let va := ((x.src ++ x.dst).map (fun y => y.va)).headD 0
        s.putCopy g i (s.skip { c with flying := dropAt c.flying j } x.ref
          { code := 15, info := c.sectorAt (c.global true) x.ref, page := s.pageAt c.ctx va })
      else s

/-! ### The TC0 shaper (R470) -/

/-- A bucket pays a charge of TC0 (R470), where it holds it. What a bucket holds at first is not stated: a free value. -/
def State.pay (s : State) (key flits : Nat) : Bool × State :=
  let (held, s) : Nat × State := match s.buckets.find key with
    | some b => (b.flits, s)
    | none => let (d, t) := s.draw; (d % (tcBurst (s.ctxTc (key % 256)) + 1), t)
  let ok := decide (flits ≤ held)
  (ok, { s with buckets := s.buckets.set key { flits := if ok then held - flits else held } })

/-- What waits with a ticket leaves the shaper: a packet stands at its first switch, and a contribution arrives there now (R482). -/
def State.unshape (s : State) (i ticket : Nat) (tc : Nat) : State :=
  { s with
    shaper := dropAt s.shaper i
    packets := s.packets.map (fun p => if p.ticket = ticket && p.place = .shaper then
      { p with tc := tc, place := .switch p.src.entry.1 p.src.entry.2 } else p)
    collRuns := s.collRuns.map (fun r => { r with
      parts := r.parts.map (fun p => if p.ticket = ticket then { p with since := s.hubTime } else p) }) }

/-- TC0_SHAPER_RELEASE (R470): the first that waits of its context and source leaves once the bucket holds its charge; in TC1 where the
context has no rate. -/
def execTc0ShaperRelease (i : Nat) (s : State) : Outcome State Fault Refusal :=
  match s.shaper[i]? with
  | none => .next s
  | some x =>
    if (s.shaper.take i).any (fun y => y.key == x.key) then .next s
    else if tcRate (s.ctxTc (x.key % 256)) = 0 then .next (s.unshape i x.ticket 1)
    else
      let (ok, t) := s.pay x.key x.flits
      .next (if ok then t.unshape i x.ticket 0 else t)

/-- A bucket gains RATE for a µs, up to BURST (R470). -/
def State.fillBuckets (s : State) : State :=
  { s with buckets := s.buckets.map (fun e =>
      let v := s.ctxTc (e.1 % 256)
      (e.1, { flits := min (tcBurst v) (e.2.flits + tcRate v) })) }

/-! ### Nalornaz links (R459, R460) -/

/-- LINK_ADMIN_WRITE (R460): bits written 0 disable their links; bits written 1 take DISABLED ones to DOWN. -/
def execLinkAdminWrite (p v : Nat) (s : State) : Outcome State Fault Refusal :=
  .next (s.fromHolder p (fun s =>
    (List.range 32).foldl (fun t k =>
      let x := t.linkPort k
      if bitOf v k then (if x.state = .disabled then t.setLinkPort k { x with state := .down } else t)
      else if x.state = .disabled then t
      else t.setLinkPort k { x with state := .disabled, peerSw := 0, peerPort := 0, peerDev := 0 })
      (s.modHub (fun h => { h with linkAdmin := v % 2 ^ 32 }))))

/-- A port that leaves its training or UP is DOWN (R460), and its record names no partner. -/
def Port.fall (x : Port) : Port := { x with state := .down, peerSw := 0, peerPort := 0, peerDev := 0, replayed := [] }

/-- RECEIVER_LOCK (R460). -/
def execReceiverLock (k : Nat) (s : State) : Outcome State Fault Refusal :=
  let x := s.linkPort k
  .next (if k < 32 && x.state = .down then s.setLinkPort k { x with state := .training, clean := s.hubTime } else s)

/-- TRAINING_COMPLETE (R460, R473): after 10 µs of clean flits: the partner's switch, port and device, and the delay. -/
def execTrainingComplete (k sw port dev delay : Nat) (s : State) : Outcome State Fault Refusal :=
  let x := s.linkPort k
  .next (if k < 32 && x.state = .training && x.clean + 10 ≤ s.hubTime then
    s.setLinkPort k { x with
      state := .up, peerSw := sw % 2 ^ 16, peerPort := port % 64, peerDev := dev % 2 ^ 16, delay := delay % 2 ^ 16 }
  else s)

/-- LINK_DOWN (R460): loss of lock. -/
def execLinkDown (k : Nat) (s : State) : Outcome State Fault Refusal :=
  let x := s.linkPort k
  .next (if k < 32 && (x.state = .training || x.state = .up) then s.setLinkPort k x.fall else s)

/-- LINK_REPLAY (R459, R460): REPLAYS advances; more than 16 replays in 1 ms bring the port DOWN. -/
def execLinkReplay (k : Nat) (s : State) : Outcome State Fault Refusal :=
  let x := s.linkPort k
  .next (if k < 32 && (x.state = .training || x.state = .up) then
    let y : Port := { x with
      replays := min (x.replays + 1) (2 ^ 16 - 1), clean := s.hubTime
      replayed := s.hubTime :: x.replayed.filter (fun t => s.hubTime < t + 1000) }
    if 16 < y.replayed.length then s.setLinkPort k y.fall
    else
      let t : State := { s with ports := s.ports.set (linkKey k) y }
      if t.hub.bootState = 3 then t.writePort 1184 true (32 + k) else t
  else s)

/-! ### The remote agent (R477) -/

/-- The response to a remote requester: code and data. -/
def State.respond (s : State) (code v : Nat) : State := s.modHub (fun h => { h with served := h.served ++ [(code, v)] })

/-- What a remote request asks for: `op` 0 a read and 1 a write of `n` bytes, else the atomic `op - 2` on a word of `n` bytes, with
operand and comparand in the low and high words of `v`. -/
def remoteNeed (op : Nat) : Need := if op = 0 then .r else if op = 1 then .w else .rw

/-- The translated access at its point of atomicity (R346, R415, R477): the data and the state, or the state alone while it waits. -/
def State.serveAt (s : State) (ctx op a key n v : Nat) : Except State (Nat × State) :=
  match (if op = 0 then s.recall hubParty 256 a n false false else s.allowWrite hubParty 256 a n false) with
  | none => .error (if op = 0 then s else s.wantPt (a / 128))
  | some t =>
    if op = 1 then .ok (0, t.writeAt { ctx := ctx } a key (toLE n v)) else
    match t.readFresh { cl := hubParty, ctx := 256 } a n key with
    | .error t => .error t
    | .ok (bs, t) =>
      .ok (ofLE bs, if op = 0 then t
        else t.writeAt { ctx := ctx } a key
          (toLE n (atomNew (op - 2) (8 * n) (ofLE bs) (v % 2 ^ (8 * n)) (v / 2 ^ 64 % 2 ^ (8 * n)))))

/-- The home route from L3 (R477), by the planes of R393. -/
def hubHomeRoute (h : Nat) : Nat :=
  if h < 128 then mkRoute 0 [8 * (h / 32) + h % 32 / 4, 16 + h % 4] 3 else mkRoute 0 [h - 96] 3

/-- The ROUTE fault, if any, of the agent's access to the home of an address. -/
def State.agentFault (s : State) (a : Nat) : Option Nat :=
  match (homeOf a).map (fun h => s.walkRoute (hubHomeRoute h) 19 0 1184 52) with
  | some (.fault i) => some i
  | _ => none

/-- A request that the remote agent can read: it lies in one granule and names an operation with its width. -/
def remoteFormed (op o n : Nat) : Bool :=
  !(n = 0 || 128 < o % 128 + n || 13 ≤ op || (op = 12 && n ≠ 4) || (2 ≤ op && n ≠ 4 && n ≠ 8) || (2 ≤ op && o % n ≠ 0))

/-- The agent serves a request (R477), its own access in RCTX's MEM class: the code and data of the answer, or the state alone while it
waits. -/
def State.serveRemote (s : State) (peer rctx key op o n v : Nat) : Except State ((Nat × Nat) × State) :=
  let ctx := rctx % 256
  if peer ≠ s.hub.devid || s.hub.akey.get 0 ctx = 0 || key ≠ s.hub.akey.get 0 ctx || (s.ctx ctx).state ≠ .live then .ok ((16, 0), s)
  else
    match s.translate0 ctx (remoteNeed op) o with
    | (.bad x, t) =>
      if x.code = 7 then
        .ok ((7, x.reason), t.append ctx { code := 7, src := 4, addr := o, reason := x.reason, share := x.share })
      else .ok ((x.code, 0), t)
    | (.ok (.remote _ _) _, _) => .error s
    | (.ok (.dpa a k) _, t) =>
      match t.agentFault a with
      | some info => .ok ((15, info), t.hopFault info)
      | none =>
        let w := t.ctxTc ctx
        let (ok, u) := if effTc w (tcMem w) = 0 then t.pay (256 * Source.remoteAgent.shaper + ctx) (2 + payloadFlits n) else (true, t)
        if !ok then .error u else
        match u.serveAt ctx op a k n v with
        | .error u => .error { u with buckets := t.buckets }
        | .ok (d, u) => .ok ((0, d), u)

/-- REMOTE_ACCESS (R477): a request of at most one granule that names PEER, RCTX and KEY, through the Ethernet endpoint (R435). -/
def execRemoteAccess (peer rctx key op o n v : Nat) (s : State) : Outcome State Fault Refusal :=
  let o := o % 2 ^ 48
  if !remoteFormed op o n then .next s else
  match s.serveRemote peer rctx key op o n v with
  | .error t => .next t
  | .ok ((code, d), t) => .next (t.respond code d)

/-! ### Packets from other devices (R458, R461, R466) -/

/-- What the payload of a packet from another device carries: a message (R31), a memory request for the remote agent (log 109), else
contents that are not laid out. -/
def payloadOf (kind : Nat) (ws : List Nat) : Payload :=
  if kind = 0 then .msg { words := padTo 16 ws }
  else if kind = 1 then
    .request (ws.getD 0 0 % 2 ^ 16) (ws.getD 1 0 % 256) (ws.getD 2 0 % 2 ^ 64) (ws.getD 3 0 % 16) (ws.getD 4 0 % 2 ^ 48) (ws.getD 5 0 % 256)
      (ofLE ((ws.drop 6).map (toLE 8)).flatten)
  else .other ws

/-- The packet stands again where it stood. -/
def State.addPacket (s : State) (i : Nat) (p : Packet) : State := { s with packets := s.packets.take i ++ p :: s.packets.drop i }

/-- A packet arrives from Nalornaz link `k` (R461): its header flit and the words of its payload. -/
def State.linkPacket (s : State) (k header : Nat) (ws : List Nat) : State :=
  let h := header / 2 ^ 128
  let (d, s) := s.draw
  if 32 ≤ k || (s.linkPort k).state ≠ .up then s else
  { s with packets := s.packets ++ [{
      route := header % 2 ^ 128, ptr := h % 2 ^ 5, tc := fieldOf h 6 5, cls := fieldOf h 8 7, kind := fieldOf h 12 9, len := fieldOf h 16 13
      ctx := fieldOf h 24 17, srcDev := fieldOf h 40 25, spec := fieldOf h 127 64, src := .endpoint d, place := .switch 1184 (96 + k)
      body := payloadOf (fieldOf h 12 9) ws }] }

/-- The answer to the request that has arrived with packet `p` (R466): on the reverse path, in the class of the request. -/
def State.answer (s : State) (p : Packet) (code v n : Nat) : State :=
  let k := rHops p.route - 1
  { s with packets := s.packets ++ [{
      route := reversePath p.route k (rHop p.route k), tc := p.tc, cls := 1, kind := 2, len := payloadFlits n, ctx := p.ctx
      srcDev := s.hub.devid, spec := code, src := .remoteAgent, place := .switch 1184 52, body := .answer code v }] }

/-- A packet that is no message, future operation or route fault has reached its endpoint: the remote agent serves a request of a peer; what
another endpoint does with one is not laid out, and it leaves the fabric (log 109). -/
def State.packetEnd (s : State) (i : Nat) : State :=
  match s.packetFirst i with
  | none => s
  | some p =>
    match p.body, p.place with
    | .request peer rctx key op o n v, .endpoint 1184 52 =>
      if !remoteFormed op o n then s.dropPacket i else
      match (s.dropPacket i).serveRemote peer rctx key op o n v with
      | .error t => t.addPacket i p
      | .ok ((code, d), t) => t.answer p code d (if op = 1 || code ≠ 0 then 0 else n)
    | .request _ _ _ _ _ _ _, .endpoint _ _ => s.dropPacket i
    | .answer _ _, .endpoint _ _ => s.dropPacket i
    | .other _, .endpoint _ _ => s.dropPacket i
    | _, _ => s

end Sys2Proof.Machine
end

