-- ==== Sys2Proof/Machine/Uee.lean ====
section
/-! DEFINITION. The Ultra Ethernet endpoint: messages (R435), remote resolutions (R436, R437) and raw ingest (R438 to R440). -/

namespace Sys2Proof.Machine

open Host (Outcome)

/-! ### Accesses of a device unit by device address -/

/-- What a write of the unit to `n` bytes at `a` waits for (R343, R345, R390), granule by granule. -/
def State.allowRange (s : State) (a n : Nat) : Option State :=
  (cutRun (n / 128 + 2) a n).foldl (fun t p => t.bind (fun t => t.allowWrite hubParty 256 p.1 p.2 false)) (some s)

/-- A write of the unit that waits recalls the users of the page tables that it changes (R390). -/
def State.wantRange (s : State) (a n : Nat) : State := (cutRun (n / 128 + 2) a n).foldl (fun t p => t.wantPt (p.1 / 128)) s

/-- One write of the unit for a context. -/
def State.unitWrite (s : State) (ctx a : Nat) (bs : List Byte) : State :=
  s.writeAll { ctx := ctx } ((cutRun (bs.length / 128 + 2) a bs.length).map (fun p =>
    { a := p.1, key := s.granKey.get 0 (p.1 / 128), bs := (bs.drop (p.1 - a)).take p.2 }))

/-! ### Messages and remote resolutions (R435 to R437) -/

/-- ENDPOINT_MESSAGE_INJECT (R435): the 128 bytes of a message and the 16 of its route. Which connection it came on is the world's
choice. -/
def execEndpointMessageInject (msg route : List Byte) (s : State) : Outcome State Fault Refusal :=
  if msg.length ≠ 128 || route.length ≠ 16 then .next s else
  let m : Msg := { words := (List.range 16).map (fun i => ofLE ((msg.drop (8 * i)).take 8)) }
  let m := m.withSrc 3
  let (d, s) := s.draw
  .next (s.inject (.endpoint d) m.ctx (ofLE route) 0 tcMsg 4 m.target (.msg m))

/-- UEE_RKEY(c) as it reads (R23, R436). -/
def State.rkey (s : State) (c : Nat) : Nat := if s.feat 7 then s.hub.rkey.get 0 c else 0

/-- The effect at the future's agent of a resolution on a connection (R437). -/
def State.resolution (s : State) (conn op ctx hd value : Nat) (toks : List Byte) : XOut :=
  if hGen hd = 0 || (op = 2 && !decAmount value) then .done s 9 none
  else if (s.cluster (hCluster hd)).gated then .wait s
  else
    let x := s.findFut hd ctx
    match s.futRoute (.endpoint conn) (hCluster hd) with
    | some info => (s.hopFault info).noRoute ctx hd
    | none =>
    match op with
    | 0 => s.resolveAt ctx hd value x
    | 1 => s.injectAt ctx hd value toks none (some conn) x
    | _ => s.decAt ctx hd value x

/-- REMOTE_RESOLUTION (R437): the payload of R436. Which connection it came on is the world's choice (log 56); it waits for an earlier one
of its connection. -/
def execRemoteResolution (payload : List Byte) (s : State) : Outcome State Fault Refusal :=
  let (conn, s) := s.draw
  let field := fun (o n : Nat) => ofLE ((payload.drop o).take n)
  let hd := field 0 4
  let op := field 4 1
  let ctx := field 5 1
  let ntok := field 24 2
  if payload.length < 32 || s.injects.any (fun j => j.conn = some conn) then .next s
  else if 3 ≤ op || s.rkey ctx = 0 || field 8 8 ≠ s.rkey ctx || (op = 1 && (4096 < ntok || !s.feat 5)) then .next (s.reply hd 9)
  else if op = 1 && payload.length < 32 + 4 * ntok then .next s
  else if !(s.ctx ctx).exists then .next (s.reply hd 11)
  else
    match s.resolution conn op ctx hd (field 16 8) ((payload.drop 32).take (4 * ntok)) with
    | .done t st _ => .next (t.reply hd st)
    | .held t => .next t
    | .wait t => .next t
    | .trap _ => .next s

/-! ### Ingest streams (R438) -/

def State.stream (s : State) (n : Nat) : Ingest := s.hub.ingest.get {} n
def State.setStream (s : State) (n : Nat) (x : Ingest) : State := s.modHub (fun h => { h with ingest := h.ingest.set n x })

def Ingest.en (x : Ingest) : Bool := bitOf x.cfg 0
def Ingest.drop (x : Ingest) : Bool := bitOf x.cfg 1
def Ingest.prio (x : Ingest) : Nat := fieldOf x.cfg 4 2
def Ingest.portMask (x : Ingest) : Nat := fieldOf x.cfg 12 5
def Ingest.udp (x : Ingest) : Nat := fieldOf x.cfg 28 13
def Ingest.log (x : Ingest) : Nat := fieldOf x.cfg 33 29
def Ingest.slotLog (x : Ingest) : Nat := fieldOf x.cfg 37 34
def Ingest.ctx (x : Ingest) : Nat := fieldOf x.cfg 45 38
def Ingest.high (x : Ingest) : Nat := fieldOf x.mark 20 0
def Ingest.low (x : Ingest) : Nat := fieldOf x.mark 41 21

/-- Limits of R438. -/
def Ingest.formed (x : Ingest) : Bool :=
  4 ≤ x.log && x.log ≤ 20 && 8 ≤ x.slotLog && x.slotLog ≤ 13 && placed x.ring (2 ^ (x.log + x.slotLog)) 4096 &&
    x.state % 64 = 0 && x.low < x.high && x.high ≤ 2 ^ x.log

/-- Ports on which another stream keeps a priority paused (R440). -/
def Hub.pausedPorts (h : Hub) (n prio : Nat) : Nat :=
  h.ingest.foldl (fun m e => if e.1 != n && e.2.paused && e.2.prio == prio then m ||| e.2.portMask else m) 0

/-- A PFC frame with quanta goes out on the ports of a mask. -/
def State.pfcFrame (s : State) (mask prio quanta : Nat) : State :=
  if mask = 0 then s else s.modHub (fun h => { h with pfc := h.pfc ++ [(mask, prio, quanta)] })

/-- Quanta 0 on the stream's ports that no other paused stream keeps (R440). -/
def State.endPause (s : State) (n : Nat) : State :=
  let x := s.stream n
  if !x.paused then s else
  (s.pfcFrame (x.portMask &&& (255 - s.hub.pausedPorts n x.prio)) x.prio 0).setStream n { x with paused := false }

/-- INGEST_ENABLE (R438, R440): a write to UEE_ING_CFG. Where the arrival count of R439 begins is not stated: a free value. -/
def execIngestEnable (p i v : Nat) (s : State) : Outcome State Fault Refusal :=
  if 64 ≤ i then .next s else
  .next (s.fromHolder p (fun s =>
    if !s.feat 8 then s else
    let x := s.stream i
    if x.en then
      if bitOf v 0 then s
      else
        let t := s.endPause i
        t.setStream i { t.stream i with cfg := setField x.cfg 0 0 0 }
    else
      let w : Ingest := { x with cfg := fieldOf v 57 1 * 2 }
      if !bitOf v 0 then s.setStream i w
      else if !w.formed then (s.setStream i w).hubErr 5
      else
        let (d, s) := s.draw
        s.setStream i { w with cfg := w.cfg + 1, count := d % 2 ^ 32, paused := false }))

/-! ### Datagrams (R439) and pauses (R440) -/

/-- HEAD, TAIL and the occupancy of a stream. -/
def State.ingTail (s : State) (x : Ingest) : Nat := s.rd (x.state + 4) 4
def State.ingUsed (s : State) (x : Ingest) : Nat := (s.ingTail x + 2 ^ 32 - s.rd x.state 4) % 2 ^ 32

/-- A saturating counter of the state block advances. -/
def State.bump (s : State) (x : Ingest) (o : Nat) : State :=
  s.unitWrite x.ctx (x.state + o) (toLE 8 (min (s.rd (x.state + o) 8 + 1) (2 ^ 64 - 1)))

/-- The pause state of stream `n` is evaluated (R440). -/
def State.evalPause (s : State) (n : Nat) : State :=
  let x := s.stream n
  if !x.en || x.drop || !s.feat 8 then s
  else if x.paused then (if s.ingUsed x ≤ x.low then s.endPause n else s)
  else if x.high ≤ s.ingUsed x then
    let t := (s.pfcFrame x.portMask x.prio 0xFFFF).bump x 32
    let t := if bitOf x.cfg 57 then t.raiseVec (fieldOf x.cfg 56 46) else t
    t.setStream n { x with paused := true, pausedAt := s.hubTime }
  else s

/-- The lowest-numbered enabled stream that a datagram matches (R439). -/
def State.streamFor (s : State) (port dst : Nat) : Option Nat :=
  (List.range 64).find? (fun n => (s.stream n).en && bitOf (s.stream n).portMask port && (s.stream n).udp == dst)

/-- The slot that a datagram fills (R439): header and payload. -/
def slotBytes (port count time : Nat) (payload : List Byte) : List Byte :=
  toLE 2 payload.length ++ toLE 1 port ++ toLE 1 0 ++ toLE 4 count ++ toLE 8 time ++ payload

/-- A datagram lands in slot TAIL; then TAIL, then the doorbell (R439). -/
def State.landDatagram (s : State) (x : Ingest) (port : Nat) (payload : List Byte) : State :=
  let tail := s.ingTail x
  let at0 := x.ring + tail % 2 ^ x.log * 2 ^ x.slotLog
  let tail' := (tail + 1) % 2 ^ 32
  let t := (s.unitWrite x.ctx at0 (slotBytes port (x.count % 2 ^ 32) s.hubTime payload)).unitWrite x.ctx (x.state + 4) (toLE 4 tail')
  let bell := t.rd (x.state + 8) 4
  if bell ≠ 0 && tail' % 2 ^ t.rd (x.state + 12) 1 = 0 then t.sendFut .hub x.ctx bell (.resolve tail') else t

/-- INGEST_DATAGRAM (R439): a datagram on Ethernet port `port` for UDP port `dst`. -/
def execIngestDatagram (port dst : Nat) (payload : List Byte) (s : State) : Outcome State Fault Refusal :=
  if 8 ≤ port || !s.feat 8 then .next s else
  match s.streamFor port dst with
  | none => .next s
  | some n =>
    let x := s.stream n
    let slot := x.ring + s.ingTail x % 2 ^ x.log * 2 ^ x.slotLog
    match (s.allowRange x.state 64).bind (fun t => t.allowRange slot (2 ^ x.slotLog)) with
    | none => .next ((s.wantRange x.state 64).wantRange slot (2 ^ x.slotLog))
    | some s =>
      let x := { x with count := (x.count + 1) % 2 ^ 32 }
      let s := s.setStream n x
      let t :=
        if 2 ^ x.slotLog - 16 < payload.length then s.bump x 24
        else if 2 ^ x.log ≤ s.ingUsed x then s.bump x 16
        else s.landDatagram x port payload
      .next (t.evalPause n)

/-- The evaluation of a stream at a tick (R440); nothing while its state block cannot be written. -/
def State.pfcTick (s : State) (i : Nat) : State :=
  if !(s.stream i).en then s
  else ((s.allowRange (s.stream i).state 64).map (fun t => t.evalPause i)).getD (s.wantRange (s.stream i).state 64)

/-- INGEST_PFC_TICK (R440). -/
def execIngestPfcTick (i : Nat) (s : State) : Outcome State Fault Refusal := .next (s.pfcTick i)

/-- A paused stream whose last pause frame is 20 µs old, and whose occupancy is still above LOW, repeats it (R440). -/
def State.pfcRepeat (s : State) (i : Nat) : State :=
  let x := s.stream i
  if x.en && x.paused && x.low < s.ingUsed x && x.pausedAt + 20 ≤ s.hubTime then
    (s.pfcFrame x.portMask x.prio 0xFFFF).setStream i { x with pausedAt := s.hubTime }
  else s

/-- PFC_PAUSE_REPEAT (R440). -/
def execPfcPauseRepeat (i : Nat) (s : State) : Outcome State Fault Refusal := .next (s.pfcRepeat i)

end Sys2Proof.Machine
end

