-- ==== Sys2Proof/Machine/Boot.lean ====
section
/-! DEFINITION. The management core: resets and the boot chain (R433, R434, R443 to R446, R494), its memory map and management block (R441,
R492, R493), clock plans (R452 to R454) and key slots (R448). -/

namespace Sys2Proof.Machine

open Host (Outcome)

/-! ### Clock plans (R452, R453) -/

def planField (bs : List Byte) (o n : Nat) : Nat := ofLE ((bs.drop o).take n)
/-- Frequency and down-spread of a domain; low and high of a band. -/
def planFreq (bs : List Byte) (d : Nat) : Nat := planField bs (8 + 8 * d) 4
def planSpread (bs : List Byte) (d : Nat) : Nat := planField bs (12 + 8 * d) 2
def planBand (bs : List Byte) (b : Nat) : Nat × Nat := (planField bs (72 + 8 * b) 4, planField bs (76 + 8 * b) 4)

/-- The permitted frequencies of a domain (R452). -/
def planRange (d : Nat) : Nat × Nat :=
  match d with
  | 0 => (500000, 1300000)
  | 1 => (3000000, 4000000)
  | 2 => (1000000, 1750000)
  | 3 => (156250, 156250)
  | 4 => (156250, 156250)
  | _ => (100000, 100000)

/-- Every field lies within R452. -/
def planInRange (bs : List Byte) : Bool :=
  planField bs 0 1 ≤ 32 && 1 ≤ planField bs 1 1 && planField bs 1 1 ≤ 64 && planField bs 2 6 == 0 &&
    (List.range 6).all (fun d => (planRange d).1 ≤ planFreq bs d && planFreq bs d ≤ (planRange d).2 &&
      planSpread bs d ≤ 5000 && planField bs (14 + 8 * d) 2 == 0) &&
    planSpread bs 5 == 0 && planField bs 56 16 == 0 && (List.range 32).all (fun b => (planBand bs b).1 ≤ (planBand bs b).2)

/-- The checked clocks with their spreads (R452, R453). -/
def planClocks (bs : List Byte) : List (Nat × Nat) :=
  (2 * planFreq bs 0, planSpread bs 0) :: (List.range 6).map (fun d => (planFreq bs d, planSpread bs d))

/-- No checked interval meets a band (R453), computed exactly. -/
def planClear (bs : List Byte) : Bool :=
  (planClocks bs).all (fun c => (List.range (planField bs 1 1)).all (fun i =>
    (List.range (planField bs 0 1)).all (fun b =>
      let k := i + 1
      !((planBand bs b).1 ≤ k * c.1 && k * c.1 * (1000000 - c.2) ≤ (planBand bs b).2 * 1000000))))

/-- MGT_PLAN's RESULT for a plan: 0 accepted, 3 out of range, 4 band conflict (R454). -/
def planResult (bs : List Byte) : Nat := if !planInRange bs then 3 else if !planClear bs then 4 else 0

/-- PLAN_LOAD (R454). -/
def execPlanLoad (p a : Nat) (s : State) : Outcome State Fault Refusal :=
  .next (s.fromHolder p (fun s =>
    let result := fun (n : Nat) => s.modHub (fun h => { h with planRes := n })
    let a := a / 8 * 8 % 2 ^ 48
    if s.hub.planRes = 1 then s
    else if !s.feat 10 then result 5
    else if s.anyCtx then result 2
    else if !inDram a 328 then result 3
    else
      let bs := bytesAt s.mem a 328
      if planResult bs ≠ 0 then result (planResult bs)
      else ({ s.extendMr 3 (sha512 bs) with plan := bs } : State).modHub (fun h => { h with planRes := 1, planAddr := a })))

/-- PLL_MOVE_COMPLETE (R454). -/
def execPllMoveComplete (s : State) : Outcome State Fault Refusal :=
  .next (if s.hub.planRes = 1 then s.modHub (fun h => { h with planRes := 0 }) else s)

/-! ### Key slots (R448) -/

/-- A command to MGT_KEY: ignored while one is in progress; `f` acts on a usable slot. -/
def State.keyCommand (s : State) (p slot : Nat) (f : Nat → State → State) : State :=
  s.fromHolder p (fun s =>
    if s.hub.keyRes = 1 then s
    else if slot % 4096 = 0 || !s.feat 13 then s.modHub (fun h => { h with keyRes := 2 })
    else f (slot % 4096) s)

def State.startKey (s : State) (slot key : Nat) : State :=
  s.modHub (fun h => { h with keyMove := some (slot, key), keyRes := 1 })

/-- Step 1 of a load (R448): Bittern reads the key and writes zero over it, once parties that hold the line have given it up; until then the
command is in progress. -/
def State.readKey (s : State) (slot a : Nat) : State :=
  match s.allowWrite hubParty 256 a 64 false with
  | none => (s.wantPt (a / 128)).modHub (fun h => { h with keyWait := some (slot, a), keyRes := 1 })
  | some t =>
    ((t.writeAt { ctx := 0, rec? := false } a (t.granKey.get 0 (a / 128)) (toLE 64 0)).startKey slot (t.rd a 64)).modHub
      (fun h => { h with keyWait := none })

/-- KEY_LOAD (R448). -/
def execKeyLoad (p slot a : Nat) (s : State) : Outcome State Fault Refusal :=
  let a := a / 64 * 64 % 2 ^ 48
  .next (s.keyCommand p slot (fun k s =>
    if !inDram a 64 then s.modHub (fun h => { h with keyRes := 3 }) else s.readKey k a))

/-- KEY_CLEAR (R448). -/
def execKeyClear (p slot : Nat) (s : State) : Outcome State Fault Refusal :=
  .next (s.keyCommand p slot (fun k s => s.startKey k 0))

/-- The slot switches. What was written under the old key keeps it, under an index that no access carries (R329, R448). -/
def State.switchKey (s : State) (slot key : Nat) : State :=
  if s.keys.get 0 slot = key then s else
  let old := 4096 + s.nextId
  { s with
    nextId := s.nextId + 1, keys := (s.keys.set old (s.keys.get 0 slot)).set slot key
    granKey := s.granKey.map (fun e => if e.2 = slot then (e.1, old) else e) }

/-- KEY_SLOT_SWITCH (R448): a load whose key has not been read reads it first. -/
def execKeySlotSwitch (s : State) : Outcome State Fault Refusal :=
  .next (match s.hub.keyMove with
    | none => (s.hub.keyWait.map (fun w => s.readKey w.1 w.2)).getD s
    | some (slot, key) => (s.switchKey slot key).modHub (fun h => { h with keyMove := none, keyRes := 0 }))

/-! ### The boot chain (R443 to R446, R494) -/

/-- Bytes of the boot partition. -/
def Bittern.image (b : Bittern) (o n : Nat) : List Byte := bytesAt b.part o n

/-- The first check of R444 that an image at a partition offset fails, as CODE. -/
def Bittern.imageFault (b : Bittern) (o limit minVer : Nat) : Option Nat :=
  let rd := fun (i n : Nat) => ofLE (b.image (o + i) n)
  let len := rd 8 8
  if rd 0 4 ≠ 0x314A5247 then some 1
  else if len % 8 ≠ 0 || len < 8 || limit < len then some 2
  else if rd 112 16 ≠ 0 then some 1
  else if ofLE (sha512 (b.image (o + 16) 32)) ≠ b.rootKey then some 3
  else if rd 4 4 < minVer then some 4
  else if !edVerify (b.image (o + 16) 32) (b.image (o + 48) 64) (b.image o 48 ++ sha512 (b.image (o + 128) len)) then some 5
  else none

/-- SHA-512 of a whole image. -/
def Bittern.imageDigest (b : Bittern) (o : Nat) : List Byte := sha512 (b.image o (128 + ofLE (b.image (o + 8) 8)))

def State.setBoot (s : State) (state stage code : Nat) : State :=
  s.modHub (fun h => { h with bootState := state, bootStage := stage, bootCode := code })

/-- The ROM's part (R444, steps 1 and 2): stage 1 lies at partition offset 0. -/
def State.romBoot (s : State) : State :=
  match s.bittern.imageFault 0 (2 ^ 24) s.bittern.minVer1 with
  | some c => s.setBoot 4 1 c
  | none => (s.extendMr 0 (s.bittern.imageDigest 0)).setBoot 1 0 0

/-- Memory after a reset: the hosts' memory and the flash tier keep their contents; what HBM and LPDDR hold is not stated (log 18). -/
def State.memAfter (s : State) (n : Nat) : List Host.Cell :=
  (Config.memoryAfter n).foldl (fun m c => if c.1 < 3 * 2 ^ 40 then Sparse.put 0 m c.1 c.2 else m)
    (s.mem.filter (fun c => 3 * 2 ^ 40 ≤ c.1))

/-- A device reset (R444, R446): everything returns to its reset value but what the part is built with, and the ROM starts. -/
def State.deviceReset (s : State) : State :=
  ({ State.reset with
    agenda := s.agenda, free := s.free + 1, mem := s.memAfter s.free, hub := { ras0 := s.hub.ras0, ras1 := s.hub.ras1 }
    bittern :=
      { rom := s.bittern.rom, part := s.bittern.part, rootKey := s.bittern.rootKey, minVer1 := s.bittern.minVer1,
        minVer2 := s.bittern.minVer2, entropyNext := s.bittern.entropyNext } } : State).romBoot

/-- DEVICE_RESET (R444). -/
def execDeviceReset (s : State) : Outcome State Fault Refusal := .next s.deviceReset

/-- The offset of the device image, and a field of its configuration block (R445, R492). -/
def imageAt : Nat := 0x01000000
def Bittern.config (b : Bittern) (o n : Nat) : Nat := ofLE (b.image (imageAt + 128 + o) n)

/-- The configuration block's fields are in range, and its plan is accepted (R445). -/
def Bittern.configOk (b : Bittern) : Bool :=
  placed (b.config 512 8) (16 * 146 * 1024) 4096 && b.config 520 8 < 2 ^ 48 && placed (b.config 856 8) mapBytes 4096 &&
    b.config 864 160 == 0 && planResult (b.image (imageAt + 128 + 528) 328) == 0

/-- A port of the table leads to an endpoint or another switch of the package. -/
def onPackage (k : Nat) : Bool :=
  match beyond (k / 128) (decide (64 ≤ k % 128)) (k % 64) with
  | some (.link _) => false
  | some _ => true
  | none => false

/-- The on-package ports have trained, and those that failed are DOWN for good (R460); which ones is a free choice. -/
def State.trainPorts (s : State) : State :=
  let (d, t) := s.draw
  { t with ports := ((Config.failedPorts d).filter onPackage).foldl (fun m k => m.set k { state := .down }) t.ports }

/-- What stage 1 loads and releases (R300, R303, R393, R444, R460, R473). -/
def State.releaseDevice (s : State) : State :=
  let b := s.bittern
  let plan := b.image (imageAt + 128 + 528) 328
  let entry := b.config 520 8
  let t : State := { s.extendMr 3 (sha512 plan) with
    plan := plan, serverMask := if b.config 0 512 = 0 then none else some (b.config 0 512)
    -- every cluster is watched for idleness from here on (R451)
    clusters := (List.range 1024).map (fun c => (c, {}))
    harts := (List.range 4096).map (fun h => (h, { pc := entry, run := .run })) }
  let t := t.modHub (fun h => { h with hrt := b.config 512 8, cwm := b.config 856 8 })
  (t.trainPorts.writeRoutes.writeMap).setBoot 3 0 0

/-- BOOT_STAGE1 (R444, R445, R494); `trained` says whether memory training succeeds. -/
def execBootStage1 (trained : Bool) (s : State) : Outcome State Fault Refusal :=
  if s.hub.bootState ≠ 1 then .next s else
  let b := s.bittern
  match b.imageFault imageAt (2 ^ 30) b.minVer2 with
  | some c => .next (s.setBoot 4 2 c)
  | none =>
    let t := ((s.extendMr 1 (b.imageDigest imageAt)).extendMr 2 (sha512 (b.image (imageAt + 128) 1024))).setBoot 2 0 0
    let (d, t) := t.draw
    if !trained && (b.configOk || d % 2 = 0) then .next (t.setBoot 4 2 7)
    else if !b.configOk then .next (t.setBoot 4 2 6)
    else .next t.releaseDevice

/-! ### Resets (R433, R434) -/

/-- A performed effect is on its way into a host's memory. -/
def State.hostFlying (s : State) : Bool :=
  s.inflight.any (fun f => match f.tgt with
    | .dpa a _ => decide (2 ^ 47 ≤ a)
    | .remote _ _ => false)

/-- A reset without write-back (R434): granules of the hosts that were modified read as last written back, an uncorrectable internal error
stands in the RAS capability of each port whose lines were lost, those of device memory that its host held modified included, and
COH_LOSS is set. -/
def State.fatalReset (s : State) : State :=
  let lost := fun (p : Nat) => s.hostBack.any (fun e => 128 * e.1 / 2 ^ 46 = 2 + p) || s.hostLines.any (fun l => l.1 = p && l.2.2)
  let t : State := { s with mem := s.hostBack.foldl (fun m e => putBytes m (128 * e.1) e.2) s.mem }
  (t.modHub (fun h => { h with ras0 := h.ras0 || lost 0, ras1 := h.ras1 || lost 1 })).deviceReset.hubErr 3

/-- ORDERLY_RESET (R433, R450): once everything modified has been written back; later than 100 ms after a trip it is fatal. -/
def execOrderlyReset (s : State) : Outcome State Fault Refusal :=
  .next (if s.hub.trip.any (fun t => t + 100000 < s.hubTime) then s.fatalReset
    else if s.hostFlying then s else s.deviceReset)

/-- FATAL_RESET (R434). -/
def execFatalReset (s : State) : Outcome State Fault Refusal := .next s.fatalReset

/-! ### The management block (R441, R446, R493) -/

/-- A store to MR_CMD (R446, R493). -/
def State.mrCmd (s : State) (v : Nat) : State :=
  let d := ((List.range 8).map (fun k => toLE 8 (s.bittern.din.get 0 k))).flatten
  if v % 16 < 4 then s.extendMr (v % 16) d else s

/-- MR_EXTEND (R493). -/
def execMrExtend (v : Nat) (s : State) : Outcome State Fault Refusal := .next (s.mrCmd v)

/-- A store to BOOT_SET (R493). -/
def State.bootSet (s : State) (v : Nat) : State := s.setBoot (v % 16) (fieldOf v 7 4) (fieldOf v 15 8)

/-- BOOT_SET (R493). -/
def execBootSet (v : Nat) (s : State) : Outcome State Fault Refusal := .next (s.bootSet v)

/-- Fresh bits of the entropy source (R493). -/
def State.entropy64 (s : State) : Nat × State :=
  (Config.entropy s.bittern.entropyNext % 2 ^ 64, s.modBittern (fun b => { b with entropyNext := b.entropyNext + 1 }))

/-- RNG_READ (R493). -/
def execRngRead (s : State) : Outcome State Fault Refusal :=
  let (d, t) := s.entropy64
  .next (t.modBittern (fun b => { b with lastLoad := some d }))

/-- The bytes of SRAM at an address of Bittern, when the range lies in SRAM (R492). -/
def Bittern.operand (b : Bittern) (a n : Nat) : Option (List Byte) :=
  if 0x08000000 ≤ a && a + n ≤ 0x08040000 then some (bytesAt b.sram (a - 0x08000000) n) else none

/-- A store to ED_CTL (R493). -/
def Bittern.verify (b : Bittern) (v : Nat) : Bittern :=
  let len := v % 2 ^ 16
  if !bitOf v 16 || b.edStat = 1 then b
  else
    match b.operand b.edA 32, b.operand b.edS 64, b.operand b.edM len with
    | some a, some r, some m => if 4096 < len then { b with edStat := 3 } else { b with edStat := 1, edRun := some (a, r, m) }
    | _, _, _ => { b with edStat := 3 }

/-- ED25519_VERIFY (R493). -/
def execEd25519Verify (v : Nat) (s : State) : Outcome State Fault Refusal := .next (s.modBittern (fun b => b.verify v))

/-- ED25519_VERIFY_COMPLETE (R441). -/
def execEd25519VerifyComplete (s : State) : Outcome State Fault Refusal :=
  .next (match s.bittern.edRun with
    | none => s
    | some (a, r, m) => s.modBittern (fun b => { b with edRun := none, edStat := if edVerify a r m then 2 else 3 }))

/-! ### The memory map (R492) -/

/-- Where an address of Bittern leads: a memory with an offset, reversed or not, the fuses, the management block, or nowhere. -/
inductive BPlace where
  | rom (o : Nat)
  | sram (o : Nat) (rev : Bool)
  | part (o : Nat) (rev : Bool)
  | fuse (o : Nat)
  | block (o : Nat)
  | none
  deriving DecidableEq, Repr

/-- The map of R492 for `n` bytes at `a`. -/
def bPlace (a n : Nat) : BPlace :=
  let within := fun (lo len : Nat) => lo ≤ a && a + n ≤ lo + len
  if within 0 0x10000 then .rom a
  else if within 0x08000000 0x40000 then .sram (a - 0x08000000) false
  else if within 0x09000000 0x40000 then .sram (a - 0x09000000) true
  else if within 0x10000000 0x40000000 then .part (a - 0x10000000) false
  else if within 0x50000000 0x40000000 then .part (a - 0x50000000) true
  else if within 0xA0000000 0x48 then .fuse (a - 0xA0000000)
  else if within 0xB0000000 0x1000 then .block (a - 0xB0000000)
  else .none

/-- A load from the management block (R493): the value; RNG is apart. -/
def State.blockLoad (s : State) (o : Nat) : Nat :=
  let b := s.bittern
  if o < 0x40 then b.din.get 0 (o / 8)
  else if 0x100 ≤ o && o < 0x500 then
    let k := (o - 0x100) / 8
    ofLE (((toLE 64 (b.mr.get 0 (k / 8))).drop (8 * (k % 8))).take 8)
  else if o = 0x800 then b.edA
  else if o = 0x808 then b.edS
  else if o = 0x810 then b.edM
  else if o = 0x820 then b.edStat
  else 0

/-- A store to a register of the management block whose stores are no event of their own (R493). -/
def Bittern.blockStore (b : Bittern) (o v : Nat) : Bittern :=
  if o < 0x40 then { b with din := b.din.set (o / 8) (v % 2 ^ 64) }
  else if o = 0x800 then { b with edA := v % 2 ^ 48 }
  else if o = 0x808 then { b with edS := v % 2 ^ 48 }
  else if o = 0x810 then { b with edM := v % 2 ^ 48 }
  else b

/-- The bytes of ROM, of the partition and of the fuses. -/
def Bittern.fuses (b : Bittern) : List Byte := toLE 64 b.rootKey ++ toLE 4 b.minVer1 ++ toLE 4 b.minVer2

/-- The result of an access: a loaded value, or 0 for a store. -/
def State.bResult (s : State) (v : Nat) : State := s.modBittern (fun b => { b with lastLoad := some v })

/-- A trap of Bittern, which has M mode alone (R441; PRESUMED, log 104): the RISC-V machine-mode entry. -/
def Bittern.trap (b : Bittern) (cause tval : Nat) : Bittern :=
  { b with
    mepc := b.pc, mcause := cause, mtval := tval, pc := b.mtvec / 4 * 4
    mstatus := setField (setField (setField b.mstatus 7 7 (fieldOf b.mstatus 3 3)) 12 11 3) 3 3 0 }

/-- The access-fault exception of an access's kind (R492): 0 a load, 1 a store, 2 a fetch, 3 to 11 an AMO, 12 an LR, 13 an SC. -/
def State.bFault (s : State) (kind a : Nat) : State :=
  s.modBittern (fun b =>
    ({ b with lastLoad := none } : Bittern).trap (if kind = 0 || kind = 12 then 5 else if kind = 2 then 1 else 7) (a % 2 ^ 64))

/-- What an access leaves in a word that holds `x` (R196 gives the operations of an AMO their numbers): a store of `v`, an AMO with `v`. -/
def bNew (kind n v x : Nat) : Nat :=
  if 3 ≤ kind && kind < 12 then atomNew (kind - 3) (8 * n) x (v % 2 ^ (8 * n)) 0 else v % 2 ^ (8 * n)

/-- What an access to a memory gives: the old word for a load, a fetch, an AMO or an LR, else 0. -/
def bOld (kind x : Nat) : Nat := if kind = 1 || kind = 13 then 0 else x

/-- BITTERN_MEMORY_ACCESS (R492, R493): an access of a kind (`State.bFault`) to `n` bytes at `a`. Aliases take aligned 8-byte loads and stores
only, and the management block aligned 8-byte accesses; whether a misaligned access elsewhere is served is not stated, nor what a store
to the ROM does: free values. -/
def execBitternMemoryAccess (kind a n v : Nat) (s : State) : Outcome State Fault Refusal :=
  if 14 ≤ kind || (n ≠ 1 && n ≠ 2 && n ≠ 4 && n ≠ 8) || (kind = 2 && n ≠ 2 && n ≠ 4) || (3 ≤ kind && n ≠ 4 && n ≠ 8) then .next s else
  let whole := n = 8 && a % 8 = 0
  let stores := kind = 1 || (3 ≤ kind && kind ≠ 12)
  let (d, t) := if a % n ≠ 0 then s.draw else (0, s)
  if d % 2 = 1 then .next (t.bFault kind a) else
  -- an SC without its reservation stores nothing
  if kind = 13 && t.bittern.resv ≠ some a && bPlace a n ≠ .none then .next ((t.bResult 1).modBittern (fun b => { b with resv := none })) else
  let t := t.modBittern (fun b => { b with resv := if kind = 12 then some a else if stores then none else b.resv })
  match bPlace a n with
  | .none => .next (t.bFault kind a)
  | .rom o =>
    let x := readLE t.bittern.rom o n
    if stores then
      let (d, t) := t.draw
      .next (if d % 2 = 0 then t.bFault kind a else t.bResult (bOld kind x))
    else .next (t.bResult x)
  | .sram o rev =>
    if rev && !(whole && kind < 2) then .next (t.bFault kind a)
    else
      let turn := fun (l : List Byte) => if rev then l.reverse else l
      let x := ofLE (turn (bytesAt t.bittern.sram o n))
      let t := if stores then t.modBittern (fun b => { b with sram := putBytes b.sram o (turn (toLE n (bNew kind n v x))) }) else t
      .next (t.bResult (bOld kind x))
  | .part o rev =>
    if stores || (rev && !(whole && kind < 2)) then .next (t.bFault kind a)
    else
      let x := bytesAt t.bittern.part o n
      .next (t.bResult (ofLE (if rev then x.reverse else x)))
  | .fuse o => .next (if stores then t.bFault kind a else t.bResult (ofLE ((t.bittern.fuses.drop o).take n)))
  | .block o =>
    if !whole then .next (t.bFault kind a)
    else
      let (x, t) := if kind = 1 || kind = 13 then (0, t) else if o = 0x50 then t.entropy64 else (t.blockLoad o, t)
      let w := bNew kind n v x
      let t :=
        if !stores then t
        else if o = 0x40 then t.mrCmd w
        else if o = 0x48 then t.bootSet w
        else t.modBittern (fun b => if o = 0x818 then b.verify w else b.blockStore o w)
      .next (t.bResult x)

end Sys2Proof.Machine
end

