-- ==== Sys2Proof/Machine/Mgmt.lean ====
section
/-! DEFINITION. SPDM (R447, R495), power and temperature (R449 to R451), and errors (R455 to R457). -/

namespace Sys2Proof.Machine

open Host (Outcome)

/-! ### SPDM (R447, R495; the layouts are those of SPDM 1.3, log 25) -/

def spdmByte (req : List Byte) (i : Nat) : Nat := (req.getD i 0).toNat
def spdmHead (code p1 p2 : Nat) : List Byte := [0x13, BitVec.ofNat 8 code, BitVec.ofNat 8 p1, BitVec.ofNat 8 p2]
/-- An ERROR response. -/
def spdmError (code data : Nat) : List Byte := spdmHead 0x7F code data

/-- Bytes that the identity of the part decides: item `k` (R447). -/
def idBytes (n k : Nat) : List Byte := toLE n (Config.identity k)

/-- A request with the code `code`, or any other where `code` is none, is answered; one that arrives during another gets Busy (R447). The
answer takes until the next tick of the hub clock (log 24). -/
def State.spdm (s : State) (f : State → List Byte × State) : State :=
  if s.bittern.busy then s.modBittern (fun b => { b with resp := spdmError 0x03 0 })
  else
    let (r, t) := f s
    t.modBittern (fun b => { b with resp := r, busy := true })

/-- The request codes that Bittern implements (R447). -/
def spdmCodes : List Nat := [0x84, 0xE1, 0xE3, 0x81, 0x82, 0x83, 0xE0]

/-- A request of one code, answered by `f`. -/
def onRequest (code : Nat) (req : List Byte) (f : State → List Byte × State) (s : State) : State :=
  if req.length < 4 || spdmByte req 1 ≠ code then s else s.spdm f

/-- A 32-byte nonce: four reads of RNG in order (R495). -/
def State.nonce (s : State) : List Byte × State :=
  let (a, s) := s.entropy64
  let (b, s) := s.entropy64
  let (c, s) := s.entropy64
  let (d, s) := s.entropy64
  (toLE 8 a ++ toLE 8 b ++ toLE 8 c ++ toLE 8 d, s)

/-- A signature of 64 bytes with a key that the model does not hold: a free value. -/
def State.signature (s : State) : List Byte × State :=
  let (d, t) := s.draw
  (toLE 64 (Config.identity (16 + d)), t)

/-- The certificate chain of slot 0. -/
def certChain : List Byte := idBytes (Config.identity 1 % 2 ^ 16) 2

/-- GET_VERSION (R447). -/
def execGetVersion (req : List Byte) (s : State) : Outcome State Fault Refusal :=
  .next (onRequest 0x84 req (fun s => ([0x10, 0x04, 0, 0, 0, 1, 0x00, 0x13], s)) s)

/-- GET_CAPABILITIES (R447): CERT, CHAL, MEAS with signature. -/
def execGetCapabilities (req : List Byte) (s : State) : Outcome State Fault Refusal :=
  .next (onRequest 0xE1 req (fun s =>
    (spdmHead 0x61 0 0 ++ [0] ++ idBytes 1 3 ++ [0, 0] ++ toLE 4 0x16 ++ idBytes 4 4 ++ idBytes 4 5, s)) s)

/-- NEGOTIATE_ALGORITHMS (R447): Ed25519 and SHA-512. -/
def execNegotiateAlgorithms (req : List Byte) (s : State) : Outcome State Fault Refusal :=
  .next (onRequest 0xE3 req (fun s =>
    (spdmHead 0x63 0 0 ++ toLE 2 36 ++ [1, 0] ++ toLE 4 0x8 ++ toLE 4 0x400 ++ toLE 4 0x4 ++ List.replicate 16 0, s)) s)

/-- GET_DIGESTS (R447): slot 0. -/
def execGetDigests (req : List Byte) (s : State) : Outcome State Fault Refusal :=
  .next (onRequest 0x81 req (fun s => (spdmHead 0x01 1 1 ++ sha512 certChain, s)) s)

/-- GET_CERTIFICATE (R447): a portion of the chain of slot 0. -/
def execGetCertificate (req : List Byte) (s : State) : Outcome State Fault Refusal :=
  .next (onRequest 0x82 req (fun s =>
    let o := spdmByte req 4 + 256 * spdmByte req 5
    let part := (certChain.drop o).take (spdmByte req 6 + 256 * spdmByte req 7)
    if spdmByte req 2 % 16 ≠ 0 || certChain.length < o then (spdmError 0x01 0, s)
    else (spdmHead 0x02 0 0 ++ toLE 2 part.length ++ toLE 2 (certChain.length - o - part.length) ++ part, s)) s)

/-- One measurement block (R447, R495). -/
def State.measurement (s : State) (n : Nat) : List Byte :=
  toLE 1 n ++ [0x01, 0x43, 0x00, 0x81, 0x40, 0x00] ++ toLE 64 (s.bittern.mr.get 0 (n - 1))

/-- All sixteen blocks, in ascending index. -/
def State.measurements (s : State) : List Byte := ((List.range 16).map (fun i => s.measurement (i + 1))).flatten

/-- CHALLENGE (R447). -/
def execChallenge (req : List Byte) (s : State) : Outcome State Fault Refusal :=
  .next (onRequest 0x83 req (fun s =>
    if spdmByte req 2 % 16 ≠ 0 then (spdmError 0x01 0, s) else
    let (n, s) := s.nonce
    let (sg, s) := s.signature
    let summary := if spdmByte req 3 = 0 then [] else sha512 s.measurements
    (spdmHead 0x03 0 1 ++ sha512 certChain ++ n ++ summary ++ toLE 2 0 ++
      (((req.drop 36).take 8 ++ List.replicate 8 0).take 8) ++ sg, s)) s)

/-- The number of blocks and the record that Param2 asks for, or none for a Param2 that asks for none (R495). -/
def State.measured (s : State) (p2 : Nat) : Option (Nat × List Byte) :=
  if p2 = 0 then some (0, [])
  else if p2 ≤ 16 then some (1, s.measurement p2)
  else if p2 = 0xFF then some (16, s.measurements)
  else none

/-- GET_MEASUREMENTS (R495). -/
def execGetMeasurements (req : List Byte) (s : State) : Outcome State Fault Refusal :=
  .next (onRequest 0xE0 req (fun s =>
    match s.measured (spdmByte req 3) with
    | none => (spdmError 0x01 0, s)
    | some (n, rcd) =>
      let signed := spdmByte req 2 % 2 == 1
      let (nonce, t) := s.nonce
      let body := spdmHead 0x60 (if spdmByte req 3 = 0 then 16 else 0) 0 ++ toLE 1 n ++ toLE 3 rcd.length ++ rcd ++ nonce ++ toLE 2 0 ++
        (((req.drop (if signed then 37 else 4)).take 8 ++ List.replicate 8 0).take 8)
      if signed then
        let (sg, t) := t.signature
        (body ++ sg, t)
      else (body, t)) s)

/-- SPDM_UNSUPPORTED_REQUEST (R447): any other request. -/
def execSpdmUnsupportedRequest (req : List Byte) (s : State) : Outcome State Fault Refusal :=
  .next (if req.length < 2 || spdmCodes.contains (spdmByte req 1) then s
    else s.spdm (fun s => (spdmError 0x07 (spdmByte req 1), s)))

/-! ### Power and temperature (R449 to R451) -/

/-- A sensor reads `t` °C: TRIP or more begins an orderly reset (R450). -/
def State.sensed (s : State) (t : Nat) : State :=
  s.modHub (fun h => { h with trip := if 110 ≤ t && h.trip.isNone then some s.hubTime else h.trip })

/-- The island's sensor reads `t` °C while power calls for `n` swallowed pulses: from THROT on, and until it reads THROT - 3, the number is
raised, by `more` (R450). -/
def Cluster.throttle (x : Cluster) (throt t n more : Nat) : Cluster :=
  let hot := decide (throt ≤ t) || (x.hot && decide (throt < t + 3))
  { x with temp := t, hot := hot, swallowed := if hot then min 48 (n + 1 + more) else n }

/-- POWER_MEASURE (R449, R450): power calls for `n` swallowed pulses in each window of 64 cycles of island `c`. What its sensor reads, and
how far a hot island's number is raised, are the world's and the device's choice (DESIGN CHOICE, log 67). -/
def execPowerMeasure (c n : Nat) (s : State) : Outcome State Fault Refusal :=
  if 1024 ≤ c || 48 < n then .next s else
  let (d, s) := s.draw
  let (e, s) := s.draw
  let s := s.modHub (fun h => { h with
    swallows := ((s.cluster c).swallowed, s.hubTime) :: h.swallows.filter (fun x => s.hubTime ≤ x.2 + 100) })
  let s := s.modCluster c (fun x => x.throttle s.hub.throt (d % 256) n e)
  .next ((s.modHub (fun h => { h with tmax := (s.clusters.map (fun x => x.2.temp)).foldl max 0 })).sensed (d % 256))

/-- THERMAL_TRIP (R450): a sensor reads `t`, TRIP or more: Bittern begins an orderly reset. -/
def execThermalTrip (t : Nat) (s : State) : Outcome State Fault Refusal :=
  .next (if t < 110 || 256 ≤ t then s else (s.modHub (fun h => { h with tmax := t })).sensed t)

/-- NMAX (R450): the largest number over all islands in the last 100 µs. -/
def State.nmax (s : State) : Nat :=
  (s.clusters.map (fun e => e.2.swallowed) ++ (s.hub.swallows.filter (fun x => s.hubTime ≤ x.2 + 100)).map (fun x => x.1)).foldl max 0

/-- The engine holds nothing of R451's list. -/
def Engine.quiet (E : Engine) : Bool :=
  E.slots.all (fun k => k.2.act.isNone) && E.inbox.isEmpty && E.spill.isEmpty && E.deque.isEmpty &&
    E.ring.all (fun r => r.2.tasks.isEmpty) && E.copies.isEmpty && E.mx.queue.isEmpty

/-- A cluster may be idle (R451): its engines, units, futures and tenures are empty, its harts are in WFI. -/
def State.quiet (s : State) (c : Nat) : Bool :=
  (List.range 16).all (fun e => (s.eng (16 * c + e)).quiet) &&
    (List.range 2).all (fun i => (s.unit (2 * c + i)).running.isEmpty) &&
    (s.cluster c).futs.all (fun f => f.2.state == .free) && s.tenures.all (fun t => t.implicit || t.cl != c) &&
    (List.range 4).all (fun k => (s.hart (4 * c + k)).run == .wfi)

/-- CLUSTER_POWER_GATE (R451): after 1 ms of idleness, and once the cluster's writes have gone home; its copies are dropped (R433). -/
def execClusterPowerGate (c : Nat) (s : State) : Outcome State Fault Refusal :=
  let x := s.cluster c
  .next (if 1024 ≤ c || x.gated || !s.quiet c || !x.idle.any (fun t => t + 1000 ≤ s.hubTime) ||
      s.inflight.any (fun f => f.g / 16 == c) then s
    else
      let t := s.setCluster c { x with gated := true, l2 := [] }
      let t := t.endTenures (fun t => t.cl == c)
      { t with
        harts := t.harts.map (fun e => if e.1 / 4 = c then (e.1, { e.2 with lines := [] }) else e)
        engines := t.engines.map (fun e =>
          if e.1 / 16 = c then (e.1, { e.2 with icache := [], ccache := [], dcache := [] }) else e) })

/-- CLUSTER_WAKE (R451): a message, a resolution or an interrupt for a gated cluster. -/
def execClusterWake (c : Nat) (s : State) : Outcome State Fault Refusal :=
  .next (if (s.cluster c).gated then s.modCluster c (fun x => { x with gated := false, idle := none }) else s)

/-! ### Errors (R455 to R457) -/

/-- ECC_CORRECTED (R455). -/
def execEccCorrected (dram : Bool) (s : State) : Outcome State Fault Refusal :=
  .next (s.modHub (fun h =>
    if dram then { h with dramCe := min (h.dramCe + 1) 65535 } else { h with sramCe := min (h.sramCe + 1) 65535 }))

/-- PATROL_SCRUB (R455): the granule at `a` is read; what the read finds is ECC_CORRECTED or UNCORRECTABLE_ERROR, which bad check bits
give (R456). -/
def execPatrolScrub (a : Nat) (s : State) : Outcome State Fault Refusal := .next ((s.findsBad a 1 5 0).getD s)

/-- ECC_CLEAR (R455): CLR from the holder. -/
def execEccClear (p : Nat) (s : State) : Outcome State Fault Refusal :=
  .next (s.fromHolder p (fun s => s.modHub (fun h => { h with sramCe := 0, dramCe := 0, ue := 0 })))

/-- A machine-check record (R457). -/
def State.mceRecord (s : State) (row src a : Nat) (ctx : Option Nat) : State :=
  let v := s.hub.mce
  let i := s.hub.mceTail
  let r : Rec := { code := 23, src := src % 16, info := row + (if ctx.isNone then 2 ^ 63 else 0), addr := a % 2 ^ 64 }
  let at0 := fieldOf v 47 6 * 64 + 64 * (i % 2 ^ (v % 32))
  let t := if bitOf v 5 then s.wrBytes at0 (r.bytes (ctx.getD 0) s.hubTime i) else s
  let t := t.modHub (fun h => { h with mceTail := (i + 1) % 2 ^ 32 })
  if bitOf v 5 && bitOf v 59 then t.raiseVec (fieldOf v 58 48) else t

/-- The contexts that an error ends (R456): `x` names the context of rows 1, 4 and 6; in row 2 it is 0 for the context current on the
engine at the location `a`, else 1 more than the entry's context; in row 3 it is 0 for the current context, else 1 more than the weight
slot's number of the engine's unit. -/
def State.errorCtxs (s : State) (row x a : Nat) : List Nat :=
  let g := a % 2 ^ 10 * 16 + fieldOf a 13 10
  let ofEngine := ((s.eng g).ctx.map (fun c => [c])).getD []
  let cs : List Nat := match row with
    | 1 => [x]
    | 2 => if x = 0 then ofEngine else [x - 1]
    | 3 => if x = 0 then ofEngine else (((s.unit (unitOf g)).slots.find (x - 1)).map (fun (w : WSlot) => [w.ctx])).getD []
    | 4 => [x]
    | 6 => [x]
    | 7 => (s.ctxs.map (fun e => e.1))
    | _ => []
  cs.filter (fun c => (s.ctx c).state != .free)

/-- The effects of TEARDOWN on a context that is not DYING already (R457). -/
def State.endCtx (s : State) (c : Nat) : State := if (s.ctx c).state = .dying then s else s.teardown c

/-- A read by Sedge hart `h` found the error (R456): the access fault of its kind, 0 a load, 1 a fetch and 2 an atomic, with CAP 0. The
address that it reports is a virtual one, which the location does not tell: a free value. -/
def State.hartError (s : State) (h kind : Nat) : State :=
  let (d, t) := s.draw
  t.modHart h (fun H =>
    if H.run = .run then
      ({ H with flt := setField H.flt 63 63 0 } : Hart).trap (if kind = 0 then 5 else if kind = 1 then 1 else 7) (d % 2 ^ 64)
    else H)

/-- UNCORRECTABLE_ERROR (R456, R457): the row of R456, the finding block, what was found (`State.errorCtxs`; in row 5, where hart `h`
reads, 1 + 3 `h` + the kind of its read, else 0), and the location. -/
def execUncorrectableError (row src x a : Nat) (s : State) : Outcome State Fault Refusal :=
  if row = 0 || 7 < row then .next s else
  let cs := s.errorCtxs row x a
  let t := s.modHub (fun h => { h with ue := min (h.ue + 1) 65535 })
  -- data in DRAM keep their bad check bits (R456)
  let t := if (row = 1 || row = 5 || row = 6) && !t.badBits.contains (a / 128) then { t with badBits := a / 128 :: t.badBits } else t
  let t := if cs.isEmpty then t.mceRecord row src a none else cs.foldl (fun t c => t.mceRecord row src a (some c)) t
  let t := cs.foldl State.endCtx t
  .next (if row = 7 then t.fatalReset else if row = 5 && x ≠ 0 then t.hartError ((x - 1) / 3) ((x - 1) % 3) else t)

/-! ### What a host reads (R421, R442, R483) -/

/-- The value of the register at an aligned offset of the hub window: write-only fields, reserved ones, and registers of a feature that is
not accepted read zero (R8, R23). -/
def State.hubRegister (s : State) (ofs : Nat) : Nat :=
  let h := s.hub
  let c := ofs / 8 % 256
  if ofs = 0 then 0x7160
  else if ofs = 0x28 then h.bootState + h.bootStage * 16 + h.bootCode * 256
  else if h.bootState ≠ 3 then 0
  else if ofs = 0x08 then
    h.holder + bit h.arm0 * 4 + bit h.arm1 * 8 + h.remain * 2 ^ 16 + h.period * 2 ^ 32 + h.epoch * 2 ^ 48
  else if ofs = 0x10 then h.grace
  else if ofs = 0x18 then h.err
  else if ofs = 0x20 then s.hubTime % 2 ^ 64
  else if ofs = 0x30 then h.sramCe + h.dramCe * 2 ^ 16 + h.ue * 2 ^ 32
  else if ofs = 0x38 then h.tmax + h.throt * 2 ^ 8 + 110 * 2 ^ 16 + s.nmax * 2 ^ 24
  else if ofs = 0x40 then advertised
  else if ofs = 0x60 then h.featAcc
  else if ofs = 0x88 then h.ctxStat
  else if ofs = 0x90 then h.planRes
  else if ofs = 0x98 then h.keyRes * 2 ^ 14
  else if ofs = 0xA0 then h.mce
  else if ofs = 0xA8 then h.mceTail
  else if ofs = 0x100 then h.irqSys
  else if ofs = 0x200 then h.cwm
  else if ofs = 0x208 then h.devid
  else if ofs = 0x210 then h.linkAdmin
  else if ofs = 0x228 then h.collStat
  else if ofs = 0x230 then ((List.range 64).map (fun g => if (s.group g).state = .aborted then 2 ^ g else 0)).sum
  else if 0x800 ≤ ofs && ofs < 0x1000 then h.irqCtx.get 0 c
  else if 0x1000 ≤ ofs && ofs < 0x1800 then
    let L := s.lq (ofs / 32 % 64)
    (match ofs / 8 % 4 with
      | 0 => L.cfg
      | 1 => L.head
      | 2 => L.tail
      | _ => L.stat)
  else if 0x2000 ≤ ofs && ofs < 0x2800 then s.rkey c
  else if 0x3000 ≤ ofs && ofs < 0x3800 then s.ctxTc c
  else if 0x3800 ≤ ofs && ofs < 0x4000 then h.akey.get 0 c
  else if 0x4000 ≤ ofs && ofs < 0x4800 && s.feat 8 then
    let x := s.stream (ofs / 32 % 64)
    (match ofs / 8 % 4 with
      | 0 => x.cfg
      | 1 => x.ring
      | 2 => x.state
      | _ => x.mark)
  else 0

/-- A host's read of `n` bytes at offset `ofs` of the hub window, on either port (R421): an access that is no aligned 8-byte one reads zero
and sets BAD_ACCESS. The opcode table has no row for it (log 76). -/
def State.hostRead (s : State) (ofs n : Nat) : Nat × State :=
  if n ≠ 8 || ofs % 8 ≠ 0 then (0, if s.hub.bootState = 3 then s.hubErr 4 else s) else (s.hubRegister ofs, s)

end Sys2Proof.Machine
end

