-- ==== Sys2Proof/Machine/Dispatch.lean ====
section
/-! DEFINITION. The dispatch: one arm for each constructor of `Instr`, each a direct call of its meaning. -/

namespace Sys2Proof.Machine

/-- One instruction or event executed. -/
def exec (i : Instr) (s : State) : Host.Outcome State Fault Refusal :=
  match i with
  | .nop f => Sys2Proof.Machine.execNop f s
  | .br f => Sys2Proof.Machine.execBr f s
  | .bri f => Sys2Proof.Machine.execBri f s
  | .call f => Sys2Proof.Machine.execCall f s
  | .calli f => Sys2Proof.Machine.execCalli f s
  | .ret f => Sys2Proof.Machine.execRet f s
  | .loop f => Sys2Proof.Machine.execLoop f s
  | .loopi f => Sys2Proof.Machine.execLoopi f s
  | .brk f => Sys2Proof.Machine.execBrk f s
  | .trap f => Sys2Proof.Machine.execTrap f s
  | .hintWord cls opc h ops => Sys2Proof.Machine.execHintWord cls opc h ops s
  | .add h f => Sys2Proof.Machine.execAdd h f s
  | .addi h f => Sys2Proof.Machine.execAddi h f s
  | .sub h f => Sys2Proof.Machine.execSub h f s
  | .mul h f => Sys2Proof.Machine.execMul h f s
  | .muli h f => Sys2Proof.Machine.execMuli h f s
  | .mulh h f => Sys2Proof.Machine.execMulh h f s
  | .mulhn h f => Sys2Proof.Machine.execMulhn h f s
  | .div h f => Sys2Proof.Machine.execDiv h f s
  | .divn h f => Sys2Proof.Machine.execDivn h f s
  | .rem h f => Sys2Proof.Machine.execRem h f s
  | .remn h f => Sys2Proof.Machine.execRemn h f s
  | .and h f => Sys2Proof.Machine.execAnd h f s
  | .andi h f => Sys2Proof.Machine.execAndi h f s
  | .or h f => Sys2Proof.Machine.execOr h f s
  | .ori h f => Sys2Proof.Machine.execOri h f s
  | .xor h f => Sys2Proof.Machine.execXor h f s
  | .xori h f => Sys2Proof.Machine.execXori h f s
  | .shl h f => Sys2Proof.Machine.execShl h f s
  | .shli h f => Sys2Proof.Machine.execShli h f s
  | .shr h f => Sys2Proof.Machine.execShr h f s
  | .shri h f => Sys2Proof.Machine.execShri h f s
  | .sra h f => Sys2Proof.Machine.execSra h f s
  | .srai h f => Sys2Proof.Machine.execSrai h f s
  | .rol h f => Sys2Proof.Machine.execRol h f s
  | .roli h f => Sys2Proof.Machine.execRoli h f s
  | .clz h f => Sys2Proof.Machine.execClz h f s
  | .ctz h f => Sys2Proof.Machine.execCtz h f s
  | .popc h f => Sys2Proof.Machine.execPopc h f s
  | .min h f => Sys2Proof.Machine.execMin h f s
  | .max h f => Sys2Proof.Machine.execMax h f s
  | .minn h f => Sys2Proof.Machine.execMinn h f s
  | .maxn h f => Sys2Proof.Machine.execMaxn h f s
  | .abs h f => Sys2Proof.Machine.execAbs h f s
  | .sel h f => Sys2Proof.Machine.execSel h f s
  | .movi h f => Sys2Proof.Machine.execMovi h f s
  | .movhi h f => Sys2Proof.Machine.execMovhi h f s
  | .lea h f => Sys2Proof.Machine.execLea h f s
  | .sext h f => Sys2Proof.Machine.execSext h f s
  | .zext h f => Sys2Proof.Machine.execZext h f s
  | .bfx h f => Sys2Proof.Machine.execBfx h f s
  | .bfi h f => Sys2Proof.Machine.execBfi h f s
  | .bswap h f => Sys2Proof.Machine.execBswap h f s
  | .cmp h f => Sys2Proof.Machine.execCmp h f s
  | .cmpi h f => Sys2Proof.Machine.execCmpi h f s
  | .pand h f => Sys2Proof.Machine.execPand h f s
  | .por h f => Sys2Proof.Machine.execPor h f s
  | .pxor h f => Sys2Proof.Machine.execPxor h f s
  | .pnot h f => Sys2Proof.Machine.execPnot h f s
  | .pset h f => Sys2Proof.Machine.execPset h f s
  | .pget h f => Sys2Proof.Machine.execPget h f s
  | .fadd h f => Sys2Proof.Machine.execFadd h f s
  | .fsub h f => Sys2Proof.Machine.execFsub h f s
  | .fmul h f => Sys2Proof.Machine.execFmul h f s
  | .ffma h f => Sys2Proof.Machine.execFfma h f s
  | .fdiv h f => Sys2Proof.Machine.execFdiv h f s
  | .fsqrt h f => Sys2Proof.Machine.execFsqrt h f s
  | .fmin h f => Sys2Proof.Machine.execFmin h f s
  | .fmax h f => Sys2Proof.Machine.execFmax h f s
  | .fcmp h f => Sys2Proof.Machine.execFcmp h f s
  | .fcvt h f => Sys2Proof.Machine.execFcvt h f s
  | .fclass h f => Sys2Proof.Machine.execFclass h f s
  | .fmt h f => Sys2Proof.Machine.execFmt h f s
  | .rnd h f => Sys2Proof.Machine.execRnd h f s
  | .rndf h f => Sys2Proof.Machine.execRndf h f s
  | .shld h f => Sys2Proof.Machine.execShld h f s
  | .shst h f => Sys2Proof.Machine.execShst h f s
  | .shset h f => Sys2Proof.Machine.execShset h f s
  | .shofs h f => Sys2Proof.Machine.execShofs h f s
  | .vmov h f => Sys2Proof.Machine.execVmov h f s
  | .vfill h f => Sys2Proof.Machine.execVfill h f s
  | .vadd h f => Sys2Proof.Machine.execVadd h f s
  | .vsub h f => Sys2Proof.Machine.execVsub h f s
  | .vmul h f => Sys2Proof.Machine.execVmul h f s
  | .vfma h f => Sys2Proof.Machine.execVfma h f s
  | .vmin h f => Sys2Proof.Machine.execVmin h f s
  | .vmax h f => Sys2Proof.Machine.execVmax h f s
  | .vabs h f => Sys2Proof.Machine.execVabs h f s
  | .vneg h f => Sys2Proof.Machine.execVneg h f s
  | .vand h f => Sys2Proof.Machine.execVand h f s
  | .vor h f => Sys2Proof.Machine.execVor h f s
  | .vxor h f => Sys2Proof.Machine.execVxor h f s
  | .vshl h f => Sys2Proof.Machine.execVshl h f s
  | .vshr h f => Sys2Proof.Machine.execVshr h f s
  | .vcmp h f => Sys2Proof.Machine.execVcmp h f s
  | .vsel h f => Sys2Proof.Machine.execVsel h f s
  | .vcvt h f => Sys2Proof.Machine.execVcvt h f s
  | .vquant h f => Sys2Proof.Machine.execVquant h f s
  | .vred h f => Sys2Proof.Machine.execVred h f s
  | .vscan h f => Sys2Proof.Machine.execVscan h f s
  | .vexp h f => Sys2Proof.Machine.execVexp h f s
  | .vlog h f => Sys2Proof.Machine.execVlog h f s
  | .vrcp h f => Sys2Proof.Machine.execVrcp h f s
  | .vrsq h f => Sys2Proof.Machine.execVrsq h f s
  | .vtanh h f => Sys2Proof.Machine.execVtanh h f s
  | .verf h f => Sys2Proof.Machine.execVerf h f s
  | .vcmul h f => Sys2Proof.Machine.execVcmul h f s
  | .vcmac h f => Sys2Proof.Machine.execVcmac h f s
  | .vgath h f => Sys2Proof.Machine.execVgath h f s
  | .vscat h f => Sys2Proof.Machine.execVscat h f s
  | .vtrans h f => Sys2Proof.Machine.execVtrans h f s
  | .vrnd h f => Sys2Proof.Machine.execVrnd h f s
  | .mldb h f => Sys2Proof.Machine.execMldb h f s
  | .mma h f => Sys2Proof.Machine.execMma h f s
  | .mmac h f => Sys2Proof.Machine.execMmac h f s
  | .mzero h f => Sys2Proof.Machine.execMzero h f s
  | .mst h f => Sys2Proof.Machine.execMst h f s
  | .mbar h f => Sys2Proof.Machine.execMbar h f s
  | .mcfgWeight h f => Sys2Proof.Machine.execMcfgWeight h f s
  | .mcfgGate h f => Sys2Proof.Machine.execMcfgGate h f s
  | .mcfgClrsat h f => Sys2Proof.Machine.execMcfgClrsat h f s
  | .ld h f => Sys2Proof.Machine.execLd h f s
  | .st h f o => Sys2Proof.Machine.execSt h f o s
  | .ldg h f => Sys2Proof.Machine.execLdg h f s
  | .stg h f o => Sys2Proof.Machine.execStg h f o s
  | .ldc h f => Sys2Proof.Machine.execLdc h f s
  | .cinvLine h f => Sys2Proof.Machine.execCinvLine h f s
  | .cinvAll h f => Sys2Proof.Machine.execCinvAll h f s
  | .cinvI h f => Sys2Proof.Machine.execCinvI h f s
  | .atom h f => Sys2Proof.Machine.execAtom h f s
  | .cpy h f => Sys2Proof.Machine.execCpy h f s
  | .cpym h f => Sys2Proof.Machine.execCpym h f s
  | .cpyq h f => Sys2Proof.Machine.execCpyq h f s
  | .pref h f => Sys2Proof.Machine.execPref h f s
  | .atomg h f => Sys2Proof.Machine.execAtomg h f s
  | .red h f => Sys2Proof.Machine.execRed h f s
  | .lrw h f => Sys2Proof.Machine.execLrw h f s
  | .sch h f => Sys2Proof.Machine.execSch h f s
  | .schRel h f => Sys2Proof.Machine.execSchRel h f s
  | .commit h f => Sys2Proof.Machine.execCommit h f s
  | .yield h f => Sys2Proof.Machine.execYield h f s
  | .exit h f => Sys2Proof.Machine.execExit h f s
  | .send h f => Sys2Proof.Machine.execSend h f s
  | .sendi h f => Sys2Proof.Machine.execSendi h f s
  | .spawn h f => Sys2Proof.Machine.execSpawn h f s
  | .migrate h f => Sys2Proof.Machine.execMigrate h f s
  | .fnew h f => Sys2Proof.Machine.execFnew h f s
  | .fres h f => Sys2Proof.Machine.execFres h f s
  | .fdec h f => Sys2Proof.Machine.execFdec h f s
  | .ftest h f => Sys2Proof.Machine.execFtest h f s
  | .ftestV h f => Sys2Proof.Machine.execFtestV h f s
  | .ftestC h f => Sys2Proof.Machine.execFtestC h f s
  | .ftestF h f => Sys2Proof.Machine.execFtestF h f s
  | .await h f => Sys2Proof.Machine.execAwait h f s
  | .fcall h f => Sys2Proof.Machine.execFcall h f s
  | .ffree h f => Sys2Proof.Machine.execFfree h f s
  | .rtmk h f => Sys2Proof.Machine.execRtmk h f s
  | .binit h f => Sys2Proof.Machine.execBinit h f s
  | .barr h f => Sys2Proof.Machine.execBarr h f s
  | .barrx h f => Sys2Proof.Machine.execBarrx h f s
  | .bexp h f => Sys2Proof.Machine.execBexp h f s
  | .bwait h f => Sys2Proof.Machine.execBwait h f s
  | .btest h f => Sys2Proof.Machine.execBtest h f s
  | .btestS h f => Sys2Proof.Machine.execBtestS h f s
  | .btestP h f => Sys2Proof.Machine.execBtestP h f s
  | .tdef h f => Sys2Proof.Machine.execTdef h f s
  | .tfree h f => Sys2Proof.Machine.execTfree h f s
  | .tacq h f => Sys2Proof.Machine.execTacq h f s
  | .trel h f => Sys2Proof.Machine.execTrel h f s
  | .tqry h f => Sys2Proof.Machine.execTqry h f s
  | .fence h f => Sys2Proof.Machine.execFence h f s
  | .scopeRd h f => Sys2Proof.Machine.execScopeRd h f s
  | .scopeWr h f => Sys2Proof.Machine.execScopeWr h f s
  | .srr h f => Sys2Proof.Machine.execSrr h f s
  | .srw h f => Sys2Proof.Machine.execSrw h f s
  | .collBcast h f => Sys2Proof.Machine.execCollBcast h f s
  | .collReduce h f => Sys2Proof.Machine.execCollReduce h f s
  | .collAllred h f => Sys2Proof.Machine.execCollAllred h f s
  | .xsend f => Sys2Proof.Machine.execXsend f s
  | .xfres f => Sys2Proof.Machine.execXfres f s
  | .xfrestok f => Sys2Proof.Machine.execXfrestok f s
  | .xfdec f => Sys2Proof.Machine.execXfdec f s
  | .xftest f m => Sys2Proof.Machine.execXftest f m s
  | .xfwait f n => Sys2Proof.Machine.execXfwait f n s
  | .xcqpop f => Sys2Proof.Machine.execXcqpop f s
  | .xfence f k => Sys2Proof.Machine.execXfence f k s
  | .xcapset f iv => Sys2Proof.Machine.execXcapset f iv s
  | .xcapclr f => Sys2Proof.Machine.execXcapclr f s
  | .xcpyr f => Sys2Proof.Machine.execXcpyr f s
  | .xvreg f => Sys2Proof.Machine.execXvreg f s
  | .xvregUnregister f => Sys2Proof.Machine.execXvregUnregister f s
  | .xvregRetry f => Sys2Proof.Machine.execXvregRetry f s
  | .hartMemoryAccess h op va n v rd => Sys2Proof.Machine.execHartMemoryAccess h op va n v rd s
  | .flashAccess h op a n v rd => Sys2Proof.Machine.execFlashAccess h op a n v rd s
  | .xfwaitInterrupted h cause => Sys2Proof.Machine.execXfwaitInterrupted h cause s
  | .groupDispatch g k => Sys2Proof.Machine.execGroupDispatch g k s
  | .loadReturn g k iv party code data => Sys2Proof.Machine.execLoadReturn g k iv party code data s
  | .tokenDeadlock g k => Sys2Proof.Machine.execTokenDeadlock g k s
  | .dispatch g k => Sys2Proof.Machine.execDispatch g k s
  | .activationLoad g k => Sys2Proof.Machine.execActivationLoad g k s
  | .rngStateReady g k => Sys2Proof.Machine.execRngStateReady g k s
  | .preemption g => Sys2Proof.Machine.execPreemption g s
  | .stallEviction g k => Sys2Proof.Machine.execStallEviction g k s
  | .matrixQueueDeadlock g => Sys2Proof.Machine.execMatrixQueueDeadlock g s
  | .messageArrival iv => Sys2Proof.Machine.execMessageArrival iv s
  | .steal g => Sys2Proof.Machine.execSteal g s
  | .stealRescan g => Sys2Proof.Machine.execStealRescan g s
  | .contextSwitch g ctx => Sys2Proof.Machine.execContextSwitch g ctx s
  | .futureOperationArrival iv => Sys2Proof.Machine.execFutureOperationArrival iv s
  | .waiterDeadline c ix iv => Sys2Proof.Machine.execWaiterDeadline c ix iv s
  | .prefillTailAdvance iv => Sys2Proof.Machine.execPrefillTailAdvance iv s
  | .copySectorLand g iv j code data => Sys2Proof.Machine.execCopySectorLand g iv j code data s
  | .copyPageReplay g iv => Sys2Proof.Machine.execCopyPageReplay g iv s
  | .matrixGrant g => Sys2Proof.Machine.execMatrixGrant g s
  | .mldbComplete u iv => Sys2Proof.Machine.execMldbComplete u iv s
  | .mmaComplete u iv => Sys2Proof.Machine.execMmaComplete u iv s
  | .mstComplete u iv => Sys2Proof.Machine.execMstComplete u iv s
  | .mbarPost u iv => Sys2Proof.Machine.execMbarPost u iv s
  | .globalWritePerform iv code => Sys2Proof.Machine.execGlobalWritePerform iv code s
  | .atomicAtHome iv code old => Sys2Proof.Machine.execAtomicAtHome iv code old s
  | .atomgReturnLand iv => Sys2Proof.Machine.execAtomgReturnLand iv s
  | .tenureRequest iv => Sys2Proof.Machine.execTenureRequest iv s
  | .tenureGrant iv => Sys2Proof.Machine.execTenureGrant iv s
  | .tenureDeadline iv => Sys2Proof.Machine.execTenureDeadline iv s
  | .tenureDrain iv => Sys2Proof.Machine.execTenureDrain iv s
  | .reservationRequest iv => Sys2Proof.Machine.execReservationRequest iv s
  | .reservationPass iv => Sys2Proof.Machine.execReservationPass iv s
  | .reservationHoldExpiry iv => Sys2Proof.Machine.execReservationHoldExpiry iv s
  | .hostLineRequest p a op data => Sys2Proof.Machine.execHostLineRequest p a op data s
  | .hostSnoop p a => Sys2Proof.Machine.execHostSnoop p a s
  | .pageTableWrite iv => Sys2Proof.Machine.execPageTableWrite iv s
  | .ctxCreate p c rcd => Sys2Proof.Machine.execCtxCreate p c rcd s
  | .ctxTeardown p c => Sys2Proof.Machine.execCtxTeardown p c s
  | .ctxTeardownComplete c => Sys2Proof.Machine.execCtxTeardownComplete c s
  | .viewRecompute v b => Sys2Proof.Machine.execViewRecompute v b s
  | .viewPublish v b => Sys2Proof.Machine.execViewPublish v b s
  | .viewRead g k iv => Sys2Proof.Machine.execViewRead g k iv s
  | .leaseClaim p v => Sys2Proof.Machine.execLeaseClaim p v s
  | .leaseRenew p v => Sys2Proof.Machine.execLeaseRenew p v s
  | .leaseArm p v => Sys2Proof.Machine.execLeaseArm p v s
  | .leaseExpiry => Sys2Proof.Machine.execLeaseExpiry s
  | .hostWarmRestart p => Sys2Proof.Machine.execHostWarmRestart p s
  | .graceExpiry => Sys2Proof.Machine.execGraceExpiry s
  | .featureAcceptWrite p iv v => Sys2Proof.Machine.execFeatureAcceptWrite p iv v s
  | .launchQueueEnable p q v => Sys2Proof.Machine.execLaunchQueueEnable p q v s
  | .launchQueueTailWrite p q v => Sys2Proof.Machine.execLaunchQueueTailWrite p q v s
  | .launchInject q => Sys2Proof.Machine.execLaunchInject q s
  | .msixSend iv => Sys2Proof.Machine.execMsixSend iv s
  | .registerWrite p ofs n v => Sys2Proof.Machine.execRegisterWrite p ofs n v s
  | .remoteResolution payload => Sys2Proof.Machine.execRemoteResolution payload s
  | .ingestEnable p iv v => Sys2Proof.Machine.execIngestEnable p iv v s
  | .ingestDatagram port dst payload => Sys2Proof.Machine.execIngestDatagram port dst payload s
  | .ingestPfcTick iv => Sys2Proof.Machine.execIngestPfcTick iv s
  | .pfcPauseRepeat iv => Sys2Proof.Machine.execPfcPauseRepeat iv s
  | .deviceReset => Sys2Proof.Machine.execDeviceReset s
  | .bootStage1 trained => Sys2Proof.Machine.execBootStage1 trained s
  | .mrExtend v => Sys2Proof.Machine.execMrExtend v s
  | .bootSet v => Sys2Proof.Machine.execBootSet v s
  | .rngRead => Sys2Proof.Machine.execRngRead s
  | .ed25519Verify v => Sys2Proof.Machine.execEd25519Verify v s
  | .ed25519VerifyComplete => Sys2Proof.Machine.execEd25519VerifyComplete s
  | .getVersion req => Sys2Proof.Machine.execGetVersion req s
  | .getCapabilities req => Sys2Proof.Machine.execGetCapabilities req s
  | .negotiateAlgorithms req => Sys2Proof.Machine.execNegotiateAlgorithms req s
  | .getDigests req => Sys2Proof.Machine.execGetDigests req s
  | .getCertificate req => Sys2Proof.Machine.execGetCertificate req s
  | .challenge req => Sys2Proof.Machine.execChallenge req s
  | .getMeasurements req => Sys2Proof.Machine.execGetMeasurements req s
  | .spdmUnsupportedRequest req => Sys2Proof.Machine.execSpdmUnsupportedRequest req s
  | .keyLoad p slot a => Sys2Proof.Machine.execKeyLoad p slot a s
  | .keyClear p slot => Sys2Proof.Machine.execKeyClear p slot s
  | .planLoad p a => Sys2Proof.Machine.execPlanLoad p a s
  | .powerMeasure c n => Sys2Proof.Machine.execPowerMeasure c n s
  | .thermalTrip t => Sys2Proof.Machine.execThermalTrip t s
  | .orderlyReset => Sys2Proof.Machine.execOrderlyReset s
  | .fatalReset => Sys2Proof.Machine.execFatalReset s
  | .clusterPowerGate c => Sys2Proof.Machine.execClusterPowerGate c s
  | .clusterWake c => Sys2Proof.Machine.execClusterWake c s
  | .eccCorrected dram => Sys2Proof.Machine.execEccCorrected dram s
  | .patrolScrub a => Sys2Proof.Machine.execPatrolScrub a s
  | .eccClear p => Sys2Proof.Machine.execEccClear p s
  | .uncorrectableError row src x a => Sys2Proof.Machine.execUncorrectableError row src x a s
  | .switchForward iv => Sys2Proof.Machine.execSwitchForward iv s
  | .routeResponseTimeout iv => Sys2Proof.Machine.execRouteResponseTimeout iv s
  | .linkAdminWrite p v => Sys2Proof.Machine.execLinkAdminWrite p v s
  | .receiverLock k => Sys2Proof.Machine.execReceiverLock k s
  | .trainingComplete k sw port dev delay => Sys2Proof.Machine.execTrainingComplete k sw port dev delay s
  | .linkDown k => Sys2Proof.Machine.execLinkDown k s
  | .linkReplay k => Sys2Proof.Machine.execLinkReplay k s
  | .tc0ShaperRelease iv => Sys2Proof.Machine.execTc0ShaperRelease iv s
  | .remoteAccess peer rctx key op o n v => Sys2Proof.Machine.execRemoteAccess peer rctx key op o n v s
  | .collRegister p grp ctx rcd => Sys2Proof.Machine.execCollRegister p grp ctx rcd s
  | .collRelease p grp => Sys2Proof.Machine.execCollRelease p grp s
  | .collCombine iv => Sys2Proof.Machine.execCollCombine iv s
  | .collChunkLand iv => Sys2Proof.Machine.execCollChunkLand iv s
  | .collTimeout iv => Sys2Proof.Machine.execCollTimeout iv s
  | .copySectorIssue g iv => Sys2Proof.Machine.execCopySectorIssue g iv s
  | .sedgeCsrWrite h csr op v rd => Sys2Proof.Machine.execSedgeCsrWrite h csr op v rd s
  | .bitternMemoryAccess kind a n v => Sys2Proof.Machine.execBitternMemoryAccess kind a n v s
  | .hostLinkUp p => Sys2Proof.Machine.execHostLinkUp p s
  | .endpointMessageInject msg route => Sys2Proof.Machine.execEndpointMessageInject msg route s
  | .keySlotSwitch => Sys2Proof.Machine.execKeySlotSwitch s
  | .pllMoveComplete => Sys2Proof.Machine.execPllMoveComplete s

end Sys2Proof.Machine
end

