-- ==== Sys2Proof/Machine/Turn.lean ====
section
/-! DEFINITION. The turns of the agents: the front end and the issue queues of an activation (R91, R92, R102), the next word of a hart
(R297, R308), a tick of the hub clock (R17), cycles of a cluster, and cached lines (R194, R195). -/

namespace Sys2Proof.Machine

open Host (Outcome)

/-! ### Activations -/


/-- A committing or yielding instruction older than number `n` stands in a queue: what is younger waits for it (R35). -/
def Act.behind (a : Act) (n : Nat) : Bool :=
  (a.qa ++ a.qc ++ a.qs).any (fun e => decide (e.n < n) && (match decode e.word with
    | .ok i => i.commits
    | _ => false))

def State.focusOn (s : State) (g k : Nat) (e : QEntry) : State :=
  { s with focus := { s.focus with g := g, k := k, pc := e.pc, n := e.n, last := e.last } }

/-- The head of queue `q` issues, or waits for its registers (R91, R92). An instruction that has raised a fault stays (R105), and one
that has issued holds the head until it completes. -/
def issueTurn (g k q : Nat) (s : State) : Outcome State Fault Refusal :=
  match s.act g k with
  | none => .next s
  | some a =>
    if s.mustLeave g a then .next (s.requeue g k)
    else if a.loading then .next s
    else
      match a.queue q with
      | [] => .next s
      | e :: _ =>
        let t := s.focusOn g k e
        if a.faults.any (fun f => f.n == e.n) || a.issued e.n then .next s
        else if a.behind e.n || !a.clear e.n (entryUses e) then .next (t.noteBlock q)
        else
          match decodeEntry e.word e.pfx with
          | .ok i => exec i t
          | _ => .next s

/-- The head of queue `q`, which could issue, begins to read the scratchpad: what others write there until it issues it may see or not,
element by element (R97, R163, R186). -/
def beginTurn (g k q : Nat) (s : State) : State :=
  match s.act g k with
  | none => s
  | some a =>
    match a.queue q with
    | [] => s
    | e :: _ =>
      if s.mustLeave g a || a.loading || a.faults.any (fun f => f.n == e.n) || a.issued e.n || a.behind e.n || !a.clear e.n (entryUses e) ||
          !a.canPop q (hdrOf e.word) || a.began.any (fun x => x.1 == q) then s
      else s.setAct g k { a with began := (q, e.n, (s.eng g).past.length) :: a.began }

/-- The front end executes the control word or FMT that it holds (R92, R102). -/
def frontTurn (g k : Nat) (s : State) : Outcome State Fault Refusal :=
  match s.act g k with
  | none => .next s
  | some a =>
    if s.mustLeave g a then .next (s.requeue g k) else
    match a.front with
    | none => .next s
    | some e =>
      if s.frontCan g k a then
        match decode e.word with
        | .ok i => exec i (s.focusOn g k e)
        | _ => .next s
      else .next s

/-! ### Harts (R297, R308) -/

/-- What a fetch of two bytes gives. -/
inductive Half where
  | ok (v : Nat) (s : State)
  | wait (s : State)
  | fault (s : State)
  deriving Repr

def State.fetchHalf (s : State) (h va : Nat) : Half :=
  match s.hartAccess h hFetch va 2 with
  | (.error e, t) => .fault (t.hartFault h hFetch e)
  | (.ok ps, t) =>
    match t.hartRead h ps with
    | .ok bs t' => .ok (ofLE bs) t'
    | .wait t' => .wait t'
    | .fault t' => .fault (t'.hartFault h hFetch { cause := 1, va := va })

/-- The word at the hart's PC: an extension instruction is executed (R308); a word of the two opcodes that matches no row is an illegal
instruction; standard instructions are defined outside this specification. -/
def hartTurn (h : Nat) (s : State) : Outcome State Fault Refusal :=
  let H := s.hart h
  if H.run != .run || (s.cluster (h / 4)).gated then .next s else
  match s.fetchHalf h H.pc with
  | .wait t => .next t
  | .fault t => .next t
  | .ok lo t =>
    if lo % 4 ≠ 3 then .refused .standardRiscv else
    match t.fetchHalf h ((H.pc + 2) % 2 ^ 64) with
    | .wait t => .next t
    | .fault t => .next t
    | .ok hi t =>
      let w := BitVec.ofNat 32 (lo + 65536 * hi)
      match decodeSedge w with
      | some i => exec i { t with focus := { t.focus with hart := h } }
      | none =>
        if lo % 128 = 0x0B || lo % 128 = 0x2B then .next (t.modHart h (fun H => H.trap 2 0))
        else .refused .standardRiscv

/-! ### The hub clock (R17) -/

/-- Each cluster that has held nothing goes on being idle, or starts to; any other is not (R451). -/
def State.noteIdle (s : State) : State :=
  { s with clusters := s.clusters.map (fun e =>
      (e.1, { e.2 with idle := if s.quiet e.1 then some (e.2.idle.getD s.hubTime) else none })) }

/-- The lease counts down at each ms (R424). -/
def Hub.msTick (h : Hub) (now : Nat) : Hub :=
  if now % 1000 = 0 && h.holder < 2 then { h with remain := h.remain - 1 } else h

/-- Events that a tick makes due: the end of the lease or of GRACE (R425, R426), the limit of an orderly reset (R450), and the aborts of
collectives (R482). -/
def State.tickEvents (s : State) : List Turn :=
  (if s.hub.holder < 2 && s.hub.remain = 0 then [.event .leaseExpiry] else []) ++
    (if s.graceOver then [.event .graceExpiry] else []) ++
    (if s.hub.trip.any (fun t => t + 100000 < s.hubTime) then [.event .fatalReset] else []) ++
    s.dueColls.map Turn.collAbort

/-- The waiters of an entry whose deadline has come, in order: each by its position once the ones before it are delivered (R276). -/
def Fut.due (f : Fut) (now : Nat) : List Nat :=
  let late := (f.waiters.zipIdx.filter (fun e => e.1.deadline.any (fun d => d ≤ now))).map (fun e => e.2)
  late.zipIdx.map (fun e => e.1 - e.2)

/-- Every waiter that this tick delivers (R276). -/
def State.dueWaiters (s : State) : List Turn :=
  (s.clusters.map (fun e => (e.2.futs.map (fun f =>
    (f.2.due s.hubTime).map (fun i => Turn.event (.waiterDeadline e.1 f.1 i)))).flatten)).flatten

/-- Turns that come next, or after a cycle that opens now: what is due in a cycle comes after what the cycle holds (R276, R424, R426). -/
def afterCycle (l : List Turn) : List Turn → List Turn
  | .cycleStart :: r => .cycleStart :: (r.takeWhile (fun u => u != .cycleEnd) ++ .cycleEnd :: l ++ (r.dropWhile (fun u => u != .cycleEnd)).drop 1)
  | r => l ++ r

/-- The ingest streams at a tick (R440). -/
def State.tickStreams (s : State) : State := s.hub.ingest.foldl (fun t e => (t.pfcTick e.1).pfcRepeat e.1) s

/-- One µs of the hub reference clock. -/
def State.tick (s : State) : State :=
  let s0 := s.closeCycle
  let s1 : State := { s0 with hubTime := s.hubTime + 1 }
  let s2 := s1.fillBuckets.noteIdle.tickStreams
  let s3 := (s2.modHub (fun h => h.msTick s2.hubTime)).modBittern (fun b => { b with busy := false })
  { s3 with agenda := afterCycle (s3.tickEvents ++ s3.dueWaiters) s3.agenda }

/-- `n` cycles of a cluster that is not gated. -/
def State.cyclesPass (s : State) (c n : Nat) : State :=
  s.closeCycle.modCluster c (fun x => if x.gated then x else { x with cycles := x.cycles + n })

/-! ### Cached lines (R194, R195) -/

/-- From now on the constant cache may also return what the line holds in memory now (R194). -/
def State.refreshConst (s : State) (g line : Nat) : State :=
  let E := s.eng g
  match E.ccache.find line, E.ctx with
  | some vs, some c =>
    match s.translate c .r (128 * line) 128 (some (g / 16, g % 16)) with
    | (.ok (.dpa a key) _, t) =>
      let (v, t) := t.observe (engineSeer g c) a 128 key
      t.modEng g (fun E => { E with ccache := E.ccache.set line (v :: vs) })
    | _ => s
  | _, _ => s

/-- The instruction cache loses a line: the next fetch fills it anew (R195). -/
def State.dropInstr (s : State) (g line : Nat) : State := s.modEng g (fun E => { E with icache := E.icache.del line })

/-- An agent's turn. -/
def turn (u : Turn) (s : State) : Outcome State Fault Refusal :=
  match u with
  | .event i => exec i s
  | .front g k => frontTurn g k s
  | .issue g k q => issueTurn g k q s
  | .begin g k q => .next (beginTurn g k q s)
  | .ahead g k => .next (s.fetchAhead g k)
  | .hart h => hartTurn h s
  | .hubTick => .next s.tick
  | .cc c n => .next (s.cyclesPass c n)
  | .evict i => .next (s.evict i)
  | .mstElem u i k => .next (s.mstElem u i k)
  | .linkPacket k header ws => .next (s.linkPacket k header ws)
  | .collAbort i => execCollTimeout i s
  | .packetEnd i => .next (s.packetEnd i)
  | .loadTimeout g k i => .next (s.loadTimeout g k i)
  | .sectorTimeout g i j => .next (s.sectorTimeout g i j)
  | .badUse row x a => execUncorrectableError row 4 x a s
  | .constLine g line => .next (s.refreshConst g line)
  | .instrLine g line => .next (s.dropInstr g line)
  | .cycleStart => .next { s with sameCycle := true }
  | .cycleEnd => .next s.closeCycle

/-- The next turn of the agenda; where it is empty, time passes. -/
def State.advanceOne (s : State) : Outcome State Fault Refusal :=
  match s.agenda with
  | [] => .next s.tick
  | u :: r => turn u { s with agenda := r }

/-! ### Placing one instruction (log 19) -/

/-- A Sedge word at the PC of hart 0, which runs in M mode, the boot entry of its home in a route table beside it (R393), and its turn. -/
def State.placeSedge (s : State) (w : Nat) : State :=
  let H := s.hart 0
  let a := H.pc % 2 ^ 40 / 4 * 4
  let home := (homeOf a).getD 0
  let table := (a / 2 ^ 20 ^^^ 1) * 2 ^ 20
  { s.setHart 0 { H with run := .run, mode := .m, pc := a } with
    mem := writeLE (writeLE s.mem a 4 w) (table + 16 * home) 16 (bootRoute 0 home 0), hub := { s.hub with hrt := table }
    agenda := [.hart 0], views := [], hostLines := [], inflight := [], tenures := [], requests := [], badBits := []
    clusters := s.clusters.set 0 { s.cluster 0 with gated := false } }

/-- A Talquin word as the only one of the activation in slot 0 of engine 0, at the head of its queue or at the front end, and its turn. -/
def State.placeTalquin (s : State) (w : Nat) : State :=
  let x : BitVec 64 := BitVec.ofNat 64 w
  let cls := (x.extractLsb' 62 2).toNat
  let e : QEntry := { pc := 0, n := 0, word := x, last := x.getLsbD 61 }
  let a : Act := { act := 0, ctx := 0, seq := 0, pc := 8, next := 1 }
  let front := cls = 0 || (match decode x with
    | .ok (.fmt _ _) => true
    | _ => false)
  let b := if front then { a with front := some e } else a.setQueue (cls - 1) [e]
  { s.setAct 0 0 b with agenda := [if front then .front 0 0 else .issue 0 0 (cls - 1)] }

def State.placeWord (s : State) (nbits w : Nat) : State := if nbits ≤ 32 then s.placeSedge w else s.placeTalquin w

end Sys2Proof.Machine
end

