-- ==== Sys2Proof/Machine/Step.lean ====
section
/-! DEFINITION. The step of the device: the next turn of the agenda. -/

namespace Sys2Proof.Machine

/-- One step. -/
def step : State → Host.Outcome State Fault Refusal := State.advanceOne

/-- The state with one instruction where the next step fetches it. -/
def State.withFetchWord (s : State) (nbits w : Nat) : State := s.placeWord nbits w

end Sys2Proof.Machine
end

