-- ==== Sys2Proof/Safety.lean ====
section
/-! DEFINITION. What counts as a safe run: one whose every step gives a next state; and the terms that claims about an
issuing word use. -/

namespace Sys2Proof.Machine

/-- The state after `n` steps, where each of them gives a next state. -/
def State.after (s : State) : Nat → Option State
  | 0 => some s
  | n + 1 =>
    match step s with
    | .next t => t.after n
    | _ => none

/-- No step from the state faults or is refused, however far the run goes. -/
def State.Safe (s : State) : Prop := ∀ n, (s.after n).isSome

/-- A predicate that every step from every state keeps. -/
def Kept (inv : State → Prop) : Prop := ∀ s t, inv s → step s = .next t → inv t

/-- The activation `a` after number `n` of queue `q` completed: its tokens are popped, it has left the queue, its tokens are pushed
(R93, R95). -/
def Act.done (a : Act) (q : Nat) (h : Hdr) (n : Nat) : Act := (((a.pops q h).leave q n).pushes q h.pushu h.pushd).1

/-- No push of the word overflows its counter (R95). -/
def Act.fits (a : Act) (q : Nat) (h : Hdr) (n : Nat) : Bool := (((a.pops q h).leave q n).pushes q h.pushu h.pushd).2

/-- The pushes of a word are made at once: no cycle is in progress at whose end they come, or it makes none (R96). -/
def pushesNow (h : Hdr) (s : State) : Bool := !s.sameCycle || !(h.pushu || h.pushd)

/-- The word in focus can issue from queue `q` of the activation `a` (R91 to R96): the activation runs, the tokens that it pops are
there, the tokens that it pushes fit and are pushed at once, and no earlier word of the segment has faulted. -/
structure Issues (q : Nat) (h : Hdr) (s : State) (a : Act) : Prop where
  runs : s.cur = some a
  tokens : a.canPop q h = true
  fits : a.fits q h s.focus.n = true
  calm : a.faults = []
  now : pushesNow h s = true

/-- The word in focus can issue, and its guard holds (R83). -/
structure Ready (q : Nat) (h : Hdr) (s : State) (a : Act) : Prop extends Issues q h s a where
  guard : condTrue h.guard a = true

end Sys2Proof.Machine
end

