-- ==== Sys2Proof/Certificates/Slice0/Obligations.lean ====
section
/-! DEFINITION. The statements for the provers, family by family, with the vocabulary that each needs. A statement's docstring names
the rule of the specification that it formalises, or the entry of the log that it rests on. -/

section

open Sys2Proof Sys2Proof.Machine

/-! ### Scalar words (R123 to R142) -/

/-- The nearest value of a signed (SatI) and of an unsigned (SatN) 64-bit number. -/
def Sys2Proof.Claims.clampI (v : Int) : Int := max (-(2 ^ 63)) (min (2 ^ 63 - 1) v)
def Sys2Proof.Claims.clampN (v : Int) : Int := max 0 (min (2 ^ 64 - 1) v)

/-- What R127 says an integer arithmetic word writes: its header, its destination and the value. -/
def Sys2Proof.Claims.arithmetic (a : Act) : Instr → Option (Hdr × Nat × BitVec 64)
  | .add h f => some (h, f.d.toNat, if !f.sat then a.rg f.a.toNat + a.rg f.b.toNat
      else if f.fn.getLsbD 0 then BitVec.ofInt 64 (Claims.clampN ((a.rg f.a.toNat).toNat + (a.rg f.b.toNat).toNat))
      else BitVec.ofInt 64 (Claims.clampI ((a.rg f.a.toNat).toInt + (a.rg f.b.toNat).toInt)))
  | .sub h f => some (h, f.d.toNat, if !f.sat then a.rg f.a.toNat - a.rg f.b.toNat
      else if f.fn.getLsbD 0 then BitVec.ofInt 64 (Claims.clampN ((a.rg f.a.toNat).toNat - (a.rg f.b.toNat).toNat))
      else BitVec.ofInt 64 (Claims.clampI ((a.rg f.a.toNat).toInt - (a.rg f.b.toNat).toInt)))
  | .addi h f => some (h, f.d.toNat, a.rg f.a.toNat + f.imm.signExtend 64)
  | .mul h f => some (h, f.d.toNat, if !f.sat then a.rg f.a.toNat * a.rg f.b.toNat
      else BitVec.ofInt 64 (Claims.clampI ((a.rg f.a.toNat).toInt * (a.rg f.b.toNat).toInt)))
  | .muli h f => some (h, f.d.toNat, a.rg f.a.toNat * f.imm.signExtend 64)
  | .mulh h f => some (h, f.d.toNat,
      (((a.rg f.a.toNat).signExtend 128) * ((a.rg f.b.toNat).signExtend 128)).extractLsb' 64 64)
  | .mulhn h f => some (h, f.d.toNat,
      (((a.rg f.a.toNat).setWidth 128) * ((a.rg f.b.toNat).setWidth 128)).extractLsb' 64 64)
  | .div h f => some (h, f.d.toNat,
      if a.rg f.b.toNat = 0 then BitVec.allOnes 64 else (a.rg f.a.toNat).sdiv (a.rg f.b.toNat))
  | .divn h f => some (h, f.d.toNat, if a.rg f.b.toNat = 0 then BitVec.allOnes 64 else a.rg f.a.toNat / a.rg f.b.toNat)
  | .rem h f => some (h, f.d.toNat, (a.rg f.a.toNat).srem (a.rg f.b.toNat))
  | .remn h f => some (h, f.d.toNat, a.rg f.a.toNat % a.rg f.b.toNat)
  | .min h f => some (h, f.d.toNat, if (a.rg f.a.toNat).slt (a.rg f.b.toNat) then a.rg f.a.toNat else a.rg f.b.toNat)
  | .max h f => some (h, f.d.toNat, if (a.rg f.a.toNat).slt (a.rg f.b.toNat) then a.rg f.b.toNat else a.rg f.a.toNat)
  | .minn h f => some (h, f.d.toNat, if (a.rg f.a.toNat).ult (a.rg f.b.toNat) then a.rg f.a.toNat else a.rg f.b.toNat)
  | .maxn h f => some (h, f.d.toNat, if (a.rg f.a.toNat).ult (a.rg f.b.toNat) then a.rg f.b.toNat else a.rg f.a.toNat)
  | .abs h f => some (h, f.d.toNat, if !f.sat then (if (a.rg f.a.toNat).msb then -(a.rg f.a.toNat) else a.rg f.a.toNat)
      else BitVec.ofInt 64 (Claims.clampI |(a.rg f.a.toNat).toInt|))
  | _ => none

/-- R127: each integer arithmetic word writes D with the value of the table, and completes. -/
def Obligations.IntegerArithmeticWritesItsResult : Prop :=
  ∀ (i : Instr) (s : State) (a : Act) (h : Hdr) (d : Nat) (v : BitVec 64),
    Claims.arithmetic a i = some (h, d, v) → Ready 1 h s a →
    exec i s = .next (s.setCur ((a.wg d v).done 1 h s.focus.n))

/-- `n` is the number of zero bits above the highest set bit of `x`. -/
def Sys2Proof.Claims.leading (x : BitVec 64) (n : Nat) : Prop :=
  n ≤ 64 ∧ (∀ j, 64 - n ≤ j → x.getLsbD j = false) ∧ (n < 64 → x.getLsbD (63 - n) = true)
/-- `n` is the number of zero bits below the lowest set bit of `x`. -/
def Sys2Proof.Claims.trailing (x : BitVec 64) (n : Nat) : Prop :=
  n ≤ 64 ∧ (∀ j, j < n → x.getLsbD j = false) ∧ (n < 64 → x.getLsbD n = true)

/-- Shifts and rotation as numbers (R128). -/
def Sys2Proof.Claims.shiftLeft (x : BitVec 64) (n : Nat) : BitVec 64 := BitVec.ofNat 64 (x.toNat * 2 ^ n)
def Sys2Proof.Claims.shiftRight (x : BitVec 64) (n : Nat) : BitVec 64 := BitVec.ofNat 64 (x.toNat / 2 ^ n)
def Sys2Proof.Claims.shiftArith (x : BitVec 64) (n : Nat) : BitVec 64 := BitVec.ofInt 64 (x.toInt / (2 ^ n : Nat))
def Sys2Proof.Claims.rotate (x : BitVec 64) (n : Nat) : BitVec 64 :=
  BitVec.ofNat 64 (x.toNat % 2 ^ (64 - n) * 2 ^ n + x.toNat / 2 ^ (64 - n))

/-- What R128 and R129 say that a logic or shift word writes; `none` for an immediate amount above 63, which R129 makes a static
fault. -/
def Sys2Proof.Claims.logic (a : Act) : Instr → Option (Hdr × Nat × BitVec 64)
  | .and h f => some (h, f.d.toNat, a.rg f.a.toNat &&& a.rg f.b.toNat)
  | .andi h f => some (h, f.d.toNat, a.rg f.a.toNat &&& f.imm.signExtend 64)
  | .or h f => some (h, f.d.toNat, a.rg f.a.toNat ||| a.rg f.b.toNat)
  | .ori h f => some (h, f.d.toNat, a.rg f.a.toNat ||| f.imm.signExtend 64)
  | .xor h f => some (h, f.d.toNat, a.rg f.a.toNat ^^^ a.rg f.b.toNat)
  | .xori h f => some (h, f.d.toNat, a.rg f.a.toNat ^^^ f.imm.signExtend 64)
  | .shl h f => some (h, f.d.toNat, Claims.shiftLeft (a.rg f.a.toNat) (a.ug f.b.toNat % 64))
  | .shli h f => if f.imm.toNat < 64 then some (h, f.d.toNat, Claims.shiftLeft (a.rg f.a.toNat) f.imm.toNat) else none
  | .shr h f => some (h, f.d.toNat, Claims.shiftRight (a.rg f.a.toNat) (a.ug f.b.toNat % 64))
  | .shri h f => if f.imm.toNat < 64 then some (h, f.d.toNat, Claims.shiftRight (a.rg f.a.toNat) f.imm.toNat) else none
  | .sra h f => some (h, f.d.toNat, Claims.shiftArith (a.rg f.a.toNat) (a.ug f.b.toNat % 64))
  | .srai h f => if f.imm.toNat < 64 then some (h, f.d.toNat, Claims.shiftArith (a.rg f.a.toNat) f.imm.toNat) else none
  | .rol h f => some (h, f.d.toNat, Claims.rotate (a.rg f.a.toNat) (a.ug f.b.toNat % 64))
  | .roli h f => if f.imm.toNat < 64 then some (h, f.d.toNat, Claims.rotate (a.rg f.a.toNat) f.imm.toNat) else none
  | _ => none

/-- R128, R129: each logic, shift and count word writes D with the value of the table, and completes. -/
def Sys2Proof.Claims.LogicShiftAndCountWriteTheirResult : Prop :=
  ∀ (s : State) (a : Act),
    (∀ (i : Instr) (h : Hdr) (d : Nat) (v : BitVec 64), Claims.logic a i = some (h, d, v) → Ready 1 h s a →
      exec i s = .next (s.setCur ((a.wg d v).done 1 h s.focus.n))) ∧
    (∀ (h : Hdr) (f : XForm), Ready 1 h s a →
      (∃ n, Claims.leading (a.rg f.a.toNat) n ∧ exec (.clz h f) s = .next (s.setCur ((a.wn f.d.toNat n).done 1 h s.focus.n))) ∧
      (∃ n, Claims.trailing (a.rg f.a.toNat) n ∧ exec (.ctz h f) s = .next (s.setCur ((a.wn f.d.toNat n).done 1 h s.focus.n))) ∧
      exec (.popc h f) s = .next (s.setCur
        ((a.wn f.d.toNat ((List.range 64).filter (fun j => (a.rg f.a.toNat).getLsbD j)).length).done 1 h s.focus.n)))

/-- Bits `hi` down to `pos` that a field descriptor names (R131). -/
def Sys2Proof.Claims.pos (x : BitVec 64) : Nat := (x.extractLsb' 0 6).toNat
def Sys2Proof.Claims.len (x : BitVec 64) : Nat := if x.extractLsb' 8 6 = 0 then 64 else (x.extractLsb' 8 6).toNat
def Sys2Proof.Claims.inField (x : BitVec 64) (j : Nat) : Bool :=
  decide (Claims.pos x ≤ j) && decide (j < Claims.pos x + Claims.len x)

/-- What R131 says of the bits of the value that a selection, move or field word writes; `pc` is the address of the word. `none` for a
format that R130 makes a static fault. -/
def Sys2Proof.Claims.moved (a : Act) (pc : Nat) : Instr → Option (Hdr × Nat × (BitVec 64 → Prop))
  | .sel h f => some (h, f.d.toNat, fun v => v = if a.rp f.c.toNat then a.rg f.a.toNat else a.rg f.b.toNat)
  | .movi h f => some (h, f.d.toNat, fun v => v = f.imm.signExtend 64)
  | .movhi h f => some (h, f.d.toNat, fun v =>
      ∀ j, j < 64 → v.getLsbD j = if j < 38 then (a.rg f.d.toNat).getLsbD j else f.imm.getLsbD (j - 38))
  | .lea h f => some (h, f.d.toNat, fun v => v = BitVec.ofNat 64 pc + a.rg f.a.toNat + f.imm.signExtend 64)
  | .sext h f =>
    if 12 ≤ f.fmt.toNat ∧ f.fmt.toNat ≤ 16 then some (h, f.d.toNat, fun v =>
      ∀ j, j < 64 → v.getLsbD j = (a.rg f.a.toNat).getLsbD (min j (fmtWidth f.fmt.toNat - 1))) else none
  | .zext h f =>
    if 17 ≤ f.fmt.toNat ∧ f.fmt.toNat ≤ 21 then some (h, f.d.toNat, fun v =>
      ∀ j, j < 64 → v.getLsbD j = (decide (j < fmtWidth f.fmt.toNat) && (a.rg f.a.toNat).getLsbD j)) else none
  | .bswap h f =>
    if 19 ≤ f.fmt.toNat ∧ f.fmt.toNat ≤ 21 then some (h, f.d.toNat, fun v =>
      ∀ k j, j < 8 → v.getLsbD (8 * k + j) = (decide (k < fmtWidth f.fmt.toNat / 8) &&
        (a.rg f.a.toNat).getLsbD (8 * (fmtWidth f.fmt.toNat / 8 - 1 - k) + j))) else none
  | .bfx h f => some (h, f.d.toNat, fun v =>
      ∀ j, j < 64 → v.getLsbD j = (Claims.inField (a.rg f.b.toNat) (Claims.pos (a.rg f.b.toNat) + j) &&
        (a.rg f.a.toNat).getLsbD (Claims.pos (a.rg f.b.toNat) + j)))
  | .bfi h f => some (h, f.d.toNat, fun v =>
      ∀ j, j < 64 → v.getLsbD j = if Claims.inField (a.rg f.b.toNat) j then
        (a.rg f.a.toNat).getLsbD (j - Claims.pos (a.rg f.b.toNat)) else (a.rg f.d.toNat).getLsbD j)
  | _ => none

/-- R131: each selection, move or field word writes D with the value whose bits R131 gives, and completes. -/
def Sys2Proof.Claims.SelectMoveAndFieldWordsWriteTheirBits : Prop :=
  ∀ (i : Instr) (s : State) (a : Act) (h : Hdr) (d : Nat) (P : BitVec 64 → Prop),
    Claims.moved a s.focus.pc i = some (h, d, P) → Ready 1 h s a →
    ∃ v, P v ∧ exec i s = .next (s.setCur ((a.wg d v).done 1 h s.focus.n))

/-- The condition codes of R133 on the left and right operand. -/
def Sys2Proof.Claims.condition (cc : Nat) (x y : BitVec 64) : Option Bool :=
  match cc with
  | 0 => some (x == y)
  | 1 => some (x != y)
  | 2 => some (x.slt y)
  | 3 => some (y.sle x)
  | 4 => some (x.sle y)
  | 5 => some (y.slt x)
  | 6 => some (x.ult y)
  | 7 => some (y.ule x)
  | 8 => some (x.ule y)
  | 9 => some (y.ult x)
  | 10 => some (x &&& y != 0)
  | 11 => some (x &&& y == 0)
  | _ => none

/-- What R133 says a comparison or predicate word writes: its header, the predicate and its value; `none` for a condition code that
R133 makes a static fault. -/
def Sys2Proof.Claims.predicate (a : Act) : Instr → Option (Hdr × Nat × Bool)
  | .cmp h f => (Claims.condition (f.fn.toNat % 16) (a.rg f.a.toNat) (a.rg f.b.toNat)).map (fun b => (h, f.d.toNat, b))
  | .cmpi h f => (Claims.condition (f.imm.toNat / 2 ^ 28) (a.rg f.a.toNat) ((f.imm.setWidth 28).signExtend 64)).map
      (fun b => (h, f.d.toNat, b))
  | .pand h f => some (h, f.d.toNat, a.rp f.a.toNat && a.rp f.b.toNat)
  | .por h f => some (h, f.d.toNat, a.rp f.a.toNat || a.rp f.b.toNat)
  | .pxor h f => some (h, f.d.toNat, xor (a.rp f.a.toNat) (a.rp f.b.toNat))
  | .pnot h f => some (h, f.d.toNat, !a.rp f.a.toNat)
  | .pset h f => some (h, f.d.toNat, f.fn.getLsbD 0)
  | .pget h f => some (h, f.d.toNat, (a.rg f.a.toNat).getLsbD (f.fn.toNat % 64))
  | _ => none

/-- R133: each comparison or predicate word writes the predicate that D names, every other predicate keeps its value, and the word
completes. -/
def Obligations.ComparisonsWriteTheirPredicate : Prop :=
  ∀ (i : Instr) (s : State) (a : Act) (h : Hdr) (d : Nat) (b : Bool),
    Claims.predicate a i = some (h, d, b) → d < 12 → Ready 1 h s a →
    ∃ p : BitVec 12, (∀ n, n < 12 → p.getLsbD n = if n = d then b else a.rp n) ∧
      exec i s = .next (s.setCur ({ a with p := p }.done 1 h s.focus.n))

/-! ### Scalar floating point, random numbers and the prefix (R135 to R142) -/

/-- The exact result that R136 names for FADD to FMAX, with the word's header and fields. -/
def Sys2Proof.Claims.exactFloat (a : Act) : Instr → Option (Hdr × XForm × Val)
  | .fadd h f => some (h, f, (a.fg f.a.toNat).add (f.rm == 3) (a.fg f.b.toNat))
  | .fsub h f => some (h, f, (a.fg f.a.toNat).sub (f.rm == 3) (a.fg f.b.toNat))
  | .fmul h f => some (h, f, (a.fg f.a.toNat).mul (a.fg f.b.toNat))
  | .ffma h f => some (h, f, ((a.fg f.a.toNat).mul (a.fg f.b.toNat)).add (f.rm == 3) (a.fg f.c.toNat))
  | .fdiv h f => some (h, f, (a.fg f.a.toNat).div (a.fg f.b.toNat))
  | .fsqrt h f => some (h, f, (a.fg f.a.toNat).sqrt)
  | .fmin h f => some (h, f, (a.fg f.a.toNat).min2 (a.fg f.b.toNat))
  | .fmax h f => some (h, f, (a.fg f.a.toNat).max2 (a.fg f.b.toNat))
  | _ => none

/-- R136: each of FADD to FMAX rounds its exact result once into its format, writes it as an F32 value, keeps the generator where the
mode is not SR, and completes. In mode SR it takes the bits of one draw, and waits while the generator state is not there (R46, R66). -/
def Sys2Proof.Claims.FloatArithmeticRoundsOnce : Prop :=
  ∀ (i : Instr) (s : State) (a : Act) (h : Hdr) (f : XForm) (t : Val),
    Claims.exactFloat a i = some (h, f, t) → f.fmt.toNat ≤ 5 → Ready 1 h s a →
    (f.rm ≠ 5 → exec i s = .next (s.setCur
      ((a.wn f.d.toNat (f32Bits (roundTo f.fmt.toNat f.rm.toNat f.sat 0 t))).done 1 h s.focus.n))) ∧
    (f.rm = 5 → a.rngReady = true → exec i s = .next (s.setCur
      (((a.setGen (a.gen.bits 5).2).wn f.d.toNat (f32Bits (roundTo f.fmt.toNat 5 f.sat (a.gen.bits 5).1 t))).done 1 h s.focus.n))) ∧
    (f.rm = 5 → a.rngReady = false → exec i s = .next (s.noteWait 1))

/-- The bit of the class of an F32 value (R138). -/
def Sys2Proof.Claims.classBit : Val → Nat
  | .nan => 8
  | .inf neg => if neg then 0 else 7
  | .fin neg n d =>
    if n = 0 then (if neg then 3 else 4) else if n * 2 ^ 126 < d then (if neg then 2 else 5) else (if neg then 1 else 6)

/-- The number that FCVT converts (R139): an F32 value, or a signed or an unsigned register. -/
def Sys2Proof.Claims.cvtSource (src : Nat) (v : BitVec 64) : Val ⊕ Int :=
  if src = 0 then .inl (floatVal 0 (v.toNat % 2 ^ 32)) else .inr (if src = 16 then v.toInt else v.toNat)

/-- The register that FCVT writes (R63, R69 to R71, R139): the number rounded once into the format `dst` with the bits `r` of mode SR. A
float and E8M0 stand there as an F32 value, an integer extended by its signedness. An F32 value stays exact in F32, an infinity too. -/
def Sys2Proof.Claims.cvtResult (dst rm : Nat) (sat : Bool) (r : Nat) (x : Val ⊕ Int) : BitVec 64 :=
  let exact : Val := match x with
    | .inl v => v
    | .inr n => .fin (decide (n < 0)) n.natAbs 1
  if dst ≤ 5 then
    BitVec.ofNat 64 (f32Bits (floatVal dst (floatCode dst (roundTo dst rm (sat && !(x.isLeft && dst == 0)) r exact))))
  else if dst = 6 then
    let e := toE8M0 rm sat r exact
    BitVec.ofNat 64 (f32Bits (if e = 255 then .nan else Val.scale (.fin false 1 1) ((e : Int) - 127)))
  else
    let lo : Int := if dst ≤ 16 then -(2 ^ (fmtWidth dst - 1)) else 0
    let hi : Int := if dst ≤ 16 then 2 ^ (fmtWidth dst - 1) - 1 else 2 ^ fmtWidth dst - 1
    let n : Int := match x with
      | .inl v => roundToInt rm r lo hi v
      | .inr n => if sat then max lo (min hi n) else n
    if dst ≤ 16 then ((BitVec.ofInt (fmtWidth dst) n).signExtend 64) else ((BitVec.ofInt (fmtWidth dst) n).setWidth 64)

/-- R137, R138, R139, R142: FCMP writes the relation mask, FCLASS the class mask, FCVT the number converted by one rounding, RND one draw
and RNDF the high bits of one draw as a fraction; each completes. A word that takes bits of the generator waits while its state is not
there. -/
def Obligations.FloatCompareClassConvertAndRandomComplete : Prop :=
  ∀ (h : Hdr) (f : XForm) (s : State) (a : Act), Ready 1 h s a →
    exec (.fcmp h f) s = .next (s.setCur ((a.wn f.d.toNat
      (if (a.fg f.a.toNat).isNan || (a.fg f.b.toNat).isNan then 8
       else if (a.fg f.a.toNat).cmp (a.fg f.b.toNat) < 0 then 1
       else if (a.fg f.a.toNat).cmp (a.fg f.b.toNat) = 0 then 2 else 4)).done 1 h s.focus.n)) ∧
    exec (.fclass h f) s = .next (s.setCur ((a.wn f.d.toNat (2 ^ Claims.classBit (a.fg f.a.toNat))).done 1 h s.focus.n)) ∧
    (f.fn.toNat % 32 ∈ [0, 16, 21] → f.fmt.toNat ≤ 6 ∨ (12 ≤ f.fmt.toNat ∧ f.fmt.toNat ≤ 21) →
      (f.fn.toNat % 32 ≠ 0 → f.fmt.toNat ≠ 6) →
      let result := fun (r : Nat) =>
        Claims.cvtResult f.fmt.toNat f.rm.toNat f.sat r (Claims.cvtSource (f.fn.toNat % 32) (a.rg f.a.toNat))
      (f.rm ≠ 5 → exec (.fcvt h f) s = .next (s.setCur ((a.wg f.d.toNat (result 0)).done 1 h s.focus.n))) ∧
      (f.rm = 5 → a.rngReady = true → exec (.fcvt h f) s = .next (s.setCur
        (((a.setGen (a.gen.bits 5).2).wg f.d.toNat (result (a.gen.bits 5).1)).done 1 h s.focus.n))) ∧
      (f.rm = 5 → a.rngReady = false → exec (.fcvt h f) s = .next (s.noteWait 1))) ∧
    (a.rngReady = true →
      exec (.rnd h f) s = .next (s.setCur (((a.setGen a.gen.draw.2).wg f.d.toNat a.gen.draw.1).done 1 h s.focus.n)) ∧
      (∀ m, [24, 8, 11][f.fmt.toNat]? = some m →
        exec (.rndf h f) s = .next (s.setCur (((a.setGen a.gen.draw.2).wn f.d.toNat
          (f32Bits (.fin false (a.gen.draw.1.toNat / 2 ^ (64 - m)) (2 ^ m)))).done 1 h s.focus.n)))) ∧
    (a.rngReady = false → exec (.rnd h f) s = .next (s.noteWait 1) ∧ exec (.rndf h f) s = .next (s.noteWait 1))

/-- R54 to R57: every code of a float format that is no NaN is the code of its own value. -/
def Sys2Proof.Claims.FloatCodesAreTheCodesOfTheirValues : Prop :=
  ∀ f c, f ≤ 5 → c < 2 ^ fmtWidth f → (floatVal f c).isNan = false → floatCode f (floatVal f c) = c

/-- R89, R100, R101: an FMT word whose guard holds leaves its fields as the pending prefix; one whose guard is false leaves none; and one
that meets a pending prefix raises ILLEGAL_STATE. What follows it in its group then enters its queues. (Its info word is 0: log 28.) -/
def Obligations.FmtRecordsThePrefix : Prop :=
  ∀ (h : Hdr) (f : XForm) (s : State) (a : Act), s.cur = some a →
    (a.pfx = none → condTrue h.guard a = true → exec (.fmt h f) s = .next (s.setCur { a with pfx := some {
        f1 := if f.fn.getLsbD 3 then some f.fmt.toNat else none, f2 := if f.fn.getLsbD 2 then some (f.fn.toNat / 64) else none,
        rm := if f.fn.getLsbD 1 then some f.rm.toNat else none, sat := if f.fn.getLsbD 0 then some f.sat else none } }.frontDone)) ∧
    (a.pfx = none → condTrue h.guard a = false → exec (.fmt h f) s = .next (s.setCur { a with pfx := none }.frontDone)) ∧
    (a.pfx ≠ none → exec (.fmt h f) s = .next (s.raiseCur 4 0 0 0 0))

/-! ### Control-class words (R143 to R149) -/

/-- The activation after the front end has executed a control word that goes on at address `pc` with loop stack `loops`: the next such word
of its group stands there. -/
def Sys2Proof.Claims.goesOn (a : Act) (pc : Nat) (loops : List Loop) : Act := { a with pc := pc, loops := loops }.frontDone

/-- R89, R101: the members of a group enter their queues in word order, all of them as the group is dispatched, behind a word that the
front end executes too. Words of the front end at the group's end stand there, one after the other; an FMT before other members takes
effect at once, with ILLEGAL_STATE (info word 0, log 28) where a prefix is pending. Nothing else changes. -/
def Sys2Proof.Claims.TheRestOfTheGroupEnters : Prop :=
  (∀ (a : Act), a.frontDone = { a with front := a.rest.head?, rest := a.rest.tail, blocked := [], stall := none }) ∧
  ∀ (a : Act) (l : List QEntry),
    (∀ q, q < 3 → (a.enterAll l).queue q =
      a.queue q ++ l.filter (fun x => !x.isFront && x.word.extractLsb' 62 2 == BitVec.ofNat 2 (q + 1))) ∧
    (∀ xs e ys, l = xs ++ e :: ys → e.isFront = true → (∀ y, y ∈ ys → y.isFront = true) →
      (∀ x, xs.getLast? = some x → x.isFront = false) → (a.enterAll l).front = some e ∧ (a.enterAll l).rest = ys) ∧
    ((∀ x, l.getLast? = some x → x.isFront = false) → (a.enterAll l).front = a.front ∧ (a.enterAll l).rest = a.rest) ∧
    (∀ e r h f, l = e :: r → decode e.word = .ok (.fmt h f) → (∃ y, y ∈ r ∧ y.isFront = false) → e.isFront = true →
      (∀ p, a.pfx = some p → a.enterAll l = ({ a with
        faults := a.faults ++ [{ n := e.n, pc := e.pc, code := 4, info := 0 }] } : Act).enterAll r) ∧
      (a.pfx = none → a.enterAll l = ({ a with pfx := if condTrue h.guard a then some (fmtPrefix f) else none } : Act).enterAll r)) ∧
    (a.enterAll l).g = a.g ∧ (a.enterAll l).p = a.p ∧ (a.enterAll l).pc = a.pc ∧ (a.enterAll l).loops = a.loops ∧
    (a.enterAll l).deferred = a.deferred ∧ (a.enterAll l).gen = a.gen ∧ (∀ q, (a.enterAll l).tok q = a.tok q)

/-- R143, R149: NOP goes on at the next word; TRAP raises ILLEGAL_STATE with 4 in bits [7:0] and IMM in [63:32]; BRK raises BREAK, a
replayable fault, with IMM. -/
def Sys2Proof.Claims.NopTrapAndBreakpoint : Prop :=
  ∀ (f : BForm) (s : State) (a : Act), s.cur = some a →
    exec (.nop f) s = .next (s.setCur (Claims.goesOn a ((s.focus.pc + 8) % 2 ^ 48) a.loops)) ∧
    exec (.trap f) s = .next (s.raiseCur 4 (4 + 2 ^ 32 * f.imm.toNat) 0 0 0) ∧
    exec (.brk f) s = .next (s.raiseCur 22 f.imm.toNat 0 0 0) ∧ replayable 22 = true ∧ replayable 4 = false

/-- The target of a transfer (R144): PC plus 8 times IMM, or the value of a register. -/
def Sys2Proof.Claims.target (s : State) (a : Act) : Instr → Option (BForm × Nat)
  | .br f => some (f, (a.rg f.a.toNat).toNat)
  | .call f => some (f, (a.rg f.a.toNat).toNat)
  | .ret f => some (f, (a.rg 63).toNat)
  | .bri f => some (f, (((s.focus.pc : Int) + 8 * f.imm.toInt) % 2 ^ 48).toNat)
  | .calli f => some (f, (((s.focus.pc : Int) + 8 * f.imm.toInt) % 2 ^ 48).toNat)
  | _ => none
/-- A CALL, CALLI or RET, and a CALL or CALLI. -/
def Sys2Proof.Claims.leavesNoLoop : Instr → Bool
  | .call _ | .calli _ | .ret _ => true
  | _ => false
def Sys2Proof.Claims.links : Instr → Bool
  | .call _ | .calli _ => true
  | _ => false
/-- The target is one that R144 and R260 allow. -/
def Sys2Proof.Claims.goodTarget (s : State) (t : Nat) : Prop :=
  t < 2 ^ 48 ∧ t % 8 = 0 ∧ badInline s.ncode t = false

/-- R144, R148: a transfer whose condition is false goes on at the next word and writes nothing. A taken branch goes to its target and
leaves the loop levels, innermost first, that do not hold it; a taken CALL, CALLI or RET goes to its target where the innermost level
holds it, CALL and CALLI with the address of the next word in g63, and raises ILLEGAL_STATE 3 elsewhere. -/
def Sys2Proof.Claims.TransfersGoToTheirTarget : Prop :=
  ∀ (i : Instr) (s : State) (a : Act) (f : BForm) (t : Nat), s.cur = some a → Claims.target s a i = some (f, t) →
    (condTrue f.cond a = false → exec i s = .next (s.setCur (Claims.goesOn a ((s.focus.pc + 8) % 2 ^ 48) a.loops))) ∧
    (condTrue f.cond a = true → Claims.goodTarget s t →
      (Claims.leavesNoLoop i = false →
        exec i s = .next (s.setCur (Claims.goesOn a t (a.loops.dropWhile (fun l => !l.holds t))))) ∧
      (Claims.leavesNoLoop i = true → (∀ l r, a.loops = l :: r → l.holds t = true) →
        exec i s = .next (s.setCur (Claims.goesOn
          (if Claims.links i then a.wg 63 (BitVec.ofNat 64 ((s.focus.pc + 8) % 2 ^ 48)) else a) t a.loops))) ∧
      (Claims.leavesNoLoop i = true → ∀ l r, a.loops = l :: r → l.holds t = false →
        exec i s = .next (s.raiseCur 4 3 0 0 0)))

/-- R144, R150: a taken transfer whose register has a bit of [63:48] set raises ILLEGAL_OPERAND with the register's value, and one whose
target is no multiple of 8 raises ALIGN with the target. -/
def Sys2Proof.Claims.BadTargetsFault : Prop :=
  ∀ (i : Instr) (s : State) (a : Act) (f : BForm) (t : Nat), s.cur = some a → Claims.target s a i = some (f, t) →
    condTrue f.cond a = true →
    (2 ^ 48 ≤ t → exec i s = .next (s.raiseCur 3 t 0 0 0)) ∧
    (t < 2 ^ 48 → t % 8 ≠ 0 → exec i s = .next (s.raiseCur 10 t 0 0 0))

/-- The iteration count of LOOP and LOOPI (R145). -/
def Sys2Proof.Claims.loopCount (a : Act) : Instr → Option (BForm × Nat)
  | .loop f => some (f, if condTrue f.cond a then ((a.rg f.a.toNat).extractLsb' 0 32).toNat else 0)
  | .loopi f => some (f, if condTrue f.cond a then (f.imm.extractLsb' 16 16).toNat else 0)
  | _ => none

/-- R145, R146: a count of zero skips the body, and its end is then taken as the end of the innermost level is; any other count opens a
level, unless three are open (ILLEGAL_STATE 1) or the enclosing body ends before it (ILLEGAL_STATE 2). -/
def Sys2Proof.Claims.LoopsOpenOrSkip : Prop :=
  ∀ (i : Instr) (s : State) (a : Act) (f : BForm) (n : Nat), s.cur = some a → Claims.loopCount a i = some (f, n) →
    let start := (s.focus.pc + 8) % 2 ^ 48
    let len := (f.imm.extractLsb' 0 16).toNat
    (n = 0 → exec i s = .next (s.setCur (Claims.goesOn a
      (loopBack ((start + 8 * len) % 2 ^ 48) a.loops).1 (loopBack ((start + 8 * len) % 2 ^ 48) a.loops).2))) ∧
    (0 < n → 3 ≤ a.loops.length → exec i s = .next (s.raiseCur 4 1 0 0 0)) ∧
    (0 < n → a.loops.length < 3 → badInline s.ncode start = false →
      (∀ l r, a.loops = l :: r → start + 8 * len ≤ l.start + 8 * l.len) →
      exec i s = .next (s.setCur (Claims.goesOn a start ({ start := start, len := len, remain := n - 1 } :: a.loops)))) ∧
    (0 < n → a.loops.length < 3 → badInline s.ncode start = false →
      ∀ l r, a.loops = l :: r → l.start + 8 * l.len < start + 8 * len → exec i s = .next (s.raiseCur 4 2 0 0 0))

/-- R146: at the end of the innermost level the loop goes back to its start while iterations remain, and is popped otherwise; the next
level is then examined. At any other address nothing changes. A loop of `c` iterations, opened with `c - 1` remaining, goes back `c - 1`
times. -/
def Sys2Proof.Claims.LoopBackFollowsTheRule : Prop :=
  (∀ pc l r, pc = l.stop → 0 < l.remain → loopBack pc (l :: r) = (l.start, { l with remain := l.remain - 1 } :: r)) ∧
  (∀ pc l r, pc = l.stop → l.remain = 0 → loopBack pc (l :: r) = loopBack pc r) ∧
  (∀ pc l r, pc ≠ l.stop → loopBack pc (l :: r) = (pc, l :: r)) ∧
  (∀ pc, loopBack pc [] = (pc, [])) ∧
  (∀ l r c, l.remain = c → ∀ k, k ≤ c →
    (fun x : Nat × List Loop => loopBack l.stop x.2)^[k] (l.start, l :: r) =
      (if k = 0 then (l.start, l :: r) else (l.start, { l with remain := c - k } :: r)))

/-- R112: a word of the hint region in class A, C or S takes no effect, obeys its guard and moves its tokens; in the control class the
front end goes on at the next word. -/
def Sys2Proof.Claims.HintWordsOnlyMoveTokens : Prop :=
  ∀ (cls : BitVec 2) (opc : BitVec 4) (h : Hdr) (ops : BitVec 44) (s : State) (a : Act),
    (cls ≠ 0 → Issues (cls.toNat - 1) h s a →
      exec (.hintWord cls opc h ops) s = .next (s.setCur (a.done (cls.toNat - 1) h s.focus.n))) ∧
    (cls = 0 → s.cur = some a →
      exec (.hintWord cls opc h ops) s = .next (s.setCur (Claims.goesOn a ((s.focus.pc + 8) % 2 ^ 48) a.loops)))

/-! ### Taking a fault (R48 to R50, R105) -/

/-- R48 to R50, R105: of several faults the earliest in program order is taken, once no queue can go on. Taking it frees the slot and its
inbox entry, discards the segment's effects, sends at most future operations (its JOIN's and the doorbell of its record), and leaves every
other activation of the engine and the scratchpad as they are; until then each fault keeps the hub time at which it was raised. A
replayable fault for which a future and a waiter are there parks the activation's record behind that future, which waits for phase 1. -/
def Sys2Proof.Claims.TakingAFaultEndsTheSegment : Prop :=
  (∀ (l : List Raised) (f : Raised), earliest l = some f → f ∈ l ∧ ∀ x, x ∈ l → f.n ≤ x.n) ∧
  (∀ (s : State) (g k : Nat) (a : Act) (f : Raised), s.act g k = some a →
    (earliest a.faults = some f → a.stuck = true → a.busy = false → s.settle g k = s.segmentFault g k a f) ∧
    (earliest a.faults = some f → a.stuck = false ∨ a.busy = true → s.settle g k = s.setAct g k { a with
      faults := a.faults.map (fun x => { x with time := some (x.time.getD s.hubTime) }) }) ∧
    (a.faults = [] → s.settle g k = s) ∧
    (let t := s.segmentFault g k a f
     t.act g k = none ∧ (∀ j, j ≠ k → t.act g j = s.act g j) ∧ (t.eng g).spad = (s.eng g).spad ∧ t.inflight = s.inflight ∧
     (∃ l, t.packets = s.packets ++ l ∧ ∀ p, p ∈ l → ∃ h op, p.body = .future h op) ∧ t.tenures = s.tenures ∧
     ((∀ x, x ∈ (s.eng g).spill → x.slot = none) → ∀ x, x ∈ (t.eng g).inbox → x.slot ≠ some k)) ∧
    (g < 16384 → (∀ i, ((s.cluster (g / 16)).futs.get {} i).gen < 1024) → a.allocs = [] → replayable f.code = true →
      s.fqRoom a.ctx = true → (s.cluster (g / 16)).entries a.ctx false < (s.ctx a.ctx).quota → (s.allocFut (g / 16) a.ctx 0).1 ≠ 0 →
      0 < ((s.allocFut (g / 16) a.ctx 0).2.cluster (g / 16)).wfree →
      let t := s.segmentFault g k a f
      let h := (s.allocFut (g / 16) a.ctx 0).1
      (t.fut h).state = .live ∧ ∃ w, (t.fut h).waiters = [w] ∧ w.msg = ((s.eng g).entry k).msg ∧ w.parked = true ∧ w.target = 1))

/-! ### The course of every issuing word (R83, R91 to R97), and the words that only enter a deferred effect (R36, R37) -/

/-- The queue and header of a word that issues from a queue: class A from queue 0, C from 1, S from 2. FMT and control words do not. -/
def Sys2Proof.Claims.issues (i : Instr) : Option (Nat × Hdr) :=
  match i, i.word, i.hdr? with
  | .fmt _ _, _, _ => none
  | _, some w, some h => if w.extractLsb' 62 2 = 0 then none else some ((w.extractLsb' 62 2).toNat - 1, h)
  | _, _, _ => none

/-- R83, R92, R94, R96: every issuing word waits in its queue while a token that it pops is missing; with a false guard it takes no
effect and its tokens move. (Where no activation runs there is no word to execute: the model stops, log 20.) -/
def Obligations.EveryIssuingWordFollowsTheCourse : Prop :=
  ∀ (i : Instr) (q : Nat) (h : Hdr) (s : State), Claims.issues i = some (q, h) →
    (s.cur = none → exec i s = .fault .noActivation) ∧
    (∀ a, s.cur = some a → a.canPop q h = false → exec i s = .next (s.noteBlock q)) ∧
    (∀ a, Issues q h s a → condTrue h.guard a = false → exec i s = .next (s.setCur (a.done q h s.focus.n)))

/-- R93, R95, R96: what the tokens of a word do to the counters. The queues stand on the ring A, C, S, numbered 0, 1, 2: POPU and PUSHU move
the word's own counter, POPD and PUSHD the one downstream; no other counter changes, and neither do the registers, the loop stack, the
deferred effects or the generator. In a cycle that is in progress a word pops at once, and its pushes are owed until the cycle ends. -/
def Sys2Proof.Claims.TokensMoveOnTheRing : Prop :=
  (∀ (opc : BitVec 4) (cls : BitVec 2) (h : Hdr) (ops : BitVec 44) (s : State) (a : Act), cls ≠ 0 → s.cur = some a →
    a.canPop (cls.toNat - 1) h = true → s.sameCycle = true → h.pushu = true ∨ h.pushd = true →
    exec (.hintWord cls opc h ops) s = .next (s.setCur { a.pops (cls.toNat - 1) h with
      owed := a.owed ++ [{ q := cls.toNat - 1, n := s.focus.n, pc := s.focus.pc, u := h.pushu, d := h.pushd }] })) ∧
  ∀ (a : Act) (q : Nat) (h : Hdr) (n : Nat), q < 3 → a.canPop q h = true → a.fits q h n = true →
    ((a.done q h n).tok q : Int) = a.tok q - bit h.popu + bit h.pushu ∧
    ((a.done q h n).tok ((q + 1) % 3) : Int) = a.tok ((q + 1) % 3) - bit h.popd + bit h.pushd ∧
    (a.done q h n).tok ((q + 2) % 3) = a.tok ((q + 2) % 3) ∧
    (a.done q h n).g = a.g ∧ (a.done q h n).p = a.p ∧ (a.done q h n).h = a.h ∧ (a.done q h n).loops = a.loops ∧
    (a.done q h n).deferred = a.deferred ∧ (a.done q h n).gen = a.gen ∧ (a.done q h n).faults = a.faults

/-- R95, R105: a push onto a counter that holds 15 raises TOKEN_OVERFLOW (code 5), the counter keeps its value, and the word stays at the
head of its queue. (Its info word is 0: log 28.) -/
def Sys2Proof.Claims.TokenOverflowIsRaised : Prop :=
  ∀ (opc : BitVec 4) (cls : BitVec 2) (h : Hdr) (ops : BitVec 44) (s : State) (a : Act), cls ≠ 0 → s.cur = some a →
    a.canPop (cls.toNat - 1) h = true → a.fits (cls.toNat - 1) h s.focus.n = false → pushesNow h s = true →
    exec (.hintWord cls opc h ops) s = .next
      ((s.setCur ((a.pops (cls.toNat - 1) h).pushes (cls.toNat - 1) h.pushu h.pushd).1).raiseCur 5 0 0 0 0)

/-- A scratchpad access of `n` bytes that R187 and R188 allow. -/
def Sys2Proof.Claims.spadOk (a n align : Nat) : Bool := a % align == 0 && decide (a + n ≤ 0x18000)

/-- What an access that defers its effect enters: the effect, the page-table granules that its translation used, and the state after
the translation. -/
def Sys2Proof.Claims.translated (s : State) (a : Act) (need : Need) (va n : Nat) (e : Target → Effect) :
    Option (Effect × List Nat × State) :=
  match s.translate a.ctx need va n s.via with
  | (.ok tg u, t) => some (e tg, u, t)
  | _ => none

/-- What COLL enters (R480): its group is registered for the context, with the engine among its members. -/
def Sys2Proof.Claims.collected (s : State) (a : Act) (h : Hdr) (f : YForm) (kind : Nat) :
    Option (Nat × Hdr × Effect × List Nat × State) :=
  let ad := yAddr f a
  let gv := a.ug f.b.toNat
  if Claims.spadOk ad 32 32 && gv < 64 && (s.group gv).state = .registered && (s.group gv).ctx = a.ctx &&
      (s.group gv).mask.testBit s.focus.g then
    some (2, h, .coll gv ad f.obj.toNat kind, [], s)
  else none

/-- The queue, header and deferred effect of a word that only enters an effect; `none` where a check of its entry fails, or where it
waits for a copy slot or a matrix queue entry. -/
def Sys2Proof.Claims.defers (s : State) (a : Act) : Instr → Option (Nat × Hdr × Effect × List Nat × State)
  | .stg h f o =>
    let va := memAddr f a
    let m := f.fmt.toNat
    if va % fmtAlign m = 0 then
      (Claims.translated s a .w va (fmtBytes m) (fun tg => .store tg va (codeBytes m (storeCode m o.rm.toNat o.sat (a.ug f.d.toNat)))
        (if fmtWidth m = 4 then some (f.mode.getLsbD 0) else none) (!f.mode.getLsbD 4))).map (fun x => (0, h, x))
    else none
  | .cpy h f => if Claims.spadOk (yAddr f a) 128 128 && (s.eng s.focus.g).copySlots < 32 then
      some (0, h, .copy (yAddr f a) f.obj.toNat false, [], s) else none
  | .cpym h f => if Claims.spadOk (yAddr f a) 128 128 && (s.eng s.focus.g).copySlots < 32 then
      some (0, h, .copy (yAddr f a) f.obj.toNat true, [], s) else none
  | .atomg h f =>
    let va := baseAddr f a
    let n := fmtWidth f.fmt.toNat / 8
    let d := a.ug f.b.toNat
    if va % n = 0 && (f.mode.toNat < 16 || va < 2 ^ 48) && !(f.mode.toNat % 16 = 9 && f.d = 63) &&
        (fieldOf d 23 17 = 127 || (fieldOf d 23 17 ≤ 95 && Claims.spadOk (d % 2 ^ 17) n n)) then
      (Claims.translated s a .rw va n (fun tg => .atomic tg va (f.mode.toNat % 16) f.fmt.toNat (a.ug f.d.toNat % 2 ^ fmtWidth f.fmt.toNat)
        (if f.mode.toNat % 16 = 9 then a.ug (f.d.toNat + 1) % 2 ^ fmtWidth f.fmt.toNat else 0) (f.mode.getLsbD 4)
        (if fieldOf d 23 17 = 127 then none else some (d % 2 ^ 17, fieldOf d 23 17)))).map (fun x => (0, h, x))
    else none
  | .red h f =>
    let va := baseAddr f a
    let n := fmtWidth f.fmt.toNat / 8
    if va % n = 0 && (f.mode.toNat < 16 || va < 2 ^ 48) then
      (Claims.translated s a .rw va n (fun tg => .atomic tg va (f.mode.toNat % 16) f.fmt.toNat (a.ug f.d.toNat % 2 ^ fmtWidth f.fmt.toNat)
        (if f.mode.toNat % 16 = 9 then a.ug (f.d.toNat + 1) % 2 ^ fmtWidth f.fmt.toNat else 0) (f.mode.getLsbD 4) none)).map (fun x => (0, h, x))
    else none
  | .sch h f =>
    let va := baseAddr f a
    let n := fmtWidth f.fmt.toNat / 8
    if va % n = 0 && va < 2 ^ 48 then
      (Claims.translated s a .rw va n (fun tg => .sch tg va f.fmt.toNat (a.ug f.d.toNat % 2 ^ fmtWidth f.fmt.toNat) (a.ug f.b.toNat % 2 ^ 32)
        false)).map (fun x => (0, h, x))
    else none
  | .schRel h f =>
    let va := baseAddr f a
    let n := fmtWidth f.fmt.toNat / 8
    if va % n = 0 && va < 2 ^ 48 then
      (Claims.translated s a .rw va n (fun tg => .sch tg va f.fmt.toNat 0 (a.ug f.b.toNat % 2 ^ 32) true)).map (fun x => (0, h, x))
    else none
  | .binit h f =>
    let e := (a.ug f.a.toNat + f.imm.toNat) % 65536
    if e = 0 then none else some (2, h, .binit f.obj.toNat e, [], s)
  | .barr h f => some (2, h, .barUpd f.obj.toNat f.imm.toNat 0, [], s)
  | .barrx h f =>
    if a.ug f.a.toNat + f.imm.toNat < 2 ^ 39 then
      some (2, h, .barUpd f.obj.toNat 1 (a.ug f.a.toNat + f.imm.toNat : Nat), [], s) else none
  | .bexp h f =>
    let v := (a.rg f.a.toNat).toInt + f.imm.toInt
    if -(2 ^ 39) ≤ v ∧ v < 2 ^ 39 then some (2, h, .barUpd f.obj.toNat 0 v, [], s) else none
  | .send h f => some (2, h, .send (sendRoute s f a) (a.ug f.b.toNat % 2 ^ 24) (f.obj.toNat % 8) (f.sub.getLsbD 0) (f.imm.toNat % 4096)
      f.d.toNat (a.run f.d.toNat (f.imm.toNat / 4096)), [], s)
  | .sendi h f =>
    if Claims.spadOk (a.ug f.d.toNat) (8 * (f.imm.toNat % 16)) 8 then
      some (2, h, .sendi (sendRoute s f a) (a.ug f.b.toNat % 2 ^ 24) (f.obj.toNat % 8) (f.sub.getLsbD 0) (a.ug f.d.toNat) (f.imm.toNat % 16)
        (a.ug (f.imm.toNat / 16 % 64)) (a.ug (f.imm.toNat / 1024)), [], s) else none
  | .spawn h f =>
    let j := a.ug f.a.toNat
    if j = 0 || j % 1024 ≠ 0 then some (2, h, .spawn (j % 2 ^ 32) (f.obj.toNat % 8) (f.imm.toNat % 4096) f.d.toNat
      (a.run f.d.toNat (f.imm.toNat / 4096)), [], s) else none
  | .fres h f =>
    let hd := a.ug f.a.toNat % 2 ^ 32
    if hd = 0 || hd % 1024 ≠ 0 then some (2, h, .fres hd (a.ug f.b.toNat), [], s) else none
  | .fdec h f =>
    let hd := a.ug f.a.toNat % 2 ^ 32
    let n := a.ug f.b.toNat + f.imm.toNat
    if (hd = 0 || hd % 1024 ≠ 0) && 0 < n && n < 2 ^ 31 then some (2, h, .fdec hd n, [], s) else none
  | .ffree h f =>
    let hd := a.ug f.a.toNat % 2 ^ 32
    if hd = 0 || hd % 1024 ≠ 0 then some (2, h, .ffree hd, [], s) else none
  | .fcall h f =>
    if Claims.spadOk (a.ug f.d.toNat) 48 8 then
      some (2, h, .fcall (a.ug f.d.toNat) (a.ug f.a.toNat % 2 ^ 32) (a.ug f.b.toNat % 4096), [], s) else none
  | .tfree h f => if (s.tile a.ctx (a.ug f.a.toNat % 2 ^ 32)).isSome then some (2, h, .tfree (a.ug f.a.toNat % 2 ^ 32), [], s) else none
  | .trel h f => if (s.tile a.ctx (a.ug f.a.toNat % 2 ^ 32)).isSome then
      some (2, h, .trel (a.ug f.a.toNat % 2 ^ 32) (f.sub.getLsbD 0), [], s) else none
  | .fence h f => some (2, h, .fence (f.obj.toNat % 16) f.sub.toNat, [], s)
  | .collBcast h f => Claims.collected s a h f 0
  | .collReduce h f => Claims.collected s a h f 1
  | .collAllred h f => Claims.collected s a h f 2
  | _ => none

/-- The activation with one more deferred effect, in its place in program order (R37). -/
def Sys2Proof.Claims.withEffect (s : State) (a : Act) (e : Effect) (u : List Nat) : Act :=
  { a with deferred := insertDeferred { n := s.focus.n, pc := s.focus.pc, eff := e, uses := u } a.deferred, uses := u ++ a.uses }

/-- R36, R37, R192, R205, R216, R287, R288, R291, R294, R348, R350, R354, R356, R358: each of these words captures its operands at issue,
enters one effect into the deferred-effect buffer in program order, and completes; with 64 entries in use it raises SEG_OVERFLOW (code 6)
instead. (Its info word is 0: log 28.) -/
def Obligations.DeferringWordsEnterTheirEffect : Prop :=
  ∀ (i : Instr) (s t : State) (a : Act) (q : Nat) (h : Hdr) (e : Effect) (u : List Nat),
    Claims.defers s a i = some (q, h, e, u, t) → Ready q h s a →
    (a.deferred.length < 64 → exec i s = .next (t.setCur ((Claims.withEffect s a e u).done q h s.focus.n))) ∧
    (64 ≤ a.deferred.length → exec i s = .next (t.raiseCur 6 0 0 0 0))

/-- The address of the leaf entry that a walk for an address of window 0 reaches (R387, R388). -/
def Sys2Proof.Claims.leafEntry (s : State) (ctx va : Nat) (via : Option (Nat × Nat)) : Option Nat :=
  if 2 ^ 48 ≤ va ∨ inlineBase ≤ va then none
  else
    match (s.walk via va 4 0 (s.ctx ctx).ptRoot []).1 with
    | .leaf _ a _ _ _ => some a
    | _ => none

/-- R36, R389: a translation changes nothing of memory but the leaf entry that its walk reaches, where it sets A, and D for a need that
writes, if it succeeds; a walk that reaches no leaf changes no byte, but for the count of FAULTS of a switch that its request does not
pass (R467, R473). Contexts, the hub and the activations and scratchpads of the engines
stay as they are: a line that a recall takes back may leave a data cache (R343, R390). -/
def Obligations.TranslationTouchesOnlyOneEntry : Prop :=
  ∀ (s : State) (ctx va n : Nat) (need : Need) (via : Option (Nat × Nat)), Memory.wf s.mem = true →
    let r := s.translate ctx need va n via
    (∀ a, Claims.leafEntry s ctx va via = some a →
      (∀ x, (x < a ∨ a + 8 ≤ x) → r.2.byte x = s.byte x) ∧
      (∀ t u, r.1 = .ok t u → readLE r.2.mem a 8 = readLE s.mem a 8 ||| (if need.hasW then 0x180 else 0x80)) ∧
      (∀ f, r.1 = .bad f → readLE r.2.mem a 8 = readLE s.mem a 8)) ∧
    (Claims.leafEntry s ctx va via = none → (∀ i, (s.walk via va 4 0 (s.ctx ctx).ptRoot []).1 ≠ .route i) → ∀ x, r.2.byte x = s.byte x) ∧
    (∀ i, (s.walk via va 4 0 (s.ctx ctx).ptRoot []).1 = .route i → let m := s.hub.cwm + 2048 + 2112 * (i / 2 ^ 8 % 2 ^ 16)
      ∀ x, (x < m ∨ m + 64 ≤ x) → r.2.byte x = s.byte x) ∧
    (∀ g, { r.2.eng g with dcache := [] } = { s.eng g with dcache := [] }) ∧
    r.2.ctxs = s.ctxs ∧ r.2.hub = s.hub ∧ r.2.focus = s.focus ∧ (2 ^ 48 ≤ va → r.2 = s)

/-- R220, R191, R192: a scratchpad address that is misaligned raises ALIGN, and an access that leaves the scratchpad SCRATCH_BOUNDS, each
with the address as info word; nothing is written. -/
def Sys2Proof.Claims.ScratchpadChecksRaise : Prop :=
  ∀ (h : Hdr) (f : MForm) (o : Cvt) (s : State) (a : Act), Ready 0 h s a →
    let ad := memAddr f a
    (ad % fmtAlign f.fmt.toNat ≠ 0 →
      exec (.ld h f) s = .next (s.raiseCur 10 ad 0 0 0) ∧ exec (.st h f o) s = .next (s.raiseCur 10 ad 0 0 0)) ∧
    (ad % fmtAlign f.fmt.toNat = 0 → 0x18000 < ad + fmtBytes f.fmt.toNat →
      exec (.ld h f) s = .next (s.raiseCur 11 ad 0 0 0) ∧ exec (.st h f o) s = .next (s.raiseCur 11 ad 0 0 0))

/-! ### Words of a tile engine that act at issue on scratchpad, caches, barriers, futures and tiles -/

/-- The state once a word has taken its three free choices of how it lies among the writes that crossed it (log 23). -/
def Sys2Proof.Claims.drawn (s : State) : State := { s with free := s.free + 3 }

/-- A byte that a read may see at `x`: the one in the scratchpad, or one from before or after a write that crossed the access. -/
def Sys2Proof.Claims.seenAt (R : Reads) (m : Sparse Byte) (x : Nat) (b : Byte) : Prop :=
  b = Sparse.get 0 m x ∨ ∃ c j, c ∈ R.cross ∧ c.1.at_ + j = x ∧ (c.1.old[j]? = some b ∨ c.1.new[j]? = some b)

/-- R97, R190, R191: LD writes D with the register value of the element at its address and completes; the scratchpad keeps its contents.
Where no write has crossed the word since it began, the element is the one that stands there; each byte is otherwise that one or one that
stood there before or after a crossing write. -/
def Sys2Proof.Claims.ScratchpadLoadReadsItsElement : Prop :=
  ∀ (h : Hdr) (f : MForm) (s : State) (a : Act), Ready 0 h s a → Sparse.canonical 0 s.spad = true →
    let n := fmtBytes f.fmt.toNat
    let ad := memAddr f a
    Claims.spadOk ad n (fmtAlign f.fmt.toNat) = true →
    ∃ bs : List Byte, bs.length = n ∧
      exec (.ld h f) s = .next ((Claims.drawn s).setCur ((a.wn f.d.toNat (toRegister f.fmt.toNat
        (elemCode f.fmt.toNat (f.mode.getLsbD 0) bs))).done 0 h s.focus.n)) ∧
      ((s.reads a 0).1.cross = [] → bs = bytesAt s.spad ad n) ∧
      (∀ i, i < n → Claims.seenAt (s.reads a 0).1 s.spad (ad + i) (bs.getD i 0))

/-- R190, R192: ST completes with the register's code in the bytes at its address (a 4-bit format replaces one nibble); every other
scratchpad byte, and the activation but for its tokens, keep their values. -/
def Sys2Proof.Claims.ScratchpadStoreWritesItsElement : Prop :=
  ∀ (h : Hdr) (f : MForm) (o : Cvt) (s : State) (a : Act), Ready 0 h s a → Sparse.canonical 0 s.spad = true →
    Claims.spadOk (memAddr f a) (fmtBytes f.fmt.toNat) (fmtAlign f.fmt.toNat) = true →
    ∃ l, exec (.st h f o) s = .next ((s.setSpad l).setCur (a.done 0 h s.focus.n)) ∧
      let m := (s.setSpad l).spad
      (∀ x, (x < memAddr f a ∨ memAddr f a + fmtBytes f.fmt.toNat ≤ x) → Sparse.get 0 m x = Sparse.get 0 s.spad x) ∧
      (fmtWidth f.fmt.toNat ≠ 4 → bytesAt m (memAddr f a) (fmtBytes f.fmt.toNat) =
        codeBytes f.fmt.toNat (storeCode f.fmt.toNat o.rm.toNat o.sat (a.ug f.d.toNat))) ∧
      (fmtWidth f.fmt.toNat = 4 → Sparse.get 0 m (memAddr f a) = setNibble (Sparse.get 0 s.spad (memAddr f a))
        (BitVec.ofNat 8 (storeCode f.fmt.toNat o.rm.toNat o.sat (a.ug f.d.toNat))) (f.mode.getLsbD 0)) ∧
      Sparse.canonical 0 m = true

/-- The new word of an atomic (R196), from the old word, the operand and the compare value, all of `w` bits; FADD rounds an F32 sum once,
to nearest even. -/
def Sys2Proof.Claims.atomWord (op w old b cmp : Nat) : Option Nat :=
  match op with
  | 0 => some ((old + b) % 2 ^ w)
  | 1 => some (if (BitVec.ofNat w old).sle (BitVec.ofNat w b) then old else b)
  | 2 => some (if (BitVec.ofNat w b).sle (BitVec.ofNat w old) then old else b)
  | 3 => some (if old ≤ b then old else b)
  | 4 => some (if b ≤ old then old else b)
  | 5 => some (old &&& b)
  | 6 => some (old ||| b)
  | 7 => some (old ^^^ b)
  | 8 => some b
  | 9 => some (if old = cmp then b else old)
  | 10 => some (floatCode 0 (roundTo 0 0 false 0 ((floatVal 0 old).add false (floatVal 0 b))))
  | _ => none

/-- R196: ATOM on a 32-bit or 64-bit integer word of scratchpad, or FADD on an F32 word, writes the word that its operation gives and D with
the old word, and completes; every other scratchpad byte keeps its value. -/
def Obligations.ScratchpadAtomicsReadModifyWrite : Prop :=
  ∀ (h : Hdr) (f : MForm) (s : State) (a : Act) (v : Nat), Ready 0 h s a → Sparse.canonical 0 s.spad = true →
    ([15, 16, 20, 21].contains f.fmt.toNat = true ∧ f.mode.toNat % 16 < 10) ∨ (f.fmt = 0 ∧ f.mode.toNat % 16 = 10) →
    let w := fmtWidth f.fmt.toNat
    let ad := baseAddr f a
    let old := readLE s.spad ad (w / 8)
    Claims.spadOk ad (w / 8) (w / 8) = true →
    Claims.atomWord (f.mode.toNat % 16) w old (a.ug f.b.toNat % 2 ^ w) (a.ug f.d.toNat % 2 ^ w) = some v →
    ∃ l, exec (.atom h f) s = .next ((s.setSpad l).setCur
        ((a.wg f.d.toNat (if f.fmt.toNat = 15 then (BitVec.ofNat 32 old).signExtend 64 else BitVec.ofNat 64 old)).done 0 h s.focus.n)) ∧
      readLE (s.setSpad l).spad ad (w / 8) = v ∧
      (∀ x, (x < ad ∨ ad + w / 8 ≤ x) → Sparse.get 0 (s.setSpad l).spad x = Sparse.get 0 s.spad x)

/-- The line of a load is in the cache that the load goes through (R184), which then sends no request. -/
def Sys2Proof.Claims.cached (s : State) (f : MForm) (a : Act) (const : Bool) (tg : Target) : Bool :=
  if const then ((s.eng s.focus.g).ccache.find (memAddr f a / 128)).isSome
  else
    match tg with
    | .dpa p _ => (s.eng s.focus.g).dcache.contains (p / 128)
    | .remote _ _ => false

/-- The ticket of the load's request at the TC0 shaper (R470), and the state with it. -/
def Sys2Proof.Claims.loadTicket (s : State) (f : MForm) (a : Act) (const : Bool) (tg : Target) : Nat × State :=
  if Claims.cached s f a const tg then (0, s)
  else s.shape (.engine (s.focus.g / 16) (s.focus.g % 16)) a.ctx tcMem (2 + ((if const then 128 else fmtBytes f.fmt.toNat) + 31) / 32)

/-- A global load in flight (R191). -/
def Sys2Proof.Claims.loadOf (s : State) (a : Act) (h : Hdr) (f : MForm) (const : Bool) (tg : Target) (ticket : Nat) : Load :=
  { pc := s.focus.pc, n := s.focus.n, reg := f.d.toNat, fmt := f.fmt.toNat, hi := f.mode.getLsbD 0, va := memAddr f a, tgt := tg,
    const := const, policy := if const then 0 else (f.mode.extractLsb' 2 2).toNat, pushu := h.pushu, pushd := h.pushd,
    alloc := !const && !f.mode.getLsbD 4, since := s.hubTime, ticket := ticket }

/-- R95, R188, R191: LDG and LDC set out: their pops are made, and a load is in flight, for whose return the word stays at the head of its
queue and its pushes wait; a misaligned address raises ALIGN, and a failed translation its fault with the address (the ROUTE info word of
R467 for a walk that meets a route fault). A load that needs its context's TC0 bucket waits in the shaper (R470; its flits: log 110). -/
def Obligations.GlobalLoadsSetOut : Prop :=
  ∀ (h : Hdr) (f : MForm) (s : State) (a : Act) (const : Bool), Ready 0 h s a →
    let i : Instr := if const then .ldc h f else .ldg h f
    let va := memAddr f a
    (va % fmtAlign f.fmt.toNat ≠ 0 → exec i s = .next (s.raiseCur 10 va va 0 0)) ∧
    (va % fmtAlign f.fmt.toNat = 0 → ∀ tg u t, s.translate a.ctx .r va (fmtBytes f.fmt.toNat) s.via = (.ok tg u, t) →
      let r := Claims.loadTicket t f a const tg
      exec i s = .next (r.2.setCur
        (({ a with uses := u ++ a.uses, loads := a.loads ++ [Claims.loadOf s a h f const tg r.1] }.pops 0 h).progress))) ∧
    (va % fmtAlign f.fmt.toNat = 0 → ∀ x t, s.translate a.ctx .r va (fmtBytes f.fmt.toNat) s.via = (.bad x, t) →
      exec i s = .next (t.raiseCur x.code (if x.code = 15 then x.info else va) va x.reason x.share))

/-- R194, R195, R197: CINV drops one constant-cache line, CINV.ALL all of them, and CINV.I the instruction cache (with MOD[0], the constant
cache too); PREF brings a granule to the data cache, or to the cluster cache with MOD[0], and does nothing where the translation fails.
Each completes, and no register changes. The data cache holds at most four granules of a set and the cluster cache 4,096 lines; which one
gives way is free (R15, R184; log 80). A line is fetched as an implicit tile (R193, R332), where no recall has to wait. -/
def Obligations.CacheWordsComplete : Prop :=
  ∀ (h : Hdr) (f : MForm) (s : State) (a : Act), Ready 0 h s a →
    exec (.cinvLine h f) s =
      .next ((s.modEng s.focus.g (fun E => { E with ccache := E.ccache.del (baseAddr f a / 128) })).setCur (a.done 0 h s.focus.n)) ∧
    exec (.cinvAll h f) s = .next ((s.modEng s.focus.g (fun E => { E with ccache := [] })).setCur (a.done 0 h s.focus.n)) ∧
    exec (.cinvI h f) s = .next ((s.modEng s.focus.g (fun E =>
      { E with icache := [], ccache := if f.mode.getLsbD 0 then [] else E.ccache })).setCur (a.done 0 h s.focus.n)) ∧
    (∀ p k u t, s.translate a.ctx .r (baseAddr f a) 1 s.via = (.ok (.dpa p k) u, t) →
      let b := { a with uses := u ++ a.uses }
      (∀ v, (t.setCur b).recall (s.focus.g / 16) a.ctx (128 * (p / 128)) 128 false false = some v →
        exec (.pref h f) s = .next ((if f.mode.getLsbD 0 then v.cacheCluster (s.focus.g / 16) (p / 128)
          else v.cacheData s.focus.g (p / 128)).setCur (b.done 0 h s.focus.n))) ∧
      ((t.setCur b).recall (s.focus.g / 16) a.ctx (128 * (p / 128)) 128 false false = none →
        exec (.pref h f) s = .next (t.setCur (b.done 0 h s.focus.n)))) ∧
    (∀ x t, s.translate a.ctx .r (baseAddr f a) 1 s.via = (.bad x, t) → exec (.pref h f) s = .next (t.setCur (a.done 0 h s.focus.n))) ∧
    (∀ w o u t, s.translate a.ctx .r (baseAddr f a) 1 s.via = (.ok (.remote w o) u, t) →
      exec (.pref h f) s = .next (t.setCur (a.done 0 h s.focus.n))) ∧
    (∀ (v : State) (g gr : Nat),
      let old := (v.eng g).dcache
      let new := ((v.cacheData g gr).eng g).dcache
      let set := fun (l : List Nat) => (l.filter (fun x => x % 16 = gr % 16)).length
      gr ∈ new ∧ (∀ x, x ∈ new → x = gr ∨ x ∈ old) ∧ (∀ x, x ∈ old → x % 16 ≠ gr % 16 → x ∈ new) ∧ (set old ≤ 4 → set new ≤ 4)) ∧
    (∀ (v : State) (c gr : Nat),
      let old := (v.cluster c).l2
      let new := ((v.cacheCluster c gr).cluster c).l2
      gr ∈ new ∧ (∀ x, x ∈ new → x = gr ∨ x ∈ old) ∧ (old.length ≤ 4096 → new.length ≤ 4096))

/-- R212, R217: CPYQ writes the copy status word; BTEST tells whether the phase is reached without overrun, BTEST.S gives PHASE, ARR and
EXPECT, and BTEST.P gives PEND and OVR. -/
def Sys2Proof.Claims.CopyAndBarrierQueriesReadTheirState : Prop :=
  ∀ (h : Hdr) (f : YForm) (s : State) (a : Act),
    let E := s.eng s.focus.g
    let b := E.bar f.obj.toNat
    let tgt := barTarget f a
    (Ready 0 h s a → exec (.cpyq h f) s = .next (s.setCur ((a.wn f.d.toNat
      (E.copySlots + 2 ^ 8 * (E.copies.filter (fun c => c.pages.any (fun p => p.held))).length + 2 ^ 16 * (E.copyNext % 2 ^ 11))).done
        0 h s.focus.n))) ∧
    (Ready 2 h s a →
      exec (.btest h f) s = .next (s.setCur ((a.wp f.d.toNat (reached b.phase tgt && !b.overrun)).done 2 h s.focus.n)) ∧
      exec (.btestS h f) s = .next (s.setCur ((a.wn f.d.toNat (b.phase + 2 ^ 32 * b.arr + 2 ^ 48 * b.expect)).done 2 h s.focus.n)) ∧
      exec (.btestP h f) s = .next (s.setCur ((a.wn f.d.toNat ((b.pend % 2 ^ 40).toNat + if b.overrun then 2 ^ 63 else 0)).done
        2 h s.focus.n)))

/-- R217: BWAIT completes when its barrier has reached the target phase, waits in its queue until then, and raises BARRIER_OVERRUN (code 12)
with the barrier and PEND when the barrier has overrun. -/
def Sys2Proof.Claims.BarrierWaitCompletesWaitsOrFaults : Prop :=
  ∀ (h : Hdr) (f : YForm) (s : State) (a : Act), Ready 2 h s a →
    let b := (s.eng s.focus.g).bar f.obj.toNat
    (b.overrun = false → reached b.phase (barTarget f a) = true → exec (.bwait h f) s = .next (s.setCur (a.done 2 h s.focus.n))) ∧
    (b.overrun = false → reached b.phase (barTarget f a) = false → exec (.bwait h f) s = .next (s.noteWait 2)) ∧
    (b.overrun = true → exec (.bwait h f) s = .next (s.raiseCur 12 (f.obj.toNat + 256 * (b.pend % 2 ^ 40).toNat) 0 0 0))

/-- R214: an update of a barrier adds to ARR and PEND; when ARR reaches EXPECT with PEND 0 the phase advances and ARR is 0 again; an ARR
above EXPECT, a PEND outside 40 bits, or a negative PEND at the last arrival overruns the barrier, and an overrun barrier ignores updates.
Updates that reach the barrier in one cycle are summed, applied together, and checked once. -/
def Obligations.BarrierUpdateFollowsTheRule : Prop :=
  ∀ (x : Bar) (da : Nat) (dp : Int),
    (x.overrun = true → x.update da dp = x) ∧
    (x.overrun = false → x.arr + da ≤ x.expect → -(2 ^ 39) ≤ x.pend + dp → x.pend + dp < 2 ^ 39 →
      (x.arr + da < x.expect → x.update da dp = { x with arr := x.arr + da, pend := x.pend + dp }) ∧
      (x.arr + da = x.expect → x.pend + dp = 0 →
        x.update da dp = { x with phase := (x.phase + 1) % 2 ^ 32, arr := 0, pend := 0 }) ∧
      (x.arr + da = x.expect → 0 < x.pend + dp → x.update da dp = { x with arr := x.arr + da, pend := x.pend + dp }) ∧
      (x.arr + da = x.expect → x.pend + dp < 0 →
        x.update da dp = { x with arr := x.arr + da, pend := x.pend + dp, overrun := true })) ∧
    (x.overrun = false → (x.expect < x.arr + da ∨ x.pend + dp < -(2 ^ 39) ∨ 2 ^ 39 ≤ x.pend + dp) →
      x.update da dp = { x with overrun := true }) ∧
    (∀ us : List (Nat × Int), us ≠ [] → x.due = none →
      (us.foldl (fun y u => y.join u.1 u.2) x).settle = x.update (us.map (fun u => u.1)).sum (us.map (fun u => u.2)).sum)

/-- R272, R290, R292, R295: FTEST and its forms read the entry that a handle names, or raise FUTURE_STALE (code 13) with a stale handle;
RTMK writes the route to a pair of registers; FNEW takes a free entry, whose count is the register plus IMM, and writes its handle, or 0
where the table is full. Each completes. -/
def Sys2Proof.Claims.FutureTestsRouteAndAllocation : Prop :=
  ∀ (h : Hdr) (f : YForm) (s : State) (a : Act), Ready 2 h s a →
    let hd := a.ug f.a.toNat % 2 ^ 32
    (∀ x, s.findFut hd a.ctx = some x →
      exec (.ftest h f) s = .next (s.setCur ((a.wp f.d.toNat
        (reached x.phase (a.ug f.b.toNat % 2 ^ 32) && decide (x.state = .live))).done 2 h s.focus.n)) ∧
      exec (.ftestV h f) s = .next (s.setCur ((a.wn f.d.toNat x.value).done 2 h s.focus.n)) ∧
      exec (.ftestC h f) s = .next (s.setCur ((a.wn f.d.toNat (x.phase % 2 ^ 32 + 2 ^ 32 * (x.count % 2 ^ 32).toNat)).done 2 h s.focus.n)) ∧
      exec (.ftestF h f) s = .next (s.setCur ((a.wn f.d.toNat
        ((if x.state = .lapsed then 1 else 0) + (if x.flt then 2 else 0) + (if x.spilled then 4 else 0) +
          (match x.pq with
            | some q => 2 ^ 15 + 8 * (q % 4096)
            | none => 0))).done 2 h s.focus.n))) ∧
    (s.findFut hd a.ctx = none → ∀ i ∈ [Instr.ftest h f, .ftestV h f, .ftestC h f, .ftestF h f],
      exec i s = .next (s.raiseCur 13 hd 0 0 0)) ∧
    (let r := routeTo (s.focus.g / 16) (a.ug f.a.toNat) (a.ug f.b.toNat) f.sub.toNat
     exec (.rtmk h f) s = .next (s.setCur (((a.wn f.d.toNat (r % 2 ^ 64)).wn (f.d.toNat + 1) (r / 2 ^ 64)).done 2 h s.focus.n))) ∧
    (let r := s.allocFut (s.focus.g / 16) a.ctx (BitVec.ofInt 32 ((a.rg f.a.toNat).toInt + f.imm.toInt)).toInt
     exec (.fnew h f) s = .next (r.2.setCur (({ a with allocs := if r.1 = 0 then a.allocs else .future r.1 :: a.allocs }.wn
       f.d.toNat r.1).done 2 h s.focus.n)))

/-- R272, R273, R290: what an allocation gives: the null handle where every entry is in use; else a handle of an entry that was FREE, whose
generation is the entry's, and which is then LIVE for the context with the count, at phase 0, without waiters; every other entry keeps
its state. -/
def Sys2Proof.Claims.AllocationTakesAFreeFuture : Prop :=
  ∀ (s : State) (c ctx : Nat) (count : Int),
    let r := s.allocFut c ctx count
    ((∀ i, i < 4096 → ((s.cluster c).futs.get {} i).state ≠ .free) → r.1 = 0) ∧
    ((∃ i, i < 4096 ∧ ((s.cluster c).futs.get {} i).state = .free) → ∃ i, i < 4096 ∧
      ((s.cluster c).futs.get {} i).state = .free ∧ r.1 = mkHandle c i ((s.cluster c).futs.get {} i).gen ∧
      ((r.2.cluster c).futs.get {} i).state = .live ∧ ((r.2.cluster c).futs.get {} i).ctx = ctx ∧
      ((r.2.cluster c).futs.get {} i).count = count ∧ ((r.2.cluster c).futs.get {} i).phase = 0 ∧
      ((r.2.cluster c).futs.get {} i).waiters = [] ∧
      (∀ j, j ≠ i → (r.2.cluster c).futs.get {} j = (s.cluster c).futs.get {} j))

/-- R333, R335, R353, R357, R359: TDEF defines a free handle from a good descriptor, TQRY reads the party's tenure under a handle, SCOPE.RD
writes the 128 bytes of a mask to scratchpad and SCOPE.WR reads them from there; a stale handle raises TILE_HANDLE (code 14). An entry of
the tile table is what its 64 bytes in memory hold (their layout: log 81). -/
def Obligations.TileAndScopeWordsComplete : Prop :=
  ∀ (h : Hdr) (f : YForm) (s : State) (a : Act), Ready 2 h s a →
    let ad := yAddr f a
    let hd := a.ug f.a.toNat % 2 ^ 32
    (Claims.spadOk ad 32 32 = true → tdReject (s.feat 17) (ofLE (bytesAt s.spad ad 32)) = none →
      (∀ i, s.freeTile a.ctx (s.ctx a.ctx).tileCnt (s.ctx a.ctx).tileCnt s.draw.1 = some i →
        let e := s.tileAt a.ctx i
        exec (.tdef h f) s = .next ((s.draw.2.setTile a.ctx i { e with defd := true, desc := ofLE (bytesAt s.spad ad 32) }).setCur
          (({ a with allocs := .tile (i + 2 ^ 14 * e.gen) :: a.allocs }.wn f.d.toNat (i + 2 ^ 14 * e.gen)).done 2 h s.focus.n)) ∧
        (s.tileAt a.ctx i).defd = false ∧ (0 < (s.ctx a.ctx).tileCnt → i < (s.ctx a.ctx).tileCnt)) ∧
      (s.freeTile a.ctx (s.ctx a.ctx).tileCnt (s.ctx a.ctx).tileCnt s.draw.1 = none →
        exec (.tdef h f) s = .next (s.draw.2.setCur ((a.wn f.d.toNat 0).done 2 h s.focus.n)))) ∧
    (∀ ctx i (t : Tile), Memory.wf s.mem = true → t.gen < 2 ^ 18 → t.desc < 2 ^ 256 → (s.setTile ctx i t).tileAt ctx i = t) ∧
    (s.tile a.ctx hd ≠ none → exec (.tqry h f) s = .next (s.setCur ((a.wn f.d.toNat
      ((match s.tenureOf (s.focus.g / 16) a.ctx hd with
        | some t => t.st.code + (if t.split then 8 else 0) + 16 * t.hold
        | none => 0) +
        (if s.requests.any (fun r => r.g / 16 == s.focus.g / 16 && r.ctx == a.ctx && r.tile == hd) then 2 ^ 20 else 0))).done
          2 h s.focus.n))) ∧
    (s.tile a.ctx hd = none → ∀ i ∈ [Instr.tqry h f, .tfree h f, .trel h f], exec i s = .next (s.raiseCur 14 hd 0 0 0)) ∧
    (Claims.spadOk ad 128 8 = true →
      exec (.scopeRd h f) s = .next ((s.setSpad [putOf ad (toLE 128 (s.scopeMask a.ctx (f.obj.toNat % 8)))]).setCur (a.done 2 h s.focus.n)) ∧
      (Sparse.canonical 0 s.spad = true → readLE (s.setSpad [putOf ad (toLE 128 (s.scopeMask a.ctx (f.obj.toNat % 8)))]).spad ad 128 =
        s.scopeMask a.ctx (f.obj.toNat % 8) % 2 ^ 1024) ∧
      exec (.scopeWr h f) s = .next ((s.setCtx a.ctx 
        { s.ctx a.ctx with masks := (s.ctx a.ctx).masks.set (f.obj.toNat % 8) (readLE s.spad ad 128) }).setCur (a.done 2 h s.focus.n)))

/-- R27, R134, R252, R267, R273, R403: SRR writes D with the special register that it names: the activation's handle and context, its
sequence number, its kind and status, its segment counters, its predicates, the cycle counter, the scheduling and future-table words of
the cluster, the accepted features and the hub time. -/
def Sys2Proof.Claims.SpecialRegisterReads : Prop :=
  ∀ (h : Hdr) (f : YForm) (s : State) (a : Act) (n v : Nat), Ready 2 h s a → f.imm.toNat = n →
    (n, v) ∈ [(0x000, a.act + 2 ^ 24 * a.ctx), (0x001, a.seq), (0x002, a.kind + 256 * a.status),
      (0x003, a.deferred.length + 256 * a.segCount), (0x004, a.p.toNat), (0x005, (s.cluster (s.focus.g / 16)).cycles),
      (0x010, s.mxStat s.focus.g),
      (0x020, (s.cluster (s.focus.g / 16)).age + 2 ^ 32 * (s.cluster (s.focus.g / 16)).stall + 2 ^ 56 * (s.cluster (s.focus.g / 16)).slice),
      (0x021, s.ftStat (s.focus.g / 16) a.ctx), (0x040, s.hub.featAcc % 2 ^ 64), (0x041, s.hub.featAcc / 2 ^ 64 % 2 ^ 64),
      (0x042, s.hub.featAcc / 2 ^ 128 % 2 ^ 64), (0x043, s.hub.featAcc / 2 ^ 192 % 2 ^ 64), (0x044, s.hubTime)] →
    exec (.srr h f) s = .next (s.setCur ((a.wn f.d.toNat v).done 2 h s.focus.n))

/-- R134, R252, R267, R403: SRW to TE_PRED writes the predicates; to MX_STAT clears the saturation flags and the rejection flag whose bits
are set; to CL_SCHED writes the cluster's scheduling word where the context has PRIV, and raises PERM (code 8) with the register's
number where it has not; to any other register it has no effect. -/
def Sys2Proof.Claims.SpecialRegisterWrites : Prop :=
  ∀ (h : Hdr) (f : YForm) (s : State) (a : Act), Ready 2 h s a →
    let v := a.rg f.a.toNat
    (f.imm = 0x004 → exec (.srw h f) s = .next (s.setCur ({ a with p := v.setWidth 12 }.done 2 h s.focus.n))) ∧
    (f.imm = 0x010 → exec (.srw h f) s = .next ((s.modEng s.focus.g (fun E => { E with
      mx := { E.mx with satm := E.mx.satm &&& ~~~(v.setWidth 32), rej := E.mx.rej && !v.getLsbD 40 } })).setCur (a.done 2 h s.focus.n))) ∧
    (f.imm = 0x020 → (s.ctx a.ctx).priv = true →
      exec (.srw h f) s = .next ((s.modCluster (s.focus.g / 16) (fun x => { x with
        age := v.toNat % 2 ^ 24, stall := v.toNat / 2 ^ 32 % 2 ^ 24, slice := v.toNat / 2 ^ 56 })).setCur (a.done 2 h s.focus.n))) ∧
    (f.imm = 0x020 → (s.ctx a.ctx).priv = false → exec (.srw h f) s = .next (s.raiseCur 8 0x020 0 0 0)) ∧
    (f.imm.toNat < 4096 → f.imm ≠ 0x004 → f.imm ≠ 0x010 → f.imm ≠ 0x020 → exec (.srw h f) s = .next (s.setCur (a.done 2 h s.focus.n)))

/-! ### Shape records and vector words (R151 to R183) -/

/-- R154: SHLD loads a shape register from 32 aligned scratchpad bytes with its reserved fields cleared; SHST stores one there, and raises
ILLEGAL_STATE for a register that was never written; each completes. A byte that a write crossed since SHLD began is the one that stands
there, or one from before or after such a write (R97). -/
def Sys2Proof.Claims.ShapeLoadAndStore : Prop :=
  ∀ (h : Hdr) (f : MForm) (s : State) (a : Act), Ready 1 h s a → Claims.spadOk (baseAddr f a) 32 32 = true →
    (∃ bs : List Byte, bs.length = 32 ∧
      exec (.shld h f) s = .next ((Claims.drawn s).setCur ({ a with
        h := a.h.set f.d.toNat (BitVec.ofNat 256 (shClean (ofLE bs))) }.done 1 h s.focus.n)) ∧
      ((s.reads a 1).1.cross = [] → bs = bytesAt s.spad (baseAddr f a) 32) ∧
      (∀ i, i < 32 → Claims.seenAt (s.reads a 1).1 s.spad (baseAddr f a + i) (bs.getD i 0))) ∧
    (∀ r, a.shape f.d.toNat = some r →
      exec (.shst h f) s = .next ((s.setSpad [putOf (baseAddr f a) (toLE 32 r)]).setCur (a.done 1 h s.focus.n))) ∧
    (a.shape f.d.toNat = none →
      exec (.shst h f) s = .next (s.raiseCur 4 (0x41 + 256 * f.d.toNat + 4096) 0 0 0))

/-- The bits of a record that SHSET replaces, by its code, with the values that a field takes (R155): high bit, low bit, least and
greatest value, and what is added to the value before it is stored. -/
def Sys2Proof.Claims.setFields : List (Nat × Nat × Nat × Int × Int × Int) :=
  [(0, 16, 0, 0, 0x17FFF, 0), (1, 21, 17, 0, 31, 0), (2, 23, 22, 1, 4, -1), (3, 40, 24, 0, 0x17FFF, 0),
   (4, 79, 64, 0, 65535, 0), (5, 95, 80, 0, 65535, 0), (6, 111, 96, 0, 65535, 0), (7, 127, 112, 0, 65535, 0),
   (8, 147, 128, -(2 ^ 19), 2 ^ 19 - 1, 0), (9, 167, 148, -(2 ^ 19), 2 ^ 19 - 1, 0), (10, 187, 168, -(2 ^ 19), 2 ^ 19 - 1, 0),
   (11, 211, 192, -(2 ^ 19), 2 ^ 19 - 1, 0), (12, 231, 212, -(2 ^ 19), 2 ^ 19 - 1, 0), (13, 251, 232, -(2 ^ 19), 2 ^ 19 - 1, 0)]

/-- R155: SHSET replaces one field of a record by a register's value, or raises ILLEGAL_OPERAND when the value is outside the field's
limits; SHOFS adds a register to BASE or SBASE, or raises SCRATCH_BOUNDS when the sum leaves the scratchpad. The word completes where
neither fault holds. -/
def Sys2Proof.Claims.ShapeFieldWords : Prop :=
  ∀ (h : Hdr) (f : VForm) (s : State) (a : Act), Ready 1 h s a →
    let r := (a.shape f.ha.toNat).getD 0
    (∀ code hi lo min max add, (code, hi, lo, min, max, add) ∈ Claims.setFields → f.fn.toNat % 16 = code →
      let v : Int := if min < 0 then (a.rg f.g.toNat).toInt else (a.rg f.g.toNat).toNat
      (min ≤ v → v ≤ max → exec (.shset h f) s = .next (s.setCur ({ a with
        h := a.h.set f.hd.toNat (BitVec.ofNat 256 (setField r hi lo (wrapTo (hi + 1 - lo) (v + add)))) }.done 1 h s.focus.n))) ∧
      (v < min ∨ max < v → exec (.shset h f) s = .next (s.raiseCur 3
        (0x42 + 256 * f.hd.toNat + 7 * 4096 + 65536 * ((a.rg f.g.toNat).toNat % 2 ^ 48)) 0 0 0))) ∧
    (let sb := f.fn.getLsbD 0
     let v : Int := (if sb then (r / 2 ^ 24 % 2 ^ 17 : Nat) else (r % 2 ^ 17 : Nat)) + (a.rg f.g.toNat).toInt
     (0 ≤ v → v < 0x18000 → exec (.shofs h f) s = .next (s.setCur ({ a with
       h := a.h.set f.hd.toNat (BitVec.ofNat 256 (if sb then setField r 40 24 v.toNat else setField r 16 0 v.toNat)) }.done
         1 h s.focus.n))) ∧
     (v < 0 ∨ 0x18000 ≤ v → exec (.shofs h f) s = .next (s.raiseCur 11 (v % 2 ^ 64).toNat 0 0 0)))

/-- The format of HD. -/
def Sys2Proof.Claims.cHD (f : VForm) (a : Act) : Nat := shFmt (a.sh f.hd.toNat)
/-- R165: a real elementwise word rounds when HD is float or a source is float or a block format. -/
def Sys2Proof.Claims.rounding (f : VForm) (a : Act) (srcs : List Nat) : Bool :=
  decide (Claims.cHD f a ≤ 5) || srcs.any (fun r => decide (shFmt (a.sh r) ≤ 10))
/-- A word that rounds in mode SR waits for the generator state (R46). -/
def Sys2Proof.Claims.arithWaits (f : VForm) (srcs : List Nat) (a : Act) : Bool :=
  Claims.rounding f a srcs && (f.rm == 5 && !a.rngReady)

/-- Every vector word: header, fields, opcode, the shape registers that R156 checks in order (with the format and extent conditions of its
entry), and whether it waits for the generator state: in mode SR where it rounds, and VRND always (R46, R159). -/
def Sys2Proof.Claims.vectorWord : Instr → Option (Hdr × VForm × Nat × (Act → List Want) × (Act → Bool))
  | .vmov h f => some (h, f, 0x44, moveWants f, fun _ => false)
  | .vfill h f => some (h, f, 0x45, fillWants f, fun a => fillRounds f a && srWaits f.rm.toNat a)
  | .vadd h f => some (h, f, 0x46, arithWants f [f.ha.toNat, f.hb.toNat] true, Claims.arithWaits f [f.ha.toNat, f.hb.toNat])
  | .vsub h f => some (h, f, 0x47, arithWants f [f.ha.toNat, f.hb.toNat] true, Claims.arithWaits f [f.ha.toNat, f.hb.toNat])
  | .vmul h f => some (h, f, 0x48, arithWants f [f.ha.toNat, f.hb.toNat] false, Claims.arithWaits f [f.ha.toNat, f.hb.toNat])
  | .vfma h f => some (h, f, 0x49, arithWants f [f.ha.toNat, f.hb.toNat, f.hc.toNat] false,
      Claims.arithWaits f [f.ha.toNat, f.hb.toNat, f.hc.toNat])
  | .vmin h f => some (h, f, 0x4A, arithWants f [f.ha.toNat, f.hb.toNat] false, Claims.arithWaits f [f.ha.toNat, f.hb.toNat])
  | .vmax h f => some (h, f, 0x4B, arithWants f [f.ha.toNat, f.hb.toNat] false, Claims.arithWaits f [f.ha.toNat, f.hb.toNat])
  | .vabs h f => some (h, f, 0x4C, arithWants f [f.ha.toNat] false, Claims.arithWaits f [f.ha.toNat])
  | .vneg h f => some (h, f, 0x4D, arithWants f [f.ha.toNat] true, Claims.arithWaits f [f.ha.toNat])
  | .vand h f => some (h, f, 0x4E, fun a => sameInt f [f.ha.toNat, f.hb.toNat] a ++ maskWant f (shExts (a.sh f.hd.toNat)), fun _ => false)
  | .vor h f => some (h, f, 0x4F, fun a => sameInt f [f.ha.toNat, f.hb.toNat] a ++ maskWant f (shExts (a.sh f.hd.toNat)), fun _ => false)
  | .vxor h f => some (h, f, 0x50, fun a => sameInt f [f.ha.toNat, f.hb.toNat] a ++ maskWant f (shExts (a.sh f.hd.toNat)), fun _ => false)
  | .vshl h f => some (h, f, 0x51, shiftWants f, fun _ => false)
  | .vshr h f => some (h, f, 0x52, shiftWants f, fun _ => false)
  | .vcmp h f => some (h, f, 0x53, vcmpWants f, fun _ => false)
  | .vsel h f => some (h, f, 0x54, vselWants f, Claims.arithWaits f [f.ha.toNat, f.hb.toNat])
  | .vcvt h f => some (h, f, 0x55, vcvtWants f, fun a => vcvtRounds f a && srWaits f.rm.toNat a)
  | .vquant h f => some (h, f, 0x56, vquantWants f, srWaits f.rm.toNat)
  | .vred h f => some (h, f, 0x57, vredWants f, accWaits f (f.fn.toNat / 4 % 8) f.fmt.toNat)
  | .vscan h f => some (h, f, 0x58, vscanWants f, accWaits f (f.fn.toNat / 4 % 8) f.fmt.toNat)
  | .vexp h f => some (h, f, 0x59, specialWants f, srWaits f.rm.toNat)
  | .vlog h f => some (h, f, 0x5A, specialWants f, srWaits f.rm.toNat)
  | .vrcp h f => some (h, f, 0x5B, specialWants f, srWaits f.rm.toNat)
  | .vrsq h f => some (h, f, 0x5C, specialWants f, srWaits f.rm.toNat)
  | .vtanh h f => some (h, f, 0x5D, specialWants f, srWaits f.rm.toNat)
  | .verf h f => some (h, f, 0x5E, specialWants f, srWaits f.rm.toNat)
  | .vcmul h f => some (h, f, 0x5F, cplxWants f (f.fn.getLsbD 0), fun _ => false)
  | .vcmac h f => some (h, f, 0x60, cplxWants f true, fun _ => false)
  | .vgath h f => some (h, f, 0x61, vgathWants f, fun _ => false)
  | .vscat h f => some (h, f, 0x62, vscatWants f, fun _ => false)
  | .vtrans h f => some (h, f, 0x63, vtransWants f, fun _ => false)
  | .vrnd h f => some (h, f, 0x64, vrndWants f, fun a => !a.rngReady)
  | _ => none

/-- R156, R157: every vector word raises the first check that fails, in register order, with its opcode, register and check number in the
info word; waits where it needs the generator state; and otherwise completes: the scratchpad and the generator may change, and nothing
else of the activation or the device but the count of free choices. (The register that a check names where its rule leaves it open: log
27; static fields: log 17.) -/
def Obligations.VectorWordsCheckAndComplete : Prop :=
  ∀ (i : Instr) (s : State) (a : Act) (h : Hdr) (f : VForm) (opc : Nat) (wants : Act → List Want) (waits : Act → Bool),
    Claims.vectorWord i = some (h, f, opc, wants, waits) → Ready 1 h s a →
    (∀ r c, checkAll s.hub.featAcc a (wants a) = some (r, c) →
      exec i s = .next (s.raiseCur (match c with
        | 1 => 4
        | 5 => 10
        | 6 => 11
        | _ => 3) (opc + 256 * r + 4096 * c) 0 0 0)) ∧
    (checkAll s.hub.featAcc a (wants a) = none → waits a = true → exec i s = .next (s.noteWait 1)) ∧
    (checkAll s.hub.featAcc a (wants a) = none → waits a = false → ∃ g l,
      exec i s = .next (((Claims.drawn s).putSpad s.focus.g .word (s.reads a 1).1.cross (s.reads a 1).1.place l).setCur
        ((a.setGen g).done 1 h s.focus.n)))

/-- The scratchpad bytes of a tensor: of an element (of its slot, for CE4M3), or of a scale (R152). -/
def Sys2Proof.Claims.inTensor (r x : Nat) : Prop :=
  ∃ i0 i1 i2 i3, i0 < shExt r 0 ∧ i1 < shExt r 1 ∧ i2 < shExt r 2 ∧ i3 < shExt r 3 ∧
    ((elemAddr r [i0, i1, i2, i3] ≤ x ∧
      x < elemAddr r [i0, i1, i2, i3] + (if shFmt r = 10 then 128 else fmtBytes (elemFmt (shFmt r)))) ∨
     (isMx (shFmt r) = true ∧ x = scaleAddr r [i0, i1, i2, i3]))

/-- R157, R158: a vector word that completes leaves every scratchpad byte outside its destination tensors alone: HD, and HC where VQUANT
writes its scales or a complex word its second part. -/
def Obligations.VectorWordsWriteOnlyTheirDestination : Prop :=
  ∀ (i : Instr) (s t : State) (a : Act) (h : Hdr) (f : VForm) (opc : Nat) (wants : Act → List Want) (waits : Act → Bool),
    Claims.vectorWord i = some (h, f, opc, wants, waits) → Ready 1 h s a → Sparse.canonical 0 s.spad = true →
    checkAll s.hub.featAcc a (wants a) = none → waits a = false → exec i s = .next t →
    ∀ x, ¬ Claims.inTensor (a.sh f.hd.toNat) x →
      ((opc = 0x56 ∨ opc = 0x5F ∧ f.fn.getLsbD 0 = true ∨ opc = 0x60) → ¬ Claims.inTensor (a.sh f.hc.toNat) x) →
      Sparse.get 0 t.spad x = Sparse.get 0 s.spad x

/-- What a word that computes each element from the source elements at its index stores (R157): its fields, the index space, the number
that each of `n` elements takes from the generator in ascending order, with the generator after them (R159), whether the word is of this
form, and what it writes for the element at index `ds`, from the scratchpads that its reads see: read number `k` sees `src k`. -/
structure Sys2Proof.Claims.Elementwise where
  h     : Hdr
  f     : VForm
  space : Act → List Nat
  draws : Act → Nat → List Nat × Gen
  store : Act → (Nat → Sparse Byte) → List Nat → Nat → List Put
  here  : Act → Bool := fun _ => true

/-- The bits of one rounding for each element, where the word rounds. -/
def Sys2Proof.Claims.bits (f : VForm) (rounds : Act → Bool) (a : Act) (n : Nat) : List Nat × Gen :=
  bitsList (rounds a) f.rm.toNat n a.gen
/-- The bytes of HD. -/
def Sys2Proof.Claims.ofHD (f : VForm) (a : Act) : List Nat := shExts (a.sh f.hd.toNat)
/-- A value stored into HD (R167). -/
def Sys2Proof.Claims.put (f : VForm) (a : Act) (ds : List Nat) (code : Nat) : List Put := [putCode (a.sh f.hd.toNat) ds code]
/-- Every source holds integers. -/
def Sys2Proof.Claims.ints (a : Act) (srcs : List Nat) : Bool := srcs.all (fun r => isInt (shFmt (a.sh r)))
/-- An elementwise word on real formats: `op` gives the exact result of the source values; on complex formats `cop` that of the parts. -/
def Sys2Proof.Claims.real (h : Hdr) (f : VForm) (srcs : List Nat) (op : List Val → Val) (cop : List (Int × Int) → Int × Int) :
    Claims.Elementwise :=
  { h := h, f := f, space := Claims.ofHD f, draws := Claims.bits f (fun a => Claims.rounding f a srcs),
    store := fun a src ds b => Claims.put f a ds
      (if isCplx (Claims.cHD f a) then partsCode (Claims.cHD f a) f.sat (cop (srcPartsL src ds (srcs.map a.sh)))
       else storeVal (Claims.cHD f a) f.rm.toNat f.sat (Claims.ints a srcs) b
         (plainZero (Claims.ints a srcs) (op (srcVals src ds (srcs.map a.sh))))) }

/-- A word on integer codes without rounding. -/
def Sys2Proof.Claims.codes (h : Hdr) (f : VForm) (op : Act → (Nat → Sparse Byte) → List Nat → Nat) : Claims.Elementwise :=
  { h := h, f := f, space := Claims.ofHD f, draws := Claims.bits f (fun _ => false),
    store := fun a src ds _ => Claims.put f a ds (op a src ds) }

/-- The code of source register `r` at an index, as read number `k` sees it. -/
def Sys2Proof.Claims.code (a : Act) (src : Nat → Sparse Byte) (ds : List Nat) (k : Nat) (r : BitVec 4) : Nat :=
  srcCode (src k) ds (a.sh r.toNat)
/-- The amount of a shift (R169): 64 stands for every amount above. -/
def Sys2Proof.Claims.amount (f : VForm) (a : Act) (src : Nat → Sparse Byte) (ds : List Nat) : Nat :=
  min 64 (if f.fn.getLsbD 0 then a.ug f.g.toNat % 256 else Claims.code a src ds 1 f.hb)
/-- The signed or unsigned value of the first source (R169). -/
def Sys2Proof.Claims.intAt (f : VForm) (a : Act) (src : Nat → Sparse Byte) (ds : List Nat) : Int :=
  intOf (Claims.cHD f a) (Claims.code a src ds 0 f.ha)

/-- A special function (R176): the source rounded to F32, a result inside the bound, Store. -/
def Sys2Proof.Claims.specialWise (h : Hdr) (f : VForm) (fn : Nat) : Claims.Elementwise :=
  { h := h, f := f, space := Claims.ofHD f, draws := Claims.bits f (fun _ => true),
    store := fun a src ds b => Claims.put f a ds (storeVal (Claims.cHD f a) f.rm.toNat f.sat false b
      (special fn (f32Bits (roundTo 0 0 false 0 (srcVal (src 0) ds (a.sh f.ha.toNat)))))) }

/-- A complex product (R178): into one complex element, or its parts into the elements of HD and HC, added to them where `acc`. -/
def Sys2Proof.Claims.complex (h : Hdr) (f : VForm) (pair acc : Bool) : Claims.Elementwise :=
  { h := h, f := f, space := Claims.ofHD f, draws := Claims.bits f (fun _ => false),
    store := fun a src ds _ =>
      let x := srcParts (src 0) ds (a.sh f.ha.toNat)
      let y := srcParts (src 1) ds (a.sh f.hb.toNat)
      let yi := if f.fn.getLsbD 1 then -y.2 else y.2
      let p : Int × Int := (x.1 * y.1 - x.2 * yi, x.1 * yi + x.2 * y.1)
      if pair then
        let old := fun (k r : Nat) => if acc then signed 32 (readCode (src k) r ds) else 0
        Claims.put f a ds (intCode 15 f.sat (old 2 (a.sh f.hd.toNat) + p.1)) ++
          [putCode (a.sh f.hc.toNat) ds (intCode 15 f.sat (old 3 (a.sh f.hc.toNat) + p.2))]
      else Claims.put f a ds (partsCode (Claims.cHD f a) f.sat p) }

/-- The elementwise words that write one element of HD per index. -/
def Sys2Proof.Claims.elementwise : Instr → Option Claims.Elementwise
  | .vadd h f => some (Claims.real h f [f.ha.toNat, f.hb.toNat] (val2 (Val.add (f.rm == 3)))
      (cplx2 (fun x y => x + y)))
  | .vsub h f => some (Claims.real h f [f.ha.toNat, f.hb.toNat] (val2 (Val.sub (f.rm == 3)))
      (cplx2 (fun x y => x - y)))
  | .vmul h f => some (Claims.real h f [f.ha.toNat, f.hb.toNat] (val2 Val.mul) noCplx)
  | .vfma h f => some (Claims.real h f [f.ha.toNat, f.hb.toNat, f.hc.toNat]
      (val3 (fun x y z => (x.mul y).add (f.rm == 3) z)) noCplx)
  | .vmin h f => some (Claims.real h f [f.ha.toNat, f.hb.toNat] (val2 Val.min2) noCplx)
  | .vmax h f => some (Claims.real h f [f.ha.toNat, f.hb.toNat] (val2 Val.max2) noCplx)
  | .vabs h f => some (Claims.real h f [f.ha.toNat] (val1 Val.abs) noCplx)
  | .vneg h f => some (Claims.real h f [f.ha.toNat] (val1 Val.neg) (fun l => (-(l.headD (0, 0)).1, -(l.headD (0, 0)).2)))
  | .vand h f => some (Claims.codes h f (fun a src ds => Claims.code a src ds 0 f.ha &&& Claims.code a src ds 1 f.hb))
  | .vor h f => some (Claims.codes h f (fun a src ds => Claims.code a src ds 0 f.ha ||| Claims.code a src ds 1 f.hb))
  | .vxor h f => some (Claims.codes h f (fun a src ds => Claims.code a src ds 0 f.ha ^^^ Claims.code a src ds 1 f.hb))
  | .vshl h f => some (Claims.codes h f (fun a src ds =>
      intCode (Claims.cHD f a) f.sat (Claims.intAt f a src ds * (2 ^ Claims.amount f a src ds : Nat))))
  | .vshr h f => some (Claims.codes h f (fun a src ds =>
      wrapTo (fmtWidth (Claims.cHD f a)) (Claims.intAt f a src ds / (2 ^ Claims.amount f a src ds : Nat))))
  | .vcmp h f => some (Claims.codes h f (fun a src ds =>
      let cc := f.fn.toNat % 16
      if cc = 10 then bit (Claims.code a src ds 0 f.ha &&& Claims.code a src ds 1 f.hb != 0)
      else if cc = 11 then bit (Claims.code a src ds 0 f.ha &&& Claims.code a src ds 1 f.hb == 0)
      else bit (valTrue cc (srcVal (src 0) ds (a.sh f.ha.toNat)) (srcVal (src 1) ds (a.sh f.hb.toNat)))))
  | .vsel h f => some {
      h := h, f := f, space := Claims.ofHD f,
      draws := Claims.bits f (fun a => Claims.rounding f a [f.ha.toNat, f.hb.toNat]),
      store := fun a src ds b => Claims.put f a ds (storeVal (Claims.cHD f a) f.rm.toNat f.sat
        (Claims.ints a [f.ha.toNat, f.hb.toNat]) b
        (if Claims.code a src ds 2 f.hc ≠ 0 then srcVal (src 0) ds (a.sh f.ha.toNat) else srcVal (src 1) ds (a.sh f.hb.toNat))) }
  | .vexp h f => some (Claims.specialWise h f (f.fn.toNat % 2))
  | .vlog h f => some (Claims.specialWise h f 2)
  | .vrcp h f => some (Claims.specialWise h f 3)
  | .vrsq h f => some (Claims.specialWise h f 4)
  | .vtanh h f => some (Claims.specialWise h f 5)
  | .verf h f => some (Claims.specialWise h f 6)
  | .vfill h f => some {
      h := h, f := f, space := Claims.ofHD f, draws := Claims.bits f (fillRounds f),
      store := fun a _ ds b => Claims.put f a ds
        (if f.fn.toNat % 32 = 22 then partsCode (Claims.cHD f a) f.sat
            (((a.rg f.g.toNat).extractLsb' 0 32).toInt, ((a.rg f.g.toNat).extractLsb' 32 32).toInt)
         else storeVal (Claims.cHD f a) f.rm.toNat f.sat (f.fn.toNat % 32 != 0) b
            (if f.fn.toNat % 32 = 0 then floatVal 0 (a.ug f.g.toNat % 2 ^ 32)
             else if f.fn.toNat % 32 = 16 then Val.ofInt (a.rg f.g.toNat).toInt else Val.ofInt (a.rg f.g.toNat).toNat)) }
  | .vcmul h f => some (Claims.complex h f (f.fn.getLsbD 0) false)
  | .vcmac h f => some (Claims.complex h f true true)
  | .vgath h f => some (Claims.codes h f (fun a src ds =>
      let n := sizeOf' (shExts (a.sh f.ha.toNat))
      let v := indexAt (src 1) ds (a.sh f.hb.toNat)
      if 0 ≤ v ∧ v < n then readCode (src 0) (a.sh f.ha.toNat) (digitsOf (shExts (a.sh f.ha.toNat)) v.toNat)
      else if f.fn.getLsbD 0 then
        readCode (src 0) (a.sh f.ha.toNat) (digitsOf (shExts (a.sh f.ha.toNat)) (if v < 0 then 0 else n - 1))
      else 0))
  | .vscat h f => some {
      h := h, f := f, space := fun a => shExts (a.sh f.ha.toNat), draws := Claims.bits f (fun _ => false),
      store := fun a src ds _ =>
        let v := indexAt (src 1) ds (a.sh f.hb.toNat)
        if 0 ≤ v ∧ v < sizeOf' (shExts (a.sh f.hd.toNat)) then
          Claims.put f a (digitsOf (shExts (a.sh f.hd.toNat)) v.toNat) (readCode (src 0) (a.sh f.ha.toNat) ds)
        else [] }
  | .vtrans h f => some (Claims.codes h f (fun a src ds => readCode (src 0) (a.sh f.ha.toNat)
      ((List.range 4).foldl (fun l j => l.set (f.fn.toNat / 4 ^ j % 4) (ds.getD j 0)) [0, 0, 0, 0])))
  | .vmov h f => some {
      h := h, f := f, space := Claims.ofHD f, draws := Claims.bits f (fun _ => false), here := fun a => Claims.cHD f a ≠ 10,
      store := fun a src ds _ => Claims.put f a ds (Claims.code a src ds 0 f.ha) ++
        (if isMx (Claims.cHD f a) then [putOf (scaleAddr (a.sh f.hd.toNat) ds)
            [Sparse.get 0 (src 1) (scaleAddr (a.sh f.ha.toNat) (bcast (a.sh f.ha.toNat) ds))]]
         else []) }
  | .vcvt h f => some {
      h := h, f := f, space := Claims.ofHD f, draws := Claims.bits f (vcvtRounds f), here := fun a => !isBlock (Claims.cHD f a),
      store := fun a src ds b =>
        let c := Claims.cHD f a
        let x := shFmt (a.sh f.ha.toNat)
        Claims.put f a ds
          (if isCplx c then partsCode c f.sat (srcParts (src 0) ds (a.sh f.ha.toNat))
           else storeVal c f.rm.toNat (f.sat && !(isFloat x && isFloat c && Machine.exactFloat x c)) (isInt x) b
             (srcVal (src 0) ds (a.sh f.ha.toNat))) }
  | .vrnd h f => some {
      h := h, f := f, space := Claims.ofHD f,
      draws := fun a n => ((drawsList n a.gen).1.map BitVec.toNat, (drawsList n a.gen).2),
      store := fun a _ ds x =>
        let c := Claims.cHD f a
        let sig := if c = 0 then 24 else if c = 1 then 8 else 11
        Claims.put f a ds (if isInt c then x / 2 ^ (64 - fmtWidth c) else floatCode c (.fin false (x / 2 ^ (64 - sig)) (2 ^ sig))) }
  | _ => none

/-- R157 to R159, R161, R163, R165, R166, R168 to R172, R176 to R182: each of these words (VMOV but into CE4M3, VCVT but into a block
format) stores, at every active index of its space, the element that its entry gives, and completes. The writes stand in ascending order
of the index; a number from the generator is taken for every index, active or not. What a read sees of a byte that the instruction itself,
or a write that crossed it, has written is free, and each read by itself; where no element depends on that, the elements are as if done
one by one. (A zero made of integers is positive: log 26. Reads, writes and landings among each other: logs 22, 23. The special functions
are free inside their bounds: log 16.) -/
def Obligations.ElementwiseWordsStoreEachElement : Prop :=
  (∀ (R : Reads) (n : Nat) (m0 : Sparse Byte) (item : Nat → (Nat → Sparse Byte) → List Put),
    (∀ i src src', item i src = item i src') → R.walk n m0 item = ((List.range n).map (fun i => item i (fun _ => m0))).flatten) ∧
  ∀ (i : Instr) (s : State) (a : Act) (h : Hdr) (f : VForm) (opc : Nat) (wants : Act → List Want) (waits : Act → Bool)
    (e : Claims.Elementwise), Claims.vectorWord i = some (h, f, opc, wants, waits) → Claims.elementwise i = some e →
    Ready 1 h s a → checkAll s.hub.featAcc a (wants a) = none → waits a = false → e.here a = true →
    let n := sizeOf' (e.space a)
    let l := (s.reads a 1).1.walk n s.spad (fun i src =>
      let ds := digitsOf (e.space a) i
      if f.mask.getLsbD 4 = true ∧ readCode (src maskRead) (a.sh (f.mask.extractLsb' 0 4).toNat)
          (bcast (a.sh (f.mask.extractLsb' 0 4).toNat) ds) = 0 then []
      else e.store a src ds ((e.draws a n).1.getD i 0))
    exec i s = .next (((Claims.drawn s).putSpad s.focus.g .word (s.reads a 1).1.cross (s.reads a 1).1.place l).setCur
      ((a.setGen (e.draws a n).2).done 1 h s.focus.n))

/-- A word that works row by row: the number of rows, and what row `i` writes, with the generator after it, from the scratchpad so far. -/
structure Sys2Proof.Claims.Rowwise where
  rows : Act → Nat
  item : Act → Reads → Sparse Byte → Nat → Gen → Sparse Byte → Gen × List Put
  here : Act → Bool := fun _ => true

/-- The element at `ds` takes part (R158), by the read numbered for the mask. -/
def Sys2Proof.Claims.active (f : VForm) (a : Act) (m : Sparse Byte) (ds : List Nat) : Bool :=
  !f.mask.getLsbD 4 ||
    readCode m (a.sh (f.mask.extractLsb' 0 4).toNat) (bcast (a.sh (f.mask.extractLsb' 0 4).toNat) ds) != 0

/-- R174: the active elements of the inner dimensions, combined in ascending order; nothing is stored where there is none. -/
def Sys2Proof.Claims.reduction (f : VForm) : Claims.Rowwise :=
  { rows := fun a => sizeOf' (Claims.ofHD f a),
    item := fun a R m0 o g now =>
      let r := a.sh f.ha.toNat
      let op := f.fn.toNat / 4 % 8
      let inner := (shExts r).take (f.fn.toNat % 4 + 1)
      let od := digitsOf (Claims.ofHD f a) o
      let vs := (List.range (sizeOf' inner)).filterMap (fun j =>
        let ds := ((digitsOf inner j).take (f.fn.toNat % 4 + 1) ++ od).take 4
        let src := fun k => R.see m0 now (8 * (o * sizeOf' inner + j) + k)
        if Claims.active f a (src maskRead) ds then some (readVal (src 0) r ds) else none)
      match vs.foldl (accStep op f.fmt.toNat f.rm.toNat f.sat) (none, g) with
      | (none, g) => (g, [])
      | (some v, g) =>
        let x := accStore f op f.fmt.toNat (shFmt r) (a.sh f.hd.toNat) od g v
        (x.1, [x.2]) }

/-- R175: the active elements of a row in order: the sum stored takes the element with it, or (exclusive) only those before it. -/
def Sys2Proof.Claims.scanRow (f : VForm) (a : Act) (R : Reads) (m0 now : Sparse Byte) :
    List Nat → Gen → List Put → Option Val → Option Val → Gen × List Put
  | [], g, l, _, _ => (g, l)
  | j :: rest, g, l, acc, last =>
    let r := a.sh f.ha.toNat
    let op := f.fn.toNat / 4 % 8
    let ds := digitsOf (shExts r) j
    let src := fun k => R.see m0 (putEach now l) (8 * j + k)
    if !Claims.active f a (src maskRead) ds then Claims.scanRow f a R m0 now rest g l acc last
    else
      let v := readVal (src 0) r ds
      let sum := match (if f.fn.getLsbD 5 then last else some v) with
        | none => (acc, g)
        | some x => accStep op f.fmt.toNat f.rm.toNat f.sat (acc, g) x
      let x := accStore f op f.fmt.toNat (shFmt r) (a.sh f.hd.toNat) ds sum.2 (sum.1.getD (.fin false 0 1))
      Claims.scanRow f a R m0 now rest x.1 (l ++ [x.2]) sum.1 (some v)

/-- R173: a group of VQUANT: its scale, and the quotients stored with SAT; a group that holds an infinity or a NaN gets the NaN scale and
zeros. -/
def Sys2Proof.Claims.quantGroup (f : VForm) (a : Act) (R : Reads) (m0 : Sparse Byte) (i : Nat) (g : Gen) (now : Sparse Byte) :
    Gen × List Put :=
  let n := 8 * 2 ^ (f.fn.toNat % 8)
  let sr := a.sh f.hc.toNat
  let gd := digitsOf (shExts sr) i
  let vs := (List.range n).map (fun j =>
    readVal (R.see m0 now (n * i + j)) (a.sh f.ha.toNat) ((n * gd.getD 0 0 + j) :: gd.tail))
  let bs := bitsList true f.rm.toNat n g
  let scale := if vs.all Val.isFinite then quantScale (f.fn.getLsbD 3) (Claims.cHD f a) (shFmt sr) vs
    else (if f.fn.getLsbD 3 then canonNan (shFmt sr) else 0xFF, .nan)
  (bs.2, putCode sr gd scale.1 :: (List.range n).map (fun j => putCode (a.sh f.hd.toNat) ((n * gd.getD 0 0 + j) :: gd.tail)
    (if vs.all Val.isFinite && !scale.2.isZero then
      storeVal (Claims.cHD f a) f.rm.toNat true false (bs.1.getD j 0) ((vs.getD j .nan).div scale.2) else 0)))

/-- The words that work row by row. -/
def Sys2Proof.Claims.rowwise : Instr → Option Claims.Rowwise
  | .vred _ f => some (Claims.reduction f)
  | .vscan _ f => some {
      rows := fun a => sizeOf' (shExts (a.sh f.ha.toNat)) / max 1 (shExt (a.sh f.ha.toNat) 0),
      item := fun a R m0 row g now =>
        let e0 := shExt (a.sh f.ha.toNat) 0
        Claims.scanRow f a R m0 now ((List.range e0).map (fun i => row * e0 + i)) g [] none none }
  | .vquant _ f => some { rows := fun a => sizeOf' (shExts (a.sh f.hc.toNat)), item := Claims.quantGroup f }
  | .vcvt _ f => some {
      here := fun a => isBlock (Claims.cHD f a),
      rows := fun a =>
        let d := a.sh f.hd.toNat
        sizeOf' [shExt d 0 / (if shFmt d = 10 then 64 else 32), shExt d 1, shExt d 2, shExt d 3],
      item := fun a R m0 i g now =>
        let d := a.sh f.hd.toNat
        let n := if shFmt d = 10 then 64 else 32
        let bd := digitsOf [shExt d 0 / n, shExt d 1, shExt d 2, shExt d 3] i
        packBlock (shFmt d) f.rm.toNat f.sat g d ((n * bd.getD 0 0) :: bd.tail) ((List.range n).map (fun j =>
          srcVal (R.see m0 now (n * i + j)) ((n * bd.getD 0 0 + j) :: bd.tail) (a.sh f.ha.toNat))) }
  | .vmov _ f => some {
      here := fun a => Claims.cHD f a = 10,
      rows := fun a =>
        let d := a.sh f.hd.toNat
        sizeOf' [shExt d 0 / 64, shExt d 1, shExt d 2, shExt d 3],
      item := fun a R m0 i g now =>
        let d := a.sh f.hd.toNat
        let bd := digitsOf [shExt d 0 / 64, shExt d 1, shExt d 2, shExt d 3] i
        let ds := (64 * bd.getD 0 0) :: bd.tail
        let src := fun k => R.see m0 now (128 * i + k)
        (g, moveSlot (elemAddr d ds) (blockSeen src (elemAddr (a.sh f.ha.toNat) (bcast (a.sh f.ha.toNat) ds)))
          ((List.range 64).map (fun j => Claims.active f a (src (64 + j)) ((64 * bd.getD 0 0 + j) :: bd.tail)))) }
  | _ => none

/-- R159, R161, R163, R166, R172 to R175: VRED, VSCAN, VQUANT, VCVT into a block format and VMOV of CE4M3 slots write what each row (each
group, each slot) gives, and complete; VMOV takes nothing from the generator. Rows may be done in any order in which each takes from the
generator what it takes in ascending order; where no row depends on what it sees, the writes are those of the rows in ascending order.
(Counting as an integer, and the elements an exclusive scan adds: log 27; what a read sees: logs 22, 23.) -/
def Sys2Proof.Claims.RowWordsStoreEachRow : Prop :=
  (∀ (R : Reads) (n : Nat) (m0 : Sparse Byte) (g : Gen) (item : Nat → Gen → Sparse Byte → Gen × List Put),
    (∀ i g m m', item i g m = item i g m') →
    R.rows n m0 g item = (List.range n).foldl (fun st i => ((item i st.1 m0).1, st.2 ++ (item i st.1 m0).2)) (g, [])) ∧
  ∀ (i : Instr) (s : State) (a : Act) (h : Hdr) (f : VForm) (opc : Nat) (wants : Act → List Want) (waits : Act → Bool)
    (e : Claims.Rowwise), Claims.vectorWord i = some (h, f, opc, wants, waits) → Claims.rowwise i = some e →
    Ready 1 h s a → checkAll s.hub.featAcc a (wants a) = none → waits a = false → e.here a = true →
    let R := (s.reads a 1).1
    let x := R.rows (e.rows a) s.spad a.gen (e.item a R s.spad)
    exec i s = .next (((Claims.drawn s).putSpad s.focus.g .word R.cross R.place x.2).setCur ((a.setGen x.1).done 1 h s.focus.n))

/-- R166, R167: VADD of two one-element I32 tensors that do not take a mask stores their sum modulo 2^32, or clamped with SAT, in HD's
element, whatever registers the three tensors share; no write of another agent has crossed it. -/
def Sys2Proof.Claims.VectorAddOfSingleIntegers : Prop :=
  ∀ (h : Hdr) (f : VForm) (s t : State) (a : Act), Ready 1 h s a → Sparse.canonical 0 s.spad = true →
    f.mask.getLsbD 4 = false → (s.reads a 1).1.cross = [] → checkAll s.hub.featAcc a (arithWants f [f.ha.toNat, f.hb.toNat] true a) = none →
    (∀ r ∈ [f.hd, f.ha, f.hb], shFmt (a.sh r.toNat) = 15 ∧ shExts (a.sh r.toNat) = [1, 1, 1, 1]) →
    exec (.vadd h f) s = .next t →
    let x := signed 32 (readCode s.spad (a.sh f.ha.toNat) [0, 0, 0, 0]) + signed 32 (readCode s.spad (a.sh f.hb.toNat) [0, 0, 0, 0])
    (readCode t.spad (a.sh f.hd.toNat) [0, 0, 0, 0] : Int) = (if f.sat then max (-(2 ^ 31)) (min (2 ^ 31 - 1) x) else x) % 2 ^ 32

/-- R174: an unmasked VRED that sums a rank-1 I32 tensor into one I32 element stores the sum modulo 2^32 where SAT is not set and no
write of another agent has crossed it. -/
def Sys2Proof.Claims.VectorSumOfIntegersWraps : Prop :=
  ∀ (h : Hdr) (f : VForm) (s t : State) (a : Act), Ready 1 h s a → Sparse.canonical 0 s.spad = true →
    f.mask.getLsbD 4 = false → (s.reads a 1).1.cross = [] → f.sat = false → f.fmt = 15 → f.fn = 0 → checkAll s.hub.featAcc a (vredWants f a) = none →
    shFmt (a.sh f.hd.toNat) = 15 → shFmt (a.sh f.ha.toNat) = 15 → shRank (a.sh f.ha.toNat) = 1 →
    exec (.vred h f) s = .next t →
    (readCode t.spad (a.sh f.hd.toNat) [0, 0, 0, 0] : Int) =
      ((List.range (shExt (a.sh f.ha.toNat) 0)).map (fun i => signed 32 (readCode s.spad (a.sh f.ha.toNat) [i, 0, 0, 0]))).sum % 2 ^ 32


/-! ### The matrix unit (R221 to R253) -/

/-- The gate register that bits 7 to 9 of a matrix word name (R235). -/
def Sys2Proof.Claims.gate (f : TForm) : Option Nat := if f.fn.getLsbD 9 then some (f.fn.toNat / 128 % 4) else none

/-- Every matrix word: header, opcode, gate, the shape registers that R236 checks in order with the format and extents of its entry, and
the command with its captured operands, or the info word of the limit that a captured value breaks (R242). -/
def Sys2Proof.Claims.matrixWord (a : Act) : Instr → Option (Hdr × Nat × Option Nat × List Want × Except Nat MxOp)
  | .mldb h f =>
    let fb := f.fb.toNat
    let k := mxK fb
    some (h, 0x70, Claims.gate f,
      exactly f.ha.toNat (if isMx fb then elemFmt fb else fb)
        (if fb = 10 then [1536, 1, 1, 1] else if f.fn.getLsbD 0 then [16, k, 1, 1] else [k, 16, 1, 1]) ::
        (if isMx fb then [exactly f.hs.toNat 6 [k / 32, 16, 1, 1]] else []),
      .ok (.mldb f.ws.toNat fb (f.fn.getLsbD 0) (a.sh f.ha.toNat) (a.sh f.hs.toNat)))
  | .mma h f =>
    let fa := f.fa.toNat
    some (h, 0x71, Claims.gate f,
      exactly f.ha.toNat (elemFmt fa) [mxK fa, 16, 1, 1] :: (if isMx fa then [exactly f.hs.toNat 6 [mxK fa / 32, 16, 1, 1]] else []),
      .ok (.mma f.acc.toNat f.ws.toNat (a.sh f.ha.toNat) (a.sh f.hs.toNat) fa f.fb.toNat f.rm.toNat f.sat (f.fn.getLsbD 0)))
  | .mmac h f => some (h, 0x72, Claims.gate f, [exactly f.ha.toNat f.fa.toNat [mxK f.fa.toNat, 16, 1, 1]],
      .ok (.mmac f.acc.toNat f.ws.toNat (a.sh f.ha.toNat) f.fa.toNat f.fb.toNat f.sat (f.fn.getLsbD 0) (f.fn.getLsbD 1)))
  | .mzero h f => some (h, 0x73, Claims.gate f, [], .ok (.mzero f.acc.toNat (f.fn.toNat % 32 + 1)))
  | .mst h f => some (h, 0x74, Claims.gate f,
      exactly f.ha.toNat f.fb.toNat [16, 16, 1, 1] ::
        (if f.fn.getLsbD 3 then [{ reg := f.hs.toNat, fmt := fun c => c ∈ [0, 1, 2, 6],
                                   fits := fun r => shExts r = [16, 1, 1, 1] ∨ shExts r = [1, 1, 1, 1] }] else []),
      .ok (.mst f.acc.toNat (a.sh f.ha.toNat) (a.sh f.hs.toNat) f.fa.toNat f.fb.toNat f.rm.toNat f.sat
        (f.fn.getLsbD 0) (f.fn.getLsbD 1) (f.fn.getLsbD 2) (f.fn.getLsbD 3)))
  | .mbar h f => some (h, 0x75, none, [], .ok (.mbar (f.fn.toNat % 128) (f.fn.toNat / 128)))
  | .mcfgWeight h f =>
    let v := a.ug (f.fn.toNat % 64)
    some (h, 0x76, none, [], if 1 ≤ v ∧ v ≤ 15 then .ok (.weight v) else .error (0x76 + 256 * (f.fn.toNat / 64) + 65536 * (v % 2 ^ 48)))
  | .mcfgGate h f =>
    let v := a.ug (f.fn.toNat % 64)
    some (h, 0x76, none, [], if v % 128 ≤ 95 then .ok (.gate (f.fn.toNat / 64 - 1) (v % 128) (v / 2 ^ 32))
      else .error (0x76 + 256 * (f.fn.toNat / 64) + 65536 * (v % 2 ^ 48)))
  | .mcfgClrsat h f => some (h, 0x76, none, [], .ok (.clrsat (a.ug (f.fn.toNat % 64) % 2 ^ 32)))
  | _ => none

/-- R222, R224, R230, R232, R235 to R242: a matrix word raises the first check that fails, or the limit that its value breaks; else it
reserves a queue entry and defers the command with its operands captured. With no entry free it waits, or raises SEG_OVERFLOW when its
own segment holds all 16. -/
def Obligations.MatrixWordsReserveAnEntry : Prop :=
  ∀ (i : Instr) (s : State) (a : Act) (h : Hdr) (opc : Nat) (gate : Option Nat) (wants : List Want) (op : Except Nat MxOp),
    Claims.matrixWord a i = some (h, opc, gate, wants, op) → Ready 1 h s a →
    (∀ r c, checkAll s.hub.featAcc a wants = some (r, c) →
      exec i s = .next (s.raiseCur (match c with
        | 1 => 4
        | 5 => 10
        | 6 => 11
        | _ => 3) (opc + 256 * r + 4096 * c) 0 0 0)) ∧
    (checkAll s.hub.featAcc a wants = none →
      (∀ info, op = .error info → exec i s = .next (s.raiseCur 3 info 0 0 0)) ∧
      (∀ o, op = .ok o →
        (s.mxUsed s.focus.g < 16 → a.deferred.length < 64 → exec i s =
          .next (s.setCur ((Claims.withEffect s a (.matrix { op := o, ctx := a.ctx, gate := gate }) []).done 1 h s.focus.n))) ∧
        (16 ≤ s.mxUsed s.focus.g → a.mxReserved < 16 → exec i s = .next (s.noteWait 1)) ∧
        (16 ≤ s.mxUsed s.focus.g → 16 ≤ a.mxReserved → exec i s = .next (s.raiseCur 6 (opc + 4096) 0 0 0))))

/-- Engine `e` of unit `u` may be granted: its head is Ready and it has credit (R225). -/
def Sys2Proof.Claims.candidate (s : State) (u e : Nat) : Prop := s.headReady u e = true ∧ 0 < (s.eng (8 * u + e)).mx.credit

/-- The first candidate from the arbiter's position on (R225). -/
def Sys2Proof.Claims.picked (s : State) (u e : Nat) : Prop :=
  ∃ i, i < 8 ∧ ((s.unit u).p + i) % 8 = e ∧ Claims.candidate s u e ∧ ∀ j, j < i → ¬ Claims.candidate s u (((s.unit u).p + j) % 8)

/-- The state in which the head of engine `e` has left its queue under a grant: one credit less, and the arbiter stands at `e`. -/
def Sys2Proof.Claims.granted (s : State) (u e : Nat) (c : MxCmd) (rest : List MxCmd) : State :=
  let t := s.modMx (8 * u + e) (fun m => { m with credit := m.credit - 1, queue := rest, last := some c.op })
  t.setUnit u { t.unit u with p := e }

/-- A gated command acquires what has landed when it is granted: sectors landed so far do not cross it (R246). -/
def Sys2Proof.Claims.acquired (s : State) (g : Nat) (c : MxCmd) : MxCmd :=
  if c.gate.isSome then { c with acq := (s.eng g).past.length } else c

/-- R225, R226, R237, R248: a head that finds OVERRUN at its gate is rejected, a load with its slot left not valid; otherwise the arbiter grants the head of the first engine from
its position on that is Ready and has credit, after setting every credit to its weight where no Ready engine has any; the head of an
engine that it does not pick stays. -/
def Sys2Proof.Claims.TheArbiterGrantsInTurn : Prop :=
  ∀ (s : State) (u e : Nat) (c : MxCmd) (rest : List MxCmd), e < 8 → (s.eng (8 * u + e)).mx.queue = c :: rest →
    (s.gateOverrun (8 * u + e) c = true → exec (.matrixGrant (8 * u + e)) s =
      .next (((s.modMx (8 * u + e) (fun m => { m with queue := rest, last := some c.op })).dropSlot (8 * u + e) c.op).mxReject
        (8 * u + e) c 12 ((s.eng (8 * u + e)).mx.gate (c.gate.getD 0)).1 0 (c.gate.getD 0)) ∧
      (∀ ws fb major ha hs, c.op = .mldb ws fb major ha hs → ((s.dropSlot (8 * u + e) c.op).wslot u ws).valid = false) ∧
      ((∀ ws fb major ha hs, c.op ≠ .mldb ws fb major ha hs) → s.dropSlot (8 * u + e) c.op = s)) ∧
    (s.gateOverrun (8 * u + e) c = false →
      (Claims.picked s u e → exec (.matrixGrant (8 * u + e)) s = .next ((Claims.granted s u e c rest).mxStart (8 * u + e) (Claims.acquired s (8 * u + e) c))) ∧
      ((∀ j, j < 8 → ¬ Claims.candidate s u j) → Claims.picked (s.mxReload u) u e →
        exec (.matrixGrant (8 * u + e)) s = .next ((Claims.granted (s.mxReload u) u e c rest).mxStart (8 * u + e)
          (Claims.acquired s (8 * u + e) c))) ∧
      (¬ Claims.picked s u e → (∃ j, j < 8 ∧ Claims.candidate s u j) → exec (.matrixGrant (8 * u + e)) s = .next s))

/-- R238, R239, R241, R242, R247, R253: what a granted command does at its grant. MZERO clears its tiles and no other element; MCFG sets
the weight, a gate register, or clears SATM bits; MLDB tags its slot not ready and runs; MMA or MMAC runs where the slot is valid, of
its context and of its format, and is rejected otherwise with ILLEGAL_STATE. MBAR, which every earlier command of its engine has
preceded, takes with it whether one of them was rejected since the MBAR before. -/
def Sys2Proof.Claims.GrantedCommandsAct : Prop :=
  ∀ (s : State) (g : Nat) (c : MxCmd),
    (∀ a n, c.op = .mzero a n → (s.eng g).mx.acc.sorted = true → (∀ tile row col, row < 16 → col < 16 →
      ((s.mxStart g c).eng g).mx.acc.get 0 (256 * tile + 16 * row + col) =
        if a ≤ tile ∧ tile < a + n then 0 else (s.eng g).mx.acc.get 0 (256 * tile + 16 * row + col)) ∧
      ((s.mxStart g c).eng g).mx.satm = (s.eng g).mx.satm) ∧
    (∀ v, c.op = .weight v → ((s.mxStart g c).eng g).mx.weight = v ∧ ((s.mxStart g c).eng g).mx.credit = (s.eng g).mx.credit) ∧
    (∀ i b t, c.op = .gate i b t → ((s.mxStart g c).eng g).mx.gate i = (b, t) ∧
      ∀ j, j ≠ i → ((s.mxStart g c).eng g).mx.gate j = (s.eng g).mx.gate j) ∧
    (∀ v k, c.op = .clrsat v → k < 32 →
      ((s.mxStart g c).eng g).mx.satm.getLsbD k = ((s.eng g).mx.satm.getLsbD k && !v.testBit k)) ∧
    (∀ ws fb major ha hs, c.op = .mldb ws fb major ha hs →
      ((s.mxStart g c).wslot (g / 8) ws).ready = false ∧ ((s.mxStart g c).wslot (g / 8) ws).valid = true ∧
      ((s.mxStart g c).wslot (g / 8) ws).fmt = fb ∧ ((s.mxStart g c).wslot (g / 8) ws).ctx = c.ctx ∧
      ((s.mxStart g c).unit (g / 8)).running = (s.unit (g / 8)).running ++ [{ eng := g, cmd := c }]) ∧
    (∀ acc ws ha hs fa fb rm sat z cj, c.op = .mma acc ws ha hs fa fb rm sat z ∨ c.op = .mmac acc ws ha fa fb sat z cj →
      let w := s.wslot (g / 8) ws
      (w.valid = true ∧ w.ctx = c.ctx ∧ w.fmt = fb →
        ((s.mxStart g c).unit (g / 8)).running = (s.unit (g / 8)).running ++ [{ eng := g, cmd := c }]) ∧
      (¬ (w.valid = true ∧ w.ctx = c.ctx ∧ w.fmt = fb) →
        s.mxStart g c = (s.modMx g (fun m => { m with rej := true, rejSince := true })).append c.ctx
          { code := 4, src := 2, who := g / 16 + g % 16 * 2 ^ 10,
            info := c.op.opc + g % 16 * 256 + ws % 128 * 2 ^ 12 + c.op.acc * 2 ^ 19 + w.ctx * 2 ^ 24 } ∧
        ((s.mxStart g c).eng g).mx.rej = true ∧ ((s.mxStart g c).eng g).mx.acc = (s.eng g).mx.acc ∧
        (s.mxStart g c).unit (g / 8) = s.unit (g / 8))) ∧
    (∀ b x, c.op = .mbar b x →
      ((s.mxStart g c).unit (g / 8)).running = (s.unit (g / 8)).running ++ [{ eng := g, cmd := c, late := (s.eng g).mx.rejSince }] ∧
      ((s.mxStart g c).eng g).mx.rejSince = false)

/-- R237, R238, R240, R241, R243, R244: the end of each running command that no earlier one of its engine holds back. A load fills its slot,
or leaves it not valid where its CE4M3 blocks exceed it; MMA and MMAC replace their tiles; MST writes the elements of its
tensor that it has not stored yet; MBAR arrives at its
barrier, sets OVERRUN there after a rejection, or is rejected with DEAD_LETTER where that engine runs another context. Each read sees the
scratchpad, or as it was before some of the writes that crossed the command since its COMMIT; where none crossed it, as it is (log 87: the
order of commands, gates, and writes; log 23: what a read sees). -/
def Obligations.MatrixCommandsComplete : Prop :=
  (∀ (s : State) (g : Nat) (c : MxCmd) (k : Nat),
    ((s.mxReads g c).1.cross = [] → (s.mxReads g c).1.at (s.eng g).spad k = (s.eng g).spad) ∧
    (Sparse.canonical 0 (s.eng g).spad = true → ∀ x,
      Claims.seenAt (s.mxReads g c).1 (s.eng g).spad x (Sparse.get 0 ((s.mxReads g c).1.at (s.eng g).spad k) x)) ∧
    (s.mxReads g c).2 = { s with free := s.free + 2 }) ∧
  ∀ (s : State) (u i : Nat) (r : Running), s.mxDone u i = some r →
    let g := r.eng
    let m := (s.mxReads g r.cmd).1.at (s.eng g).spad
    let t0 := s.setRunning u (fun l => l.take i ++ l.drop (i + 1))
    let t := (s.mxReads g r.cmd).2.setRunning u (fun l => l.take i ++ l.drop (i + 1))
    (∀ ws fb major ha hs, r.cmd.op = .mldb ws fb major ha hs → fb ≠ 10 → exec (.mldbComplete u i) s =
      .next (t.modWSlot u ws (fun w => { w with
        data := loadRaw m fb major ha w.data, side := if isMx fb then loadScales m (mxK fb) hs w.side else w.side, ready := true }))) ∧
    (∀ ws major ha hs, r.cmd.op = .mldb ws 10 major ha hs →
      (∀ d, loadBlocks m (shBase ha) 24 0 0 (s.wslot u ws).data = some d → exec (.mldbComplete u i) s =
        .next (t.modWSlot u ws (fun w => { w with data := d, ready := true }))) ∧
      (loadBlocks m (shBase ha) 24 0 0 (s.wslot u ws).data = none → exec (.mldbComplete u i) s =
        .next ((t.modWSlot u ws (fun w => { w with valid := false })).mxReject g r.cmd 3 ws 0 0))) ∧
    (∀ acc ws ha hs fa fb rm sat z, r.cmd.op = .mma acc ws ha hs fa fb rm sat z → exec (.mmaComplete u i) s =
      .next (t.modMx g (fun x => x.mma m (s.wslot u ws) acc ha hs fa rm sat z))) ∧
    (∀ acc ws ha fa fb sat z cj, r.cmd.op = .mmac acc ws ha fa fb sat z cj → exec (.mmaComplete u i) s =
      .next (t.modMx g (fun x => x.mmac m (s.wslot u ws) acc ha fa sat z cj))) ∧
    (∀ acc ha hs fa fb rm sat z tr c sc, r.cmd.op = .mst acc ha hs fa fb rm sat z tr c sc → exec (.mstComplete u i) s =
      .next ((t.putSpad g .matrix (s.mxReads g r.cmd).1.cross (s.mxReads g r.cmd).1.place
          (storeTile (s.eng g).mx (s.mxReads g r.cmd).1 (s.eng g).spad acc ha hs fa fb rm sat tr c sc
            ((List.range 256).filter (fun k => !r.stored.contains k)))).modMx g
        (fun x => { x with acc := if z then zeroTiles x.acc acc (if c then 2 else 1) else x.acc }))) ∧
    (∀ b x, r.cmd.op = .mbar b x →
      let dst := 8 * u + (g % 8 ^^^ x)
      ((s.eng dst).ctx = some r.cmd.ctx → r.late = false → exec (.mbarPost u i) s = .next (t0.barUpdate dst b 1 0)) ∧
      ((s.eng dst).ctx = some r.cmd.ctx → r.late = true → exec (.mbarPost u i) s =
        .next (t0.modEng dst (fun e => e.setBar b { e.bar b with overrun := true }))) ∧
      ((s.eng dst).ctx ≠ some r.cmd.ctx → exec (.mbarPost u i) s = .next (t0.mxReject g r.cmd 20 b 0 0)))

/-- R80, R234, R238: an MMA of I8 operands without SAT adds to each element of its tile the sum of its products modulo 2^32, from zero
with Z; the other tiles keep theirs. -/
def Obligations.MatrixMultiplyOfIntegers : Prop :=
  ∀ (x : Mx) (m : Nat → Sparse Byte) (w : WSlot) (acc ha hs rm : Nat) (z : Bool) (tile row col : Nat), x.acc.sorted = true → w.fmt = 13 → row < 16 → col < 16 →
    let old := x.acc.get 0 (256 * tile + 16 * row + col)
    let new := (x.mma m w acc ha hs 13 rm false z).acc.get 0 (256 * tile + 16 * row + col)
    (tile ≠ acc → new = old) ∧
    (tile = acc → new.toNat = ((if z then 0 else (old.toNat : Int)) +
      ((List.range 96).map (fun k => (readVal (m (readOfA row k)) ha [k, row, 0, 0]).toInt * (w.val [] 96 k col).toInt)).sum) % 2 ^ 32)

/-! ### Words that end a segment (R35, R43, R284 to R289, R293, R349, R355) -/

/-- The words that commit or yield: queue, header, and whether the word may run at an inline address (R35, step 2). -/
def Sys2Proof.Claims.ending : Instr → Option (Nat × Hdr × Bool)
  | .commit h _ => some (2, h, false)
  | .yield h _ => some (2, h, false)
  | .exit h _ => some (2, h, true)
  | .migrate h _ => some (2, h, false)
  | .await h _ => some (2, h, false)
  | .tacq h _ => some (2, h, false)
  | .lrw h _ => some (0, h, false)
  | _ => none

/-- The conditions of R35, steps 1 and 2, on the activation: nothing of the segment is outstanding, the address may commit, and every
token counter is 0 after the word's pops. -/
structure Sys2Proof.Claims.Ends (q : Nat) (h : Hdr) (inline : Bool) (s : State) (a : Act) : Prop extends Ready q h s a where
  fresh : a.busy = false
  alone : a.alone s.focus.n = true
  place : inline = true ∨ s.focus.pc < inlineBase
  drained : (a.pops q h).ta = 0 ∧ (a.pops q h).tc = 0 ∧ (a.pops q h).ts = 0

/-- R35, R288: step 3 begins: the joins of the segment's SPAWNs are incremented. -/
def Sys2Proof.Claims.setOut (s : State) (a : Act) : State :=
  let js := spawnJoins a.deferred
  (s.incJoins (engineSource s.focus.g) a.ctx js js.eraseDups).modEng s.focus.g (fun e => { e with commits := e.commits + 1 })

/-- R35, step 3: the deferred effects are performed in program order; what a fence holds back is left over. -/
def Sys2Proof.Claims.performed (s : State) (a : Act) : State × List Deferred := (Claims.setOut s a).perform s.focus.g a a.deferred

/-- The word waits at the head of its queue with what it has captured and the effects that are left. -/
def Sys2Proof.Claims.waiting (t : State) (held : List Nat) (rest : List Deferred) (q : Nat) : State :=
  (t.modAct t.focus.g t.focus.k (fun b => { b with busy := true, held := held, deferred := rest })).noteWait q

/-- R35: a committing or yielding word waits while an earlier instruction of the segment is outstanding; at an inline address it raises
ILLEGAL_STATE with info 0x11, except EXIT; and with a token left it raises ILLEGAL_STATE with info 0. (The info word 0: log 28.) -/
def Sys2Proof.Claims.EndingWordsCheckTheirSegment : Prop :=
  ∀ (i : Instr) (q : Nat) (h : Hdr) (inline : Bool) (s : State) (a : Act), Claims.ending i = some (q, h, inline) → Ready q h s a →
    a.busy = false →
    (a.alone s.focus.n = false → exec i s = .next (s.noteWait q)) ∧
    (a.alone s.focus.n = true →
      (inline = false → inlineBase ≤ s.focus.pc → exec i s = .next (s.raiseCur 4 0x11 0 0 0)) ∧
      ((inline = true ∨ s.focus.pc < inlineBase) → ¬ ((a.pops q h).ta = 0 ∧ (a.pops q h).tc = 0 ∧ (a.pops q h).ts = 0) →
        exec i s = .next (s.raiseCur 4 0 0 0 0)))

/-- What the word's own check asks (R289, R293, R349, R355), with what it captures: the phase of AWAIT, the cluster of MIGRATE, the address
and key of LRW with the granules that its translation used. -/
def Sys2Proof.Claims.captured (s : State) (a : Act) : Instr → Option (List Nat × State)
  | .commit _ _ | .yield _ _ | .exit _ _ => some ([], s)
  | .await _ f =>
    let hd := a.ug f.a.toNat % 2 ^ 32
    (s.findFut hd a.ctx).map (fun x => ([if f.sub.getLsbD 0 then (x.phase + 1) % 2 ^ 32 else a.ug f.b.toNat % 2 ^ 32],
      s.holdWaiter (hCluster hd) s.focus.g s.focus.k a.ctx))
  | .tacq _ f => (s.tile a.ctx (a.ug f.a.toNat % 2 ^ 32)).map (fun _ => ([], s))
  | .migrate _ f =>
    let va := a.ug f.a.toNat
    if va < 2 ^ 49 then
      match s.translate a.ctx .r va 1 s.via with
      | (.ok tg _, v) => some ([migrateCluster ((homeOf (match tg with
          | .dpa p _ => p
          | .remote _ _ => 0)).getD 0) va], v)
      | _ => none
    else none
  | .lrw _ f =>
    let n := fmtWidth f.fmt.toNat / 8
    if (liveOf (a.ug f.b.toNat)).ok && baseAddr f a % n = 0 && baseAddr f a < 2 ^ 48 then
      match s.translate a.ctx .rw (baseAddr f a) n s.via with
      | (.ok (.dpa p key) u, v) => some ([p, key] ++ u, v)
      | _ => none
    else none
  | _ => none

/-- What the word waits for after its effects (R293, R370): AWAIT until they have reached the future's agent, and until what a resolution at
CLU released there is complete at PKG, for an engine of another cluster. -/
def Sys2Proof.Claims.settled (t : State) (a : Act) : Instr → Bool
  | .await _ f =>
    let hd := a.ug f.a.toNat % 2 ^ 32
    !t.futOwed t.focus.g (hCluster hd) && !t.farRelease hd (t.focus.g / 16)
  | _ => true

/-- What follows the effects of a word (R43, R285, R286, R289, R293, R349, R355): COMMIT writes the resume record of the next instruction
into the activation's inbox entry, with its channel, join and cause kept, and begins a new segment, with an empty deferred-effect buffer,
no pins and no undo list; EXIT decrements the entry's join; YIELD queues the continuation on the engine's own channel; AWAIT files it with
the future, for the captured phase; MIGRATE sends it to the captured cluster; LRW and TACQ file their requests with it. -/
def Sys2Proof.Claims.after (t : State) (a : Act) (held : List Nat) : Instr → State
  | .commit _ f =>
    let x := (t.eng t.focus.g).entry t.focus.k
    let rec' := { a.record t.seqPc (liveSet f) x.msg.join x.msg.ch (targetOf t.focus.g) with cause := x.msg.cause }
    (t.modEng t.focus.g (fun e => { e with
        inbox := e.inbox.map (fun y => if y.slot = some t.focus.k then { y with msg := rec' } else y) })).modAct t.focus.g t.focus.k
      (fun b => { b with
        segCount := (b.segCount + 1) % 2 ^ 24, deferred := [], allocs := [], uses := [], pins := [], held := [], busy := false })
  | .exit _ _ =>
    let j := ((t.eng t.focus.g).entry t.focus.k).msg.join
    if j = 0 then t else t.sendFut (engineSource t.focus.g) a.ctx j (.dec 1 false)
  | .yield _ f => t.enqueue t.focus.g (t.contRecord a (liveSet f) (f.obj.toNat / 16 % 8) (targetOf t.focus.g))
  | .await _ f =>
    let tmo := a.ug f.b.toNat / 2 ^ 32
    t.await a t.focus.k (a.ug f.a.toNat % 2 ^ 32) (held.headD 0)
      { msg := t.contRecord a (liveSet f) (f.obj.toNat / 16 % 8) (targetOf t.focus.g), eng := t.focus.g, target := held.headD 0,
        deadline := if tmo = 0 then none else some (t.hubTime + tmo), lapse := f.sub.getLsbD 1, valReg := f.d.toNat }
  | .tacq _ f =>
    let tmo := a.ug f.b.toNat / 2 ^ 32
    { t with requests := t.requests ++ [{ g := t.focus.g, ctx := a.ctx, tile := a.ug f.a.toNat % 2 ^ 32, write := f.sub.getLsbD 0,
                                          deadline := if tmo = 0 then none else some (t.hubTime + tmo),
                                          msg := t.contRecord a (liveSet f) (f.obj.toNat / 16 % 8) (targetOf t.focus.g) }] }
  | .migrate _ f =>
    let c := held.headD 0
    let m := t.contRecord a (liveSet f) (f.obj.toNat / 16 % 8) (targetOf (16 * c))
    t.inject (engineSource t.focus.g) a.ctx ((engineSource t.focus.g).agentRoute c) 0 tcMsg 4 m.target (.migrated m)
  | .lrw _ f =>
    let v := a.ug f.b.toNat
    { t with resvReqs := t.resvReqs ++ [{
        dpa := held.headD 0, key := held.getD 1 0, who := a.act, pc := t.focus.pc, va := baseAddr f a, uses := held.drop 2,
        user := { ctx := a.ctx, g := t.focus.g, reg := f.d.toNat, fmt := f.fmt.toNat, limit := v / 2 ^ 32,
                  msg := t.contRecord a (liveOf v) (v / 2 ^ 20 % 8) (targetOf t.focus.g) } }] }
  | _ => t

/-- The word ends the activation, so that its slot and inbox entry are free; COMMIT alone leaves it running, and leaves its queue. -/
def Sys2Proof.Claims.closes (t : State) (q : Nat) (h : Hdr) : Instr → State
  | .commit _ _ => t.retire q h
  | _ => t.endAct t.focus.g t.focus.k

/-- R35, R43, R285, R286, R288, R289, R293, R349, R355: COMMIT, EXIT, YIELD, AWAIT, TACQ, MIGRATE and LRW perform the segment's effects in
program order, then their own effect, and the activation ends, or for COMMIT goes on. No effect is performed before the increments of the
segment's SPAWNs have reached their futures. Where those, a fence, or AWAIT's own condition hold it back, the word waits at its head with
what is left, and goes on from there. (An AWAIT on a lapsed entry: log 99; the page tables that an LRW uses: log 90.) -/
def Sys2Proof.Claims.EndingWordsEndTheActivation : Prop :=
  ∀ (i : Instr) (q : Nat) (h : Hdr) (inline : Bool) (s : State) (a : Act), Claims.ending i = some (q, h, inline) →
    (∀ held v, Claims.Ends q h inline s a → Claims.captured s a i = some (held, v) →
      let t := Claims.performed v a
      ((Claims.setOut v a).joining s.focus.g = true → exec i s = .next (Claims.waiting (Claims.setOut v a) held a.deferred q)) ∧
      ((Claims.setOut v a).joining s.focus.g = false → t.2 = [] → Claims.settled t.1 a i = true →
        exec i s = .next (Claims.closes (Claims.after t.1 a held i) q h i)) ∧
      ((Claims.setOut v a).joining s.focus.g = false → t.2 ≠ [] ∨ Claims.settled t.1 a i = false →
        exec i s = .next (Claims.waiting t.1 held t.2 q))) ∧
    (Ready q h s a → a.busy = true →
      let t := s.perform s.focus.g a a.deferred
      (s.joining s.focus.g = true → exec i s = .next (Claims.waiting s a.held a.deferred q)) ∧
      (s.joining s.focus.g = false → t.2 = [] → Claims.settled t.1 a i = true →
        exec i s = .next (Claims.closes (Claims.after t.1 a a.held i) q h i)) ∧
      (s.joining s.focus.g = false → t.2 ≠ [] ∨ Claims.settled t.1 a i = false →
        exec i s = .next (Claims.waiting t.1 a.held t.2 q)))

/-- R289, R293, R349, R355: AWAIT on a handle that names no future raises FUTURE_STALE, TACQ on one that names no tile TILE_HANDLE; MIGRATE
to an address of 2^49 or more raises ILLEGAL_OPERAND, and one that does not translate its fault. LRW raises ILLEGAL_OPERAND with a shape
word whose live set does not fit or an address outside window 0, and ALIGN with a misaligned address. -/
def Sys2Proof.Claims.EndingWordsCheckTheirOperands : Prop :=
  ∀ (s : State) (a : Act) (h : Hdr) (f : YForm) (x : MForm),
    (Claims.Ends 2 h false s a → s.findFut (a.ug f.a.toNat % 2 ^ 32) a.ctx = none →
      exec (.await h f) s = .next (s.raiseCur 13 (a.ug f.a.toNat % 2 ^ 32) 0 0 0)) ∧
    (Claims.Ends 2 h false s a → s.tile a.ctx (a.ug f.a.toNat % 2 ^ 32) = none →
      exec (.tacq h f) s = .next (s.raiseCur 14 (a.ug f.a.toNat % 2 ^ 32) 0 0 0)) ∧
    (Claims.Ends 2 h false s a → 2 ^ 49 ≤ a.ug f.a.toNat → exec (.migrate h f) s = .next (s.raiseCur 3 (a.ug f.a.toNat) 0 0 0)) ∧
    (Claims.Ends 2 h false s a → a.ug f.a.toNat < 2 ^ 49 → ∀ y v, s.translate a.ctx .r (a.ug f.a.toNat) 1 s.via = (.bad y, v) →
      exec (.migrate h f) s = .next (v.raiseCur y.code (if y.code = 15 then y.info else a.ug f.a.toNat) (a.ug f.a.toNat)
        y.reason y.share)) ∧
    (let va := baseAddr x a
     let v := a.ug x.b.toNat
     let n := fmtWidth x.fmt.toNat / 8
     Claims.Ends 0 h false s a →
      ((liveOf v).ok = false → exec (.lrw h x) s = .next (s.raiseCur 3 (0x12 + 65536 * (v % 2 ^ 48)) 0 0 0)) ∧
      ((liveOf v).ok = true → va % n ≠ 0 → exec (.lrw h x) s = .next (s.raiseCur 10 va va 0 0)) ∧
      ((liveOf v).ok = true → va % n = 0 → 2 ^ 48 ≤ va →
        exec (.lrw h x) s = .next (s.raiseCur 3 (0x12 + 65536 * (va % 2 ^ 48)) 0 0 0)) ∧
      ((liveOf v).ok = true → va % n = 0 → va < 2 ^ 48 → ∀ y w, s.translate a.ctx .rw va n s.via = (.bad y, w) →
        exec (.lrw h x) s = .next (w.raiseCur y.code (if y.code = 15 then y.info else va) va y.reason y.share)))

/-- R289: MIGRATE whose address translates, and which nothing holds back, performs the segment's effects and sends the continuation to the
agent of the cluster of the address's home, as a packet of class MSG (log 90: what its walk keeps in use), and the activation ends. -/
def Sys2Proof.Claims.MigrateSendsTheContinuation : Prop :=
  ∀ (h : Hdr) (f : YForm) (s : State) (a : Act), Claims.Ends 2 h false s a →
    let va := a.ug f.a.toNat
    va < 2 ^ 49 → ∀ tg u v t, s.translate a.ctx .r va 1 s.via = (.ok tg u, v) → (Claims.setOut v a).joining s.focus.g = false →
      Claims.performed v a = (t, []) →
      let c := migrateCluster ((homeOf (match tg with
        | .dpa p _ => p
        | .remote _ _ => 0)).getD 0) va
      let m := t.contRecord a (liveSet f) (f.obj.toNat / 16 % 8) (targetOf (16 * c))
      exec (.migrate h f) s = .next ((t.inject (engineSource t.focus.g) a.ctx ((engineSource t.focus.g).agentRoute c) 0 tcMsg 4
        m.target (.migrated m)).endAct t.focus.g t.focus.k)

/-- R349, R367: LRW whose shape word and address are legal, and which nothing holds back, performs the segment's effects and files a request
for the word's reservation with the record of its continuation, which keeps in use the page-table granules of its translation, and the
activation ends. -/
def Sys2Proof.Claims.LrwFilesItsRequest : Prop :=
  ∀ (h : Hdr) (f : MForm) (s : State) (a : Act), Claims.Ends 0 h false s a →
    let va := baseAddr f a
    let v := a.ug f.b.toNat
    let n := fmtWidth f.fmt.toNat / 8
    (liveOf v).ok = true → va % n = 0 → va < 2 ^ 48 →
      ∀ p key u w t, s.translate a.ctx .rw va n s.via = (.ok (.dpa p key) u, w) → (Claims.setOut w a).joining s.focus.g = false →
        Claims.performed w a = (t, []) →
        exec (.lrw h f) s = .next (({ t with resvReqs := t.resvReqs ++ [{
          dpa := p, key := key, who := a.act, pc := t.focus.pc, va := va, uses := u, user := {
            ctx := a.ctx, g := t.focus.g, reg := f.d.toNat, fmt := f.fmt.toNat, limit := v / 2 ^ 32,
            msg := t.contRecord a (liveOf v) (v / 2 ^ 20 % 8) (targetOf t.focus.g) } }] } : State).endAct t.focus.g t.focus.k)

/-- R35, R285: COMMIT performs the segment's effects and writes the resume record of the next instruction into the activation's inbox
entry, with its channel, join and cause kept; the activation goes on with an empty deferred-effect buffer, holding no pins and no
undo list, and one segment more. -/
def Obligations.CommitBeginsANewSegment : Prop :=
  ∀ (h : Hdr) (f : YForm) (s t : State) (a : Act), Claims.Ends 2 h false s a → spawnJoins a.deferred = [] →
    s.joining s.focus.g = false → Claims.performed s a = (t, []) →
    let x := (t.eng s.focus.g).entry s.focus.k
    let rec' := { a.record t.seqPc (liveSet f) x.msg.join x.msg.ch (targetOf s.focus.g) with cause := x.msg.cause }
    exec (.commit h f) s = .next (((t.modEng s.focus.g (fun e => { e with
        inbox := e.inbox.map (fun y => if y.slot = some s.focus.k then { y with msg := rec' } else y) })).modAct s.focus.g s.focus.k
      (fun b => { b with
        segCount := (b.segCount + 1) % 2 ^ 24, deferred := [], allocs := [], uses := [], pins := [], held := [], busy := false })).retire 2 h)

/-! ### The Sedge harts (R297 to R325) -/

/-- Every extension word: its fields, who may execute it in U mode, whether servers only, its feature, and whether it acts for the
context (R309, R312). -/
def Sys2Proof.Claims.hartWord : Instr → Option (HForm × (Hart → Bool) × Bool × Nat × Bool)
  | .xsend f => some (f, fun H => H.uctl.testBit 0, false, 0, true)
  | .xfres f => some (f, fun H => H.uctl.testBit 1, false, 0, true)
  | .xfdec f => some (f, fun H => H.uctl.testBit 1, false, 0, true)
  | .xftest f _ => some (f, fun H => H.uctl.testBit 1, false, 0, true)
  | .xfwait f _ => some (f, fun H => H.uctl.testBit 1, false, 0, true)
  | .xfrestok f => some (f, fun H => H.uctl.testBit 2, false, 5, true)
  | .xcqpop f => some (f, fun H => H.uctl.testBit 2, false, 5, true)
  | .xfence f _ => some (f, fun _ => true, false, 0, false)
  | .xcapset f _ => some (f, fun _ => false, false, 6, false)
  | .xcapclr f => some (f, fun _ => false, false, 6, false)
  | .xcpyr f => some (f, fun _ => false, true, 0, true)
  | .xvreg f => some (f, fun _ => false, true, 4, true)
  | .xvregUnregister f => some (f, fun _ => false, true, 4, true)
  | .xvregRetry f => some (f, fun _ => false, true, 4, true)
  | _ => none

/-- The hart in focus. -/
def Sys2Proof.Claims.me (s : State) : Hart := s.hart s.focus.hart

/-- The hart in focus may execute the word (R309). -/
def Sys2Proof.Claims.mayExecute (s : State) (i : Instr) : Prop :=
  ∃ f user server feature acts, Claims.hartWord i = some (f, user, server, feature, acts) ∧ s.feat feature = true ∧
    ((Claims.me s).mode = .u → user (Claims.me s) = true) ∧ (server = true → s.isServer s.focus.hart = true)

/-- The word runs on the hart in focus: the hart runs and may execute it, and its context exists where the word acts for it (R309, R312). -/
structure Sys2Proof.Claims.HartGoes (s : State) (i : Instr) : Prop where
  runs : (Claims.me s).run = .run
  may : Claims.mayExecute s i
  live : ∀ f user server feature, Claims.hartWord i = some (f, user, server, feature, true) → (s.ctx (Claims.me s).ctx).exists = true

/-- The state `t` after the hart in focus of `s` has completed its word: status, destination register, program counter (R310, R313). -/
def Sys2Proof.Claims.completed (s t : State) (f : HForm) (st v : Nat) : State :=
  t.modHart s.focus.hart (fun H => (({ H with xst := st } : Hart).setX f.d.toNat v).nextPc 4)

/-- The word gives data in its register, and not its status (R313). -/
def Sys2Proof.Claims.givesData : Instr → Bool
  | .xftest _ _ => true
  | .xvreg _ => true
  | .xvregUnregister _ => true
  | .xvregRetry _ => true
  | _ => false

/-- R309, R312, R313: on a hart that runs, a word that may not be executed there, or whose feature is not accepted, raises the illegal-
instruction exception (cause 2); one that acts for a context that does not exist writes status CONTEXT (11), with 0 for its data, and does
nothing else. (11, 0 and the trap value 0: log 39; the trap entry: log 7.) -/
def Obligations.HartWordsNeedTheirModeAndContext : Prop :=
  ∀ (i : Instr) (s : State) (f : HForm) (user : Hart → Bool) (server : Bool) (feature : Nat) (acts : Bool),
    Claims.hartWord i = some (f, user, server, feature, acts) → (Claims.me s).run = .run →
    (¬ Claims.mayExecute s i → exec i s = .next (s.modHart s.focus.hart (fun H => H.trap 2 0))) ∧
    (Claims.mayExecute s i → acts = true → (s.ctx (Claims.me s).ctx).exists = false →
      exec i s = .next (Claims.completed s s f 11 (if Claims.givesData i then 0 else 11)))

/-- A memory operand of `k` bytes that hart `h` can read: its bytes, and the state after the read (R310). -/
def Sys2Proof.Claims.fetched (s : State) (h va k align : Nat) : Option (List Byte × State) :=
  if va % align ≠ 0 then none else
  match s.hartAccess h hLoad va k with
  | (.ok ps, t) =>
    match t.hartRead h ps with
    | .ok bs u => some (bs, u)
    | _ => none
  | _ => none

/-- The 64-bit words of a byte image. -/
def Sys2Proof.Claims.wordsOf (n : Nat) (bs : List Byte) : List Nat := (List.range n).map (fun i => ofLE ((bs.drop (8 * i)).take 8))

/-- R310, R314: XSEND injects its image on its route with SCTX and SRC set, where the kind of the message and its context allow it, with
status DONE; otherwise the status is BAD_OPERAND (9) and nothing is sent. A misaligned image or route raises the load-misaligned exception,
and one that fails its access checks the exception of that access (log 7): both are checked before either is read. The send is a release at
PKG, but to an engine of the hart's cluster (R370). -/
def Sys2Proof.Claims.XsendInjectsItsMessage : Prop :=
  ∀ (f : HForm) (s : State), Claims.HartGoes s (.xsend f) →
    let h := s.focus.hart
    let H := Claims.me s
    let va := H.xr f.a.toNat
    let vr := H.xr f.b.toNat
    (va % 128 ≠ 0 → exec (.xsend f) s = .next (s.modHart h (fun H => H.trap 4 va))) ∧
    (va % 128 = 0 → ∀ e t, s.hartAccess h hLoad va 128 = (.error e, t) → exec (.xsend f) s = .next (t.hartFault h hLoad e)) ∧
    (va % 128 = 0 → ∀ ps t, s.hartAccess h hLoad va 128 = (.ok ps, t) →
      (vr % 16 ≠ 0 → exec (.xsend f) s = .next (t.modHart h (fun H => H.trap 4 vr))) ∧
      (vr % 16 = 0 → ∀ e u, t.hartAccess h hLoad vr 16 = (.error e, u) → exec (.xsend f) s = .next (u.hartFault h hLoad e))) ∧
    (va % 128 = 0 → vr % 16 = 0 → ∀ ps qs img rt s1 s2 s3 u, s.hartAccess h hLoad va 128 = (.ok ps, s1) →
      s1.hartAccess h hLoad vr 16 = (.ok qs, s2) → s2.hartRead h ps = .ok img s3 → s3.hartRead h qs = .ok rt u →
      let ws := Claims.wordsOf 16 img
      let w0 := ws.headD 0
      let legal := w0 % 4 ≠ 3 ∧ (w0 % 4 = 1 → u.isServer h = true ∧ H.mode ≠ .u) ∧ ((({ words := ws } : Msg)).ctx = H.ctx ∨ u.isServer h = true)
      let m : Msg := { words := setField (setField w0 23 16 H.ctx) 26 24 1 :: ws.tail }
      let t := if m.target / 2 ^ 14 % 2 ^ 10 = h / 4 then u else u.markRelease (hartSeer h H.ctx) (hartObs h)
      (legal → exec (.xsend f) s =
        .next (Claims.completed s (t.inject (.hart h) H.ctx (ofLE rt) 0 tcMsg 4 m.target (.msg m)) f 0 0)) ∧
      (¬ legal → exec (.xsend f) s = .next (Claims.completed s u f 9 9)))

/-- The agent of a handle's future can be asked by hart `h`: the generation is not null, the cluster has power, every message of the hart to
that agent has arrived (R311), and the route has no fault. -/
def Sys2Proof.Claims.reachable (s : State) (h hd : Nat) : Prop :=
  hGen hd ≠ 0 ∧ (s.cluster (hCluster hd)).gated = false ∧ s.signalOwed (.hart h) (fun c => c == hCluster hd) = false ∧
    s.futRoute (.hart h) (hCluster hd) = none

/-- R370: the state in which an update by hart `h` acts on the entry of a handle, for the release that it makes; nothing while it waits for
what it covers. -/
def Sys2Proof.Claims.signalled (s : State) (h ctx hd : Nat) : Option State :=
  let c := hCluster hd
  (s.released (.hart h) ctx s.nextId c ((s.findFut hd ctx).any (fun x => x.farWaiter c))).map
    (fun t => t.coverFut (.hart h) ctx t.nextId hd)

/-- R370 to R372, R417: what the release of a hart's update asks. Effects that the hart has seen of its own party are complete first: at the
clusters' homes where the future or a waiter of it lies in another cluster (what the party has written in its tiles is home then), and
otherwise at the cluster cache, where they are then visible
to every observer of the cluster. -/
def Sys2Proof.Claims.HartUpdatesAreReleases : Prop :=
  ∀ (s : State) (h ctx hd : Nat),
    let c := hCluster hd
    let far := h / 4 ≠ c ∨ (∃ x, s.findFut hd ctx = some x ∧ x.farWaiter c = true)
    let covered := fun (f : InFlight) => f.id < s.nextId ∧ f.seen (hartSeer h ctx) = true
    (far → (∃ f ∈ s.inflight, covered f ∧ f.tgt.isRemote = false) → Claims.signalled s h ctx hd = none) ∧
    (far → (∀ f ∈ s.inflight, covered f → f.tgt.isRemote = true) → ∃ t, Claims.signalled s h ctx hd = some t ∧
      t.inflight = s.inflight ∧ ((s.fut hd).spilled = false → t.mem = s.mem) ∧
      ∀ x ∈ t.tenures, x.cl = h / 4 → x.ctx = ctx → x.dirty = []) ∧
    (¬ far → ∃ t, Claims.signalled s h ctx hd = some t ∧ ((s.fut hd).spilled = false → t.mem = s.mem) ∧ t.inflight = s.inflight.map (fun f =>
      if f.id < s.nextId && f.seen (hartSeer h ctx) then { f with reach := f.reach ||| 2 ^ c } else f))

/-- R318: XFRES resolves a live future with its value, and XFDEC decrements it by 1 to 2^31 - 1, with status DONE; on a LAPSED future the
status is LATE (4), on a handle that names none STALE (3), each with its dead-letter record; a null generation, or an amount out of
range, is BAD_OPERAND. -/
def Sys2Proof.Claims.HartResolvesAndDecrements : Prop :=
  ∀ (f : HForm) (s : State),
    let h := s.focus.hart
    let H := Claims.me s
    let hd := H.xr f.a.toNat % 2 ^ 32
    let v := H.xr f.b.toNat
    (Claims.HartGoes s (.xfres f) →
      (hGen hd = 0 → exec (.xfres f) s = .next (Claims.completed s s f 9 9)) ∧
      (Claims.reachable s h hd → Claims.signalled s h H.ctx hd = none → exec (.xfres f) s = .next s) ∧
      (Claims.reachable s h hd → ∀ t, Claims.signalled s h H.ctx hd = some t →
        (∀ x, s.findFut hd H.ctx = some x → x.state = .live →
          exec (.xfres f) s = .next (Claims.completed s (t.resolveFut hd (some v)) f 0 0)) ∧
        (∀ x, s.findFut hd H.ctx = some x → x.state ≠ .live →
          exec (.xfres f) s = .next (Claims.completed s (t.deadLetter H.ctx H.ctx (futInfo 6 hd)) f 4 4)) ∧
        (s.findFut hd H.ctx = none →
          exec (.xfres f) s = .next (Claims.completed s (t.deadLetter H.ctx H.ctx (futInfo 8 hd)) f 3 3)))) ∧
    (Claims.HartGoes s (.xfdec f) →
      (hGen hd = 0 ∨ v = 0 ∨ 2 ^ 31 ≤ v → exec (.xfdec f) s = .next (Claims.completed s s f 9 9)) ∧
      (0 < v → v < 2 ^ 31 → Claims.reachable s h hd → ∀ t, Claims.signalled s h H.ctx hd = some t →
        (∀ x, s.findFut hd H.ctx = some x → x.state = .live →
          exec (.xfdec f) s = .next (Claims.completed s (t.decFut hd v false) f 0 0)) ∧
        (∀ x, s.findFut hd H.ctx = some x → x.state ≠ .live →
          exec (.xfdec f) s = .next (Claims.completed s (t.deadLetter H.ctx H.ctx (futInfo 6 hd)) f 4 4)) ∧
        (s.findFut hd H.ctx = none →
          exec (.xfdec f) s = .next (Claims.completed s (t.deadLetter H.ctx H.ctx (futInfo 8 hd)) f 3 3))))

/-- R318, R320: XFTEST reads the future in its four modes, 0 for a stale handle; XFWAIT completes at once for a LAPSED or a reached
future, and else files a waiter, whose hart waits, or finds no room for one (NO_WAITER, 12). Both are acquires (R371): they wait for what
the last resolution of the entry released. -/
def Sys2Proof.Claims.HartTestsAndWaits : Prop :=
  ∀ (f : HForm) (md : BitVec 2) (nx : BitVec 1) (s : State),
    let h := s.focus.hart
    let H := Claims.me s
    let hd := H.xr f.a.toNat % 2 ^ 32
    let v := H.xr f.b.toNat
    (Claims.HartGoes s (.xftest f md) → Claims.reachable s h hd → s.farRelease hd (h / 4) = true →
      exec (.xftest f md) s = .next s) ∧
    (Claims.HartGoes s (.xftest f md) → Claims.reachable s h hd → s.farRelease hd (h / 4) = false →
      (s.findFut hd H.ctx = none → exec (.xftest f md) s = .next (Claims.completed s s f 3 0)) ∧
      (∀ x, s.findFut hd H.ctx = some x → exec (.xftest f md) s = .next (Claims.completed s s f 0
        (if md = 0 then (if reached x.phase (v % 2 ^ 32) = true ∧ x.state = .live then 1 else 0)
         else if md = 1 then x.value else if md = 2 then x.counts else x.flags)))) ∧
    (Claims.HartGoes s (.xfwait f nx) → Claims.reachable s h hd → s.farRelease hd (h / 4) = false →
      (s.findFut hd H.ctx = none → exec (.xfwait f nx) s = .next (Claims.completed s s f 3 3)) ∧
      (∀ x, s.findFut hd H.ctx = some x →
        let target := if nx = 1 then (x.phase + 1) % 2 ^ 32 else v % 2 ^ 32
        let w : Waiter := { hart := some h, target := target, deadline := if v / 2 ^ 32 = 0 then none else some (s.hubTime + v / 2 ^ 32) }
        (x.state = .lapsed → exec (.xfwait f nx) s = .next (Claims.completed s s f 4 4)) ∧
        (x.state ≠ .lapsed → reached x.phase target = true →
          exec (.xfwait f nx) s = .next (Claims.completed s (s.modHart h (fun H => { H with xval := x.value })) f 0 0)) ∧
        (x.state ≠ .lapsed → reached x.phase target = false →
          (∀ t, s.fileWaiter hd w = some t → exec (.xfwait f nx) s =
            .next ((t.modHart h (fun H => { H with run := .wait hd f.d.toNat })).modHart h (fun H => H.nextPc 4))) ∧
          (s.fileWaiter hd w = none → exec (.xfwait f nx) s = .next (Claims.completed s s f 12 12)))))

/-- The reply block of XFRESTOK (R319): its value, its tokens, and the state after the reads. -/
def Sys2Proof.Claims.replyBlock (s : State) (va : Nat) : Option (Nat × List Byte × State) :=
  let h := s.focus.hart
  match Claims.fetched s h va 16 8 with
  | some (hdr, t) =>
    let n := ofLE ((hdr.drop 8).take 2)
    if 4096 < n then none else
    match t.hartAccess h hLoad va (16 + 4 * n) with
    | (.ok ps, u) =>
      match u.hartRead h ps with
      | .ok blk w => some (ofLE (hdr.take 8), blk.drop 16, w)
      | _ => none
    | _ => none
  | none => none

/-- R317, R319: XFRESTOK on a future that is bound to a prefill queue with room for its tokens reserves their indices, writes them to the
ring and waits until they are visible. Where the future is not bound the status is NOT_BOUND (6); without room FULL (5); with a queue that
is not there or not well formed BAD_OPERAND (9); on a LAPSED or stale future LATE (4) or STALE (3), with the record. PREFILL_TAIL_ADVANCE
makes the injection visible at whose first index TAIL stands: TAIL advances past its tokens, the future is resolved, or its record made
where it is LAPSED or stale, and the hart goes on with the status, or the endpoint answers with it. -/
def Sys2Proof.Claims.HartInjectsTokens : Prop :=
  ∀ (f : HForm) (s : State), Claims.HartGoes s (.xfrestok f) →
    let h := s.focus.hart
    let H := Claims.me s
    let hd := H.xr f.a.toNat % 2 ^ 32
    (∀ value toks w u, Claims.replyBlock s (H.xr f.b.toNat) = some (value, toks, w) → Claims.reachable w h hd →
      Claims.signalled w h H.ctx hd = some u →
      (∀ x n, w.findFut hd H.ctx = some x → x.state = .live → x.pq = some n → n < (u.ctx H.ctx).pqCnt →
        let q := u.prefillQ H.ctx n
        let ntok := toks.length / 4
        let used := (q.resv + 2 ^ 32 - q.head) % 2 ^ 32
        (q.ring % 128 = 0 → 4 ≤ q.log → q.log ≤ 24 → used ≤ 2 ^ q.log → ntok ≤ 2 ^ q.log - used →
          ∀ ps us t1 t, u.ringPieces H.ctx (q.pieces q.resv ntok) = (.ok (ps, us), t1) → t1.writeTokens H.ctx ps toks = some t →
          exec (.xfrestok f) s = .next (((({ t.wrHome (q.at0 + 16) 4 ((q.resv + ntok) % 2 ^ 32) with
              injects := t.injects ++ [{ ctx := H.ctx, q := n, start := q.resv, ntok := ntok, h := hd, value := value, hart := some h,
                                         uses := us }] } : State).modHart h (fun H => { H with run := .inject f.d.toNat })).modHart h
                (fun H => H.nextPc 4)))) ∧
        (q.ring % 128 = 0 → 4 ≤ q.log → q.log ≤ 24 → 2 ^ q.log < used ∨ 2 ^ q.log - used < ntok →
          exec (.xfrestok f) s = .next (Claims.completed s u f 5 5)) ∧
        (q.ring % 128 ≠ 0 ∨ q.log < 4 ∨ 24 < q.log → exec (.xfrestok f) s = .next (Claims.completed s u f 9 9))) ∧
      (∀ x n, w.findFut hd H.ctx = some x → x.state = .live → x.pq = some n → (u.ctx H.ctx).pqCnt ≤ n →
        exec (.xfrestok f) s = .next (Claims.completed s u f 9 9)) ∧
      (∀ x, w.findFut hd H.ctx = some x → x.state = .live → x.pq = none → exec (.xfrestok f) s = .next (Claims.completed s u f 6 6)) ∧
      (∀ x, w.findFut hd H.ctx = some x → x.state ≠ .live →
        exec (.xfrestok f) s = .next (Claims.completed s (u.deadLetter H.ctx H.ctx (futInfo 6 hd)) f 4 4)) ∧
      (w.findFut hd H.ctx = none →
        exec (.xfrestok f) s = .next (Claims.completed s (u.deadLetter H.ctx H.ctx (futInfo 8 hd)) f 3 3)))

/-- R317, R319: PREFILL_TAIL_ADVANCE makes the injection visible at whose first index TAIL stands: TAIL advances past its tokens, the future
is resolved, or its record made where it is LAPSED or stale; and the hart goes on with the status, or the endpoint answers with it. Where
TAIL stands elsewhere nothing happens yet; where the injection's connection has been reset (R426) TAIL alone advances. -/
def Sys2Proof.Claims.TheTailAdvances : Prop :=
  ∀ (i : Nat) (j : Inject) (s : State), s.injects[i]? = some j →
    ((s.prefillQ j.ctx j.q).tail ≠ j.start → exec (.prefillTailAdvance i) s = .next s) ∧
    ((s.prefillQ j.ctx j.q).tail = j.start →
      let t := ({ s with injects := dropAt s.injects i } : State).wrHome ((s.prefillQ j.ctx j.q).at0 + 12) 4 ((j.start + j.ntok) % 2 ^ 32)
      (j.reset = true → exec (.prefillTailAdvance i) s = .next t) ∧
      ∀ (st : Nat) (u : State), j.reset = false →
        ((∃ x, t.findFut j.h j.ctx = some x ∧ x.state = .live) ∧ st = 0 ∧ u = t.resolveFut j.h (some j.value)) ∨
        ((∃ x, t.findFut j.h j.ctx = some x ∧ x.state ≠ .live) ∧ st = 4 ∧ u = t.deadLetter j.ctx j.ctx (futInfo 6 j.h)) ∨
        (t.findFut j.h j.ctx = none ∧ st = 3 ∧ u = t.deadLetter j.ctx j.ctx (futInfo 8 j.h)) →
        (j.hart = none → exec (.prefillTailAdvance i) s = .next (u.modHub (fun b => { b with replies := b.replies ++ [(j.h, st)] }))) ∧
        (∀ k, j.hart = some k → exec (.prefillTailAdvance i) s = .next (u.modHart k (fun H => match H.run with
          | .inject rd => ({ H with run := .run, xst := st } : Hart).setX rd st
          | _ => H))))

/-- R321: XCQPOP moves the oldest record of the context's call queue to memory and advances HEAD, or gives EMPTY (8) where there is none;
a destination that is no multiple of 64 raises the store-misaligned exception. (A queue that is malformed: log 42; the trap entry: log 7.)
-/
def Sys2Proof.Claims.XcqpopTakesTheOldestCall : Prop :=
  ∀ (f : HForm) (s : State), Claims.HartGoes s (.xcqpop f) →
    let h := s.focus.hart
    let H := Claims.me s
    let va := H.xr f.a.toNat
    (va % 64 ≠ 0 → exec (.xcqpop f) s = .next (s.modHart h (fun H => H.trap 6 va))) ∧
    (va % 64 = 0 → ∀ ps t, s.hartAccess h hStore va 64 = (.ok ps, t) →
      let q := t.callQ H.ctx
      (q.formed = false ∨ q.head = q.tail → exec (.xcqpop f) s = .next (Claims.completed s t f 8 8)) ∧
      (q.formed = true → q.head ≠ q.tail → ∀ a key use u v w, t.translate H.ctx .r (q.slot q.head) 64 = (.ok (.dpa a key) use, u) →
        u.recall hubParty H.ctx a 64 false false = some v → (v.readKeyed a 64 key).2.hartWrite h ps (v.readKeyed a 64 key).1 = some w →
        exec (.xcqpop f) s = .next (Claims.completed s (w.wrHome ((w.ctx H.ctx).cqDesc + 8) 4 ((q.head + 1) % 2 ^ 32)) f 0 0)))

/-- R322, R323, R324: XFENCE completes with DONE, a releasing one when what the hart has seen of its cluster's writes is complete at its
scope, or is illegal for a kind or scope that is none; XCAPSET writes a capability register and sets VALID, its KEY 0 without MEM_ENC
(R23), or gives BAD_OPERAND; XCAPCLR clears VALID in the named registers; XCPYR asks for the replay of a page that is held, or gives
NOT_HELD (10). (The trap entry: log 7.) -/
def Sys2Proof.Claims.FencesCapabilitiesAndReplays : Prop :=
  ∀ (f : HForm) (kind : BitVec 2) (i : BitVec 4) (s : State),
    let h := s.focus.hart
    let H := Claims.me s
    let lo := H.xr f.a.toNat
    let hi := H.xr f.b.toNat
    let sc := f.b.toNat
    (Claims.HartGoes s (.xfence f kind) →
      let o := hartSeer h H.ctx
      let done := fun (t : State) => t.modHart h (fun H => ({ H with xst := 0 } : Hart).nextPc 4)
      (kind ≠ 0 → ((1 ≤ sc ∧ sc ≤ 3) ∨ (8 ≤ sc ∧ sc < 16 ∧ s.feat 16 = true)) →
        (kind = 2 → exec (.xfence f kind) s = .next (done s)) ∧
        (kind ≠ 2 → s.relWaits (.hart h) o (s.fenceLevel o.cl H.ctx sc) (s.fenceMask o.cl H.ctx sc) = false →
          exec (.xfence f kind) s = .next (done (s.releaseFor o (s.fenceLevel o.cl H.ctx sc) (s.fenceMask o.cl H.ctx sc)))) ∧
        (kind ≠ 2 → s.relWaits (.hart h) o (s.fenceLevel o.cl H.ctx sc) (s.fenceMask o.cl H.ctx sc) = true → exec (.xfence f kind) s = .next s) ∧
        (kind ≠ 2 → sc = 2 → (∃ e ∈ s.inflight, e.seen o = true ∧ e.tgt.isRemote = false) → exec (.xfence f kind) s = .next s) ∧
        (kind ≠ 2 → sc = 3 → (∃ e ∈ s.inflight, e.seen o = true) → exec (.xfence f kind) s = .next s)) ∧
      (kind = 0 ∨ ¬ ((1 ≤ sc ∧ sc ≤ 3) ∨ (8 ≤ sc ∧ sc < 16 ∧ s.feat 16 = true)) →
        exec (.xfence f kind) s = .next (s.modHart h (fun H => H.trap 2 0)))) ∧
    (Claims.HartGoes s (.xcapset f i) →
      let ok := lo % 128 = 0 ∧ hi % 128 = 0 ∧ lo % 2 ^ 48 < hi % 2 ^ 48 ∧ lo / 2 ^ 51 % 2 = 0 ∧ hi / 2 ^ 49 = 0
      (ok → H.caps.canonical 0 = true → ∃ H', exec (.xcapset f i) s = .next (Claims.completed s (s.setHart h H') f 0 0) ∧
        (∀ k, H'.cap k = if k = i.toNat then (if s.feat 13 then lo else lo % 2 ^ 52) + 2 ^ 64 * (hi % 2 ^ 48 + 2 ^ 48) else H.cap k) ∧ ({ H' with caps := H.caps } : Hart) = H) ∧
      (¬ ok → exec (.xcapset f i) s = .next (Claims.completed s s f 9 9))) ∧
    (Claims.HartGoes s (.xcapclr f) → H.caps.canonical 0 = true →
      ∃ H', exec (.xcapclr f) s = .next (Claims.completed s (s.setHart h H') f 0 0) ∧ ({ H' with caps := H.caps } : Hart) = H ∧
        ∀ k, k < 16 → H'.cap k = if lo.testBit k then setField (H.cap k) 112 112 0 else H.cap k) ∧
    (Claims.HartGoes s (.xcpyr f) →
      let g := lo / 2 ^ 20 % 2 ^ 10 * 16 + lo / 2 ^ 16 % 16
      let mine := fun (c : Copy) => c.ctx == H.ctx && c.id == lo % 2 ^ 16
      let this := fun (p : HeldPage) => p.held && p.page == hi
      let found := (s.eng g).copies.any (fun c => mine c && c.pages.any this)
      (found = true → exec (.xcpyr f) s = .next (Claims.completed s (s.modEng g (fun e => { e with copies := e.copies.map (fun c =>
        if mine c then { c with pages := c.pages.map (fun p => if this p then { p with asked := true } else p) } else c) })) f 0 0)) ∧
      (found = false → exec (.xcpyr f) s = .next (Claims.completed s s f 10 10)))

/-- The registration block that XVREG reads (R408), and the state after the read. -/
def Sys2Proof.Claims.regBlock (s : State) (f : HForm) : Option (RegBlock × State) :=
  (Claims.fetched s s.focus.hart ((Claims.me s).xr f.a.toNat) 64 64).map (fun e => ({ w := Claims.wordsOf 8 e.1 }, e.2))

/-- R325, R408 to R410: XVREG, by the operation of its block. OP 0 whose block is well formed, of an accepted kind, with room, with frames
that translate and areas that meet no other registers the view under a number that its context does not use, computes every block once,
and gives the number; a block that fails a check gives BAD_OPERAND and 0. OP 1 ends a view; OP 2 asks for blocks anew. (Areas that overlap
and the number: log 38; bits of the block that no table lists: log 37; status CONTEXT: log 39.) -/
def Obligations.XvregRegistersEndsAndRetries : Prop :=
  ∀ (f : HForm) (i : Instr) (s t : State) (r : RegBlock), i = .xvreg f ∨ i = .xvregUnregister f ∨ i = .xvregRetry f →
    Claims.HartGoes s i → Claims.regBlock s f = some (r, t) →
    let ctx := (Claims.me s).ctx
    let n := r.word 0 % 2 ^ 10
    (r.op = 0 →
      let v := r.view ctx
      (r.formed = false ∨ t.feat (kindFeature v.kind) = false ∨ t.roomFor v = false → exec i s = .next (Claims.completed s t f 9 0)) ∧
      (r.formed = true → t.feat (kindFeature v.kind) = true → t.roomFor v = true → ∀ mf wf t1 t2,
        t.latch ctx .r (rowFrames v.master v.mstride (64 * v.ncb * v.mw) (32 * v.nrb)) = (some mf, t1) →
        t1.latch ctx .w (((if v.kind = 3 then [] else rowFrames v.vbase v.vstride v.viewRows.2 v.viewRows.1) ++
          (if v.kind = 0 then rowFrames v.sbase v.sstride (2 * v.ncb) (32 * v.nrb) else [])).eraseDups) = (some wf, t2) →
        let w := { v with frames := (mf ++ wf).eraseDups }
        (t2.clashes w = true → exec i s = .next (Claims.completed s t2 f 9 0)) ∧
        (t2.clashes w = false → (t2.views.filter (fun x => x.ctx == ctx)).length < 1023 → ∃ num, 1 ≤ num ∧ num ≤ 1023 ∧
          (∀ x ∈ t2.views, x.ctx = ctx → x.num ≠ num) ∧
          exec i s = .next (Claims.completed s (({ t2 with free := t2.free + 1, views := t2.views ++ [{ w with num := num }] } : State).firstVersions
            t2.views.length (List.range w.nb)) f 0 num)))) ∧
    (r.op = 1 →
      (posOf (fun (v : View) => v.ctx == ctx && v.num == n) t.views = none → exec i s = .next (Claims.completed s t f 9 0)) ∧
      (∀ k v, posOf (fun (v : View) => v.ctx == ctx && v.num == n) t.views = some k → t.views[k]? = some v →
        v.blocks.any (fun b => b.2.running.isSome) = false →
        exec i s = .next (Claims.completed s
          ((if v.kind = 3 then t else (List.range v.nb).foldl (fun t b => t.settleBlock v b) t).dropView k) f 0 n))) ∧
    (r.op = 2 → ∀ k v, posOf (fun (v : View) => v.ctx == ctx && v.num == n) t.views = some k → t.views[k]? = some v →
      let b := r.word 0 / 2 ^ 10 % 2 ^ 30
      (b < v.nb → b ≠ 2 ^ 30 - 1 → exec i s = .next (Claims.completed s (t.modBlock k b (fun x => { x with pending := true })) f 0 n)) ∧
      (v.nb ≤ b → b ≠ 2 ^ 30 - 1 → exec i s = .next (Claims.completed s t f 9 0)))

/-- A hart at its next instruction, with a value in a register. -/
def Sys2Proof.Claims.went (t : State) (h rd v len : Nat) : State := t.modHart h (fun H => (H.setX rd v).nextPc len)

/-- What a standard access needs of its pages (R306): by its kind, a fetch, load, store, LR, or AMO or SC. -/
def Sys2Proof.Claims.need (k : Nat) : HNeed :=
  if k = 0 then hFetch else if k ≤ 2 then hLoad else if k = 3 then hStore else if k = 13 then hLr else hBoth

/-- The widths of a fetch, of a load or store, and of an AMO, LR or SC, which is aligned (R306). -/
def Sys2Proof.Claims.sized (k va n : Nat) : Prop :=
  (k = 0 ∧ n ∈ [2, 4]) ∨ (1 ≤ k ∧ k ≤ 3 ∧ n ∈ [1, 2, 4, 8]) ∨ (4 ≤ k ∧ k ≤ 14 ∧ n ∈ [4, 8] ∧ va % n = 0)

/-- R297 to R299, R306, R370: a standard access whose translation and checks pass has its effect: a fetch none; a load writes the extended
bytes to rd, and a store or a cache-block zero its bytes; an AMO writes its new value and gives the old one; LR reads and holds a
reservation; SC without one fails, and with one writes or fails; the other cache-block words drain what is modified of their line. One that
fails raises its exception, and a misaligned AMO, LR or SC the misaligned exception. An access with rl and a FENCE with W before it wait for
what they release, and bring what the party has written home (R417). The length of a load or store is 2 or 4, which the event does not tell
(log 33). The standard instruction set, its translation and its traps: logs 7 and 41. -/
def Sys2Proof.Claims.HartAccessesComplete : Prop :=
  ∀ (h op va n v rd : Nat) (s : State), h < 4096 → (s.hart h).run = .run →
    let ev := Instr.hartMemoryAccess h op va n v rd
    let k := op % 32
    let fl := if 1 ≤ k ∧ k ≤ 3 then s.mayFlash h else false
    let free := (4 ≤ k ∧ k ≤ 14 → bitOf op 6 = false ∨ s.hartRelWaits h 2 = false) ∧
      (k = 19 → bitOf v 4 = false ∨ s.hartRelWaits h 2 = false)
    (¬ free → exec ev s = .next s) ∧
    (free →
      let rel : Bool := if k = 19 then bitOf v 4 else decide (4 ≤ k ∧ k ≤ 14) && bitOf op 6
      let z := if rel then s.homeward (hartSeer h (s.hart h).ctx) else s
      (∀ e t, Claims.sized k va n → z.hartAccess h (Claims.need k) va n fl = (.error e, t) →
        exec ev s = .next (t.hartFault h (Claims.need k) e)) ∧
      (∀ ps t, Claims.sized k va n → z.hartAccess h (Claims.need k) va n fl = (.ok ps, t) →
        (k = 0 → exec ev s = .next t) ∧
        (∀ bs u, k = 1 ∨ k = 2 → t.hartRead h ps = .ok bs u → ∃ len, (len = 2 ∨ len = 4) ∧
          exec ev s = .next (Claims.went { u with free := u.free + 1 } h rd (hartExtend (k == 2) n (ofLE bs)) len)) ∧
        (∀ u, k = 3 → t.hartWrite h ps (toLE n v) = some u → ∃ len, (len = 2 ∨ len = 4) ∧
          exec ev s = .next (Claims.went { u with free := u.free + 1 } h 0 0 len)) ∧
        (k = 3 → t.hartWrite h ps (toLE n v) = none → exec ev s = .next (z.wantAll ps)) ∧
        (4 ≤ k → k ≤ 12 → ∀ bs u w, t.hartRead h ps = .ok bs u →
          u.hartWrite h ps (toLE n (amoNew k (8 * n) (ofLE bs) v)) = some w →
          exec ev s = .next (Claims.went w h rd (hartExtend true n (ofLE bs)) 4)) ∧
        (k = 13 → ∀ p r bs u, ps = p :: r → t.hartRead h ps = .ok bs u →
          exec ev s = .next (Claims.went (u.modHart h (fun H => { H with resv := some p.pa })) h rd (hartExtend true n (ofLE bs)) 4)) ∧
        (k = 14 → ∀ p r bs u, ps = p :: r → t.hartRead h ps = .ok bs u →
          let fails := Claims.went (({ u with free := u.free + 1 } : State).modHart h (fun H => { H with resv := none })) h rd 1 4
          ((u.hart h).resv ≠ some p.pa → exec ev s = .next fails) ∧
          ((u.hart h).resv = some p.pa → ∀ w, ({ u with free := u.free + 1 } : State).hartWrite h ps (toLE n v) = some w →
            exec ev s = .next fails ∨
            exec ev s = .next (Claims.went (w.modHart h (fun H => { H with resv := none })) h rd 0 4)))) ∧
      (4 ≤ k → k ≤ 14 → n = 4 ∨ n = 8 → va % n ≠ 0 →
        exec ev s = .next (z.modHart h (fun H => H.trap (if k = 13 then 4 else 6) va))) ∧
      (15 ≤ k → k ≤ 18 →
        ((s.hart h).cboLegal k = false → exec ev s = .next (z.modHart h (fun H => H.trap 2 0))) ∧
        ((s.hart h).cboLegal k = true →
          let blk := if k = 15 then 64 else 128
          let need := if k = 15 then hStore else hCbo
          (∀ e t, z.hartAccess h need (va / blk * blk) blk = (.error e, t) → exec ev s = .next (t.hartFault h need { e with va := va })) ∧
          (∀ ps t u, z.hartAccess h need (va / blk * blk) blk = (.ok ps, t) →
            (k = 15 → t.hartWrite h ps (toLE 64 0) = some u → exec ev s = .next (Claims.went u h 0 0 4)) ∧
            (k ≠ 15 → t.hartClean h k ps = some u → exec ev s = .next (Claims.went u h 0 0 4))))) ∧
      (k = 19 → exec ev s = .next (Claims.went z h 0 0 4)))

/-- R298, R385: a load or store of a server hart in S or M mode to the flash tier reads or writes its bytes; of any other hart, or without
the feature FLASH_TIER (log 72), it is an access fault at the virtual address. Address translation and delegation of the harts: logs 7
and 41. -/
def Sys2Proof.Claims.FlashAccessesComplete : Prop :=
  ∀ (h op va n v rd : Nat) (s t : State) (ps : List Piece), h < 4096 → (s.hart h).run = .run → n ∈ [1, 2, 4, 8] → op ∈ [1, 2, 3] →
    let need := if op = 3 then hStore else hLoad
    s.hartPieces h (s.hart h) need (cutRun 2 va n) = (.ok ps, t) → (∀ p ∈ ps, inFlash p.pa p.n = true) →
    (s.isServer h = false ∨ (s.hart h).mode = .u ∨ s.feat 12 = false →
      exec (.flashAccess h op va n v rd) s = .next (t.hartFault h need { cause := if op = 3 then 7 else 5, va := va })) ∧
    (s.isServer h = true → (s.hart h).mode ≠ .u → s.feat 12 = true → ∀ qs u, s.hartAccess h need va n true = (.ok qs, u) → ∃ len, (len = 2 ∨ len = 4) ∧
      exec (.flashAccess h op va n v rd) s = .next (
        if op = 3 then Claims.went { (hartChunks qs (toLE n v)).foldl (fun t x => t.wrBytes x.a x.bs) u with free := u.free + 1 } h 0 0 len
        else Claims.went { u with free := u.free + 1 } h rd
          (hartExtend (op == 2) n (ofLE ((qs.map (fun p => bytesAt u.mem p.pa p.n)).flatten))) len))

/-- R23, R301, R302: a CSR instruction gives the old value and writes, sets or clears bits, where UCALL stays 0 without CALLQ and KEY
without MEM_ENC; of a register that its mode may not reach, or that is read-only, the access is an illegal instruction. (Layouts and the
trap entry: log 7; registers of a feature that is not accepted: log 55.) -/
def Sys2Proof.Claims.CsrAccessesComplete : Prop :=
  ∀ (h csr op v rd old : Nat) (s : State), h < 4096 → (s.hart h).run = .run → op < 4 → s.readCsr h csr = some old →
    let ev := Instr.sedgeCsrWrite h csr op v rd
    let new := if op = 1 then v % 2 ^ 64 else if op = 2 then old ||| v % 2 ^ 64 else old &&& (2 ^ 64 - 1 - v % 2 ^ 64)
    (modeCode (s.hart h).mode < csr / 256 % 4 ∨ (op ≠ 0 ∧ csrReadOnly csr = true) →
      exec ev s = .next (s.modHart h (fun H => H.trap 2 0))) ∧
    (csr / 256 % 4 ≤ modeCode (s.hart h).mode → op = 0 ∨ csrReadOnly csr = false →
      exec ev s = .next (s.modHart h (fun H => ((if op = 0 then H else H.writeCsr (s.feat 5) (s.feat 13) csr new).setX rd old).nextPc 4)) ∧
      (csr = 0x5C0 → op ≠ 0 → ∀ callq enc, ((s.hart h).writeCsr callq enc csr new).ctx = new % 256 ∧
        ((s.hart h).writeCsr callq enc csr new).key = if enc then new / 256 % 4096 else 0) ∧
      (csr = 0x5C1 → op ≠ 0 → ∀ callq enc, ((s.hart h).writeCsr callq enc csr new).uctl = new % (if callq then 8 else 4)))

/-- R320: an interrupt that the waiting hart would take withdraws its waiter; XFWAIT completes with INTERRUPTED (7), and the trap saves
the address of the next instruction. A hart whose waiter was delivered first takes it afterwards. (The trap entry: log 7; when it is
taken: logs 55, 93.) -/
def Sys2Proof.Claims.InterruptEndsTheWait : Prop :=
  (∀ (h cause hd rd : Nat) (sup : Bool) (s : State), (s.hart h).run = .wait hd rd → (s.hart h).takes cause = some sup →
    ∃ t, exec (.xfwaitInterrupted h cause) s = .next t ∧ (t.hart h).run = .run ∧ (t.hart h).xst = 7 ∧
      (rd ≠ 0 → (t.hart h).xr rd = 7) ∧ (if sup then (t.hart h).csr.sepc = (s.hart h).pc else (t.hart h).csr.mepc = (s.hart h).pc) ∧
      (t.fut hd).waiters = (s.fut hd).waiters.filter (fun w => w.hart != some h)) ∧
  ∀ (h cause : Nat) (sup : Bool) (s : State), (s.hart h).run = .run → (s.hart h).takes cause = some sup →
    exec (.xfwaitInterrupted h cause) s = .next (s.modHart h (fun H => H.trapTo sup true cause 0))

/-! ### Activations and their scheduling (R33, R34, R46, R87 to R90, R99, R222, R257, R264 to R269, R281) -/

/-- The front end of `a` can dispatch a group: it has loaded, holds no word, has raised no fault, and is not held (R89, R105); a word
fetched ahead is the one that it goes on with (R102). -/
structure Sys2Proof.Claims.Dispatches (s : State) (g k : Nat) (a : Act) : Prop where
  runs : s.act g k = some a
  loaded : a.loading = false
  free : a.front = none
  calm : a.faults = []
  idle : a.busy = false
  open' : a.committing = false
  entered : a.rest = []
  expected : ∀ x, a.ahead.head? = some x → x.1 = a.pc
  live : (s.ctx a.ctx).state ≠ .held
  stays : (s.eng g).incoming = none

/-- R87, R89, R90, R102, R103: at the head of no loop body, a word fetched now or ahead that closes its group alone and carries no prefix
enters its queue with its number in program order; one that decodes to no instruction raises ILLEGAL_INSTR (1), one whose static field
fails ILLEGAL_OPERAND (3) with its opcode and the position of the field (log 17; info word 0 elsewhere: log 28; log 96: what is fetched
ahead), and a fetch past an inline message ILLEGAL_STATE (4, info 0x10). -/
def Sys2Proof.Claims.GroupsOfOneWordDispatch : Prop :=
  ∀ (s t : State) (g k : Nat) (a : Act) (w : BitVec 64), Claims.Dispatches s g k a → a.loops = [] → a.pfx = none →
    (s.nextWord g k a 0 a.pc = (.past, t) → exec (.groupDispatch g k) s =
      .next ((t.setAct g k a).raiseAt g k { n := a.next, pc := a.pc, code := 4, info := 0x10 })) ∧
    (s.nextWord g k a 0 a.pc = (.word w, t) → w.getLsbD 61 = true → w.extractLsb' 62 2 ≠ 0 →
      (decode w = .illegalInstr → exec (.groupDispatch g k) s =
        .next ((t.setAct g k a).raiseAt g k { n := a.next, pc := a.pc, code := 1, info := 0 })) ∧
      (∀ i, decode w = .ok i → (∀ h f, i ≠ .fmt h f) → (∀ x, i.feature = some x → s.hub.featAcc.testBit x = true) →
        (∀ b l, i.fails s.hub.featAcc = b :: l → exec (.groupDispatch g k) s = .next ((t.setAct g k a).raiseAt g k
          { n := a.next, pc := a.pc, code := 3, info := (w.extractLsb' 44 8).toNat + 256 * b })) ∧
        (i.fails s.hub.featAcc = [] →
          let q := (w.extractLsb' 62 2).toNat - 1
          (a.queue q).length < (if q = 2 then 8 else 16) → a.qa.length ≤ 16 → a.qc.length ≤ 16 → a.qs.length ≤ 8 →
          exec (.groupDispatch g k) s = .next (t.setAct g k
            (({ a with next := a.next + 1, pc := (a.pc + 8) % 2 ^ 48, ahead := a.ahead.drop 1, blocked := [], stall := none } : Act).setQueue q
              (a.queue q ++ [{ n := a.next, pc := a.pc, word := w, last := true }]))))))

/-- A slot that holds a record of context `c` whose activation is loading, with its handle and sequence number (R28, R29, R48); it is the
observer that its record continues (R369). -/
def Sys2Proof.Claims.loadingIn (t : State) (g k : Nat) (x : Entry) (count c now : Nat) : Prop :=
  ∃ o, (x.msg.obs ≠ 0 → o = x.msg.obs) ∧
    t.act g k = some { act := g * 1024 + k * 256 + count % 256, ctx := c,
                       seq := (g * 1024 + k * 256 + count % 256) / 256 * 2 ^ 32 + count, loading := true, dispatched := now, obs := o } ∧
    { x with slot := some k, msg := { x.msg with obs := o } } ∈ (t.eng g).inbox

/-- R264, R269: a free slot of an engine whose context is live and which is not being switched takes the head of the lowest channel that
has one, where no head has waited longer than AGE; with an empty inbox it takes the newest task of the deque. (Records addressed to an
activation that is gone are dead-lettered first; the statement is for an inbox without them.) -/
def Sys2Proof.Claims.DispatchTakesTheHead : Prop :=
  ∀ (s : State) (g k c : Nat), k < 4 → (s.eng g).ctx = some c → (s.eng g).act k = none → (s.ctx c).state = .live →
    (s.eng g).incoming = none →
    (s.cluster (g / 16)).gated = false → (s.eng g).heads.any (fun x => !(s.eng g).check4 x.msg) = false →
    (∀ x ∈ (s.eng g).heads, (s.cluster (g / 16)).age = 0 ∨ s.now g ≤ x.arrived + (s.cluster (g / 16)).age) →
    (∀ ch x, ch < 8 → (s.eng g).headOf ch = some x → (∀ j, j < ch → (s.eng g).headOf j = none) → ∃ t,
      exec (.dispatch g k) s = .next t ∧ Claims.loadingIn t g k x ((s.eng g).slot k).count c (s.now g)) ∧
    ((s.eng g).inbox = [] → ∀ m r, (s.eng g).deque = r ++ [m] → m.ctx = c → ∃ t, exec (.dispatch g k) s = .next t ∧
      Claims.loadingIn t g k { msg := m, arrived := s.now g } ((s.eng g).slot k).count c (s.now g) ∧ (t.eng g).deque = r)

/-- R33, R34, R46: a loading activation starts as its record says. A task (kind 0) or a resume record (kind 1) whose PC is a multiple of
8, whose runs fit the register file and whose loop levels nest gives its registers, predicates and loops; inline code (kind 2) starts at
the inline base with its two arguments in g1 and g2; a record that breaks a rule ends with ILLEGAL_STATE at its PC. Later the generator
state is ready: the context's seed advanced by the sequence number. (A loop level that starts below offset 0: log 83; a handler entry that
is invalid at dispatch: log 29.) -/
def Sys2Proof.Claims.ActivationsStartAsTheirRecord : Prop :=
  ∀ (s : State) (g k : Nat) (a : Act), s.act g k = some a →
    let m := ((s.eng g).entry k).msg
    let d := m.word 12
    let pc := if m.kind = 0 then s.rd ((s.ctx m.ctx).handlerTab + 8 * m.handler) 8 % 2 ^ 48 else m.word 1 % 2 ^ 48
    let n := d / 2 ^ 22 % 16
    let k' := d / 2 ^ 32 % 16
    let loops := loopsOf pc (d / 2 ^ 36 % 4) [m.word 13, m.word 14, m.word 15]
    let fits : Prop := pc % 8 = 0 ∧ n + k' ≤ 10 ∧ d / 2 ^ 16 % 64 + n ≤ 64 ∧ d / 2 ^ 26 % 64 + k' ≤ 64 ∧ loopsOk pc loops = true
    let start := { a with
      loading := false, kind := if m.cause = 0 then m.kind else m.cause, status := m.word 1 / 2 ^ 48 % 256, rngReady := false }
    (a.loading = true →
      (m.kind = 2 → exec (.activationLoad g k) s = .next (s.setAct g k { start with
        pc := inlineBase, g := loadRuns [] [m.word 14, m.word 15] 1 2 0 0 })) ∧
      (m.kind ≠ 2 → fits → m.vals = [] → exec (.activationLoad g k) s = .next (s.setAct g k { start with
        pc := pc, p := BitVec.ofNat 12 d, loops := loops.reverse,
        g := loadRuns [] ((List.range 10).map (fun i => m.word (2 + i))) (d / 2 ^ 16 % 64) n (d / 2 ^ 26 % 64) k' })) ∧
      (m.kind ≠ 2 → ¬ fits → exec (.activationLoad g k) s = .next (s.segmentFault g k a { n := 0, pc := pc, code := 4, info := 0 }))) ∧
    (a.loading = false → a.rngReady = false →
      let x := jumpTimes 48 jumpMat a.seq (BitVec.ofNat 128 (s.ctx a.ctx).seed)
      exec (.rngStateReady g k) s = .next (s.setAct g k { a with rngReady := true, s0 := x.extractLsb' 0 64, s1 := x.extractLsb' 64 64 }))

/-- R95, R191, R193, R194, R365, R386: a load that has issued returns. A constant load whose line is cached gives the bytes of the line.
Any other goes where its address then leads: what comes back are the bytes of its place, as R363 and R365 let the engine see them, and the
line is cached as the load asks, or a peer's answer; or it raises the fault of its route (code 15), of a host that is gone (18), or the
peer's. It waits while an effect that it must see has not reached its home, or a tenure is recalled; a use of bad check bits is found
(R456). A load whose request is in the TC0 shaper (R470) has not set out. (Log 36: it holds its queue's head until then; log 75: an
engine's own writes.) -/
def Sys2Proof.Claims.LoadsReturn : Prop :=
  ∀ (s : State) (g k i : Nat) (a : Act) (l : Load) (party : Bool) (code data : Nat), s.act g k = some a → s.sentLoad a i = some l →
    s.viewLoad l = false →
    let ev := Instr.loadReturn g k i party code data
    (∀ line t, l.const = true → s.constRead g (l.va / 128) = (some line, t) →
      exec ev s = .next (t.finishLoad g k i l ((line.drop (l.va % 128)).take l.size))) ∧
    (l.const = false ∨ (∀ x, (s.eng g).ccache.find (l.va / 128) ≠ some x) →
      (∀ info, s.routeFault a.ctx (g / 16) (g % 16) l.tgt = some info → exec ev s = .next ((s.hopFault info).failLoad g k i l 15 info l.va 0)) ∧
      (s.routeFault a.ctx (g / 16) (g % 16) l.tgt = none →
        (∀ d o, s.rePort l.va l.tgt l.port = .remote d o →
          (remoteCode (code % 32) = 0 → exec ev s = .next (s.finishLoad g k i l (toLE l.size data))) ∧
          (remoteCode (code % 32) ≠ 0 → exec ev s = .next
            (s.failLoad g k i l (remoteCode (code % 32)) (s.remoteInfo a.ctx l.tgt code l.va) l.va (remoteReason code)
              (remoteShare code)))) ∧
        (∀ p key, s.rePort l.va l.tgt l.port = .dpa p key →
          (s.hostGone p = true → exec ev s = .next (s.failLoad g k i l 18 l.va l.va 0)) ∧
          (s.hostGone p = false →
            let o := engineSeer g a.ctx
            let v := if party then s.seenNow o p l.size else s
            let at_ := if l.const then p / 128 * 128 else p
            let n := if l.const then 128 else l.size
            (v.heldFrom o at_ n = true → exec ev s = .next v) ∧
            (∀ t, v.heldFrom o at_ n = false → v.findsBad at_ n 1 a.ctx = some t → exec ev s = .next t) ∧
            (v.heldFrom o at_ n = false → v.findsBad at_ n 1 a.ctx = none →
              (v.recall (g / 16) a.ctx at_ n false false = none → exec ev s = .next v) ∧
              (∀ t, v.recall (g / 16) a.ctx at_ n false false = some t →
                let r := t.observe o at_ n key
                (l.const = true → exec ev s = .next
                  ((r.2.cacheConst g (l.va / 128) r.1).finishLoad g k i l ((r.1.drop (l.va % 128)).take l.size))) ∧
                (l.const = false → exec ev s = .next
                  ((if l.alloc then r.2.cacheData g (p / 128) else r.2).finishLoad g k i l r.1)))))))) ∧
    (∀ bs : List Byte, s.sameCycle = false → a.faults = [] → ∀ b, b = (({ a with loads := dropAt a.loads i }).wn l.reg
        (toRegister l.fmt (elemCode l.fmt l.hi bs))).leave 0 l.n → (b.pushes 0 l.pushu l.pushd).2 = true →
      s.finishLoad g k i l bs = s.setAct g k (b.pushes 0 l.pushu l.pushd).1)

/-- R95, R191, R365: a load of plain bytes of the device's memory, with no other effect on its way, where no tenure and no host line
keeps it waiting, reads them into its register, and its word leaves queue A with its pushes. -/
def Sys2Proof.Claims.PlainLoadsReadTheirBytes : Prop :=
  ∀ (s : State) (g k i p : Nat) (a : Act) (l : Load) (party : Bool) (code data : Nat), s.act g k = some a → s.sentLoad a i = some l →
    s.viewLoad l = false → s.badBits = [] → l.const = false → l.alloc = false → l.tgt = .dpa p 0 → l.va / 2 ^ 48 = 0 → p < 2 ^ 47 →
    s.routeFault a.ctx (g / 16) (g % 16) l.tgt = none → s.inflight = [] →
    ∀ t, s.recall (g / 16) a.ctx p l.size false false = some t → t.readKeyed p l.size 0 = (bytesAt s.mem p l.size, t) →
    s.sameCycle = false → a.faults = [] → l.pushu = false → l.pushd = false →
    exec (.loadReturn g k i party code data) s = .next (t.setAct g k ((({ a with loads := dropAt a.loads i }).wn l.reg
      (toRegister l.fmt (elemCode l.fmt l.hi (bytesAt s.mem p l.size)))).leave 0 l.n))

/-- R415, R416, R467: a load of view bytes is served its version under its policy and pins it; it waits, faults with VIEW_FAULT (17), or,
where a version that the segment had pinned is gone, the segment is discarded, unless it has raised a fault, which comes first (R51; the
info word: log 74); one whose route fails raises ROUTE (15). -/
def Sys2Proof.Claims.ViewLoadsAreServed : Prop :=
  ∀ (s : State) (g k i p key : Nat) (a : Act) (l : Load), s.act g k = some a → s.sentLoad a i = some l → l.tgt = .dpa p key →
    s.viewBlocks p l.size ≠ [] →
    (∀ info, s.routeFault a.ctx (g / 16) (g % 16) l.tgt = some info →
      exec (.viewRead g k i) s = .next ((s.hopFault info).failLoad g k i l 15 info l.va 0)) ∧
    (s.routeFault a.ctx (g / 16) (g % 16) l.tgt = none →
      let served := s.serveAll (engineSeer g a.ctx) l.policy (s.viewBlocks p l.size) a.pins
      (∀ pins t, served = (.ok pins, t) →
        let r := t.readKeyed p l.size key
        exec (.viewRead g k i) s = .next ((r.2.modAct g k (fun b => { b with pins := pins })).finishLoad g k i l
          (r.1.zipIdx.map (fun e => r.2.versionByte pins (p + e.2) e.1)))) ∧
      (∀ t, served = (.wait, t) → exec (.viewRead g k i) s = .next t) ∧
      (∀ t, served = (.gone, t) → a.mayNot = false → exec (.viewRead g k i) s = .next (t.requeue g k)) ∧
      (∀ t, served = (.gone, t) → a.mayNot = true → exec (.viewRead g k i) s = .next ((t.modAct g k (fun b => { b with
        loads := dropAt b.loads i, blocked := 0 :: b.blocked })).settle g k)) ∧
      (∀ info t, served = (.fault info, t) → exec (.viewRead g k i) s = .next (t.failLoad g k i l 17 info l.va 0)))

/-- R48, R99, R222, R265, R266: what takes a running activation off its slot. Pre-emption re-queues the one that R265 chooses when all
four slots are taken and a record of channel 0 waits; eviction one that has waited longer than STALL while a record of its channel or a
lower one waits; an entry deadlock, in which activations hold all 16 entries and each that holds any waits for one, the waiting one in the
highest slot; 64 cycles without progress, every queue waiting on a token, raise ILLEGAL_STATE. (Log 35: a deadlock of the matrix queue;
log 98: where the record stands.) -/
def Sys2Proof.Claims.ActivationsLeaveTheirSlots : Prop :=
  ∀ (s : State) (g k : Nat) (a : Act), s.act g k = some a → k < 4 →
    ((s.eng g).waiting 0 = true → (∀ j, j < 4 → ((s.eng g).act j).isSome) → (s.eng g).victim = some k → a.busy = false → a.faults = [] →
      exec (.preemption g) s = .next (s.requeue g k)) ∧
    (∀ q e r x, q < 3 → a.queue q = e :: r → a.evictWait q = true → x ∈ a.stalls → x.1 = e.n →
      x.2 + (s.cluster (g / 16)).stall < s.now g → (s.cluster (g / 16)).stall ≠ 0 → a.busy = false → a.faults = [] →
      (s.eng g).waiting ((s.eng g).entry k).msg.ch = true → exec (.stallEviction g k) s = .next (s.requeue g k)) ∧
    (let holds := fun j => (((s.eng g).act j).map Act.mxReserved).getD 0
     16 ≤ holds 0 + holds 1 + holds 2 + holds 3 → (∀ j b, j < 4 → (s.eng g).act j = some b → b.mxReserved = 0 ∨ b.wantsEntry = true) →
      a.wantsEntry = true → (∀ j b, k < j → j < 4 → (s.eng g).act j = some b → b.wantsEntry = false) →
      exec (.matrixQueueDeadlock g) s = .next (s.requeue g k)) ∧
    (∀ e n, a.firstHead = some e → a.stall = some n → n + 64 ≤ s.now g → (∀ q, q < 3 → a.tokenWait q = true) → a.loads = [] →
      a.busy = false → a.loading = false → a.faults = [] → s.frontCan g k a = false →
      exec (.tokenDeadlock g k) s = .next ((s.modAct g k (fun a => { a with blocked := [0, 1, 2] })).raiseAt g k
        { n := e.n, pc := e.pc, code := 4, info := 0 }))

/-- R211, R250, R270, R281, R282: an engine whose current context has nothing to run, or has had its time slice, begins the switch to a
live context for which a record waits: its activations are discarded and their records held. Once its copies and granted commands let it
go, the outgoing context's scratchpad stands in its SAVE area; the incoming one's scratchpad is what its area holds, or everything is
fresh where it has run here never; and the caches and the deque are empty. A steal request takes the oldest task of the victim next in the
scan, or passes on; a scan that found nothing starts again after 64 cycles. (Logs 45, 81: the deque and the SAVE area; log 54: what a
stolen task carries.) -/
def Sys2Proof.Claims.EnginesSwitchAndSteal : Prop :=
  ∀ (s : State) (g : Nat),
    let e := s.eng g
    (∀ d, e.ctx ≠ some d → (s.ctx d).state = .live → (s.cluster (g / 16)).gated = false → e.wants d = true → e.incoming = none →
      (s.nothingRuns g = true ∨
        ((s.cluster (g / 16)).slice ≠ 0 ∧ e.since + (s.cluster (g / 16)).slice * 2 ^ 16 ≤ s.now g)) →
      let t := (s.requeueAll g).modEng g (fun e => { e with incoming := some d })
      (t.mayLeave g = false → exec (.contextSwitch g d) s = .next t) ∧
      (t.mayLeave g = true → exec (.contextSwitch g d) s = .next (((t.saveEngine g).loadEngine g d).refillAll g 64))) ∧
    (∀ d, e.incoming = some d → (s.ctx d).state = .live →
      let t := (s.requeueAll g).modEng g (fun e => { e with incoming := some d })
      (t.mayLeave g = false → exec (.contextSwitch g d) s = .next t) ∧
      (t.mayLeave g = true → exec (.contextSwitch g d) s = .next (((t.saveEngine g).loadEngine g d).refillAll g 64))) ∧
    (∀ c d, e.ctx = some c → d ≠ c → Sparse.sorted s.mem = true → e.spad.sorted = true → e.mx.queue.length ≤ 16 → e.deque = [] →
      let t := ((s.saveEngine g).loadEngine g d).refillAll g 64
      let a := (s.ctx c).saveArea g
      (t.eng g).ctx = some d ∧ (t.eng g).incoming = none ∧ (t.eng g).icache = [] ∧ (t.eng g).ccache = [] ∧ (t.eng g).dcache = [] ∧
      (t.eng g).deque = [] ∧ (t.eng g).saved.contains c = true ∧
      (∀ k, k < 98304 → Sparse.get 0 t.mem (a + k) = Sparse.get 0 e.spad k) ∧
      (∀ x, x < a ∨ a + 147456 ≤ x → Sparse.get 0 t.mem x = Sparse.get 0 s.mem x) ∧
      (e.saved.contains d = true → ∀ k, k < 98304 → Sparse.get 0 (t.eng g).spad k = Sparse.get 0 t.mem ((s.ctx d).saveArea g + k)) ∧
      (e.saved.contains d = false → (t.eng g).spad = [] ∧ (t.eng g).bars = [] ∧ (t.eng g).mx = {})) ∧
    (∀ c, s.mayScan g = some c → e.rescan = none →
      (∀ v, victimAt g (s.ctx c).steal e.scan = some v →
        ((s.eng v).ctx ≠ some c ∨ s.stealTask v c = none →
          exec (.steal g) s = .next (s.setEng g { e with scan := e.scan + 1 })) ∧
        (∀ m u t, (s.eng v).ctx = some c → s.stealTask v c = some (m, u) →
          u.released (engineSource v) c m.cover (g / 16) ((s.ctx c).steal != 0) = some t →
          exec (.steal g) s = .next ((t.active (g / 16)).modEng g (fun e => { e with
            scan := 0, inbox := e.inbox ++ [{ msg := m, arrived := t.now g }] })))) ∧
      (victimAt g (s.ctx c).steal e.scan = none →
        exec (.steal g) s = .next (s.setEng g { e with scan := 0, rescan := some (s.now g) }))) ∧
    (∀ n, e.rescan = some n → n + 64 ≤ s.now g → (s.mayScan g).isSome → exec (.stealRescan g) s =
      .next (s.setEng g { e with scan := 0, rescan := none }))

/-- What R257 and R263 do with a message that has arrived in cluster `c`, by engine port `e` or by the agent's: it is queued at the tail of
its channel, in the inbox or in a slot of its context's MSG_SPILL ring, or becomes a dead letter with the reason of the first check that
fails, for its own context, or where the activation that it names has gone, for the context that owns the slot (R30; of a free
one: log 97). A message that arrives in an open cycle is noted, because a teardown of its context in that cycle wins (R280); the cluster is
not idle (R451). -/
def Sys2Proof.Claims.arrived (t : State) (c : Nat) (e : Option Nat) (m : Msg) : State :=
  let g := m.target / 2 ^ 10 % 2 ^ 14
  let letter := fun (r : Nat) => t.deadLetter m.sctx m.ctx (r + m.target * 2 ^ 40)
  let homes := ((t.eng g).spill.filter (fun y => y.msg.ctx == m.ctx)).map (fun y => y.home)
  if m.kind = 3 ∨ 6 ≤ m.src then letter 3
  else if g / 16 ≠ c ∨ (e.isSome = true ∧ e ≠ some (g % 16)) then letter 2
  else if (t.ctx m.ctx).exists = false then t.msgGone m
  else if (t.eng g).check4 m = false then t.deadLetter m.sctx ((t.eng g).slotOwner m) (1 + m.target * 2 ^ 40)
  else if m.kind = 0 ∧ (t.rd ((t.ctx m.ctx).handlerTab + 8 * m.handler) 8).testBit 63 = false then letter 9
  else
    let u := (t.noteArrival m).active (g / 16)
    if (u.eng g).inbox.length < 64 ∧ (u.eng g).spill.any (fun y => y.msg.ch == m.ch && y.msg.ctx == m.ctx) = false then
      u.setEng g { u.eng g with inbox := (u.eng g).inbox ++ [{ msg := m, arrived := u.now g }] }
    else match freeSlot homes (2 ^ (u.ctx m.ctx).mlog) with
      | some i => (u.wrBytes ((u.ctx m.ctx).msgSlot g i) m.image).setEng g
          { u.eng g with spill := (u.eng g).spill ++ [{ msg := m, arrived := u.now g, home := i }] }
      | none => u.deadLetter m.sctx m.ctx (4 + m.target * 2 ^ 40)

/-- R257, R262, R263, R279, R289, R370: the first packet of its source and route that has reached an endpoint of a powered cluster arrives
once the writes that it covers are visible there; a message, a migrated continuation or a future operation that met a route fault becomes
a dead letter (R467), and a migrated continuation is placed, with STATUS 5 where no engine of its cluster runs its context. A message at
an endpoint that takes none is MISROUTED. (Log 44: MISROUTED; log 81: a spilled message's bytes; log 97: the owner of a free slot.) -/
def Sys2Proof.Claims.MessagesArrive : Prop :=
  ∀ (s : State) (i sw port : Nat) (p : Packet), s.packetFirst i = some p → p.place = .endpoint sw port →
    let t : State := { s with packets := dropAt s.packets i }
    (∀ m u, p.body = .msg m → sw < 1024 → port < 16 ∨ port = 20 → (s.cluster sw).gated = false →
      t.released p.src p.ctx p.cover sw false = some u →
      exec (.messageArrival i) s = .next (Claims.arrived u sw (if port = 20 then none else some port) m)) ∧
    (∀ m, p.body = .msg m → sw < 1024 → port < 16 ∨ port = 20 → (s.cluster sw).gated = false →
      t.released p.src p.ctx p.cover sw false = none → exec (.messageArrival i) s = .next s) ∧
    (∀ m, p.body = .msg m → 1024 ≤ sw ∨ (16 ≤ port ∧ port ≠ 20) →
      exec (.messageArrival i) s = .next (t.deadLetter m.sctx m.ctx (2 + m.target * 2 ^ 40))) ∧
    (∀ x y m, p.body = .routeFault x y (.msg m) ∨ p.body = .routeFault x y (.migrated m) →
      exec (.messageArrival i) s = .next (t.deadLetter m.sctx m.ctx (10 + m.target * 2 ^ 40))) ∧
    (∀ x y h op, p.body = .routeFault x y (.future h op) →
      exec (.messageArrival i) s = .next (t.deadLetter p.ctx p.ctx (10 + h % 2 ^ 32 * 2 ^ 32))) ∧
    (∀ m u, p.body = .migrated m → (s.cluster sw).gated = false → t.released p.src p.ctx p.cover sw false = some u →
      exec (.messageArrival i) s = .next (u.placeMigrated sw m)) ∧
    (∀ u m, let all := (List.range 16).map (fun e => 16 * sw + e)
      let here := all.filter (fun g => (u.eng g).ctx == some m.ctx)
      (∀ g, u.leastLoaded here = some g → u.placeMigrated sw m = Claims.arrived u sw none (m.setWord 0 (setField m.hdr 53 50 (g % 16)))) ∧
      (here = [] → ∀ g, u.leastLoaded all = some g →
        u.placeMigrated sw m = Claims.arrived u sw none ((m.withStatus 5).setWord 0 (setField (m.withStatus 5).hdr 53 50 (g % 16)))))

/-- R272, R274, R275, R277, R291, R294, R370: the first operation of its source, route and channel that has reached its agent is
performed: a live future is resolved, decremented, incremented, freed or bound, a LAPSED one gives a dead letter with LATE_RESOLUTION (6),
and a handle that names none one with STALE (8); a bind that finds no room in the call queue lapses the future. An operation for a context
that is gone disappears. (Log 42: a malformed queue; log 43: an increment of a LAPSED one.) -/
def Sys2Proof.Claims.FutureOperationsArrive : Prop :=
  ∀ (s : State) (i h sw port : Nat) (op : FutOp) (p : Packet), s.packetFirst i = some p → p.body = .future h op → p.place = .endpoint sw port →
    (s.cluster (hCluster h)).gated = false →
    let t : State := { s with packets := dropAt s.packets i }
    let ev := Instr.futureOperationArrival i
    ((t.ctx p.ctx).exists = false → exec ev s = .next t) ∧
    ((t.ctx p.ctx).exists = true →
      let binds := ∃ pq r, op = .bind pq r
      let far := ∃ f, t.findFut h p.ctx = some f ∧ f.farWaiter (hCluster h) = true
      ∀ wide, (wide = true ↔ binds ∨ far) →
      (t.released p.src p.ctx p.cover (hCluster h) wide = none → exec ev s = .next s) ∧
      ∀ u, t.released p.src p.ctx p.cover (hCluster h) wide = some u →
        (u.findFut h p.ctx = none → exec ev s = .next (u.deadLetter p.ctx p.ctx (futInfo 8 h))) ∧
        (∀ f, u.findFut h p.ctx = some f →
          (op = .free → exec ev s = .next (u.freeFut h)) ∧
          (f.state = .lapsed → op ≠ .free → exec ev s = .next (u.deadLetter p.ctx p.ctx (futInfo 6 h))) ∧
          (f.state = .live →
            (∀ v, op = .resolve v → exec ev s = .next ((u.coverFut p.src p.ctx p.cover h).resolveFut h (some v))) ∧
            (∀ n flt, op = .dec n flt → exec ev s = .next ((u.coverFut p.src p.ctx p.cover h).decFut h n flt)) ∧
            (∀ pq r, op = .bind pq r →
              let v := u.setFut h { f with pq := some pq }
              (∀ w, v.callAppend p.ctx r = .ok w → exec ev s = .next w) ∧
              (∀ w, v.callAppend p.ctx r = .fails w → exec ev s = .next ((w.lapseFut h 3).deadLetter p.ctx p.ctx (futInfo 7 h))) ∧
              (∀ gr, v.callAppend p.ctx r = .wait gr → exec ev s = .next (s.wantPt gr))) ∧
            (∀ n, op = .inc n → exec ev s = .next (u.setFut h { f with count := signed 32 (wrapTo 32 (f.count + n)) })))))

/-- R276, R294: a waiter whose deadline has passed, in a cycle that is complete, is delivered with TIMEOUT (1), or, where it lapses the
future, the future becomes LAPSED. (Log 46: at which tick.) -/
def Sys2Proof.Claims.WaiterDeadlinesPass : Prop :=
  ∀ (s : State) (c ix i d : Nat) (w : Waiter),
    let f := s.futAt c ix
    let h := c * 2 ^ 22 + ix * 2 ^ 10 + f.gen
    f.waiters[i]? = some w → w.deadline = some d → d ≤ s.hubTime → f.state = .live → s.sameCycle = false →
    (w.lapse = true → exec (.waiterDeadline c ix i) s = .next (s.lapseFut h 1)) ∧
    (w.lapse = false → exec (.waiterDeadline c ix i) s =
      .next ((s.setFut h { f with waiters := dropAt f.waiters i }).deliver c f.ctx w 1 f.value))

/-! ### Copies, memory effects, tenure, reservations, hosts (R201 to R211, R336 to R351, R366, R390, R415, R433) -/

/-- R201, R207, R209, R210, R219, R411: a copy of the current context issues its sectors in walk order, each translated and in flight, those
of a replayed page first; a sector whose translation fails, or that would write a view, is skipped, at the hub time of the skip. At most four copies of an engine
are worked on at once. A sector that needs its context's TC0 bucket waits in the shaper (R470; its flits: log 110). A sector in flight lands once nothing holds it back: its bytes are read, converted, written and counted. A page whose
replay was asked for has its sectors issue again. -/
def Obligations.CopiesMoveTheirSectors : Prop :=
  ∀ (s : State) (g i : Nat) (c : Copy), (s.eng g).copies[i]? = some c →
    (∀ r d, (s.eng g).ctx = some c.ctx → (c.working = true ∨ ((s.eng g).copies.filter (fun x => x.working)).length < 4) →
      (c.replay = [] ∧ c.issuing = true ∧ r = c.sector ∧
          d = { c with working := true, next := c.next + max 1 r.len, sectors := c.sectors + 1 }) ∨
        (∃ rest, c.replay = r :: rest ∧ d = { c with working := true, replay := rest }) →
      let src := if d.global true then d.pieces true r else []
      let dst := if d.global false then d.pieces false r else []
      (∀ k t, s.xlatePieces g d.ctx .r src = (.error k, t) →
        exec (.copySectorIssue g i) s = .next (t.putCopy g i (t.skip d r { k with info := d.sectorAt true r }))) ∧
      (∀ x u t, s.xlatePieces g d.ctx .r src = (.ok (x, u), t) →
        (∀ k v, t.xlatePieces g d.ctx .w dst = (.error k, v) →
          exec (.copySectorIssue g i) s = .next (v.putCopy g i (v.skip d r { k with info := d.sectorAt false r }))) ∧
        (∀ y w v, t.xlatePieces g d.ctx .w dst = (.ok (y, w), v) →
          (∀ z, v.segMarked y = some z → exec (.copySectorIssue g i) s = .next (v.putCopy g i
            (v.skip d r { code := 8, info := d.sectorAt false r, page := v.pageAt d.ctx z.va }))) ∧
          (v.segMarked y = none → v.segBlocks x = [] →
            let sh := v.shape (engineSource g) d.ctx tcBulk (2 + payloadFlits (((x ++ y).map (fun z => z.n)).sum))
            exec (.copySectorIssue g i) s = .next (sh.2.putCopy g i { d with
              flying := d.flying ++ [{ ref := r, src := x, dst := y, uses := u ++ w, since := s.hubTime, ticket := sh.1 }] }))))) ∧
    (∀ (t : State) (d : Copy) (r : SecRef) (k : Skip), t.skip d r k = d.skip r { k with time := t.hubTime }) ∧
    (c.working = false → 4 ≤ ((s.eng g).copies.filter (fun x => x.working)).length → exec (.copySectorIssue g i) s = .next s) ∧
    (∀ (j code : Nat) (data : List Byte) (f f' : Sector), c.flying[j]? = some f →
      (let here := fun (x : Seg) => { x with tgt := s.rePort x.va x.tgt x.port }
       f' = { f with src := f.src.map here, dst := f.dst.map here }) →
      let c' := { c with flying := dropAt c.flying j }
      (s.sectorHeld g c.ctx f' = true ∨ s.unshaped f.ticket = false → exec (.copySectorLand g i j code data) s = .next s) ∧
      (∀ t u, s.sectorHeld g c.ctx f' = false → s.unshaped f.ticket = true → s.badBits = [] → (f'.src ++ f'.dst).any Seg.isRemote = false →
        (f'.src ++ f'.dst).any s.segGone = false →
        (s.modEng g (fun e => { e with copies := modifyAt e.copies i (fun _ => c') })).recallSegs (g / 16) c.ctx false f'.src = .ok t →
        t.recallSegs (g / 16) c.ctx true f'.dst = .ok u → u.segMarked f'.dst = none →
        exec (.copySectorLand g i j code data) s = .next (u.landSector g i c' f' data))) ∧
    (∀ (u : State) (d : Copy) (f : Sector) (data : List Byte), d.global true = true → d.global false = false → d.mcast = false →
      d.bar ≠ 127 → f.data = none → f.src.any Seg.isRemote = false → (u.eng g).ctx = some d.ctx →
      (u.eng g).crossing (d.since.getD (g % 16) (u.eng g).past.length) (fun _ x => x == .word) = [] →
      let r := ({ u with free := u.free + 2 } : State).segBytes g d.ctx [] f.src
      let units := (List.range f.ref.len).map (fun k => d.writes (fun _ => segByte f.src r.1) (f.ref.first + k))
      (r.2.eng g) = u.eng g →
      u.landSector g i d f data = ((r.2.putSpad g (.copy d.slot d.id) [] 0 (units.map unitPut)).barUpdate g d.bar 0
        (-((d.landed f.ref g).1 : Int))).putCopy g i { d with halves := (d.landed f.ref g).2 }) ∧
    (∀ k p, posOf (fun (p : HeldPage) => p.asked && p.held) c.pages = some k → c.pages[k]? = some p → (s.eng g).ctx = some c.ctx →
      c.replay = [] → c.flying = [] → c.issuing = false → exec (.copyPageReplay g i) s =
        .next (s.modEng g (fun e => { e with copies := modifyAt e.copies i (fun d =>
          { d with replay := p.sectors, pages := dropAt d.pages k }) })))

/-- The effect at position `i` is the next to its place, where it then goes, and no switch on its way faults (R366, R386, R467). -/
def Sys2Proof.Claims.flightGoes (s : State) (i : Nat) (f : InFlight) : Prop :=
  s.nextFlight i = some f ∧ s.routeFault f.ctx (f.g / 16) (f.g % 16) f.tgt = none

/-- R49, R346, R348, R366, R390, R425, R467, R477: the next effect to its place is performed there once the recalls of tenures and host
lines are complete and no page-table translation from its granule is in use (the place as it stands then: log 105; a view's bytes: log
103; an effect whose request is in the TC0 shaper is not next): a store writes its bytes (a 4-bit element its half), an atomic its result,
whose old value sets out for its engine where the word asked for one and lands in the scratchpad and on the barrier. A ROUTE fault (15), a
host that is gone (18) or a peer's refusal leaves a record and nothing else. (Log 75: own writes.) -/
def Sys2Proof.Claims.MemoryEffectsReachTheirPlace : Prop :=
  ∀ (s : State) (i code old : Nat) (f : InFlight),
    let store := exec (.globalWritePerform i code) s
    let atomic := exec (.atomicAtHome i code old) s
    let gone := s.dropFlight i
    let refused := gone.effectRecord f (remoteCode (code % 32)) (s.remoteInfo f.ctx f.tgt code f.va) (remoteReason code) (remoteShare code)
    (Claims.flightGoes s i f →
      (∀ bs nib, f.op = .write bs nib →
        (∀ a key, f.tgt = .dpa a key → s.hostGone a = true → store = .next (gone.effectRecord f 18 f.va)) ∧
        (∀ a key, f.tgt = .dpa a key → s.hostGone a = false →
          (∀ t, gone.allowWrite (f.g / 16) f.ctx a f.op.size false true (some f) = some t →
            store = .next (t.writeAt { ctx := f.ctx, party := some (f.g / 16, f.ctx) } a key (t.mergeNib a bs nib))) ∧
          (gone.allowWrite (f.g / 16) f.ctx a f.op.size false true (some f) = none → store = .next (s.wantPt (a / 128)))) ∧
        (∀ d o, f.tgt = .remote d o → store = .next (if remoteCode (code % 32) = 0 then gone else refused))) ∧
      (∀ op fmt x cmp clu ret, f.op = .atomic op fmt x cmp clu ret →
        let n := fmtWidth fmt / 8
        let answer := fun (w : State) (v : Nat) => match ret with
          | some (ad, bar) => { w with returns := w.returns ++ [{ g := f.g, ctx := f.ctx, addr := ad, bar := bar, v := v, w := n }] }
          | none => w
        (∀ a key, f.tgt = .dpa a key → s.hostGone a = true → atomic = .next (gone.effectRecord f 18 f.va)) ∧
        (∀ a key, f.tgt = .dpa a key → s.hostGone a = false →
          (∀ t, gone.findsBad a n 1 f.ctx = some t → atomic = .next t) ∧
          (∀ t, gone.findsBad a n 1 f.ctx = none → gone.allowWrite (f.g / 16) f.ctx a n (!clu) clu (some f) = some t →
            let u := if clu then t.obtain (f.g / 16) f.ctx (a / 128) else t
            (∀ v, u.readFresh (engineSeer f.g f.ctx) a n key = .error v → atomic = .next { v with inflight := s.inflight }) ∧
            (∀ r, u.readFresh (engineSeer f.g f.ctx) a n key = .ok r →
              atomic = .next (answer (r.2.writeAt { ctx := f.ctx, party := if clu then some (f.g / 16, f.ctx) else none } a key
                (toLE n (atomNew op (fmtWidth fmt) (ofLE r.1) x cmp))) (ofLE r.1)))) ∧
          (gone.findsBad a n 1 f.ctx = none → gone.allowWrite (f.g / 16) f.ctx a n (!clu) clu (some f) = none →
            atomic = .next (s.wantPt (a / 128)))) ∧
        (∀ d o, f.tgt = .remote d o →
          atomic = .next (if remoteCode (code % 32) = 0 then answer gone (old % 2 ^ fmtWidth fmt) else refused)))) ∧
    (∀ info, s.nextFlight i = some f → s.routeFault f.ctx (f.g / 16) (f.g % 16) f.tgt = some info →
      (∀ bs nib, f.op = .write bs nib → store = .next ((gone.hopFault info).effectRecord f 15 info)) ∧
      (∀ op fmt x cmp clu ret, f.op = .atomic op fmt x cmp clu ret → atomic = .next ((gone.hopFault info).effectRecord f 15 info))) ∧
    (∀ r, s.returns[i]? = some r →
      let t : State := { s with returns := dropAt s.returns i }
      ((s.eng r.g).ctx = some r.ctx → exec (.atomgReturnLand i) s =
        .next ((t.putSpad r.g .landing [] 0 [putOf r.addr (toLE r.w r.v)]).barUpdate r.g r.bar 0 (-(r.w : Int)))) ∧
      ((s.eng r.g).ctx ≠ some r.ctx → exec (.atomgReturnLand i) s = .next t))

/-- R341, R393: the request `r` is at home `h` with the addresses `vas` of its tile that it asks for, translated to the granules `gs` in the
state `u`; the homes in `rest` come later. -/
def Sys2Proof.Claims.asks (s u : State) (r : TReq) (h : Nat) (vas gs : List Nat) (rest : List (Nat × List Nat)) : Prop :=
  let cl := r.g / 16
  (r.homes = [] ∧ s.tenureOf cl r.ctx r.tile = none ∧ s.slice cl < 512 ∧ rest = [] ∧
    (∃ t, s.tile r.ctx r.tile = some t ∧ vas = tdGrans t.desc) ∧ (∃ v l, partsOf (vas.zip gs) = (h, v) :: l) ∧
    s.tileDpas cl r.ctx (if r.write then .w else .r) vas = (.ok gs, u)) ∨
  (r.homes = (h, vas) :: rest ∧ s.tileDpas cl r.ctx (if r.write then .w else .r) vas = (.ok gs, u))

/-- R336 to R342, R370, R393: the life of a tile acquisition. The request of a party that already holds the tile enough is answered at
once with STATUS 0, or with 9 where the count is full; of one that holds it for reading alone the tenure is released first. One for a
handle that names no tile ends with 7, one beyond 512 records of the slice with 10; else the parts are translated and asked for home by
home. A part that nothing conflicts with is granted; the last one writes the tenure record and delivers the continuation with STATUS 0.
The deadline ends the request with STATUS 1; a draining tenure ends, and the party's copies of its granules with it, when its writes, and
what its release covers, have reached their homes (log 106: what a recall's drain covers). (Log 77: a kept tenure gives way; log 84: a
request's route; log 92: a page move meanwhile.) -/
def Sys2Proof.Claims.TenureIsGrantedAndEnds : Prop :=
  ∀ (s : State) (i : Nat),
    (∀ r, s.requests[i]? = some r →
      let cl := r.g / 16
      let need : Need := if r.write then .w else .r
      let mine := fun (t : Tenure) => t.cl == cl && t.ctx == r.ctx && t.tile == r.tile && !t.implicit
      (r.arrived = false → r.homes = [] → ∀ t, s.tenureOf cl r.ctx r.tile = some t →
        (t.drain = true → exec (.tenureRequest i) s = .next s) ∧
        (t.drain = false → t.st.isWrite = true ∨ r.write = false →
          (t.hold < 65535 → exec (.tenureRequest i) s = .next (({ s with
            tenures := replaceTenure mine (fun t => some { t with hold := t.hold + 1 }) s.tenures } : State).finishRequest i r 0)) ∧
          (65535 ≤ t.hold → exec (.tenureRequest i) s = .next (s.finishRequest i r 9))) ∧
        (t.drain = false → t.st.isWrite = false → r.write = true →
          let u := if (t.released false).isNone then s.dropCopies cl t.spans else s
          exec (.tenureRequest i) s = .next { u with tenures := replaceTenure mine (fun t => t.released false) u.tenures })) ∧
      (r.arrived = false → r.homes = [] → s.tenureOf cl r.ctx r.tile = none →
        (512 ≤ s.slice cl → s.requests.any (fun q => q.g / 16 == cl && q.ctx == r.ctx && q.tile == r.tile && !q.homes.isEmpty) = false →
          exec (.tenureRequest i) s = .next (s.finishRequest i r 10)) ∧
        (s.slice cl < 512 →
          (s.tile r.ctx r.tile = none → exec (.tenureRequest i) s = .next (s.finishRequest i r 7)) ∧
          (∀ t x u, s.tile r.ctx r.tile = some t → s.tileDpas cl r.ctx need (tdGrans t.desc) = (.error x, u) →
            exec (.tenureRequest i) s = .next (u.failRequest i r x)))) ∧
      (r.arrived = false → ∀ h vas rest x u, r.homes = (h, vas) :: rest → s.tileDpas cl r.ctx need vas = (.error x, u) →
        exec (.tenureRequest i) s = .next (u.failRequest i r x)) ∧
      (r.arrived = false → ∀ h vas gs rest u, Claims.asks s u r h vas gs rest →
        let here := (vas.zip gs).filter (fun x => granHome x.2 == h)
        let later := joinHomes rest (partsOf ((vas.zip gs).filter (fun x => granHome x.2 != h)))
        (here = [] → exec (.tenureRequest i) s = .next { u with requests := modifyAt u.requests i (fun _ => { r with homes := later }) }) ∧
        (∀ x l, here = x :: l →
          (u.homeFault cl 20 (128 * x.2) = none → exec (.tenureRequest i) s = .next { u with requests := dropAt u.requests i ++
            [{ r with homes := (h, here.map (fun x => x.1)) :: later, part := spansOf (here.map (fun x => x.2)), arrived := true }] }) ∧
          (∀ y, u.homeFault cl 20 (128 * x.2) = some y → exec (.tenureRequest i) s =
            .next ((u.hopFault y).failRequest i r { code := 15, page := x.1 / 65536 * 65536 })))) ∧
      (∀ h v rest, r.homes = (h, v) :: rest →
        (s.grantable i r h = false → exec (.tenureGrant i) s = .next s) ∧
        (s.grantable i r h = true →
          let t := s.giveWay cl r.ctx r.write r.part
          let r' := { r with got := r.got ++ r.part, homes := rest, arrived := false, part := [] }
          (rest = [] → exec (.tenureGrant i) s = .next (t.hold i r')) ∧
          (rest ≠ [] → exec (.tenureGrant i) s = .next { t with requests := modifyAt t.requests i (fun _ => r') })) ∧
        (rest = [] → r.arrived = true → s.tenures = [] → s.drains = [] → (∀ q ∈ s.requests, q = r) → s.tileRecords h < 4096 → s.hostIn r.write r.part = false →
          let t : Tenure := {
            cl := cl, ctx := r.ctx, tile := r.tile, st := if r.write then .e else .s, spans := r.got ++ r.part, split := r.split }
          exec (.tenureGrant i) s = .next (({ s with tenures := [t] } : State).finishRequest i r 0))) ∧
      (∀ d, r.deadline = some d → d ≤ s.hubTime → s.sameCycle = false → exec (.tenureDeadline i) s = .next (s.finishRequest i r 1))) ∧
    (∀ t, s.tenures[i]? = some t → t.drain = true →
      (s.covering t = true → exec (.tenureDrain i) s = .next s) ∧
      (s.covering t = false →
        let u := (s.advance t.dirty).dropCopies t.cl t.spans
        exec (.tenureDrain i) s = .next (({ u with tenures := dropAt u.tenures i } : State).homeward { cl := t.cl, ctx := t.ctx })))

/-- R349 to R351, R367, R370: a request for a free word that can be read is granted with the word's value and a new ticket, one for a held
word waits behind its holder, and one beyond 1,024 records ends with STATUS 11. An SCH with the holder's ticket, when what it covers is
complete, writes the word and passes it; one with any other ticket is a dead letter (11). A hold limit that has passed passes the word
with STATUS 8. A word passes to the waiter next in order, with its value, when it can be read, and is free when there is none. A request
whose route to the home faults ends its activation's join with a ROUTE record. (Log 11: the first ticket; log 84: the route; log 90: page
tables in use.) -/
def Sys2Proof.Claims.ReservationsAreGrantedAndPassed : Prop :=
  ∀ (s : State) (i : Nat),
    (∀ q, s.resvReqs[i]? = some q →
      let t : State := { s with resvReqs := dropAt s.resvReqs i }
      (∀ info, s.homeFault (q.user.g / 16) (q.user.g % 16) q.dpa = some info → exec (.reservationRequest i) s =
        .next (((t.hopFault info).append q.user.ctx { code := 15, src := 0, who := q.who, wher := q.pc, info := info, addr := q.va }).joinFault
          (engineSource q.user.g) q.user.ctx q.user.msg.join)) ∧
      (s.homeFault (q.user.g / 16) (q.user.g % 16) q.dpa = none →
        (1024 ≤ s.resvUsed (homeIx q.dpa) → exec (.reservationRequest i) s =
          .next (t.enqueue q.user.g { q.user.msg.withStatus 11 with vals := [(q.user.reg, 0), (q.user.reg + 1, 0)] })) ∧
        (s.resvUsed (homeIx q.dpa) < 1024 →
          (∀ k, posOf (fun (r : Resv) => r.dpa == q.dpa) s.resvs = some k → exec (.reservationRequest i) s =
            .next { t with resvs := modifyAt s.resvs k (fun r => { r with waiters := r.waiters ++ [q.user] }) }) ∧
          (posOf (fun (r : Resv) => r.dpa == q.dpa) s.resvs = none →
            (∀ u, s.readable q.dpa q.key q.user = .error u → exec (.reservationRequest i) s = .next u) ∧
            (∀ bs u, s.readable q.dpa q.key q.user = .ok (bs, u) → exec (.reservationRequest i) s =
              .next (({ u with resvReqs := dropAt u.resvReqs i } : State).grantWord q.dpa q.key bs q.user 0 [] q.uses)))))) ∧
    (∀ (a key st : Nat) (bs : List Byte) (u : ResvUser) (ws : List ResvUser) (us : List Nat),
      let tk := nextTicket (s.tickets.get 0 (homeIx a))
      s.grantWord a key bs u st ws us =
        { s.enqueue u.g { u.msg.withStatus st with vals := [(u.reg, toRegister u.fmt (ofLE bs)), (u.reg + 1, tk)] } with
          tickets := s.tickets.set (homeIx a) tk
          resvs := s.resvs ++ [{ dpa := a, key := key, holder := u, ticket := tk, waiters := ws, uses := us,
                                   deadline := if u.limit = 0 then none else some (s.hubTime + u.limit) }] }) ∧
    (∀ (st : Nat) (r : Resv), s.resvs[i]? = some r →
      (r.waiters = [] → s.passWord i st = { s with resvs := dropAt s.resvs i }) ∧
      (∀ u ws, r.waiters = u :: ws →
        (∀ bs t, s.readable r.dpa r.key u = .ok (bs, t) →
          s.passWord i st = ({ t with resvs := dropAt t.resvs i } : State).grantWord r.dpa r.key bs u st ws r.uses) ∧
        (∀ t, s.readable r.dpa r.key u = .error t →
          s.passWord i st = { t with resvs := modifyAt t.resvs i (fun r => { r with passing := some st, deadline := none }) }))) ∧
    (∀ f fmt v ticket rel a key, s.nextFlight i = some f → f.op = .sch fmt v ticket rel → f.tgt = .dpa a key →
      let early := (s.inflight.take i).any (fun x => x.seen (engineSeer f.g f.ctx) && !x.tgt.isRemote)
      let holds := posOf (fun (r : Resv) => r.dpa == a && r.ticket == ticket && r.passing.isNone) s.resvs
      (early = true → exec (.reservationPass i) s = .next s) ∧
      (early = false → ∀ info, s.routeFault f.ctx (f.g / 16) (f.g % 16) f.tgt = some info →
        exec (.reservationPass i) s = .next (((s.dropFlight i).hopFault info).effectRecord f 15 info)) ∧
      (early = false → s.routeFault f.ctx (f.g / 16) (f.g % 16) f.tgt = none →
        (holds = none → exec (.reservationPass i) s = .next ((s.dropFlight i).deadLetter f.ctx f.ctx (11 + ticket % 2 ^ 32 * 2 ^ 32))) ∧
        (∀ k, holds = some k →
          let home := (s.dropFlight i).homeward (engineSeer f.g f.ctx)
          (rel = true → exec (.reservationPass i) s = .next (home.passWord k 0)) ∧
          (rel = false →
            (home.allowWrite (f.g / 16) f.ctx a (fmtWidth fmt / 8) false false (some f) = none →
              exec (.reservationPass i) s = .next (s.wantPt (a / 128))) ∧
            (∀ t, home.allowWrite (f.g / 16) f.ctx a (fmtWidth fmt / 8) false false (some f) = some t →
              exec (.reservationPass i) s = .next ((t.writeAt { ctx := f.ctx, party := some (f.g / 16, f.ctx) } a key
                (toLE (fmtWidth fmt / 8) v)).passWord k 0)))))) ∧
    (∀ r, s.resvs[i]? = some r →
      (∀ st, r.passing = some st → exec (.reservationHoldExpiry i) s = .next (s.passWord i st)) ∧
      (∀ d, r.passing = none → r.deadline = some d →
        exec (.reservationHoldExpiry i) s = .next (if d ≤ s.hubTime then s.passWord i 8 else s)))

/-- R345, R390, R433: a host whose ports are open takes a line shared when no other host holds it exclusive, or exclusive when no other
holds the granule, after the recall; gives its data back; drops a line; or writes through. A granule that its bridge then holds no line of
exclusive any longer is drained. A snoop of its own memory recalls it. A host write to a granule of a page table in use waits, and has its
users recalled: the segments that hold a translation from it are discarded, but for one that has raised a fault, which comes first (R51).
A line with bad check bits is poisoned data (R456). (Log 91: the bridge's buffer; log 107: when a host gives a line back.) -/
def Sys2Proof.Claims.HostLinesAndTableWrites : Prop :=
  ∀ (s : State) (p a i : Nat) (data : List Byte),
    let line := a / 64 * 64
    let gr := line / 128
    let bs := (data ++ List.replicate 64 0).take 64
    let mine := fun (l : Nat × Nat × Bool) => l.1 == p && l.2.1 == line
    let rest := s.hostLines.filter (fun l => !mine l)
    (s.hostOpen p = true → line / 2 ^ 46 ≠ 2 + p → inDram line 64 = true →
      ((∃ l ∈ s.hostLines, l.1 ≠ p ∧ l.2.1 = line ∧ l.2.2 = true) → exec (.hostLineRequest p a 0 data) s = .next s) ∧
      (∀ t, s.recall (1024 + p) 256 line 64 false false = some t →
        exec (.hostLineRequest p a 0 data) s =
          .next ((({ t with hostLines := rest ++ [(p, line, false)] } : State).drainBridge p gr).hostReads p line)) ∧
      ((∃ l ∈ s.hostLines, l.1 ≠ p ∧ l.2.1 / 128 = gr) → exec (.hostLineRequest p a 1 data) s = .next (s.wantPt gr)) ∧
      (∀ t, s.allowWrite (1024 + p) 256 line 64 false = some t → exec (.hostLineRequest p a 1 data) s =
        .next (({ t with hostLines := rest ++ [(p, line, true)] } : State).hostReads p line)) ∧
      (∀ t : State, t.badBits = [] → t.hostReads p line = t) ∧
      ((p, line, true) ∈ s.hostLines →
        (s.ptBusy gr = true → exec (.hostLineRequest p a 2 data) s = .next (s.wantPt gr)) ∧
        (s.ptBusy gr = false → exec (.hostLineRequest p a 2 data) s =
          .next (({ s.writeAt { ctx := 0, rec? := false } line (s.granKey.get 0 gr) bs with hostLines := rest } : State).drainBridge p gr))) ∧
      exec (.hostLineRequest p a 3 data) s = .next (({ s with hostLines := rest } : State).drainBridge p gr) ∧
      (s.allowWrite (1024 + p) 256 line 64 false = none → exec (.hostLineRequest p a 4 data) s = .next (s.wantPt gr)) ∧
      (∀ t, s.allowWrite (1024 + p) 256 line 64 false = some t → exec (.hostLineRequest p a 4 data) s =
        .next (t.writeAt { ctx := 0, rec? := false } line (t.granKey.get 0 gr) bs))) ∧
    (s.hostOpen p = true → line / 2 ^ 46 = 2 + p →
      exec (.hostLineRequest p a 4 data) s = .next (s.wrBytes line bs) ∧
      ∀ t, s.recall (1024 + p) 256 line 64 true false = some t → exec (.hostSnoop p a) s = .next t) ∧
    (∀ w, s.ptBusy w = true → s.wantPt w = { s with ptWrites := if s.ptWrites.contains w then s.ptWrites else s.ptWrites ++ [w] }) ∧
    (∀ w, s.ptWrites[i]? = some w → exec (.pageTableWrite i) s =
      .next ((s.holders w).foldl (fun t k => t.preempt k.1 k.2) { s with ptWrites := dropAt s.ptWrites i }))

/-! ### Contexts and views through their events (R397, R412, R413) -/

/-- A write of the lease holder's host whose port is open (R421). -/
def Sys2Proof.Claims.fromHolder (s : State) (p : Nat) : Prop := s.hostOpen p = true ∧ s.hub.holder = p

/-- R22, R46, R397: CREATE on a FREE context makes it LIVE from a good record, with result 0, and gives result 3 for a bad one; on any
other context the result is 2. TEARDOWN of a LIVE context begins, with result 1 (busy), and its completion, once everything of the context
has ended, makes it FREE with result 0. A command while one is in progress is ignored; one of a host that does not hold the lease sets bit
1 of HUB_ERR. The first creation locks the accepted features, as they stood before a write of the same cycle, which sets bit 0 of HUB_ERR;
the record is checked with them too. Entries of the tile table that a former context of the number used keep their GEN (R334; where the
table keeps it: log 81). (Log 51: creation in one step; log 78: the vector of a refused command.) -/
def Sys2Proof.Claims.ContextCommandsAct : Prop :=
  ∀ (s : State) (p c rcd : Nat), c < 256 →
    (s.hostOpen p = true → s.hub.holder ≠ p → exec (.ctxCreate p c rcd) s = .next (s.hubErr 1) ∧
      exec (.ctxTeardown p c) s = .next (s.hubErr 1)) ∧
    (Claims.fromHolder s p → s.hub.ctxStat / 2 ^ 8 % 8 = 1 → exec (.ctxCreate p c rcd) s = .next s ∧ exec (.ctxTeardown p c) s = .next s) ∧
    (Claims.fromHolder s p → s.hub.ctxStat / 2 ^ 8 % 8 ≠ 1 →
      ((s.ctx c).state ≠ .free → exec (.ctxCreate p c rcd) s = .next ((s.modHub (fun h => { h with ctxStat := c + 512 })).cmdIrq c)) ∧
      ((s.ctx c).state = .free → s.unwriteFeatures.recordOk (rcd % 2 ^ 48) = false →
        exec (.ctxCreate p c rcd) s = .next ((s.modHub (fun h => { h with ctxStat := c + 768 })).cmdIrq c)) ∧
      ((s.ctx c).state = .free → s.unwriteFeatures.recordOk (rcd % 2 ^ 48) = true → ∃ t, exec (.ctxCreate p c rcd) s = .next t ∧
        (t.ctx c).state = .live ∧ (t.ctx c).rcd = bytesAt s.mem (rcd % 2 ^ 48) 256 ∧ t.hub.ctxStat = c ∧ t.hub.locked = true ∧
        (s.hub.locked = false → t.hub.featAcc = s.hub.featWas.getD s.hub.featAcc) ∧
        (s.hub.locked = false → s.hub.featWas ≠ none → bitOf t.hub.err 0 = true) ∧
        (∀ a, (∀ e ∈ (s.ctx c).tiles, a < (s.recordAt (rcd % 2 ^ 48)).tileSlot e.1 ∨
          (s.recordAt (rcd % 2 ^ 48)).tileSlot e.1 + 64 ≤ a) → bytesAt t.mem a 1 = bytesAt s.mem a 1) ∧
        t.engines = s.engines ∧ ∀ d, d ≠ c → t.ctx d = s.ctx d) ∧
      ((s.ctx c).state ≠ .live → exec (.ctxTeardown p c) s = .next ((s.modHub (fun h => { h with ctxStat := c + 512 })).cmdIrq c)) ∧
      ((s.ctx c).state = .live → exec (.ctxTeardown p c) s =
        .next ((s.teardown c).modHub (fun h => { h with ctxStat := c + 256 })))) ∧
    ((s.ctx c).state = .dying → s.ended c = true → ∃ t, exec (.ctxTeardownComplete c) s = .next t ∧ (t.ctx c).state = .free ∧
      (t.ctx c).tiles = (s.ctx c).tiles ∧ (s.hub.ctxStat = c + 256 → t.hub.ctxStat = c))

/-- R412, R413: a block whose recomputation is wanted, and that no pin holds, is recomputed once; one whose version is written switches to
it and is no longer FAULTED, with CAUSE as it was, and a recomputation is wanted again where the master has changed since it began. A recomputation works out every row into the buffer
that is not current, or makes the block FAULTED with a record (17). A SHARD block has one buffer (R418). -/
def Sys2Proof.Claims.ViewBlocksAreRecomputed : Prop :=
  ∀ (s : State) (i b : Nat) (v : View), s.views[i]? = some v → (s.ctx v.ctx).exists = true →
    ((v.block b).pending = true → (v.block b).running = none → s.pinBlocks v b = false →
      exec (.viewRecompute i b) s = .next (s.recompute i b)) ∧
    ((v.block b).pending = true → (v.block b).running = none → s.pinBlocks v b = true → exec (.viewRecompute i b) s = .next s) ∧
    (v.kind ≠ 3 →
      let g := (v.block b).gen
      let t := (s.modBlock i b (fun x => { x with ret := none, pending := false })).computeRows v b (v.block b).other 32 0
      (∀ u, t = (.ok (), u) → s.recompute i b = u.modBlock i b (fun y => { y with running := some g })) ∧
      (∀ x o u, t = (.error (x, o), u) → s.recompute i b =
        (u.setBlock i b (fun y => { y with faulted := true, cause := x.code, running := none })).append v.ctx
          { code := 17, src := 4, info := viewInfo v.num b 4 x.code, addr := o, reason := x.reason, share := x.share })) ∧
    (∀ g, (v.block b).running = some g → exec (.viewPublish i b) s = .next (s.setBlock i b (fun x => match x.running with
      | none => x
      | some g => { x with
        cur := if v.kind = 3 then 0 else if x.noVersion then x.cur else 1 - x.cur, tag := g,
        ret := if v.kind = 3 || x.noVersion then none else some x.tag,
        noVersion := false, faulted := false, running := none, pending := x.pending || !reached g x.gen })))

/-! ### The hub: the lease, features, launch queues, interrupts, registers (R421 to R433, R442) -/

/-- R23, R423 to R426: a claim of a free lease makes the port the holder, with a new epoch, the held contexts live again and REMAIN at
PERIOD; the holder renews; the other port arms itself, where DUAL_HOST is accepted. A claim of port 1 in a cycle in progress waits for its
end, so that one of port 0 comes first. At REMAIN 0 an armed standby whose link is up takes over where DUAL_HOST is accepted; else every
live context is held and no one holds the lease, and connections that the former holder opened are reset (which: log 56); after GRACE the
held contexts are torn down. Accesses of window 1 that have reached the former holder's bridge stay with it (which have: log 57; ARM
without DUAL_HOST: log 73). A restart of the holder's host expires the lease at once, and one of the other host disarms it. -/
def Sys2Proof.Claims.TheLeaseChangesHands : Prop :=
  ∀ (s : State) (p v : Nat),
    let lease := fun (h : Hub) => ({ h with
      period := if v / 2 ^ 32 % 2 ^ 16 = 0 then h.period else v / 2 ^ 32 % 2 ^ 16,
      remain := if v / 2 ^ 32 % 2 ^ 16 = 0 then h.period else v / 2 ^ 32 % 2 ^ 16 } : Hub)
    let armed := fun (h : Hub) => if bitOf h.featAcc 11 then h.setArm p (bitOf v (2 + p)) else h
    let standby : Prop := s.feat 11 = true ∧ s.hub.arm (1 - s.hub.holder) = true ∧ s.linkUp (1 - s.hub.holder) = true
    (s.hostOpen p = true →
      (s.hub.holder = 2 → p = 0 ∨ s.sameCycle = false →
        exec (.leaseClaim p v) s = .next (((s.moveCtxs .held .live).modHub (fun h => { armed (lease h) with
          holder := p, epoch := (h.epoch + 1) % 256, orphan := none })).sysIrq)) ∧
      (s.hub.holder = 2 → p = 1 → s.sameCycle = true →
        exec (.leaseClaim p v) s = .next (s.modHub (fun h => { h with lateClaim := some v }))) ∧
      (s.hub.holder = p → exec (.leaseRenew p v) s = .next (s.modHub (fun h => armed (lease h)))) ∧
      (s.hub.holder ≠ 2 → s.hub.holder ≠ p → exec (.leaseArm p v) s = .next (s.modHub armed))) ∧
    (s.hub.holder < 2 → s.hub.remain = 0 →
      (standby → exec .leaseExpiry s = .next (s.atBridge.modHub (fun h => { h.setArm (1 - s.hub.holder) false with
        holder := 1 - s.hub.holder, remain := h.period, epoch := (h.epoch + 1) % 256 })).sysIrq) ∧
      (¬ standby → exec .leaseExpiry s =
        .next (s.atBridge.holdAll.resetConnections.modHub (fun h =>
          { h with holder := 2, remain := 0, orphan := some s.hubTime })).sysIrq)) ∧
    (∀ (i : Nat) (f : InFlight), s.inflight[i]? = some f → ∃ o, s.atBridge.inflight[i]? = some { f with port := o } ∧
      (o = f.port ∨ (f.port = none ∧ f.va / 2 ^ 48 = 1 ∧ o = some s.hub.holder))) ∧
    (∀ (i : Nat) (j : Inject), s.injects[i]? = some j → s.resetConnections.injects[i]? = some j ∨
      (j.conn ≠ none ∧ s.resetConnections.injects[i]? = some { j with reset := true })) ∧
    (s.hub.holder < 2 → s.hub.remain ≠ 0 → exec .leaseExpiry s = .next s) ∧
    (p < 2 → ∃ t, (t = ({ s with free := s.free + 1 } : State) ∨ t = ({ s with free := s.free + 1 } : State).setLink p false) ∧
      let u := t.dropLines p
      (s.hub.holder ≠ p → exec (.hostWarmRestart p) s = .next (u.modHub (fun h => h.setArm p false))) ∧
      (s.hub.holder = p → exec (.hostWarmRestart p) s = .next u.expire)) ∧
    (p < 2 → exec (.hostLinkUp p) s = .next (s.setLink p true)) ∧
    (∀ n, s.hub.holder = 2 → s.hub.orphan = some n → n + s.hub.grace * 1000 < s.hubTime →
      exec .graceExpiry s = .next ((s.heldCtxs.foldl State.teardown s).modHub (fun h => { h with orphan := none })))

/-- R22, R421, R427, R429 to R432, R442: what the holder's writes do. Word 0 of the accepted features takes the advertised bits and BASE
while it is not locked; a launch queue is enabled with a ring that is well placed, or its error bit set; a tail beyond the ring disables
it; the hub injects the entry at HEAD of an enabled queue into a live context, or counts it; a pending interrupt goes to the holder once
the writes before it into that host's memory are accepted; HUB_ERR bits clear by writing 1, and a write that is not 8 aligned bytes sets
bit 4. (Log 53: the writes an interrupt waits for; log 58: other writes of the window; log 59: a refused configuration.) -/
def Sys2Proof.Claims.HubWritesAct : Prop :=
  ∀ (s : State) (p i q ofs n v : Nat),
    (Claims.fromHolder s p →
      (i = 0 → s.hub.locked = false → exec (.featureAcceptWrite p i v) s =
        .next (s.modHub (fun h => { h with
          featAcc := (v &&& 0x3FFFF) ||| 1, featWas := if s.sameCycle then some (h.featWas.getD h.featAcc) else none }))) ∧
      (i < 4 → s.hub.locked = true → exec (.featureAcceptWrite p i v) s = .next (s.hubErr 0)) ∧
      (q < 64 →
        let l := s.lq q
        let w : LaunchQ := { l with cfg := v / 2 ^ 8 % 2 ^ 53 * 2 ^ 8 }
        (l.cfg % 2 = 0 → v % 2 = 1 → w.formed = true → exec (.launchQueueEnable p q v) s =
          .next (s.setLq q { w with cfg := w.cfg + 1, head := l.tail, stat := 0 })) ∧
        (l.cfg % 2 = 0 → v % 2 = 1 → w.formed = false → exec (.launchQueueEnable p q v) s = .next ((s.setLq q w).hubErr 5)) ∧
        (l.cfg % 2 = 0 → exec (.launchQueueTailWrite p q v) s = .next (s.setLq q { l with tail := v % 2 ^ 32 })) ∧
        (l.cfg % 2 = 1 → (v % 2 ^ 32 + 2 ^ 32 - l.head) % 2 ^ 32 ≤ 2 ^ l.log →
          exec (.launchQueueTailWrite p q v) s = .next (s.setLq q { l with tail := v % 2 ^ 32 })) ∧
        (l.cfg % 2 = 1 → 2 ^ l.log < (v % 2 ^ 32 + 2 ^ 32 - l.head) % 2 ^ 32 → exec (.launchQueueTailWrite p q v) s =
          .next ((s.setLq q { l with tail := v % 2 ^ 32, cfg := setField l.cfg 0 0 0 }).hubErr 2)))) ∧
    (q < 64 → s.hub.holder < 2 → (s.lq q).cfg % 2 = 1 → (s.lq q).head ≠ (s.lq q).tail → ∀ t,
      let l := s.lq q
      let a := l.ring + 256 * (l.head % 2 ^ l.log)
      (s.recall hubParty 256 a 128 false false).bind (fun t => t.recall hubParty 256 (a + 128) 128 false false) = some t →
      let m := (launchEntry l.ctx (bytesAt t.mem a 256)).1
      let u := t.setLq q { l with head := (l.head + 1) % 2 ^ 32 }
      ((t.ctx l.ctx).state = .live → m.kind ≠ 1 → exec (.launchInject q) s =
        .next (u.inject .hub l.ctx (launchEntry l.ctx (bytesAt t.mem a 256)).2 0 tcMsg 4 m.target (.msg m))) ∧
      ((t.ctx l.ctx).state ≠ .live → exec (.launchInject q) s =
        .next (u.setLq q { u.lq q with stat := min (l.stat + 1) (2 ^ 32 - 1) })) ∧
      ((t.ctx l.ctx).state = .live → m.kind = 1 → exec (.launchInject q) s = .next (u.deadLetter l.ctx l.ctx (3 + m.target * 2 ^ 40)))) ∧
    (∀ vec cover, s.hub.pendIrq[i]? = some (vec, cover) → s.hub.holder < 2 → s.linkUp s.hub.holder = true →
      (∀ f ∈ s.inflight, f.id < cover → ∀ a key, s.rePort f.va f.tgt f.port = .dpa a key → a / 2 ^ 46 ≠ 2 + s.hub.holder) →
      exec (.msixSend i) s = .next (s.modHub (fun h => { h with
        pendIrq := dropAt h.pendIrq i, sentIrq := h.sentIrq ++ [(s.hub.holder, vec)] }))) ∧
    (s.hostOpen p = true →
      (n ≠ 8 ∨ ofs % 8 ≠ 0 → exec (.registerWrite p ofs n v) s = .next (s.hubErr 4)) ∧
      (exec (.registerWrite p 0x18 8 v) s = .next (s.modHub (fun h => { h with err := h.err &&& (2 ^ 6 - 1 - v % 2 ^ 6) }))) ∧
      (s.hub.holder = p → exec (.registerWrite p 0x10 8 v) s = .next (s.modHub (fun h => { h with grace := v % 2 ^ 32 })) ∧
        (s.anyCtx = false → exec (.registerWrite p 0x208 8 v) s =
          .next ((s.modHub (fun h => { h with devid := v % 2 ^ 16 })).showDevid 0x208)) ∧
        (q < 256 → exec (.registerWrite p (0x800 + 8 * q) 8 v) s =
          .next (s.modHub (fun h => { h with irqCtx := h.irqCtx.set q (v % 2 ^ 24) })))) ∧
      (s.hub.holder ≠ p → exec (.registerWrite p 0x10 8 v) s = .next (s.hubErr 1)))

/-- The reply of the endpoint to a remote resolution (R437). -/
def Sys2Proof.Claims.replied (s : State) (hd st : Nat) : State := s.modHub (fun h => { h with replies := h.replies ++ [(hd, st)] })

/-- R435 to R440: a message of the endpoint is injected with SRC 3. A remote resolution with the context's key resolves a live future and
replies 0; one for a context that does not exist replies CONTEXT (11), and one without the key BAD_OPERAND (9); one that follows an
unfinished one of its connection waits for it (which connection: log 56; the way of an endpoint's future operation: log 31). An enabled
stream takes a datagram for its port into slot TAIL, or counts it, and pauses its ports at HIGH; the pause ends at LOW and is repeated
every 20 µs until then. (Log 59: streams.) -/
def Sys2Proof.Claims.TheEndpointActs : Prop :=
  ∀ (s : State) (msg route payload : List Byte) (p i v port dst : Nat),
    (msg.length = 128 → route.length = 16 →
      let m := ({ words := Claims.wordsOf 16 msg } : Msg).withSrc 3
      ∃ c, exec (.endpointMessageInject msg route) s =
        .next (({ s with free := s.free + 1 } : State).inject (.endpoint c) m.ctx (ofLE route) 0 tcMsg 4 m.target (.msg m))) ∧
    (payload.length = 32 → (∀ j ∈ s.injects, j.conn ≠ some s.draw.1) →
      let w := s.draw.2
      let field := fun (o n : Nat) => ofLE ((payload.drop o).take n)
      let hd := field 0 4
      let ctx := field 5 1
      (field 4 1 = 0 → s.rkey ctx ≠ 0 → field 8 8 = s.rkey ctx → (s.ctx ctx).exists = true → hGen hd ≠ 0 → (s.cluster (hCluster hd)).gated = false →
        s.futRoute (.endpoint s.draw.1) (hCluster hd) = none →
        ∀ x, s.findFut hd ctx = some x → x.state = .live →
        exec (.remoteResolution payload) s = .next (Claims.replied (w.resolveFut hd (some (field 16 8))) hd 0)) ∧
      (field 4 1 = 0 → s.rkey ctx ≠ 0 → field 8 8 = s.rkey ctx → (s.ctx ctx).exists = false →
        exec (.remoteResolution payload) s = .next (Claims.replied w hd 11)) ∧
      (field 8 8 ≠ s.rkey ctx ∨ s.rkey ctx = 0 → exec (.remoteResolution payload) s = .next (Claims.replied w hd 9))) ∧
    (payload.length = 32 → ∀ j ∈ s.injects, j.conn = some s.draw.1 → exec (.remoteResolution payload) s = .next s.draw.2) ∧
    (Claims.fromHolder s p → i < 64 → s.feat 8 = true → (s.stream i).cfg % 2 = 0 → v % 2 = 1 →
      let w : Ingest := { s.stream i with cfg := v / 2 % 2 ^ 57 * 2 }
      (w.formed = false → exec (.ingestEnable p i v) s = .next ((s.setStream i w).hubErr 5)) ∧
      (w.formed = true → ∃ c, exec (.ingestEnable p i v) s = .next (({ s with free := s.free + 1 } : State).setStream i
        { w with cfg := w.cfg + 1, count := c, paused := false }))) ∧
    (∀ k t, port < 8 → s.feat 8 = true → s.streamFor port dst = some k →
      (s.allowRange (s.stream k).state 64).bind (fun t => t.allowRange
        ((s.stream k).ring + s.ingTail (s.stream k) % 2 ^ (s.stream k).log * 2 ^ (s.stream k).slotLog) (2 ^ (s.stream k).slotLog)) = some t →
      let x := { s.stream k with count := ((s.stream k).count + 1) % 2 ^ 32 }
      let u := t.setStream k x
      exec (.ingestDatagram port dst payload) s = .next (
        (if 2 ^ x.slotLog - 16 < payload.length then u.bump x 24
         else if 2 ^ x.log ≤ u.ingUsed x then u.bump x 16 else u.landDatagram x port payload).evalPause k)) ∧
    (let x := s.stream i
     (∀ t, x.en = true → s.allowRange x.state 64 = some t → exec (.ingestPfcTick i) s = .next (t.evalPause i)) ∧
     (x.en = true → x.paused = true → x.low < s.ingUsed x → x.pausedAt + 20 ≤ s.hubTime → exec (.pfcPauseRepeat i) s =
       .next ((s.pfcFrame x.portMask x.prio 0xFFFF).setStream i { x with pausedAt := s.hubTime })))

/-! ### Bittern: resets, the boot chain, its map, and SPDM (R433, R434, R441, R443 to R447, R492 to R495) -/

/-- The value that a measurement register holds after an extend (R446). -/
def Sys2Proof.Claims.extended (s : State) (i : Nat) (d : List Byte) : Nat := ofLE (sha512 (toLE 64 (s.bittern.mr.get 0 i) ++ d))

/-- R444 to R446, R494: a device reset ends every context and holds every engine and hart; the ROM measures stage 1 into MR0 or stops with
the code of the check that failed. Stage 1 then measures the device image into MR1 and its configuration block into MR2, checks the
configuration (code 6) and memory training (code 7), and otherwise releases the harts at SEDGE_ENTRY. (Logs 8, 18: what holds nothing or
free values before; log 65: which check comes first.) -/
def Sys2Proof.Claims.BootFollowsItsStages : Prop :=
  ∀ (s : State) (trained : Bool) (v : Nat),
    (∃ t, exec .deviceReset s = .next t ∧ t.engines = [] ∧ t.harts = [] ∧ t.ctxs = [] ∧ t.views = [] ∧ t.bittern.rom = s.bittern.rom ∧
      t.bittern.part = s.bittern.part ∧
      (∀ c, s.bittern.imageFault 0 (2 ^ 24) s.bittern.minVer1 = some c →
        t.hub.bootState = 4 ∧ t.hub.bootStage = 1 ∧ t.hub.bootCode = c ∧ t.bittern.mr = []) ∧
      (s.bittern.imageFault 0 (2 ^ 24) s.bittern.minVer1 = none → t.hub.bootState = 1 ∧
        t.bittern.mr.get 0 0 = ofLE (sha512 (toLE 64 0 ++ s.bittern.imageDigest 0)) ∧ ∀ i, i ≠ 0 → t.bittern.mr.get 0 i = 0)) ∧
    (s.hub.bootState ≠ 1 → exec (.bootStage1 trained) s = .next s) ∧
    (s.hub.bootState = 1 →
      (∀ c, s.bittern.imageFault imageAt (2 ^ 30) s.bittern.minVer2 = some c → exec (.bootStage1 trained) s = .next (s.setBoot 4 2 c)) ∧
      (s.bittern.imageFault imageAt (2 ^ 30) s.bittern.minVer2 = none → ∃ t, exec (.bootStage1 trained) s = .next t ∧
        t.bittern.mr.get 0 0 = s.bittern.mr.get 0 0 ∧
        t.bittern.mr.get 0 1 = Claims.extended s 1 (s.bittern.imageDigest imageAt) ∧
        t.bittern.mr.get 0 2 = Claims.extended s 2 (sha512 (s.bittern.image (imageAt + 128) 1024)) ∧
        (s.bittern.configOk = false → t.hub.bootState = 4 ∧ t.hub.bootStage = 2 ∧
          (trained = true → t.hub.bootCode = 6) ∧ (trained = false → t.hub.bootCode = 6 ∨ t.hub.bootCode = 7)) ∧
        (s.bittern.configOk = true → trained = false → t.hub.bootState = 4 ∧ t.hub.bootStage = 2 ∧ t.hub.bootCode = 7) ∧
        (s.bittern.configOk = true → trained = true → t.hub.bootState = 3 ∧ t.hub.hrt = s.bittern.config 512 8 ∧
          t.hub.cwm = s.bittern.config 856 8 ∧ t.plan = s.bittern.image (imageAt + 128 + 528) 328 ∧
          t.bittern.mr.get 0 3 = Claims.extended s 3 (sha512 t.plan) ∧
          ∀ h, h < 4096 → (t.hart h).run = .run ∧ (t.hart h).pc = s.bittern.config 520 8))) ∧
    (v % 16 < 4 → exec (.mrExtend v) s = .next (s.extendMr (v % 16)
      (((List.range 8).map (fun k => toLE 8 (s.bittern.din.get 0 k))).flatten))) ∧
    (4 ≤ v % 16 → exec (.mrExtend v) s = .next s) ∧
    exec (.bootSet v) s = .next (s.setBoot (v % 16) (v / 2 ^ 4 % 2 ^ 4) (v / 2 ^ 8 % 2 ^ 8))

/-- R441, R493: RNG answers fresh bits; the verifier latches its operands at GO, ignores a GO while it runs, and answers 2 or 3. (Log 66:
when operands are read.) -/
def Sys2Proof.Claims.BitternUnitsAct : Prop :=
  ∀ (s : State) (v : Nat),
    (∃ t, exec .rngRead s = .next t ∧ t.bittern.lastLoad = some (Config.entropy s.bittern.entropyNext % 2 ^ 64) ∧
      t.bittern.entropyNext = s.bittern.entropyNext + 1 ∧ t.hub = s.hub ∧ t.mem = s.mem) ∧
    (v / 2 ^ 16 % 2 = 0 ∨ s.bittern.edStat = 1 → exec (.ed25519Verify v) s = .next s) ∧
    (∀ a r m, v / 2 ^ 16 % 2 = 1 → s.bittern.edStat ≠ 1 → v % 2 ^ 16 ≤ 4096 → s.bittern.operand s.bittern.edA 32 = some a →
      s.bittern.operand s.bittern.edS 64 = some r → s.bittern.operand s.bittern.edM (v % 2 ^ 16) = some m →
      exec (.ed25519Verify v) s = .next (s.modBittern (fun b => { b with edStat := 1, edRun := some (a, r, m) }))) ∧
    (v / 2 ^ 16 % 2 = 1 → s.bittern.edStat ≠ 1 → (4096 < v % 2 ^ 16 ∨ s.bittern.operand s.bittern.edA 32 = none ∨
      s.bittern.operand s.bittern.edS 64 = none ∨ s.bittern.operand s.bittern.edM (v % 2 ^ 16) = none) →
      exec (.ed25519Verify v) s = .next (s.modBittern (fun b => { b with edStat := 3 }))) ∧
    (∀ a r m, s.bittern.edRun = some (a, r, m) → exec .ed25519VerifyComplete s =
      .next (s.modBittern (fun b => { b with edRun := none, edStat := if edVerify a r m then 2 else 3 })))

/-- The state after a trap of Bittern: the RISC-V machine-mode entry (R441; log 104). -/
def Sys2Proof.Claims.bitternTrapped (s : State) (cause tval : Nat) : State :=
  s.modBittern (fun b => { b with
    lastLoad := none, mepc := b.pc, mcause := cause, mtval := tval, pc := b.mtvec / 4 * 4,
    mstatus := setField (setField (setField b.mstatus 7 7 (fieldOf b.mstatus 3 3)) 12 11 3) 3 3 0 })

/-- R492, R493: an aligned load (kind 0) of ROM, SRAM, the partition or the fuses answers the bytes there; a store (1) to SRAM stores, and an
AMO (3 to 11, by the operation's number in R196) answers the old word and stores the result; the reversed aliases reverse the bytes of an
aligned 8-byte load or store. Every other access to an alias, a fetch (2) or an AMO among them, every store to the fuses or the partition,
every access that lies in no range of the map and a smaller access to the management block (R493) traps with the access fault of its kind.
A write takes Bittern's reservation. The trap entry and the reservation are the RISC-V manual's (log 104). -/
def Sys2Proof.Claims.BitternAccessesComplete : Prop :=
  ∀ (s : State) (kind a n v : Nat), (n = 1 ∨ n = 2 ∨ n = 4 ∨ n = 8) → a % n = 0 →
    kind < 12 → (kind = 2 → n = 2 ∨ n = 4) → (3 ≤ kind → n = 4 ∨ n = 8) →
    let run := fun (k : Nat) => exec (.bitternMemoryAccess k a n v) s
    let free := s.modBittern (fun b => { b with resv := none })
    let answers := fun (r : Nat) => s.modBittern (fun b => { b with lastLoad := some r })
    let stores := fun (r : Nat) (x : List Byte) (o : Nat) =>
      s.modBittern (fun b => { b with sram := putBytes b.sram o x, lastLoad := some r, resv := none })
    let faults := run kind = .next (Claims.bitternTrapped (if kind = 0 ∨ kind = 2 then s else free)
      (if kind = 0 then 5 else if kind = 2 then 1 else 7) (a % 2 ^ 64))
    (a + n ≤ 0x10000 → run 0 = .next (answers (readLE s.bittern.rom a n))) ∧
    (0x08000000 ≤ a → a + n ≤ 0x08040000 →
      let o := a - 0x08000000
      let x := readLE s.bittern.sram o n
      run 0 = .next (answers x) ∧ run 1 = .next (stores 0 (toLE n (v % 2 ^ (8 * n))) o) ∧
      (3 ≤ kind → run kind = .next (stores x (toLE n (atomNew (kind - 3) (8 * n) x (v % 2 ^ (8 * n)) 0)) o))) ∧
    (0x09000000 ≤ a → a + n ≤ 0x09040000 →
      let o := a - 0x09000000
      (n = 8 → run 0 = .next (answers (ofLE (bytesAt s.bittern.sram o 8).reverse)) ∧
        run 1 = .next (stores 0 (toLE 8 (v % 2 ^ 64)).reverse o)) ∧
      (n < 8 ∨ 2 ≤ kind → faults)) ∧
    (0x10000000 ≤ a → a + n ≤ 0x50000000 → run 0 = .next (answers (readLE s.bittern.part (a - 0x10000000) n)) ∧
      (kind = 1 ∨ 3 ≤ kind → faults)) ∧
    (0x50000000 ≤ a → a + n ≤ 0x90000000 →
      (n = 8 → run 0 = .next (answers (ofLE (bytesAt s.bittern.part (a - 0x50000000) 8).reverse))) ∧
      (n < 8 ∨ kind ≠ 0 → faults)) ∧
    (0xA0000000 ≤ a → a + n ≤ 0xA0000048 → run 0 = .next (answers (ofLE ((s.bittern.fuses.drop (a - 0xA0000000)).take n))) ∧
      (kind = 1 ∨ 3 ≤ kind → faults)) ∧
    (0xB0000000 ≤ a → a + n ≤ 0xB0001000 → (n < 8 → faults) ∧
      (n = 8 → a < 0xB0000040 → run 0 = .next (answers (s.bittern.din.get 0 ((a - 0xB0000000) / 8))) ∧
        run 1 = .next (s.modBittern (fun b =>
          { b with din := b.din.set ((a - 0xB0000000) / 8) (v % 2 ^ 64), lastLoad := some 0, resv := none })))) ∧
    ((∀ r ∈ [(0, 0x10000), (0x08000000, 0x40000), (0x09000000, 0x40000), (0x10000000, 0x40000000), (0x50000000, 0x40000000),
        (0xA0000000, 0x48), (0xB0000000, 0x1000)], ¬ (r.1 ≤ a ∧ a + n ≤ r.1 + r.2)) → faults)

/-- The `k`th of the next words of RNG, as bytes (R493). -/
def Sys2Proof.Claims.rng (s : State) (k : Nat) : List Byte := toLE 8 (Config.entropy (s.bittern.entropyNext + k) % 2 ^ 64)

/-- R447, R495: while a request is being answered, any other gets ERROR Busy. An idle responder answers version 1.3, SHA-512 and Ed25519,
the digest of slot 0, the portion of the chain that was asked for, and the measurements asked for, and a code it does not implement gets
ERROR UnsupportedRequest. The layouts of the messages are those of SPDM 1.3 (log 25). (Log 24: how long an answer takes.) -/
def Sys2Proof.Claims.SpdmAnswers : Prop :=
  ∀ (s : State) (req : List Byte), 4 ≤ req.length →
    let code := (req.getD 1 0).toNat
    let p2 := (req.getD 3 0).toNat
    let answers := fun (r : List Byte) => s.modBittern (fun b => { b with resp := r, busy := true })
    let busy := s.modBittern (fun b => { b with resp := [0x13, 0x7F, 0x03, 0] })
    (s.bittern.busy = true →
      (code = 0x84 → exec (.getVersion req) s = .next busy) ∧ (code = 0xE1 → exec (.getCapabilities req) s = .next busy) ∧
      (code = 0xE3 → exec (.negotiateAlgorithms req) s = .next busy) ∧ (code = 0x81 → exec (.getDigests req) s = .next busy) ∧
      (code = 0x82 → exec (.getCertificate req) s = .next busy) ∧ (code = 0x83 → exec (.challenge req) s = .next busy) ∧
      (code = 0xE0 → exec (.getMeasurements req) s = .next busy) ∧
      (code ∉ spdmCodes → exec (.spdmUnsupportedRequest req) s = .next busy)) ∧
    (s.bittern.busy = false →
      (code = 0x84 → exec (.getVersion req) s = .next (answers [0x10, 0x04, 0, 0, 0, 1, 0x00, 0x13])) ∧
      (code = 0xE1 → ∃ x y, exec (.getCapabilities req) s = .next (answers ([0x13, 0x61, 0, 0, 0] ++ x ++ [0, 0, 0x16, 0, 0, 0] ++ y)) ∧
        x.length = 1 ∧ y.length = 8) ∧
      (code = 0xE3 → exec (.negotiateAlgorithms req) s = .next (answers
        ([0x13, 0x63, 0, 0, 36, 0, 1, 0, 0x8, 0, 0, 0, 0, 4, 0, 0, 4, 0, 0, 0] ++ List.replicate 16 0))) ∧
      (code = 0x81 → exec (.getDigests req) s = .next (answers ([0x13, 0x01, 1, 1] ++ sha512 certChain))) ∧
      (code = 0x82 → (req.getD 2 0).toNat % 16 = 0 →
        let o := (req.getD 4 0).toNat + 256 * (req.getD 5 0).toNat
        let part := (certChain.drop o).take ((req.getD 6 0).toNat + 256 * (req.getD 7 0).toNat)
        o ≤ certChain.length → exec (.getCertificate req) s = .next (answers ([0x13, 0x02, 0, 0] ++ toLE 2 part.length ++
          toLE 2 (certChain.length - o - part.length) ++ part))) ∧
      (code = 0x83 → (req.getD 2 0).toNat % 16 = 0 → ∃ t nonce sig, exec (.challenge req) s = .next t ∧ t.bittern.busy = true ∧
        nonce = (Claims.rng s 0 ++ Claims.rng s 1 ++ Claims.rng s 2 ++ Claims.rng s 3) ∧ sig.length = 64 ∧
        t.bittern.resp = [0x13, 0x03, 0, 1] ++ sha512 certChain ++ nonce ++ (if p2 = 0 then [] else sha512 s.measurements) ++
          [0, 0] ++ (((req.drop 36).take 8 ++ List.replicate 8 0).take 8) ++ sig) ∧
      (code = 0xE0 → (req.getD 2 0).toNat % 2 = 0 → ∀ k rcd, s.measured p2 = some (k, rcd) → ∃ t, exec (.getMeasurements req) s = .next t ∧
        t.bittern.resp = [0x13, 0x60, if p2 = 0 then 16 else 0, 0] ++ toLE 1 k ++ toLE 3 rcd.length ++ rcd ++
          (Claims.rng s 0 ++ Claims.rng s 1 ++ Claims.rng s 2 ++ Claims.rng s 3) ++ [0, 0] ++
          (((req.drop 4).take 8 ++ List.replicate 8 0).take 8)) ∧
      (code = 0xE0 → s.measured p2 = none → exec (.getMeasurements req) s = .next (answers [0x13, 0x7F, 0x01, 0])) ∧
      (code ∉ spdmCodes → exec (.spdmUnsupportedRequest req) s = .next (answers [0x13, 0x7F, 0x07, req.getD 1 0])))

/-! ### Keys, plans, power and errors (R433, R434, R448 to R457) -/

/-- R448: a key command of the holder on a usable slot starts, and ends in the slot holding the key (zero for a clear), while what was
written under the old key keeps it; slot 0 or MEM_ENC not accepted gives result 2, an address outside DRAM 3; a command while one is in
progress is ignored. The key is read, and its line written with zeros, once the parties that hold it have given it up; until then the
command is in progress. (Log 69: the old key's index.) -/
def Sys2Proof.Claims.KeysMove : Prop :=
  ∀ (s : State) (p slot a : Nat),
    let at0 := a / 64 * 64 % 2 ^ 48
    (Claims.fromHolder s p →
      (s.hub.keyRes = 1 → exec (.keyClear p slot) s = .next s ∧ exec (.keyLoad p slot a) s = .next s) ∧
      (s.hub.keyRes ≠ 1 → (slot % 4096 = 0 ∨ s.feat 13 = false) →
        exec (.keyClear p slot) s = .next (s.modHub (fun h => { h with keyRes := 2 }))) ∧
      (s.hub.keyRes ≠ 1 → slot % 4096 ≠ 0 → s.feat 13 = true →
        exec (.keyClear p slot) s = .next (s.modHub (fun h => { h with keyMove := some (slot % 4096, 0), keyRes := 1 })) ∧
        (inDram at0 64 = false → exec (.keyLoad p slot a) s = .next (s.modHub (fun h => { h with keyRes := 3 }))) ∧
        (inDram at0 64 = true →
          (s.allowWrite hubParty 256 at0 64 false = none → exec (.keyLoad p slot a) s = .next ((s.wantPt (at0 / 128)).modHub (fun h =>
            { h with keyWait := some (slot % 4096, at0), keyRes := 1 }))) ∧
          (∀ t, s.allowWrite hubParty 256 at0 64 false = some t → exec (.keyLoad p slot a) s =
            .next ((t.writeAt { ctx := 0, rec? := false } at0 (t.granKey.get 0 (at0 / 128)) (toLE 64 0)).modHub (fun h =>
              { h with keyMove := some (slot % 4096, t.rd at0 64), keyRes := 1, keyWait := none })))))) ∧
    (∀ k b, s.hub.keyMove = none → s.hub.keyWait = some (k, b) → ∀ t, s.allowWrite hubParty 256 b 64 false = some t →
      exec .keySlotSwitch s = .next ((t.writeAt { ctx := 0, rec? := false } b (t.granKey.get 0 (b / 128)) (toLE 64 0)).modHub (fun h =>
        { h with keyMove := some (k, t.rd b 64), keyRes := 1, keyWait := none }))) ∧
    (∀ k key, s.hub.keyMove = some (k, key) → k < 4096 → ∃ t, exec .keySlotSwitch s = .next t ∧ t.keys.get 0 k = key ∧
      (∀ j, j < 4096 → j ≠ k → t.keys.get 0 j = s.keys.get 0 j) ∧ t.hub.keyRes = 0 ∧ t.hub.keyMove = none ∧ t.mem = s.mem ∧
      (s.keys.get 0 k ≠ key → ∀ e, e ∈ s.granKey → (e.2 ≠ k → e ∈ t.granKey) ∧
        (e.2 = k → ∃ j, (e.1, j) ∈ t.granKey ∧ t.keys.get 0 j = s.keys.get 0 k)))

/-- R454: a plan of the holder is checked, latched and measured into MR3, and is in progress until every PLL has moved. (Log 65: the order
of its checks.) -/
def Sys2Proof.Claims.PlansAreChecked : Prop :=
  ∀ (s : State) (p a : Nat), Claims.fromHolder s p →
    let at0 := a / 8 * 8 % 2 ^ 48
    let result := fun (n : Nat) => exec (.planLoad p a) s = .next (s.modHub (fun h => { h with planRes := n }))
    let bs := bytesAt s.mem at0 328
    (s.hub.planRes = 1 → exec (.planLoad p a) s = .next s ∧ exec .pllMoveComplete s = .next (s.modHub (fun h => { h with planRes := 0 }))) ∧
    (s.hub.planRes ≠ 1 → exec .pllMoveComplete s = .next s ∧
      (s.feat 10 = false → result 5) ∧
      (s.feat 10 = true → s.anyCtx = true → result 2) ∧
      (s.feat 10 = true → s.anyCtx = false → inDram at0 328 = false → result 3) ∧
      (s.feat 10 = true → s.anyCtx = false → inDram at0 328 = true →
        (planInRange bs = false → result 3) ∧
        (planInRange bs = true → planClear bs = false → result 4) ∧
        (planInRange bs = true → planClear bs = true → ∃ t, exec (.planLoad p a) s = .next t ∧ t.plan = bs ∧ t.hub.planRes = 1 ∧
          t.bittern.mr.get 0 3 = Claims.extended s 3 (sha512 bs) ∧ t.mem = s.mem ∧ t.engines = s.engines)))

/-- R433, R434, R449 to R451: a measurement sets an island's swallowed pulses, raised while its sensor has read THROT and not yet THROT - 3
(what it reads and by how much the number is raised: log 67); a sensor at TRIP begins an orderly reset, fatal after 100
ms; a fatal reset leaves a host's lost granules as last written back, with an error in the RAS capability of the port; an orderly reset waits for what is on its way to a host; a cluster idle for 1 ms is gated with its cached copies dropped, and wakes.
-/
def Sys2Proof.Claims.PowerFollowsItsRules : Prop :=
  ∀ (s : State) (c n : Nat),
    (c < 1024 → n ≤ 48 → ∃ t d e, exec (.powerMeasure c n) s = .next t ∧
      (let hot : Prop := s.hub.throt ≤ d ∨ ((s.cluster c).hot = true ∧ s.hub.throt < d + 3)
       d < 256 ∧ (t.cluster c).temp = d ∧ (hot → (t.cluster c).swallowed = min 48 (n + 1 + e) ∧ (t.cluster c).hot = true) ∧
       (¬ hot → (t.cluster c).swallowed = n ∧ (t.cluster c).hot = false)) ∧
      t.hub.trip = (if 110 ≤ d ∧ s.hub.trip = none then some s.hubTime else s.hub.trip) ∧
      ((s.cluster c).swallowed, s.hubTime) ∈ t.hub.swallows ∧ t.engines = s.engines ∧ t.mem = s.mem) ∧
    (110 ≤ n → n < 256 → exec (.thermalTrip n) s = .next (s.modHub (fun h =>
      { h with tmax := n, trip := if h.trip.isNone then some s.hubTime else h.trip }))) ∧
    (n < 110 → exec (.thermalTrip n) s = .next s) ∧
    (Memory.wf s.mem = true → ∃ t, exec .fatalReset s = .next t ∧ t.ctxs = [] ∧ t.engines = [] ∧ bitOf t.hub.err 3 = true ∧
      (∀ a, 3 * 2 ^ 40 ≤ a → bytesAt t.mem a 1 = bytesAt (s.hostBack.foldl (fun m e => putBytes m (128 * e.1) e.2) s.mem) a 1) ∧
      ∀ e ∈ s.hostBack, (128 * e.1 / 2 ^ 46 = 2 → t.hub.ras0 = true) ∧ (128 * e.1 / 2 ^ 46 = 3 → t.hub.ras1 = true)) ∧
    (∀ x, s.hub.trip = some x → x + 100000 < s.hubTime → exec .orderlyReset s = .next s.fatalReset) ∧
    ((∀ x, s.hub.trip = some x → s.hubTime ≤ x + 100000) →
      (s.hostFlying = true → exec .orderlyReset s = .next s) ∧ (s.hostFlying = false → exec .orderlyReset s = .next s.deviceReset)) ∧
    (c < 1024 → (s.cluster c).gated = false → s.quiet c = true → (∀ f, f ∈ s.inflight → f.g / 16 ≠ c) →
      (∀ x, (s.cluster c).idle = some x → x + 1000 ≤ s.hubTime → ∃ t, exec (.clusterPowerGate c) s = .next t ∧
        (t.cluster c).gated = true ∧ (t.cluster c).l2 = [] ∧ t.mem = s.mem ∧ ∀ d, d ≠ c → t.cluster d = s.cluster d) ∧
      (∀ x, (s.cluster c).idle = some x → s.hubTime < x + 1000 → exec (.clusterPowerGate c) s = .next s)) ∧
    ((s.cluster c).gated = true → exec (.clusterWake c) s = .next (s.modCluster c (fun x => { x with gated := false, idle := none }))) ∧
    ((s.cluster c).gated = false → exec (.clusterWake c) s = .next s)

/-- R455 to R457: correctable errors are counted and CLR clears the counters; an uncorrectable error is counted, writes one
machine-check record for each context it ends, or one with INFO bit 63 set, and ends those contexts as TEARDOWN does; one that a hart's
read finds is also the access fault of its kind, with CAP 0 (its address: log 68; its entry: log 7); DRAM keeps the bad check bits, which a
scrub finds again; row 7 ends in a fatal reset. -/
def Sys2Proof.Claims.ErrorsAreContained : Prop :=
  ∀ (s : State) (p src x a : Nat),
    exec (.eccCorrected true) s = .next (s.modHub (fun h => { h with dramCe := min (h.dramCe + 1) 65535 })) ∧
    exec (.eccCorrected false) s = .next (s.modHub (fun h => { h with sramCe := min (h.sramCe + 1) 65535 })) ∧
    (s.badBits = [] → exec (.patrolScrub a) s = .next s) ∧
    (s.badBits = [a / 128] → exec (.patrolScrub a) s = .next { s with agenda := .badUse 5 0 a :: s.agenda }) ∧
    (Claims.fromHolder s p → exec (.eccClear p) s = .next (s.modHub (fun h => { h with sramCe := 0, dramCe := 0, ue := 0 }))) ∧
    (∀ row, row ∈ [1, 2, 3, 4, 5, 6] → (row = 5 → x = 0) → s.errorCtxs row x a = [] → Memory.wf s.mem = true → ∃ t,
      exec (.uncorrectableError row src x a) s = .next t ∧ t.hub.ue = min (s.hub.ue + 1) 65535 ∧
      t.hub.mceTail = (s.hub.mceTail + 1) % 2 ^ 32 ∧ t.ctxs = s.ctxs ∧
      (row ∈ [1, 5, 6] → a / 128 ∈ t.badBits) ∧
      (∀ b, s.hub.mce = b → bitOf b 5 = true →
        bytesAt t.mem (b / 2 ^ 6 % 2 ^ 42 * 64 + 64 * (s.hub.mceTail % 2 ^ (b % 32))) 64 =
          ({ code := 23, src := src % 16, info := row + 2 ^ 63, addr := a % 2 ^ 64 } : Rec).bytes 0 s.hubTime s.hub.mceTail) ∧
      (bitOf s.hub.mce 5 = false → t.mem = s.mem)) ∧
    (∀ row c, row ∈ [1, 2, 3, 4, 6] → s.errorCtxs row x a = [c] → ∃ t, exec (.uncorrectableError row src x a) s = .next t ∧
      t.hub.ue = min (s.hub.ue + 1) 65535 ∧ t.hub.mceTail = (s.hub.mceTail + 1) % 2 ^ 32 ∧ (t.ctx c).state = .dying) ∧
    (∀ h kind, kind < 3 → x = 1 + 3 * h + kind → (s.hart h).run = .run → ∃ t v, exec (.uncorrectableError 5 src x a) s = .next t ∧
      t.hart h = ({ s.hart h with flt := setField (s.hart h).flt 63 63 0 } : Hart).trap
        (if kind = 0 then 5 else if kind = 1 then 1 else 7) (v % 2 ^ 64)) ∧
    (∃ t, exec (.uncorrectableError 7 src x a) s = .next t ∧ t.ctxs = [] ∧ t.engines = [] ∧ bitOf t.hub.err 3 = true)

/-! ### The fabric: switches, the TC0 shaper, links, the remote agent (R459, R460, R465 to R467, R470, R473, R477) -/

/-- Packet `p` stands first at position `i` of switch `sw`, having arrived on `port`. -/
def Sys2Proof.Claims.standsAt (s : State) (i sw port : Nat) (p : Packet) : Prop :=
  s.packetFirst i = some p ∧ p.place = .switch sw port

/-- R370, R465 to R467: a packet whose next hop passes the switch's checks goes on in the turn of its output port, with the arrival port
in the hop field and its hop pointer one further; one that fails check `c` is discarded, and a route fault goes back by the reversed
hops with the check, hop, switch and header, counted in FAULTS; one that fails, or a malformed packet, is counted in DISCARDS. An effect
or load without answer for 2 ms is a ROUTE record or fault (logs 89, 108). No packet passes an earlier one of its source, route, class and
traffic class (R468). -/
def Sys2Proof.Claims.SwitchesForwardOrReturn : Prop :=
  ∀ (s : State) (i sw port : Nat) (p : Packet),
    (Claims.standsAt s i sw port p → p.malformed = true →
      exec (.switchForward i) s = .next (({ s with packets := dropAt s.packets i } : State).countDiscard sw)) ∧
    (Claims.standsAt s i sw port p → p.malformed = false →
      let q : Packet := { p with route := rSetHop p.route p.ptr (port % 64), ptr := p.ptr + 1 }
      let key := portKey sw (decide (p.ptr < rTurn p.route)) (rHop p.route p.ptr)
      (∀ b, s.checkHop p.route p.ptr sw port p.back = .goes b → s.portTurn key p = none → exec (.switchForward i) s = .next s) ∧
      (∀ y, s.portTurn key p = some y →
        let t : State := { s with arbs := s.arbs.set key y }
        (∀ sw' port', s.checkHop p.route p.ptr sw port p.back = .goes (.switch sw' port') →
          exec (.switchForward i) s = .next { t with packets := s.packets.set i { q with place := .switch sw' port' } }) ∧
        (∀ k x, s.checkHop p.route p.ptr sw port p.back = .goes (.endpoint k x) →
          exec (.switchForward i) s = .next { t with packets := s.packets.set i { q with place := .endpoint sw (rHop p.route p.ptr) } }) ∧
        (∀ k, s.checkHop p.route p.ptr sw port p.back = .goes (.link k) →
          (s.owesPod p.src p.ctx p.cover = false → exec (.switchForward i) s = .next { t with packets := dropAt s.packets i }) ∧
          (s.owesPod p.src p.ctx p.cover = true → exec (.switchForward i) s = .next s))) ∧
      (∀ c, s.checkHop p.route p.ptr sw port p.back = .fails c →
        (p.body.isFault = true → exec (.switchForward i) s = .next (({ s with packets := dropAt s.packets i } : State).countDiscard sw)) ∧
        (p.body.isFault = false → ∃ t r, exec (.switchForward i) s = .next t ∧
          t.packets = dropAt s.packets i ++ [{ p with
            route := r, ptr := 0, kind := 7, cls := 1, len := 1, srcDev := s.hub.devid, spec := routeInfo c p.ptr sw,
            place := .switch sw 0, body := .routeFault (routeInfo c p.ptr sw) p.header p.body }] ∧
          r = mkRoute (p.ptr - rTurn p.route) (port % 64 :: (List.range p.ptr).map (fun j => rHop p.route (p.ptr - 1 - j))) 15 ∧
          (t.switches.get (0, 0) sw).2 = min ((s.switches.get (0, 0) sw).2 + 1) (2 ^ 32 - 1)))) ∧
    (∀ q r, s.packets[port]? = some q → r ∈ s.packets.take port → r.src = q.src ∧ r.place = q.place ∧ r.route = q.route ∧ r.ptr = q.ptr ∧
      r.tc = q.tc ∧ r.cls = q.cls → exec (.switchForward port) s = .next s) ∧
    (∀ f, s.nextFlight i = some f →
      (f.since + 2000 ≤ s.hubTime → s.unshaped f.ticket = true →
        exec (.routeResponseTimeout i) s = .next ((s.dropFlight i).append f.ctx
          { code := 15, src := 0, who := f.who, wher := f.pc, info := 2 ^ 24, addr := f.va })) ∧
      (s.hubTime < f.since + 2000 → exec (.routeResponseTimeout i) s = .next s)) ∧
    (∀ g k a l, s.act g k = some a → a.loads[i]? = some l → l.since + 2000 ≤ s.hubTime → s.unshaped l.ticket = true →
      s.loadTimeout g k i = (s.modAct g k (fun a => { a with loads := dropAt a.loads i })).raiseAt g k
        { n := l.n, pc := l.pc, code := 15, info := 2 ^ 24, addr := l.va })

/-- R471: an output port serves the packets that wait there. While one of TC0 waits no other TC is served; while one of class RSP waits, no
other class of its TC is. Among TC1 to TC3 the lowest is served that has flits left in its round (8:4:1; log 89 for the order in a round).
A packet alone goes. -/
def Sys2Proof.Claims.OutputPortsServeInTurn : Prop :=
  ∀ (s : State) (key : Nat) (p : Packet),
    let l := s.packets.filter (fun q => s.outPort q == some key)
    let x := s.arbs.get {} key
    ((∃ q ∈ l, q.tc = 0) → p.tc ≠ 0 → s.portTurn key p = none) ∧
    ((∃ q ∈ l, q.tc = p.tc ∧ q.cls = 1) → p.cls ≠ 1 → s.portTurn key p = none) ∧
    (∀ q ∈ l, (∀ r ∈ l, r.tc ≠ 0) → 1 ≤ q.tc → q.tc ≤ 3 → 0 < x.share q.tc → q.tc < p.tc ∨ x.share p.tc ≤ 0 → s.portTurn key p = none) ∧
    (l = [p] → p.tc < 4 → (∀ k, -9 < x.share k) → ∃ y, s.portTurn key p = some y)

/-- R469, R470: a packet takes the class that its field of NZ_CTX_TC gives, TC1 where that is TC0 and RATE is 0; one of TC0 waits in its
source's shaper with a charge of its flits, any other stands at the source's first switch. The first that waits of its
context and source leaves as its bucket is charged, stays while the bucket holds less, and goes as TC1 where RATE is 0 (first contents:
log 15). -/
def Sys2Proof.Claims.TheShaperCharges : Prop :=
  (∀ (s : State) (src : Source) (ctx route kind len spec : Nat) (cls : Nat → Nat) (body : Payload),
    let v := s.ctxTc ctx
    let p : Packet := { route := route, tc := cls v, cls := kindClass kind, kind := kind, len := len, ctx := ctx, srcDev := s.hub.devid,
                        spec := spec, src := src, place := .switch src.entry.1 src.entry.2, body := body, cover := s.nextId }
    (cls v ≠ 0 → s.inject src ctx route kind cls len spec body = { s with packets := s.packets ++ [p] }) ∧
    (cls v = 0 → v % 2 ^ 12 = 0 → s.inject src ctx route kind cls len spec body = { s with packets := s.packets ++ [{ p with tc := 1 }] }) ∧
    (cls v = 0 → v % 2 ^ 12 ≠ 0 → s.inject src ctx route kind cls len spec body = { s with
      nextId := s.nextId + 1, shaper := s.shaper ++ [{ ticket := s.nextId + 1, key := 256 * src.shaper + ctx, flits := 1 + len }],
      packets := s.packets ++ [{ p with place := .shaper, ticket := s.nextId + 1 }] })) ∧
  ∀ (s : State) (i : Nat) (x : Shaped), s.shaper[i]? = some x →
    (∀ y ∈ s.shaper.take i, y.key = x.key → exec (.tc0ShaperRelease i) s = .next s) ∧
    (∀ (j tc : Nat) (p : Packet), s.packets[j]? = some p → (s.unshape i x.ticket tc).shaper = dropAt s.shaper i ∧
      (s.unshape i x.ticket tc).packets[j]? = some (if p.ticket = x.ticket ∧ p.place = .shaper then
        { p with tc := tc, place := .switch p.src.entry.1 p.src.entry.2 } else p)) ∧
    ((∀ y ∈ s.shaper.take i, y.key ≠ x.key) →
      let v := s.ctxTc (x.key % 256)
      let holding := fun (n : Nat) (t : State) => ({ t with buckets := s.buckets.set x.key { flits := n } } : State)
      (v % 2 ^ 12 = 0 → exec (.tc0ShaperRelease i) s = .next (s.unshape i x.ticket 1)) ∧
      (v % 2 ^ 12 ≠ 0 →
        (∀ b, s.buckets.find x.key = some b →
          (x.flits ≤ b.flits → exec (.tc0ShaperRelease i) s = .next ((holding (b.flits - x.flits) s).unshape i x.ticket 0)) ∧
          (b.flits < x.flits → exec (.tc0ShaperRelease i) s = .next (holding b.flits s))) ∧
        (s.buckets.find x.key = none → ∃ n, n ≤ fieldOf v 27 12 ∧
          let t : State := { s with free := s.free + 1 }
          exec (.tc0ShaperRelease i) s = .next (if x.flits ≤ n then (holding (n - x.flits) t).unshape i x.ticket 0 else holding n t))))

/-- The state of a link port, with its partner. -/
def Sys2Proof.Claims.linkIs (t : State) (k : Nat) (st : PortState) (sw port dev : Nat) : Prop :=
  (t.linkPort k).state = st ∧ (t.linkPort k).peerSw = sw ∧ (t.linkPort k).peerPort = port ∧ (t.linkPort k).peerDev = dev

/-- R459, R460, R473: a DOWN link that locks trains, training ends UP with the partner's names and the delay after 10 µs without a replay,
and a loss takes it DOWN without them; LINK_ADMIN's zeros disable links and its ones bring disabled links DOWN; a replay is counted, and
one that follows 16 others in 1 ms takes the link DOWN. No other link changes. (Log 60: what the map shows.) -/
def Sys2Proof.Claims.LinksFollowTheirStates : Prop :=
  ∀ (s : State) (k sw port dev delay : Nat), k < 32 →
    let x := s.linkPort k
    let alone := fun (t : State) => ∀ j, j ≠ k → j < 32 → t.linkPort j = s.linkPort j
    let late := x.replayed.filter (fun n => s.hubTime < n + 1000)
    (x.state = .down → ∃ t, exec (.receiverLock k) s = .next t ∧ t.linkPort k = { x with state := .training, clean := s.hubTime } ∧
      alone t) ∧
    (x.state ≠ .down → exec (.receiverLock k) s = .next s) ∧
    (x.state = .training → x.clean + 10 ≤ s.hubTime → ∃ t, exec (.trainingComplete k sw port dev delay) s = .next t ∧
      Claims.linkIs t k .up (sw % 2 ^ 16) (port % 64) (dev % 2 ^ 16) ∧ (t.linkPort k).delay = delay % 2 ^ 16 ∧ alone t) ∧
    (x.state ≠ .training ∨ s.hubTime < x.clean + 10 → exec (.trainingComplete k sw port dev delay) s = .next s) ∧
    (x.state = .training ∨ x.state = .up → (∃ t, exec (.linkDown k) s = .next t ∧ Claims.linkIs t k .down 0 0 0 ∧ alone t) ∧
      ∃ t, exec (.linkReplay k) s = .next t ∧ (t.linkPort k).replays = min (x.replays + 1) (2 ^ 16 - 1) ∧ alone t ∧
        (late.length < 16 → t.linkPort k = { x with
          replays := min (x.replays + 1) (2 ^ 16 - 1), clean := s.hubTime, replayed := s.hubTime :: late }) ∧
        (16 ≤ late.length → Claims.linkIs t k .down 0 0 0)) ∧
    (x.state = .down ∨ x.state = .disabled → exec (.linkDown k) s = .next s ∧ exec (.linkReplay k) s = .next s) ∧
    (∀ p v, Claims.fromHolder s p → ∃ t, exec (.linkAdminWrite p v) s = .next t ∧ t.hub.linkAdmin = v % 2 ^ 32 ∧
      (bitOf v k = false → (t.linkPort k).state = .disabled) ∧
      (bitOf v k = true → (t.linkPort k).state = if x.state = .disabled then .down else x.state))

/-- R466, R477: a remote request that does not name this device, a LIVE context and its key is answered with code 16; one whose address translates
here, with a home route that goes, is served and answered with the data; one that does not translate is
answered with the code. The answer to a packet takes the reversed hops. The clauses on data are those of a MEM class that is not TC0, and
of memory without views (log 103). -/
def Sys2Proof.Claims.RemoteRequestsAreAnswered : Prop :=
  ∀ (s : State) (peer ctx key o n v : Nat), ctx < 256 → o < 2 ^ 48 → 0 < n → n < 256 → o % 128 + n ≤ 128 →
    let ok : Prop := peer = s.hub.devid ∧ s.hub.akey.get 0 ctx ≠ 0 ∧ key = s.hub.akey.get 0 ctx ∧ (s.ctx ctx).state = .live
    let answers := fun (t : State) (code v : Nat) => t.modHub (fun h => { h with served := h.served ++ [(code, v)] })
    let plain := fun (t : State) (a : Nat) => t.agentFault a = none ∧ effTc (t.ctxTc ctx) (tcMem (t.ctxTc ctx)) ≠ 0
    (¬ ok → exec (.remoteAccess peer ctx key 0 o n v) s = .next (answers s 16 0) ∧
      exec (.remoteAccess peer ctx key 1 o n v) s = .next (answers s 16 0)) ∧
    (ok →
      (∀ a k m t u, s.translate0 ctx .r o = (.ok (.dpa a k) m, t) → plain t a → t.recall hubParty 256 a n false false = some u →
        u.viewBlocks a n = [] →
        exec (.remoteAccess peer ctx key 0 o n v) s = .next (answers (u.readKeyed a n k).2 0 (ofLE (u.readKeyed a n k).1))) ∧
      (∀ a k m t u, s.translate0 ctx .w o = (.ok (.dpa a k) m, t) → plain t a → t.allowWrite hubParty 256 a n false = some u →
        exec (.remoteAccess peer ctx key 1 o n v) s = .next (answers (u.writeAt { ctx := ctx } a k (toLE n v)) 0 0)) ∧
      (∀ op a k m t u, 2 ≤ op → op < 13 → (n = 4 ∨ (n = 8 ∧ op ≠ 12)) → o % n = 0 → s.translate0 ctx .rw o = (.ok (.dpa a k) m, t) →
        plain t a → t.allowWrite hubParty 256 a n false = some u → u.viewBlocks a n = [] →
        let old := ofLE (u.readKeyed a n k).1
        exec (.remoteAccess peer ctx key op o n v) s = .next (answers ((u.readKeyed a n k).2.writeAt { ctx := ctx } a k
          (toLE n (atomNew (op - 2) (8 * n) old (v % 2 ^ (8 * n)) (v / 2 ^ 64 % 2 ^ (8 * n))))) 0 old)) ∧
      (∀ a k m t i, s.translate0 ctx .r o = (.ok (.dpa a k) m, t) → t.agentFault a = some i →
        exec (.remoteAccess peer ctx key 0 o n v) s = .next (answers (t.hopFault i) 15 i)) ∧
      (∀ x t, s.translate0 ctx .r o = (.bad x, t) → x.code ≠ 7 → exec (.remoteAccess peer ctx key 0 o n v) s = .next (answers t x.code 0)) ∧
      (∀ x t, s.translate0 ctx .r o = (.bad x, t) → x.code = 7 → exec (.remoteAccess peer ctx key 0 o n v) s =
        .next (answers (t.append ctx { code := 7, src := 4, addr := o, reason := x.reason, share := x.share }) 7 x.reason))) ∧
    (∀ i p, ¬ ok → s.packetFirst i = some p → p.place = .endpoint 1184 52 → p.body = .request peer ctx key 0 o n v →
      let k := rHops p.route - 1
      s.packetEnd i = { s with packets := dropAt s.packets i ++ [{
        route := mkRoute (k - rTurn p.route) (rHop p.route k :: (List.range k).map (fun j => rHop p.route (k - 1 - j))) 15,
        tc := p.tc, cls := 1, kind := 2, len := 0, ctx := p.ctx, srcDev := s.hub.devid, spec := 16, src := .remoteAgent,
        place := .switch 1184 52, body := .answer 16 0 }] })

/-! ### Collectives (R478 to R482) -/

/-- R478: COLL_REGISTER of the holder makes a FREE group of a LIVE context REGISTERED from a good record, with the sequence numbers of its
participants 0; result 2 where the group is not FREE or the context not LIVE, 3 for a bad record. COLL_RELEASE makes it FREE. (Log 51: in
one step.) -/
def Sys2Proof.Claims.GroupsAreRegistered : Prop :=
  ∀ (s : State) (p grp ctx rcd : Nat), Claims.fromHolder s p → grp < 64 → ctx < 256 →
    ((s.group grp).state ≠ .free ∨ (s.ctx ctx).state ≠ .live → exec (.collRegister p grp ctx rcd) s = .next (s.collResult grp 2)) ∧
    ((s.group grp).state = .free → (s.ctx ctx).state = .live → s.groupRecord ctx (rcd % 2 ^ 48) = none →
      exec (.collRegister p grp ctx rcd) s = .next (s.collResult grp 3)) ∧
    (∀ x, (s.group grp).state = .free → (s.ctx ctx).state = .live → s.groupRecord ctx (rcd % 2 ^ 48) = some x →
      ∃ t, exec (.collRegister p grp ctx rcd) s = .next t ∧ t.group grp = x ∧ t.mem = s.mem ∧
        (∀ n, n ≠ grp → t.group n = s.group n) ∧ ∀ g, g ∈ members x.mask → (t.eng g).collSeq.get 0 grp = 0) ∧
    ((s.group grp).state = .free → exec (.collRelease p grp) s = .next (s.collResult grp 2)) ∧
    ((s.group grp).state ≠ .free → ∃ t, exec (.collRelease p grp) s = .next t ∧ (t.group grp).state = .free ∧
      (∀ r, r ∈ t.collRuns → r.group ≠ grp) ∧ t.mem = s.mem)

/-- The participants' contributions have all arrived, no switch finds them unlike (R480), and none came too late (R482). -/
def Sys2Proof.Claims.complete (s : State) (r : CollRun) : Prop :=
  s.sentParts r ≠ [] ∧ (s.group r.group).clash (s.sentParts r) = none ∧ (s.group r.group).late (s.sentParts r) = none ∧
    (members (s.group r.group).mask).all (fun g => (s.sentParts r).any (fun p => p.eng == g)) = true

/-- R480 to R482: an instance with contributions that differ where they meet at a switch ends as an abort with code 3, and one of which a
contribution came to a switch later than TMO after the first as an abort with code 19; one that misses some waits; a complete one sends
its result, in chunks of at most 256 bytes, to the root of a reduction or to every participant. A contribution that waits in the TC0
shaper has not arrived (R470; its flits: log 110). A chunk lands in its engine's scratchpad where the context is current there, and is
dropped where it is not; the last chunk of an instance with drops writes one record. One in the shaper, or whose way down has a port that
is not UP, stays. -/
def Sys2Proof.Claims.ResultsLandInChunks : Prop :=
  ∀ (s : State) (i : Nat),
    (∀ r, s.collRuns[i]? = some r →
      let x := s.group r.group
      let want := members x.mask
      let ps := s.sentParts r
      (∀ p, p ∈ ps ↔ p ∈ r.parts ∧ s.unshaped p.ticket = true) ∧
      (∀ at_, x.clash ps = some at_ → exec (.collCombine i) s = .next (s.abortRun r 3 (some at_))) ∧
      (∀ k, k ∈ x.switches → x.clash ps = none → mixed (((k.expected want).map (k.standing want ps)).flatten) = false) ∧
      (∀ at_, x.clash ps = none → x.late ps = some at_ → exec (.collCombine i) s = .next (s.abortRun r 19 (some at_))) ∧
      (x.clash ps = none → x.late ps = none → want.any (fun g => !ps.any (fun p => p.eng == g)) = true →
        exec (.collCombine i) s = .next s) ∧
      (Claims.complete s r → ∃ t out, exec (.collCombine i) s = .next t ∧ t.collRuns = dropAt s.collRuns i ∧
        t.chunks = s.chunks ++ out ∧ (∀ c, c ∈ out → c.data.length ≤ 256 ∧ c.group = r.group ∧ c.seq = r.seq ∧
          (c.kind = 1 → c.eng = x.root) ∧ (c.kind ≠ 1 → c.eng ∈ want)) ∧
        t.engines = s.engines ∧ t.mem = s.mem)) ∧
    (∀ c, s.chunks[i]? = some c →
      let s1 : State := { s with chunks := dropAt s.chunks i }
      let last : Prop := ∀ d, d ∈ dropAt s.chunks i → d.tag ≠ c.tag
      let tally : List DropCount := s.drops.filter (fun d => d.tag != c.tag)
      let free : Prop := s.unshaped c.ticket = true ∧
        ∀ e ∈ (s.group c.group).descent c.eng, (s.port e.1 false e.2).state = .up
      (¬ free → exec (.collChunkLand i) s = .next s) ∧
      (free → (s.eng c.eng).ctx = some c.ctx →
        let t := (s1.putSpad c.eng .landing [] 0 [putOf c.addr c.data]).barUpdate c.eng c.bar 0 (-(c.data.length : Int))
        (∀ d, d ∈ s.drops → d.tag ≠ c.tag) → exec (.collChunkLand i) s = .next { t with drops := t.drops.filter (fun d => d.tag != c.tag) }) ∧
      (free → (s.eng c.eng).ctx ≠ some c.ctx →
        (¬ last → ∃ n, 0 < n ∧ exec (.collChunkLand i) s = .next ({ s1 with drops := { tag := c.tag, n := n } :: tally } : State)) ∧
        (last → (∀ d, d ∈ s.drops → d.tag ≠ c.tag) → exec (.collChunkLand i) s = .next (({ s1 with drops := tally } : State).append c.ctx
          { code := 20, src := 5, info := 14 + 2 ^ 16 + c.group * 2 ^ 32 + c.seq * 2 ^ 38 + c.kind * 2 ^ 54 }))))

/-- R482: an instance that a switch still waits for when TMO has passed since the first contribution arrived there is aborted with code 19:
OVERRUN is set on the barriers of its participants, the group is ABORTED and keeps no instance, and a record names the switch and its
missing ports (which switch, where several wait: log 95). TMO 0 never ends, and neither does an instance that no switch waits for. -/
def Sys2Proof.Claims.InstancesTimeOut : Prop :=
  ∀ (s : State) (i : Nat) (r : CollRun), s.collRuns[i]? = some r →
    let x := s.group r.group
    let ps := s.sentParts r
    let ended := { s.overrunAll x.ctx r.parts with
      collRuns := (s.overrunAll x.ctx r.parts).collRuns.filter (fun q => q.group != r.group)
      groups := (s.overrunAll x.ctx r.parts).groups.set r.group { x with state := .aborted } }
    (∀ n sw mask, x.waits ps = some (n, sw, mask) →
      (x.tmo ≠ 0 → n + x.tmo ≤ s.hubTime → exec (.collTimeout i) s = .next (ended.append x.ctx
        { code := 19, src := 5, info := r.group + r.seq * 64 + sw * 2 ^ 22, addr := mask })) ∧
      (x.tmo = 0 ∨ s.hubTime < n + x.tmo → exec (.collTimeout i) s = .next s) ∧
      (∃ k ∈ x.switches, k.sw = sw ∧ k.missing (members x.mask) ps = mask ∧ mask ≠ 0 ∧
        k.started (members x.mask) ps = some n)) ∧
    (x.waits ps = none → exec (.collTimeout i) s = .next s) ∧
    (∀ sw mask, s.abortRun r 3 (some (sw, mask)) = ended.append x.ctx
      { code := 3, src := 5, info := r.group + r.seq * 64 + sw * 2 ^ 22, addr := mask })

/-- R480: the sum of 32-bit integer contributions is their sum modulo 2^32, element by element, whatever switches it is combined at. -/
def Sys2Proof.Claims.IntegerSumsCombine : Prop :=
  ∀ (ps : List Contrib) (len j : Nat), ps ≠ [] → (∀ p, p ∈ ps → p.eng < 16384 ∧ p.data.length = len) → j < len / 4 →
    (combineAll 15 0 4 len ps).getD j 0 = (ps.map (fun p => ofLE ((p.data.drop (4 * j)).take 4))).sum % 2 ^ 32

/-! ### Encoding (R82 to R112, R143, R308) -/

/-- R82 to R85, R106 to R109, R308: every encodable instruction of the tile engines decodes from its word, and every Sedge extension
instruction from its word. Register and unregister and retry of a view are one word (R408). -/
def Sys2Proof.Claims.EncodedInstructionsDecodeBack : Prop :=
  ∀ (i : Instr), i.encodable = true →
    (∀ w, i.word = some w → decode w = .ok i) ∧
    (∀ w, i.sedge = some w → decodeSedge w = some i ∨
      ∃ f, (i = .xvregUnregister f ∨ i = .xvregRetry f) ∧ decodeSedge w = some (.xvreg f))

/-- R84, R111: a word that the decoder accepts encodes back to itself, but for the five bits that a control word does not use, and what it
decodes to is encodable. -/
def Sys2Proof.Claims.DecodedWordsEncodeBack : Prop :=
  (∀ (w : BitVec 64) (i : Instr), decode w = .ok i → i.encodable = true ∧ ∃ x, i.word = some x ∧
    (w.extractLsb' 62 2 ≠ 0 → x = w) ∧
    (w.extractLsb' 62 2 = 0 → x.extractLsb' 0 52 = w.extractLsb' 0 52 ∧ x.extractLsb' 57 7 = w.extractLsb' 57 7)) ∧
  (∀ (w : BitVec 32) (i : Instr), decodeSedge w = some i → i.sedge = some w)

/-- A word of the tile engines written field by field (R82): class, STOP, the four token bits, GUARD, OP, operands. -/
def Sys2Proof.Claims.talquin (cls : BitVec 2) (stop : BitVec 1) (tokens : BitVec 4) (guard : BitVec 5) (op : BitVec 8)
    (operands : BitVec 44) : BitVec 64 := cls ++ stop ++ tokens ++ guard ++ op ++ operands

/-- R82 to R85, R106 to R109, R308: words written out bit by bit decode to the instructions that they stand for, one of each class and form,
and a control word without STOP, a reserved opcode and a reserved guard are rejected by name. -/
def Obligations.SampleWordsDecode : Prop :=
  let any : Hdr := { stop := false, popu := false, popd := false, pushu := false, pushd := false, guard := 0b01111 }
  decode (Claims.talquin 0b00 1 0 0 0x02 (0b01111#5 ++ 0#1 ++ 0#6 ++ 0xFFFFFFF0#32)) =
    .ok (.bri { cond := 15, hint := false, a := 0, imm := 0xFFFFFFF0 }) ∧
  decode (Claims.talquin 0b10 0 0 0b01111 0x00 (3#6 ++ 4#6 ++ 5#6 ++ 0#6 ++ 15#5 ++ 0#3 ++ 0#1 ++ 0#11)) =
    .ok (.add any { d := 3, a := 4, b := 5, c := 0, fmt := 15, rm := 0, sat := false, fn := 0 }) ∧
  decode (Claims.talquin 0b10 1 0b1001 0b00010 0x01 (3#6 ++ 4#6 ++ 0xFFFFFFFF#32)) =
    .ok (.addi { stop := true, popu := true, popd := false, pushu := false, pushd := true, guard := 2 } { d := 3, a := 4, imm := 0xFFFFFFFF }) ∧
  decode (Claims.talquin 0b10 0 0 0b01111 0x46 (1#4 ++ 2#4 ++ 3#4 ++ 0#4 ++ 7#6 ++ 2#5 ++ 1#3 ++ 1#1 ++ 15#5 ++ 0#8)) =
    .ok (.vadd any { hd := 1, ha := 2, hb := 3, hc := 0, g := 7, fmt := 2, rm := 1, sat := true, mask := 15, fn := 0 }) ∧
  decode (Claims.talquin 0b10 0 0 0b01111 0x71 (9#5 ++ 65#7 ++ 2#4 ++ 0#4 ++ 5#5 ++ 6#5 ++ 0#3 ++ 0#1 ++ 3#10)) =
    .ok (.mma any { acc := 9, ws := 65, ha := 2, hs := 0, fa := 5, fb := 6, rm := 0, sat := false, fn := 3 }) ∧
  decode (Claims.talquin 0b01 0 0 0b01111 0x00 (1#6 ++ 2#6 ++ 0#6 ++ 16#5 ++ 0#5 ++ 0xFFF8#16)) =
    .ok (.ld any { d := 1, a := 2, b := 0, fmt := 16, mode := 0, ofs := 0xFFF8 }) ∧
  decode (Claims.talquin 0b11 1 0 0b01111 0x00 (0#6 ++ 0#6 ++ 0#6 ++ 0#7 ++ 0#3 ++ 0#16)) =
    .ok (.commit { any with stop := true } { d := 0, a := 0, b := 0, obj := 0, sub := 0, imm := 0 }) ∧
  decodeSedge (0#7 ++ 12#5 ++ 11#5 ++ 2#3 ++ 10#5 ++ 0x0B#7) = some (.xfrestok { d := 10, a := 11, b := 12 }) ∧
  decodeSedge (3#7 ++ 12#5 ++ 11#5 ++ 0#3 ++ 10#5 ++ 0x2B#7) = some (.xcapset { d := 10, a := 11, b := 12 } 3) ∧
  decode (Claims.talquin 0b00 0 0 0 0x02 0) = .illegalGroup ∧
  decode (Claims.talquin 0b00 1 0 0 0x0F 0) = .illegalInstr ∧
  decode (Claims.talquin 0b10 0 0 0b01100 0x00 0) = .illegalInstr

/-! ### The step: which instruction runs (R91, R92, R102, R105, R141, R308, R424, log 1) -/

/-- The head of queue `q` of the activation in slot `k` of engine `g` may issue: the activation is loaded and stays, the head has raised
no fault, has not issued before and is not behind a committing word, and its registers are free (R35, R91, R92, R105). -/
structure Sys2Proof.Claims.AtHead (s : State) (g k q : Nat) (a : Act) (e : QEntry) : Prop where
  here : s.act g k = some a
  stays : s.mustLeave g a = false
  loaded : a.loading = false
  head : ∃ r, a.queue q = e :: r
  calm : a.faults.any (fun f => f.n == e.n) = false
  fresh : a.issued e.n = false
  ahead : a.behind e.n = false
  free : a.clear e.n (entryUses e) = true

/-- R91, R92, R102, R141, R308 (log 1 for the agenda, which is the model's): a step takes the next turn of the agenda. The turn of a queue
runs what the word at its head, with its prefix, decodes to; that of a front end the control word that it holds; that of a hart the
extension word at its PC; that of an event the event; a use that has found bad check bits (R456) and an instance whose TIMEOUT has passed
(R482) the events that they make; and with no turn left a µs passes. Turns that a bracket joins are one cycle, and
port 1's claim in it is applied at its end, after the others (R424). -/
def Obligations.AStepRunsTheDecodedInstruction : Prop :=
  ∀ (s : State) (i : Instr) (r : List Turn),
    let u : State := { s with agenda := r }
    (s.agenda = .event i :: r → step s = exec i u) ∧
    (∀ g k q a e, s.agenda = .issue g k q :: r → Claims.AtHead u g k q a e → decodeEntry e.word e.pfx = .ok i →
      step s = exec i { u with focus := { s.focus with g := g, k := k, pc := e.pc, n := e.n, last := e.last } }) ∧
    (∀ g k a e, s.agenda = .front g k :: r → u.act g k = some a → u.mustLeave g a = false → a.front = some e →
      u.frontCan g k a = true → decode e.word = .ok i →
      step s = exec i { u with focus := { s.focus with g := g, k := k, pc := e.pc, n := e.n, last := e.last } }) ∧
    (∀ h lo hi t v, s.agenda = .hart h :: r → (s.hart h).run = .run → (s.cluster (h / 4)).gated = false →
      u.fetchHalf h (s.hart h).pc = .ok lo t → lo % 4 = 3 → t.fetchHalf h (((s.hart h).pc + 2) % 2 ^ 64) = .ok hi v →
      decodeSedge (BitVec.ofNat 32 (lo + 65536 * hi)) = some i → step s = exec i { v with focus := { v.focus with hart := h } }) ∧
    (∀ row x a, s.agenda = .badUse row x a :: r → step s = exec (.uncorrectableError row 4 x a) u) ∧
    (∀ j, s.agenda = .collAbort j :: r → step s = exec (.collTimeout j) u) ∧
    (s.agenda = .cycleStart :: r → step s = .next { u with sameCycle := true }) ∧
    (∀ v, s.agenda = .cycleEnd :: r → s.hub.lateClaim = some v → s.hub.holder = 2 →
      ∃ t, step s = .next t ∧ t.sameCycle = false ∧ t.hub.holder = 1 ∧ t.hub.epoch = (s.hub.epoch + 1) % 256) ∧
    (s.agenda = [] → ∃ t, step s = .next t ∧ t.hubTime = s.hubTime + 1)

/-! ### Reset and memory -/

/-- R397, R421 to R426, R434, R442, R446, R450, R460: after reset no context exists, no engine runs, memory lists nothing, no host holds the
lease, PERIOD is 1,000 ms and GRACE 30,000 ms, only BASE is accepted and the vector is not locked, THROT is 95, every measurement register
is zero, and every Nalornaz link is DOWN with LINK_ADMIN all ones. Where the specification gives no reset value the model's is zero
(logs 3 to 14). -/
def Obligations.ResetLeavesItsValues : Prop :=
  let s := State.reset
  (∀ c, (s.ctx c).state = .free) ∧ (∀ g k, s.act g k = none) ∧ s.mem = [] ∧ s.hub.holder = 2 ∧ s.hub.period = 1000 ∧
  s.hub.grace = 30000 ∧ s.hub.epoch = 0 ∧ s.hub.featAcc = 1 ∧ s.hub.locked = false ∧ s.hub.throt = 95 ∧ s.hub.planRes = 0 ∧
  (∀ i, s.bittern.mr.get 0 i = 0) ∧ s.hub.linkAdmin = 2 ^ 32 - 1 ∧ (∀ k, (s.linkPort k).state = .down) ∧
  (∀ k, s.keys.get 0 k = 0) ∧ s.views = [] ∧ s.packets = [] ∧ s.inflight = [] ∧ Memory.wf s.mem = true

/-- R2: what a store writes is what a load of the same bytes reads, least significant byte first; every other byte keeps its value, and
memory keeps its canonical form. -/
def Sys2Proof.Claims.MemoryReadsWhatWasWritten : Prop :=
  ∀ (m : List Host.Cell) (a n v : Nat), Memory.wf m = true →
    Memory.wf (writeLE m a n v) = true ∧ readLE (writeLE m a n v) a n = v % 2 ^ (8 * n) ∧
    ∀ b, b < a ∨ a + n ≤ b → Sparse.get 0 (writeLE m a n v) b = Sparse.get 0 m b

/-- R6, R297: g0 and x0 read zero and discard what is written to them; a write to any other general register, predicate or hart register is
what it reads afterwards, and every other register keeps its value. (A register file is a map in canonical form, log 9.) -/
def Sys2Proof.Claims.RegistersReadWhatWasWritten : Prop :=
  (∀ (a : Act) (v : BitVec 64), a.rg 0 = 0 ∧ a.wg 0 v = a) ∧
  (∀ (a : Act) (d : Nat) (v : BitVec 64), d ≠ 0 → Sparse.canonical 0 a.g = true →
    (a.wg d v).rg d = v ∧ (∀ j, j ≠ d → (a.wg d v).rg j = a.rg j) ∧ Sparse.canonical 0 (a.wg d v).g = true) ∧
  (∀ (a : Act) (n : Nat) (b : Bool), n < 12 → (a.wp n b).rp n = b ∧ ∀ m, m ≠ n → (a.wp n b).rp m = a.rp m) ∧
  (∀ (H : Hart) (v : Nat), H.xr 0 = 0 ∧ H.setX 0 v = H) ∧
  (∀ (H : Hart) (d v : Nat), d ≠ 0 → Sparse.canonical 0 H.x = true →
    (H.setX d v).xr d = v % 2 ^ 64 ∧ (∀ j, j ≠ d → (H.setX d v).xr j = H.xr j) ∧ Sparse.canonical 0 (H.setX d v).x = true)

/-- The canonical form of memory (the model's, log 9) is kept by every step. -/
def Obligations.EveryStepKeepsMemoryCanonical : Prop :=
  ∀ (s t : State), Memory.wf s.mem = true → step s = .next t → Memory.wf t.mem = true

/-! ### What several instructions share: exceptions of the harts, fault queues, routes (R295, R301, R307, R398 to R401) -/

/-- R297, R298, R301, R307: a hart that takes an exception saves its PC, the cause and the value of the trap, and its interrupt enable and
mode, and goes on at the handler's address with interrupts off: in S mode where it runs below M and medeleg has the cause's bit, else in
M mode. A failed capability check also writes CL_SEDGE_FLT with the physical address, the KIND and CAP 1, and any other access fault
clears CAP. The trap entry, the causes and the trap values are those of the RISC-V manuals (log 7). -/
def Sys2Proof.Claims.HartsTakeExceptions : Prop :=
  (∀ (H : Hart) (cause tval : Nat),
    let c := H.csr
    ((H.mode = .m ∨ c.medeleg.testBit cause = false) → H.trap cause tval = { H with
      mode := .m, pc := c.mtvec / 4 * 4, csr := { c with
        mepc := H.pc, mcause := cause, mtval := tval,
        mstatus := setField (setField (setField c.mstatus 7 7 (c.mstatus / 2 ^ 3 % 2)) 12 11
          (match H.mode with
            | .u => 0
            | .s => 1
            | .m => 3)) 3 3 0 } }) ∧
    (H.mode ≠ .m → c.medeleg.testBit cause = true → H.trap cause tval = { H with
      mode := .s, pc := c.stvec / 4 * 4, csr := { c with
        sepc := H.pc, scause := cause, stval := tval,
        mstatus := setField (setField (setField c.mstatus 5 5 (c.mstatus / 2 % 2)) 8 8 (if H.mode = .s then 1 else 0)) 1 1 0 } })) ∧
  ∀ (s : State) (h va pa : Nat) (n : HNeed), h < 4096 →
    let kind := if n.x then 2 else if n.w || n.st then 1 else 0
    let cause := if n.x then 1 else if n.w || n.st then 7 else 5
    (s.hartFault h n { cause := cause, va := va, cap := some pa } =
      s.modHart h (fun H => ({ H with flt := pa % 2 ^ 48 + kind * 2 ^ 48 + 2 ^ 63 } : Hart).trap cause va)) ∧
    (s.hartFault h n { cause := cause, va := va } = s.modHart h (fun H => ({ H with flt := H.flt % 2 ^ 63 } : Hart).trap cause va)) ∧
    (∀ x, x ≠ cause → s.hartFault h n { cause := x, va := va } = s.modHart h (fun H => H.trap x va))

/-- The 64 bytes of a fault record as R399 lays them out. -/
def Sys2Proof.Claims.recordBytes (r : Rec) (ctx time seq : Nat) : List Byte :=
  toLE 2 r.code ++ toLE 1 (r.src + (if r.held then 16 else 0) + (if r.ovf then 32 else 0) + (if r.struct then 64 else 0)) ++
    toLE 1 ctx ++ toLE 4 r.who ++ toLE 8 r.wher ++ toLE 8 r.info ++ toLE 8 r.addr ++ toLE 4 r.future ++ toLE 1 r.reason ++
    toLE 1 r.share ++ toLE 2 0 ++ toLE 8 time ++ toLE 4 seq ++ toLE 12 0

/-- R397 to R399, R401: an append to the fault queue of a context, whose ring lies apart from its descriptor, writes the record at
BASE + 64·Mod(TAIL, 2^LOG2SIZE), with the hub time of the fault, and TAIL + 1, and sends its value to the future that DOORBELL names; one
to a full or badly placed ring adds one to LOST, and sends nothing. No other byte of memory changes. For a context that does not exist
or is being torn down nothing happens. Writes are the home's (log 107). -/
def Sys2Proof.Claims.FaultRecordsAreAppended : Prop :=
  ∀ (s : State) (ctx : Nat) (r : Rec), Memory.wf s.mem = true →
    let d := (s.ctx ctx).fqDesc
    let base := readLE s.mem d 8 % 2 ^ 48
    let log := readLE s.mem d 8 / 2 ^ 48 % 2 ^ 5
    let head := readLE s.mem (d + 8) 4
    let tail := readLE s.mem (d + 12) 4
    let bell := readLE s.mem (d + 16) 4
    let lost := readLE s.mem (d + 20) 4
    let t := s.append ctx r
    let room : Prop := base % 64 = 0 ∧ 4 ≤ log ∧ log ≤ 16 ∧ inDram base (64 * 2 ^ log) = true ∧
      (tail + 2 ^ 32 - head) % 2 ^ 32 < 2 ^ log
    ((s.ctx ctx).exists = false → t = s) ∧
    ((s.ctx ctx).exists = true → room → (base + 64 * 2 ^ log ≤ d ∨ d + 32 ≤ base) →
      let slot := base + 64 * (tail % 2 ^ log)
      bytesAt t.mem slot 64 = Claims.recordBytes r ctx (r.time.getD s.hubTime) tail ∧
      readLE t.mem (d + 12) 4 = (tail + 1) % 2 ^ 32 ∧
      (∀ x, (x < slot ∨ slot + 64 ≤ x) → (x < d + 12 ∨ d + 16 ≤ x) → bytesAt t.mem x 1 = bytesAt s.mem x 1) ∧
      (bell = 0 → t.packets = s.packets) ∧
      (bell ≠ 0 → ∃ p, t.packets = s.packets ++ [p] ∧ p.src = .hub ∧ p.ctx = ctx ∧ p.body = .future bell (.resolve ((tail + 1) % 2 ^ 32)))) ∧
    ((s.ctx ctx).exists = true → ¬ room → readLE t.mem (d + 20) 4 = min (lost + 1) (2 ^ 32 - 1) ∧ t.packets = s.packets ∧
      ∀ x, (x < d + 20 ∨ d + 24 ≤ x) → bytesAt t.mem x 1 = bytesAt s.mem x 1)

/-- R262, R295: the route of RTMK from cluster `src` to the cluster, port or core that the target word names, by the planes of the selector
word, for each relation of the two clusters: HOPS, TURN, the hops, DTYPE, and zeros. -/
def Sys2Proof.Claims.RoutesFollowTheTable : Prop :=
  ∀ (src ga gb dtype : Nat),
    let t := ga / 2 ^ 14 % 2 ^ 10
    let q := gb % 2
    let u := gb / 2 % 4
    let p := if dtype = 0 then ga / 2 ^ 10 % 2 ^ 4 else if dtype = 1 then 16 + ga / 2 ^ 10 % 2 ^ 2 else 20
    let hop := fun (i v : Nat) => v * 2 ^ (10 + 6 * i)
    let dt := dtype * 2 ^ 118
    let r := routeTo src ga gb dtype
    (t = src → r = 1 + hop 0 p + dt) ∧
    (t ≠ src → t / 16 = src / 16 → r = 3 + 1 * 32 + hop 0 (24 + q) + hop 1 (t % 16) + hop 2 p + dt) ∧
    (t / 16 ≠ src / 16 → t / 256 = src / 256 →
      r = 5 + 2 * 32 + hop 0 (24 + q) + hop 1 (16 + u) + hop 2 (t / 16 % 16) + hop 3 (t % 16) + hop 4 p + dt) ∧
    (t / 256 ≠ src / 256 → r = 7 + 3 * 32 + hop 0 (24 + q) + hop 1 (16 + u) + hop 2 20 + hop 3 (8 * (t / 256) + 4 * q + u) +
      hop 4 (t / 16 % 16) + hop 5 (t % 16) + hop 6 p + dt)

/-! ### The statements that join several of one kind -/

/-- R128, R129, R131: logic, shifts, counts, selections, moves and bit fields. -/
def Obligations.LogicAndFieldWordsWriteTheirResult : Prop :=
  Claims.LogicShiftAndCountWriteTheirResult ∧ Claims.SelectMoveAndFieldWordsWriteTheirBits

/-- R54 to R57, R136: float arithmetic rounds the exact result once, and a code stands for its value. -/
def Obligations.FloatArithmeticIsRoundedOnce : Prop :=
  Claims.FloatArithmeticRoundsOnce ∧ Claims.FloatCodesAreTheCodesOfTheirValues

/-- R48 to R50, R89, R101, R105, R112, R143, R149, R397 to R399, R401: words with no effect of their own, the two that only fault,
what taking a fault does, and fault records. (Logs 28, 107.) -/
def Obligations.NopTrapBreakpointAndHints : Prop :=
  Claims.NopTrapAndBreakpoint ∧ Claims.HintWordsOnlyMoveTokens ∧ Claims.TakingAFaultEndsTheSegment ∧
  Claims.TheRestOfTheGroupEnters ∧ Claims.FaultRecordsAreAppended

/-- R144, R148, R150: branches, calls and returns. -/
def Obligations.TransfersReachTheirTargetOrFault : Prop :=
  Claims.TransfersGoToTheirTarget ∧ Claims.BadTargetsFault

/-- R145, R146: hardware loops, opened, skipped and taken back. -/
def Obligations.LoopsFollowTheirCounts : Prop :=
  Claims.LoopsOpenOrSkip ∧ Claims.LoopBackFollowsTheRule

/-- R93, R95, R96, R105: the token counters. (Log 28.) -/
def Obligations.TokensMoveAndOverflow : Prop :=
  Claims.TokensMoveOnTheRing ∧ Claims.TokenOverflowIsRaised

/-- R97, R190 to R192, R220: loads and stores of the scratchpad, with their checks. -/
def Obligations.ScratchpadWordsCheckLoadAndStore : Prop :=
  Claims.ScratchpadChecksRaise ∧ Claims.ScratchpadLoadReadsItsElement ∧ Claims.ScratchpadStoreWritesItsElement

/-- R212, R217: queries of copies and barriers, and the wait. -/
def Obligations.CopyAndBarrierWordsReadTheirState : Prop :=
  Claims.CopyAndBarrierQueriesReadTheirState ∧ Claims.BarrierWaitCompletesWaitsOrFaults

/-- R262, R272, R273, R290, R292, R295: tests and allocation of futures, and the route of a handle. -/
def Obligations.FutureWordsTestRouteAndAllocate : Prop :=
  Claims.FutureTestsRouteAndAllocation ∧ Claims.AllocationTakesAFreeFuture ∧ Claims.RoutesFollowTheTable

/-- R27, R134, R252, R267, R273, R403: the special registers. -/
def Obligations.SpecialRegistersReadAndWrite : Prop :=
  Claims.SpecialRegisterReads ∧ Claims.SpecialRegisterWrites

/-- R154, R155: shape registers. -/
def Obligations.ShapeWordsLoadStoreAndSetFields : Prop :=
  Claims.ShapeLoadAndStore ∧ Claims.ShapeFieldWords

/-- R159, R161, R163, R166, R167, R172 to R175: what the words over rows store, and the vector words on the smallest cases. (Logs
22, 23, 27.) -/
def Obligations.VectorRowsAndSumsCompute : Prop :=
  Claims.VectorAddOfSingleIntegers ∧ Claims.VectorSumOfIntegersWraps ∧ Claims.RowWordsStoreEachRow

/-- R225, R226, R237 to R239, R241, R242, R247, R248, R253: the arbiter of a matrix unit, and what a granted command does. -/
def Obligations.TheUnitGrantsAndActs : Prop :=
  Claims.TheArbiterGrantsInTurn ∧ Claims.GrantedCommandsAct

/-- R35, R43, R285, R286, R288, R289, R293, R349, R355: EXIT, YIELD, AWAIT and TACQ. (Logs 28, 90, 99.) -/
def Obligations.EndingWordsCheckAndEnd : Prop :=
  Claims.EndingWordsCheckTheirSegment ∧ Claims.EndingWordsEndTheActivation

/-- R289, R293, R349, R355, R367: MIGRATE and LRW. (Log 90.) -/
def Obligations.MigrationAndReservationRequests : Prop :=
  Claims.MigrateSendsTheContinuation ∧ Claims.LrwFilesItsRequest ∧ Claims.EndingWordsCheckTheirOperands

/-- R310, R314, R317, R319: XSEND, XFRESTOK and the tail that a prefill agent advances. (Log 7.) -/
def Obligations.HartMessagesAndTokens : Prop :=
  Claims.XsendInjectsItsMessage ∧ Claims.HartInjectsTokens ∧ Claims.TheTailAdvances

/-- R318, R320, R370 to R372, R417: XFRES, XFDEC, XFTEST and XFWAIT. -/
def Obligations.HartFutureWords : Prop :=
  Claims.HartResolvesAndDecrements ∧ Claims.HartTestsAndWaits ∧ Claims.HartUpdatesAreReleases

/-- R321 to R324: XCQPOP, XFENCE, XCAPSET, XCAPCLR and XCPYR. (Logs 7, 42.) -/
def Obligations.HartCallsFencesAndCapabilities : Prop :=
  Claims.XcqpopTakesTheOldestCall ∧ Claims.FencesCapabilitiesAndReplays

/-- R297 to R299, R306, R370, R385: accesses of a hart, to memory and to the flash window. (Logs 7, 33, 41, 72.) -/
def Obligations.HartAndFlashAccessesComplete : Prop :=
  Claims.HartAccessesComplete ∧ Claims.FlashAccessesComplete

/-- R23, R297, R298, R301, R302, R307, R320: accesses to control and status registers, the interrupt that ends a wait, and
exceptions. (Logs 7, 55, 93.) -/
def Obligations.CsrAndInterrupts : Prop :=
  Claims.CsrAccessesComplete ∧ Claims.InterruptEndsTheWait ∧ Claims.HartsTakeExceptions

/-- R33, R34, R46, R87, R89, R90, R102, R103, R264, R269: dispatch of groups, of queued records, and the start of an activation.
(Logs 17, 28, 29, 83, 96.) -/
def Obligations.WorkIsDispatchedAndStarts : Prop :=
  Claims.GroupsOfOneWordDispatch ∧ Claims.DispatchTakesTheHead ∧ Claims.ActivationsStartAsTheirRecord

/-- R95, R191, R193, R194, R365, R386, R415, R416, R467: the return of loads. (Logs 74, 75.) -/
def Obligations.LoadsReturnAndViewsAreServed : Prop :=
  Claims.LoadsReturn ∧ Claims.PlainLoadsReadTheirBytes ∧ Claims.ViewLoadsAreServed

/-- R48, R99, R211, R222, R250, R265, R266, R270, R281, R282: pre-emption, deadlocks, context switches and stealing. (Logs 54, 98.)
-/
def Obligations.ActivationsLeaveAndEnginesTurn : Prop :=
  Claims.ActivationsLeaveTheirSlots ∧ Claims.EnginesSwitchAndSteal

/-- R257, R262, R263, R272, R274 to R277, R279, R289, R291, R294, R370: arrivals at a cluster. (Logs 43, 81, 97.) -/
def Obligations.MessagesAndFutureOperationsArrive : Prop :=
  Claims.MessagesArrive ∧ Claims.FutureOperationsArrive ∧ Claims.WaiterDeadlinesPass

/-- R49, R345, R346, R348, R366, R390, R425, R433, R467, R477: performed effects, host lines and page tables. (Logs 103, 105, 107.)
-/
def Obligations.EffectsReachMemory : Prop :=
  Claims.MemoryEffectsReachTheirPlace ∧ Claims.HostLinesAndTableWrites

/-- R336 to R342, R349 to R351, R367, R370, R393: tenures and reservations. (Logs 84, 90, 92, 106.) -/
def Obligations.TenuresAndReservationsPass : Prop :=
  Claims.TenureIsGrantedAndEnds ∧ Claims.ReservationsAreGrantedAndPassed

/-- R22, R46, R397, R412, R413: contexts and views. (Logs 78, 81.) -/
def Obligations.ContextsAndViewsAct : Prop :=
  Claims.ContextCommandsAct ∧ Claims.ViewBlocksAreRecomputed

/-- R22, R23, R421, R423 to R427, R429 to R432, R435 to R440, R442: the lease, the hub, the endpoint. (Logs 31, 56, 57, 58, 59, 73.)
-/
def Obligations.HostsAndEndpointsAct : Prop :=
  Claims.TheLeaseChangesHands ∧ Claims.HubWritesAct ∧ Claims.TheEndpointActs

/-- R441, R444 to R447, R492 to R495: the management core. The layouts of SPDM are log 25. (Logs 65, 104.) -/
def Obligations.BitternBootsAndAnswers : Prop :=
  Claims.BootFollowsItsStages ∧ Claims.BitternUnitsAct ∧ Claims.BitternAccessesComplete ∧ Claims.SpdmAnswers

/-- R433, R434, R448 to R451, R454 to R457: key slots, clock plans, power and errors. (Logs 7, 67, 68.) -/
def Obligations.KeysPlansPowerAndErrors : Prop :=
  Claims.KeysMove ∧ Claims.PlansAreChecked ∧ Claims.PowerFollowsItsRules ∧ Claims.ErrorsAreContained

/-- R370, R459, R460, R465 to R467, R469 to R471, R473, R477: switches, the shaper, links and remote requests. First contents of a
bucket are log 15. (Logs 89, 103, 108.) -/
def Obligations.TheFabricForwardsAndTrains : Prop :=
  Claims.SwitchesForwardOrReturn ∧ Claims.TheShaperCharges ∧ Claims.LinksFollowTheirStates ∧ Claims.RemoteRequestsAreAnswered ∧
  Claims.OutputPortsServeInTurn

/-- R478, R480 to R482: groups, their results and their end. (Logs 95, 110.) -/
def Obligations.CollectivesCombineAndLand : Prop :=
  Claims.GroupsAreRegistered ∧ Claims.ResultsLandInChunks ∧ Claims.InstancesTimeOut ∧ Claims.IntegerSumsCombine

/-- R2, R6, R297: registers and memory read back what was written, and nothing else changes. (Log 9.) -/
def Obligations.RegistersAndMemoryReadBack : Prop :=
  Claims.RegistersReadWhatWasWritten ∧ Claims.MemoryReadsWhatWasWritten

/-- R82 to R85, R106 to R109, R111, R308: decoding and encoding agree, both ways. -/
def Obligations.EncodingsRoundTrip : Prop :=
  Claims.EncodedInstructionsDecodeBack ∧ Claims.DecodedWordsEncodeBack

end
end

