-- ==== Sys2Proof/Laws/Act.lean ====
section
/-! SUPPORT. What the updates of an activation leave alone: one lemma for each field of each update. -/

namespace Sys2Proof.Machine

@[simp] theorem Act.setTok_act (a : Act) (q v : Nat) : (a.setTok q v).act = a.act := by
  unfold Act.setTok
  split <;> rfl
@[simp] theorem Act.setTok_ctx (a : Act) (q v : Nat) : (a.setTok q v).ctx = a.ctx := by
  unfold Act.setTok
  split <;> rfl
@[simp] theorem Act.setTok_seq (a : Act) (q v : Nat) : (a.setTok q v).seq = a.seq := by
  unfold Act.setTok
  split <;> rfl
@[simp] theorem Act.setTok_kind (a : Act) (q v : Nat) : (a.setTok q v).kind = a.kind := by
  unfold Act.setTok
  split <;> rfl
@[simp] theorem Act.setTok_status (a : Act) (q v : Nat) : (a.setTok q v).status = a.status := by
  unfold Act.setTok
  split <;> rfl
@[simp] theorem Act.setTok_loading (a : Act) (q v : Nat) : (a.setTok q v).loading = a.loading := by
  unfold Act.setTok
  split <;> rfl
@[simp] theorem Act.setTok_pc (a : Act) (q v : Nat) : (a.setTok q v).pc = a.pc := by
  unfold Act.setTok
  split <;> rfl
@[simp] theorem Act.setTok_g (a : Act) (q v : Nat) : (a.setTok q v).g = a.g := by
  unfold Act.setTok
  split <;> rfl
@[simp] theorem Act.setTok_p (a : Act) (q v : Nat) : (a.setTok q v).p = a.p := by
  unfold Act.setTok
  split <;> rfl
@[simp] theorem Act.setTok_h (a : Act) (q v : Nat) : (a.setTok q v).h = a.h := by
  unfold Act.setTok
  split <;> rfl
@[simp] theorem Act.setTok_loops (a : Act) (q v : Nat) : (a.setTok q v).loops = a.loops := by
  unfold Act.setTok
  split <;> rfl
@[simp] theorem Act.setTok_pfx (a : Act) (q v : Nat) : (a.setTok q v).pfx = a.pfx := by
  unfold Act.setTok
  split <;> rfl
@[simp] theorem Act.setTok_s0 (a : Act) (q v : Nat) : (a.setTok q v).s0 = a.s0 := by
  unfold Act.setTok
  split <;> rfl
@[simp] theorem Act.setTok_s1 (a : Act) (q v : Nat) : (a.setTok q v).s1 = a.s1 := by
  unfold Act.setTok
  split <;> rfl
@[simp] theorem Act.setTok_rngReady (a : Act) (q v : Nat) : (a.setTok q v).rngReady = a.rngReady := by
  unfold Act.setTok
  split <;> rfl
@[simp] theorem Act.setTok_deferred (a : Act) (q v : Nat) : (a.setTok q v).deferred = a.deferred := by
  unfold Act.setTok
  split <;> rfl
@[simp] theorem Act.setTok_allocs (a : Act) (q v : Nat) : (a.setTok q v).allocs = a.allocs := by
  unfold Act.setTok
  split <;> rfl
@[simp] theorem Act.setTok_segCount (a : Act) (q v : Nat) : (a.setTok q v).segCount = a.segCount := by
  unfold Act.setTok
  split <;> rfl
@[simp] theorem Act.setTok_qa (a : Act) (q v : Nat) : (a.setTok q v).qa = a.qa := by
  unfold Act.setTok
  split <;> rfl
@[simp] theorem Act.setTok_qc (a : Act) (q v : Nat) : (a.setTok q v).qc = a.qc := by
  unfold Act.setTok
  split <;> rfl
@[simp] theorem Act.setTok_qs (a : Act) (q v : Nat) : (a.setTok q v).qs = a.qs := by
  unfold Act.setTok
  split <;> rfl
@[simp] theorem Act.setTok_front (a : Act) (q v : Nat) : (a.setTok q v).front = a.front := by
  unfold Act.setTok
  split <;> rfl
@[simp] theorem Act.setTok_rest (a : Act) (q v : Nat) : (a.setTok q v).rest = a.rest := by
  unfold Act.setTok
  split <;> rfl
@[simp] theorem Act.setTok_ahead (a : Act) (q v : Nat) : (a.setTok q v).ahead = a.ahead := by
  unfold Act.setTok
  split <;> rfl
@[simp] theorem Act.setTok_next (a : Act) (q v : Nat) : (a.setTok q v).next = a.next := by
  unfold Act.setTok
  split <;> rfl
@[simp] theorem Act.setTok_loads (a : Act) (q v : Nat) : (a.setTok q v).loads = a.loads := by
  unfold Act.setTok
  split <;> rfl
@[simp] theorem Act.setTok_owed (a : Act) (q v : Nat) : (a.setTok q v).owed = a.owed := by
  unfold Act.setTok
  split <;> rfl
@[simp] theorem Act.setTok_faults (a : Act) (q v : Nat) : (a.setTok q v).faults = a.faults := by
  unfold Act.setTok
  split <;> rfl
@[simp] theorem Act.setTok_uses (a : Act) (q v : Nat) : (a.setTok q v).uses = a.uses := by
  unfold Act.setTok
  split <;> rfl
@[simp] theorem Act.setTok_pins (a : Act) (q v : Nat) : (a.setTok q v).pins = a.pins := by
  unfold Act.setTok
  split <;> rfl
@[simp] theorem Act.setTok_busy (a : Act) (q v : Nat) : (a.setTok q v).busy = a.busy := by
  unfold Act.setTok
  split <;> rfl
@[simp] theorem Act.setTok_held (a : Act) (q v : Nat) : (a.setTok q v).held = a.held := by
  unfold Act.setTok
  split <;> rfl
@[simp] theorem Act.setTok_stall (a : Act) (q v : Nat) : (a.setTok q v).stall = a.stall := by
  unfold Act.setTok
  split <;> rfl
@[simp] theorem Act.setTok_stalls (a : Act) (q v : Nat) : (a.setTok q v).stalls = a.stalls := by
  unfold Act.setTok
  split <;> rfl
@[simp] theorem Act.setTok_began (a : Act) (q v : Nat) : (a.setTok q v).began = a.began := by
  unfold Act.setTok
  split <;> rfl
@[simp] theorem Act.setTok_blocked (a : Act) (q v : Nat) : (a.setTok q v).blocked = a.blocked := by
  unfold Act.setTok
  split <;> rfl
@[simp] theorem Act.setTok_dispatched (a : Act) (q v : Nat) : (a.setTok q v).dispatched = a.dispatched := by
  unfold Act.setTok
  split <;> rfl
@[simp] theorem Act.setTok_obs (a : Act) (q v : Nat) : (a.setTok q v).obs = a.obs := by
  unfold Act.setTok
  split <;> rfl
@[simp] theorem Act.setQueue_act (a : Act) (q : Nat) (l : List QEntry) : (a.setQueue q l).act = a.act := by
  unfold Act.setQueue
  split <;> rfl
@[simp] theorem Act.setQueue_ctx (a : Act) (q : Nat) (l : List QEntry) : (a.setQueue q l).ctx = a.ctx := by
  unfold Act.setQueue
  split <;> rfl
@[simp] theorem Act.setQueue_seq (a : Act) (q : Nat) (l : List QEntry) : (a.setQueue q l).seq = a.seq := by
  unfold Act.setQueue
  split <;> rfl
@[simp] theorem Act.setQueue_kind (a : Act) (q : Nat) (l : List QEntry) : (a.setQueue q l).kind = a.kind := by
  unfold Act.setQueue
  split <;> rfl
@[simp] theorem Act.setQueue_status (a : Act) (q : Nat) (l : List QEntry) : (a.setQueue q l).status = a.status := by
  unfold Act.setQueue
  split <;> rfl
@[simp] theorem Act.setQueue_loading (a : Act) (q : Nat) (l : List QEntry) : (a.setQueue q l).loading = a.loading := by
  unfold Act.setQueue
  split <;> rfl
@[simp] theorem Act.setQueue_pc (a : Act) (q : Nat) (l : List QEntry) : (a.setQueue q l).pc = a.pc := by
  unfold Act.setQueue
  split <;> rfl
@[simp] theorem Act.setQueue_g (a : Act) (q : Nat) (l : List QEntry) : (a.setQueue q l).g = a.g := by
  unfold Act.setQueue
  split <;> rfl
@[simp] theorem Act.setQueue_p (a : Act) (q : Nat) (l : List QEntry) : (a.setQueue q l).p = a.p := by
  unfold Act.setQueue
  split <;> rfl
@[simp] theorem Act.setQueue_h (a : Act) (q : Nat) (l : List QEntry) : (a.setQueue q l).h = a.h := by
  unfold Act.setQueue
  split <;> rfl
@[simp] theorem Act.setQueue_loops (a : Act) (q : Nat) (l : List QEntry) : (a.setQueue q l).loops = a.loops := by
  unfold Act.setQueue
  split <;> rfl
@[simp] theorem Act.setQueue_pfx (a : Act) (q : Nat) (l : List QEntry) : (a.setQueue q l).pfx = a.pfx := by
  unfold Act.setQueue
  split <;> rfl
@[simp] theorem Act.setQueue_tc (a : Act) (q : Nat) (l : List QEntry) : (a.setQueue q l).tc = a.tc := by
  unfold Act.setQueue
  split <;> rfl
@[simp] theorem Act.setQueue_ts (a : Act) (q : Nat) (l : List QEntry) : (a.setQueue q l).ts = a.ts := by
  unfold Act.setQueue
  split <;> rfl
@[simp] theorem Act.setQueue_ta (a : Act) (q : Nat) (l : List QEntry) : (a.setQueue q l).ta = a.ta := by
  unfold Act.setQueue
  split <;> rfl
@[simp] theorem Act.setQueue_s0 (a : Act) (q : Nat) (l : List QEntry) : (a.setQueue q l).s0 = a.s0 := by
  unfold Act.setQueue
  split <;> rfl
@[simp] theorem Act.setQueue_s1 (a : Act) (q : Nat) (l : List QEntry) : (a.setQueue q l).s1 = a.s1 := by
  unfold Act.setQueue
  split <;> rfl
@[simp] theorem Act.setQueue_rngReady (a : Act) (q : Nat) (l : List QEntry) : (a.setQueue q l).rngReady = a.rngReady := by
  unfold Act.setQueue
  split <;> rfl
@[simp] theorem Act.setQueue_deferred (a : Act) (q : Nat) (l : List QEntry) : (a.setQueue q l).deferred = a.deferred := by
  unfold Act.setQueue
  split <;> rfl
@[simp] theorem Act.setQueue_allocs (a : Act) (q : Nat) (l : List QEntry) : (a.setQueue q l).allocs = a.allocs := by
  unfold Act.setQueue
  split <;> rfl
@[simp] theorem Act.setQueue_segCount (a : Act) (q : Nat) (l : List QEntry) : (a.setQueue q l).segCount = a.segCount := by
  unfold Act.setQueue
  split <;> rfl
@[simp] theorem Act.setQueue_front (a : Act) (q : Nat) (l : List QEntry) : (a.setQueue q l).front = a.front := by
  unfold Act.setQueue
  split <;> rfl
@[simp] theorem Act.setQueue_rest (a : Act) (q : Nat) (l : List QEntry) : (a.setQueue q l).rest = a.rest := by
  unfold Act.setQueue
  split <;> rfl
@[simp] theorem Act.setQueue_ahead (a : Act) (q : Nat) (l : List QEntry) : (a.setQueue q l).ahead = a.ahead := by
  unfold Act.setQueue
  split <;> rfl
@[simp] theorem Act.setQueue_next (a : Act) (q : Nat) (l : List QEntry) : (a.setQueue q l).next = a.next := by
  unfold Act.setQueue
  split <;> rfl
@[simp] theorem Act.setQueue_loads (a : Act) (q : Nat) (l : List QEntry) : (a.setQueue q l).loads = a.loads := by
  unfold Act.setQueue
  split <;> rfl
@[simp] theorem Act.setQueue_owed (a : Act) (q : Nat) (l : List QEntry) : (a.setQueue q l).owed = a.owed := by
  unfold Act.setQueue
  split <;> rfl
@[simp] theorem Act.setQueue_faults (a : Act) (q : Nat) (l : List QEntry) : (a.setQueue q l).faults = a.faults := by
  unfold Act.setQueue
  split <;> rfl
@[simp] theorem Act.setQueue_uses (a : Act) (q : Nat) (l : List QEntry) : (a.setQueue q l).uses = a.uses := by
  unfold Act.setQueue
  split <;> rfl
@[simp] theorem Act.setQueue_pins (a : Act) (q : Nat) (l : List QEntry) : (a.setQueue q l).pins = a.pins := by
  unfold Act.setQueue
  split <;> rfl
@[simp] theorem Act.setQueue_busy (a : Act) (q : Nat) (l : List QEntry) : (a.setQueue q l).busy = a.busy := by
  unfold Act.setQueue
  split <;> rfl
@[simp] theorem Act.setQueue_held (a : Act) (q : Nat) (l : List QEntry) : (a.setQueue q l).held = a.held := by
  unfold Act.setQueue
  split <;> rfl
@[simp] theorem Act.setQueue_stall (a : Act) (q : Nat) (l : List QEntry) : (a.setQueue q l).stall = a.stall := by
  unfold Act.setQueue
  split <;> rfl
@[simp] theorem Act.setQueue_stalls (a : Act) (q : Nat) (l : List QEntry) : (a.setQueue q l).stalls = a.stalls := by
  unfold Act.setQueue
  split <;> rfl
@[simp] theorem Act.setQueue_began (a : Act) (q : Nat) (l : List QEntry) : (a.setQueue q l).began = a.began := by
  unfold Act.setQueue
  split <;> rfl
@[simp] theorem Act.setQueue_blocked (a : Act) (q : Nat) (l : List QEntry) : (a.setQueue q l).blocked = a.blocked := by
  unfold Act.setQueue
  split <;> rfl
@[simp] theorem Act.setQueue_dispatched (a : Act) (q : Nat) (l : List QEntry) : (a.setQueue q l).dispatched = a.dispatched := by
  unfold Act.setQueue
  split <;> rfl
@[simp] theorem Act.setQueue_obs (a : Act) (q : Nat) (l : List QEntry) : (a.setQueue q l).obs = a.obs := by
  unfold Act.setQueue
  split <;> rfl
@[simp] theorem Act.pops_act (a : Act) (q : Nat) (h : Hdr) : (a.pops q h).act = a.act := by
  unfold Act.pops
  split <;> split <;> split <;> simp
@[simp] theorem Act.pops_ctx (a : Act) (q : Nat) (h : Hdr) : (a.pops q h).ctx = a.ctx := by
  unfold Act.pops
  split <;> split <;> split <;> simp
@[simp] theorem Act.pops_seq (a : Act) (q : Nat) (h : Hdr) : (a.pops q h).seq = a.seq := by
  unfold Act.pops
  split <;> split <;> split <;> simp
@[simp] theorem Act.pops_kind (a : Act) (q : Nat) (h : Hdr) : (a.pops q h).kind = a.kind := by
  unfold Act.pops
  split <;> split <;> split <;> simp
@[simp] theorem Act.pops_status (a : Act) (q : Nat) (h : Hdr) : (a.pops q h).status = a.status := by
  unfold Act.pops
  split <;> split <;> split <;> simp
@[simp] theorem Act.pops_loading (a : Act) (q : Nat) (h : Hdr) : (a.pops q h).loading = a.loading := by
  unfold Act.pops
  split <;> split <;> split <;> simp
@[simp] theorem Act.pops_pc (a : Act) (q : Nat) (h : Hdr) : (a.pops q h).pc = a.pc := by
  unfold Act.pops
  split <;> split <;> split <;> simp
@[simp] theorem Act.pops_g (a : Act) (q : Nat) (h : Hdr) : (a.pops q h).g = a.g := by
  unfold Act.pops
  split <;> split <;> split <;> simp
@[simp] theorem Act.pops_p (a : Act) (q : Nat) (h : Hdr) : (a.pops q h).p = a.p := by
  unfold Act.pops
  split <;> split <;> split <;> simp
@[simp] theorem Act.pops_h (a : Act) (q : Nat) (h : Hdr) : (a.pops q h).h = a.h := by
  unfold Act.pops
  split <;> split <;> split <;> simp
@[simp] theorem Act.pops_loops (a : Act) (q : Nat) (h : Hdr) : (a.pops q h).loops = a.loops := by
  unfold Act.pops
  split <;> split <;> split <;> simp
@[simp] theorem Act.pops_pfx (a : Act) (q : Nat) (h : Hdr) : (a.pops q h).pfx = a.pfx := by
  unfold Act.pops
  split <;> split <;> split <;> simp
@[simp] theorem Act.pops_s0 (a : Act) (q : Nat) (h : Hdr) : (a.pops q h).s0 = a.s0 := by
  unfold Act.pops
  split <;> split <;> split <;> simp
@[simp] theorem Act.pops_s1 (a : Act) (q : Nat) (h : Hdr) : (a.pops q h).s1 = a.s1 := by
  unfold Act.pops
  split <;> split <;> split <;> simp
@[simp] theorem Act.pops_rngReady (a : Act) (q : Nat) (h : Hdr) : (a.pops q h).rngReady = a.rngReady := by
  unfold Act.pops
  split <;> split <;> split <;> simp
@[simp] theorem Act.pops_deferred (a : Act) (q : Nat) (h : Hdr) : (a.pops q h).deferred = a.deferred := by
  unfold Act.pops
  split <;> split <;> split <;> simp
@[simp] theorem Act.pops_allocs (a : Act) (q : Nat) (h : Hdr) : (a.pops q h).allocs = a.allocs := by
  unfold Act.pops
  split <;> split <;> split <;> simp
@[simp] theorem Act.pops_segCount (a : Act) (q : Nat) (h : Hdr) : (a.pops q h).segCount = a.segCount := by
  unfold Act.pops
  split <;> split <;> split <;> simp
@[simp] theorem Act.pops_qa (a : Act) (q : Nat) (h : Hdr) : (a.pops q h).qa = a.qa := by
  unfold Act.pops
  split <;> split <;> split <;> simp
@[simp] theorem Act.pops_qc (a : Act) (q : Nat) (h : Hdr) : (a.pops q h).qc = a.qc := by
  unfold Act.pops
  split <;> split <;> split <;> simp
@[simp] theorem Act.pops_qs (a : Act) (q : Nat) (h : Hdr) : (a.pops q h).qs = a.qs := by
  unfold Act.pops
  split <;> split <;> split <;> simp
@[simp] theorem Act.pops_front (a : Act) (q : Nat) (h : Hdr) : (a.pops q h).front = a.front := by
  unfold Act.pops
  split <;> split <;> split <;> simp
@[simp] theorem Act.pops_rest (a : Act) (q : Nat) (h : Hdr) : (a.pops q h).rest = a.rest := by
  unfold Act.pops
  split <;> split <;> split <;> simp
@[simp] theorem Act.pops_ahead (a : Act) (q : Nat) (h : Hdr) : (a.pops q h).ahead = a.ahead := by
  unfold Act.pops
  split <;> split <;> split <;> simp
@[simp] theorem Act.pops_next (a : Act) (q : Nat) (h : Hdr) : (a.pops q h).next = a.next := by
  unfold Act.pops
  split <;> split <;> split <;> simp
@[simp] theorem Act.pops_loads (a : Act) (q : Nat) (h : Hdr) : (a.pops q h).loads = a.loads := by
  unfold Act.pops
  split <;> split <;> split <;> simp
@[simp] theorem Act.pops_owed (a : Act) (q : Nat) (h : Hdr) : (a.pops q h).owed = a.owed := by
  unfold Act.pops
  split <;> split <;> split <;> simp
@[simp] theorem Act.pops_faults (a : Act) (q : Nat) (h : Hdr) : (a.pops q h).faults = a.faults := by
  unfold Act.pops
  split <;> split <;> split <;> simp
@[simp] theorem Act.pops_uses (a : Act) (q : Nat) (h : Hdr) : (a.pops q h).uses = a.uses := by
  unfold Act.pops
  split <;> split <;> split <;> simp
@[simp] theorem Act.pops_pins (a : Act) (q : Nat) (h : Hdr) : (a.pops q h).pins = a.pins := by
  unfold Act.pops
  split <;> split <;> split <;> simp
@[simp] theorem Act.pops_busy (a : Act) (q : Nat) (h : Hdr) : (a.pops q h).busy = a.busy := by
  unfold Act.pops
  split <;> split <;> split <;> simp
@[simp] theorem Act.pops_held (a : Act) (q : Nat) (h : Hdr) : (a.pops q h).held = a.held := by
  unfold Act.pops
  split <;> split <;> split <;> simp
@[simp] theorem Act.pops_stall (a : Act) (q : Nat) (h : Hdr) : (a.pops q h).stall = a.stall := by
  unfold Act.pops
  split <;> split <;> split <;> simp
@[simp] theorem Act.pops_stalls (a : Act) (q : Nat) (h : Hdr) : (a.pops q h).stalls = a.stalls := by
  unfold Act.pops
  split <;> split <;> split <;> simp
@[simp] theorem Act.pops_blocked (a : Act) (q : Nat) (h : Hdr) : (a.pops q h).blocked = a.blocked := by
  unfold Act.pops
  split <;> split <;> split <;> simp
@[simp] theorem Act.pops_dispatched (a : Act) (q : Nat) (h : Hdr) : (a.pops q h).dispatched = a.dispatched := by
  unfold Act.pops
  split <;> split <;> split <;> simp
@[simp] theorem Act.pops_obs (a : Act) (q : Nat) (h : Hdr) : (a.pops q h).obs = a.obs := by
  unfold Act.pops
  split <;> split <;> split <;> simp
@[simp] theorem Act.leave_act (a : Act) (q n : Nat) : (a.leave q n).act = a.act := by
  simp [Act.leave]
@[simp] theorem Act.leave_ctx (a : Act) (q n : Nat) : (a.leave q n).ctx = a.ctx := by
  simp [Act.leave]
@[simp] theorem Act.leave_seq (a : Act) (q n : Nat) : (a.leave q n).seq = a.seq := by
  simp [Act.leave]
@[simp] theorem Act.leave_kind (a : Act) (q n : Nat) : (a.leave q n).kind = a.kind := by
  simp [Act.leave]
@[simp] theorem Act.leave_status (a : Act) (q n : Nat) : (a.leave q n).status = a.status := by
  simp [Act.leave]
@[simp] theorem Act.leave_loading (a : Act) (q n : Nat) : (a.leave q n).loading = a.loading := by
  simp [Act.leave]
@[simp] theorem Act.leave_pc (a : Act) (q n : Nat) : (a.leave q n).pc = a.pc := by
  simp [Act.leave]
@[simp] theorem Act.leave_g (a : Act) (q n : Nat) : (a.leave q n).g = a.g := by
  simp [Act.leave]
@[simp] theorem Act.leave_p (a : Act) (q n : Nat) : (a.leave q n).p = a.p := by
  simp [Act.leave]
@[simp] theorem Act.leave_h (a : Act) (q n : Nat) : (a.leave q n).h = a.h := by
  simp [Act.leave]
@[simp] theorem Act.leave_loops (a : Act) (q n : Nat) : (a.leave q n).loops = a.loops := by
  simp [Act.leave]
@[simp] theorem Act.leave_pfx (a : Act) (q n : Nat) : (a.leave q n).pfx = a.pfx := by
  simp [Act.leave]
@[simp] theorem Act.leave_tc (a : Act) (q n : Nat) : (a.leave q n).tc = a.tc := by
  simp [Act.leave]
@[simp] theorem Act.leave_ts (a : Act) (q n : Nat) : (a.leave q n).ts = a.ts := by
  simp [Act.leave]
@[simp] theorem Act.leave_ta (a : Act) (q n : Nat) : (a.leave q n).ta = a.ta := by
  simp [Act.leave]
@[simp] theorem Act.leave_s0 (a : Act) (q n : Nat) : (a.leave q n).s0 = a.s0 := by
  simp [Act.leave]
@[simp] theorem Act.leave_s1 (a : Act) (q n : Nat) : (a.leave q n).s1 = a.s1 := by
  simp [Act.leave]
@[simp] theorem Act.leave_rngReady (a : Act) (q n : Nat) : (a.leave q n).rngReady = a.rngReady := by
  simp [Act.leave]
@[simp] theorem Act.leave_deferred (a : Act) (q n : Nat) : (a.leave q n).deferred = a.deferred := by
  simp [Act.leave]
@[simp] theorem Act.leave_allocs (a : Act) (q n : Nat) : (a.leave q n).allocs = a.allocs := by
  simp [Act.leave]
@[simp] theorem Act.leave_segCount (a : Act) (q n : Nat) : (a.leave q n).segCount = a.segCount := by
  simp [Act.leave]
@[simp] theorem Act.leave_front (a : Act) (q n : Nat) : (a.leave q n).front = a.front := by
  simp [Act.leave]
@[simp] theorem Act.leave_rest (a : Act) (q n : Nat) : (a.leave q n).rest = a.rest := by
  simp [Act.leave]
@[simp] theorem Act.leave_ahead (a : Act) (q n : Nat) : (a.leave q n).ahead = a.ahead := by
  simp [Act.leave]
@[simp] theorem Act.leave_next (a : Act) (q n : Nat) : (a.leave q n).next = a.next := by
  simp [Act.leave]
@[simp] theorem Act.leave_loads (a : Act) (q n : Nat) : (a.leave q n).loads = a.loads := by
  simp [Act.leave]
@[simp] theorem Act.leave_owed (a : Act) (q n : Nat) : (a.leave q n).owed = a.owed := by
  simp [Act.leave]
@[simp] theorem Act.leave_faults (a : Act) (q n : Nat) : (a.leave q n).faults = a.faults := by
  simp [Act.leave]
@[simp] theorem Act.leave_uses (a : Act) (q n : Nat) : (a.leave q n).uses = a.uses := by
  simp [Act.leave]
@[simp] theorem Act.leave_pins (a : Act) (q n : Nat) : (a.leave q n).pins = a.pins := by
  simp [Act.leave]
@[simp] theorem Act.leave_busy (a : Act) (q n : Nat) : (a.leave q n).busy = a.busy := by
  simp [Act.leave]
@[simp] theorem Act.leave_held (a : Act) (q n : Nat) : (a.leave q n).held = a.held := by
  simp [Act.leave]
@[simp] theorem Act.leave_dispatched (a : Act) (q n : Nat) : (a.leave q n).dispatched = a.dispatched := by
  simp [Act.leave]
@[simp] theorem Act.leave_obs (a : Act) (q n : Nat) : (a.leave q n).obs = a.obs := by
  simp [Act.leave]
@[simp] theorem Act.push1_act (a : Act) (q : Nat) (b : Bool) : ((a.push1 q b).1).act = a.act := by
  unfold Act.push1
  split
  · rfl
  · split <;> simp
@[simp] theorem Act.push1_ctx (a : Act) (q : Nat) (b : Bool) : ((a.push1 q b).1).ctx = a.ctx := by
  unfold Act.push1
  split
  · rfl
  · split <;> simp
@[simp] theorem Act.push1_seq (a : Act) (q : Nat) (b : Bool) : ((a.push1 q b).1).seq = a.seq := by
  unfold Act.push1
  split
  · rfl
  · split <;> simp
@[simp] theorem Act.push1_kind (a : Act) (q : Nat) (b : Bool) : ((a.push1 q b).1).kind = a.kind := by
  unfold Act.push1
  split
  · rfl
  · split <;> simp
@[simp] theorem Act.push1_status (a : Act) (q : Nat) (b : Bool) : ((a.push1 q b).1).status = a.status := by
  unfold Act.push1
  split
  · rfl
  · split <;> simp
@[simp] theorem Act.push1_loading (a : Act) (q : Nat) (b : Bool) : ((a.push1 q b).1).loading = a.loading := by
  unfold Act.push1
  split
  · rfl
  · split <;> simp
@[simp] theorem Act.push1_pc (a : Act) (q : Nat) (b : Bool) : ((a.push1 q b).1).pc = a.pc := by
  unfold Act.push1
  split
  · rfl
  · split <;> simp
@[simp] theorem Act.push1_g (a : Act) (q : Nat) (b : Bool) : ((a.push1 q b).1).g = a.g := by
  unfold Act.push1
  split
  · rfl
  · split <;> simp
@[simp] theorem Act.push1_p (a : Act) (q : Nat) (b : Bool) : ((a.push1 q b).1).p = a.p := by
  unfold Act.push1
  split
  · rfl
  · split <;> simp
@[simp] theorem Act.push1_h (a : Act) (q : Nat) (b : Bool) : ((a.push1 q b).1).h = a.h := by
  unfold Act.push1
  split
  · rfl
  · split <;> simp
@[simp] theorem Act.push1_loops (a : Act) (q : Nat) (b : Bool) : ((a.push1 q b).1).loops = a.loops := by
  unfold Act.push1
  split
  · rfl
  · split <;> simp
@[simp] theorem Act.push1_pfx (a : Act) (q : Nat) (b : Bool) : ((a.push1 q b).1).pfx = a.pfx := by
  unfold Act.push1
  split
  · rfl
  · split <;> simp
@[simp] theorem Act.push1_s0 (a : Act) (q : Nat) (b : Bool) : ((a.push1 q b).1).s0 = a.s0 := by
  unfold Act.push1
  split
  · rfl
  · split <;> simp
@[simp] theorem Act.push1_s1 (a : Act) (q : Nat) (b : Bool) : ((a.push1 q b).1).s1 = a.s1 := by
  unfold Act.push1
  split
  · rfl
  · split <;> simp
@[simp] theorem Act.push1_rngReady (a : Act) (q : Nat) (b : Bool) : ((a.push1 q b).1).rngReady = a.rngReady := by
  unfold Act.push1
  split
  · rfl
  · split <;> simp
@[simp] theorem Act.push1_deferred (a : Act) (q : Nat) (b : Bool) : ((a.push1 q b).1).deferred = a.deferred := by
  unfold Act.push1
  split
  · rfl
  · split <;> simp
@[simp] theorem Act.push1_allocs (a : Act) (q : Nat) (b : Bool) : ((a.push1 q b).1).allocs = a.allocs := by
  unfold Act.push1
  split
  · rfl
  · split <;> simp
@[simp] theorem Act.push1_segCount (a : Act) (q : Nat) (b : Bool) : ((a.push1 q b).1).segCount = a.segCount := by
  unfold Act.push1
  split
  · rfl
  · split <;> simp
@[simp] theorem Act.push1_qa (a : Act) (q : Nat) (b : Bool) : ((a.push1 q b).1).qa = a.qa := by
  unfold Act.push1
  split
  · rfl
  · split <;> simp
@[simp] theorem Act.push1_qc (a : Act) (q : Nat) (b : Bool) : ((a.push1 q b).1).qc = a.qc := by
  unfold Act.push1
  split
  · rfl
  · split <;> simp
@[simp] theorem Act.push1_qs (a : Act) (q : Nat) (b : Bool) : ((a.push1 q b).1).qs = a.qs := by
  unfold Act.push1
  split
  · rfl
  · split <;> simp
@[simp] theorem Act.push1_front (a : Act) (q : Nat) (b : Bool) : ((a.push1 q b).1).front = a.front := by
  unfold Act.push1
  split
  · rfl
  · split <;> simp
@[simp] theorem Act.push1_rest (a : Act) (q : Nat) (b : Bool) : ((a.push1 q b).1).rest = a.rest := by
  unfold Act.push1
  split
  · rfl
  · split <;> simp
@[simp] theorem Act.push1_ahead (a : Act) (q : Nat) (b : Bool) : ((a.push1 q b).1).ahead = a.ahead := by
  unfold Act.push1
  split
  · rfl
  · split <;> simp
@[simp] theorem Act.push1_next (a : Act) (q : Nat) (b : Bool) : ((a.push1 q b).1).next = a.next := by
  unfold Act.push1
  split
  · rfl
  · split <;> simp
@[simp] theorem Act.push1_loads (a : Act) (q : Nat) (b : Bool) : ((a.push1 q b).1).loads = a.loads := by
  unfold Act.push1
  split
  · rfl
  · split <;> simp
@[simp] theorem Act.push1_owed (a : Act) (q : Nat) (b : Bool) : ((a.push1 q b).1).owed = a.owed := by
  unfold Act.push1
  split
  · rfl
  · split <;> simp
@[simp] theorem Act.push1_faults (a : Act) (q : Nat) (b : Bool) : ((a.push1 q b).1).faults = a.faults := by
  unfold Act.push1
  split
  · rfl
  · split <;> simp
@[simp] theorem Act.push1_uses (a : Act) (q : Nat) (b : Bool) : ((a.push1 q b).1).uses = a.uses := by
  unfold Act.push1
  split
  · rfl
  · split <;> simp
@[simp] theorem Act.push1_pins (a : Act) (q : Nat) (b : Bool) : ((a.push1 q b).1).pins = a.pins := by
  unfold Act.push1
  split
  · rfl
  · split <;> simp
@[simp] theorem Act.push1_busy (a : Act) (q : Nat) (b : Bool) : ((a.push1 q b).1).busy = a.busy := by
  unfold Act.push1
  split
  · rfl
  · split <;> simp
@[simp] theorem Act.push1_held (a : Act) (q : Nat) (b : Bool) : ((a.push1 q b).1).held = a.held := by
  unfold Act.push1
  split
  · rfl
  · split <;> simp
@[simp] theorem Act.push1_stall (a : Act) (q : Nat) (b : Bool) : ((a.push1 q b).1).stall = a.stall := by
  unfold Act.push1
  split
  · rfl
  · split <;> simp
@[simp] theorem Act.push1_stalls (a : Act) (q : Nat) (b : Bool) : ((a.push1 q b).1).stalls = a.stalls := by
  unfold Act.push1
  split
  · rfl
  · split <;> simp
@[simp] theorem Act.push1_began (a : Act) (q : Nat) (b : Bool) : ((a.push1 q b).1).began = a.began := by
  unfold Act.push1
  split
  · rfl
  · split <;> simp
@[simp] theorem Act.push1_blocked (a : Act) (q : Nat) (b : Bool) : ((a.push1 q b).1).blocked = a.blocked := by
  unfold Act.push1
  split
  · rfl
  · split <;> simp
@[simp] theorem Act.push1_dispatched (a : Act) (q : Nat) (b : Bool) : ((a.push1 q b).1).dispatched = a.dispatched := by
  unfold Act.push1
  split
  · rfl
  · split <;> simp
@[simp] theorem Act.push1_obs (a : Act) (q : Nat) (b : Bool) : ((a.push1 q b).1).obs = a.obs := by
  unfold Act.push1
  split
  · rfl
  · split <;> simp
@[simp] theorem Act.pushes_act (a : Act) (q : Nat) (u d : Bool) : ((a.pushes q u d).1).act = a.act := by
  simp [Act.pushes]
@[simp] theorem Act.pushes_ctx (a : Act) (q : Nat) (u d : Bool) : ((a.pushes q u d).1).ctx = a.ctx := by
  simp [Act.pushes]
@[simp] theorem Act.pushes_seq (a : Act) (q : Nat) (u d : Bool) : ((a.pushes q u d).1).seq = a.seq := by
  simp [Act.pushes]
@[simp] theorem Act.pushes_kind (a : Act) (q : Nat) (u d : Bool) : ((a.pushes q u d).1).kind = a.kind := by
  simp [Act.pushes]
@[simp] theorem Act.pushes_status (a : Act) (q : Nat) (u d : Bool) : ((a.pushes q u d).1).status = a.status := by
  simp [Act.pushes]
@[simp] theorem Act.pushes_loading (a : Act) (q : Nat) (u d : Bool) : ((a.pushes q u d).1).loading = a.loading := by
  simp [Act.pushes]
@[simp] theorem Act.pushes_pc (a : Act) (q : Nat) (u d : Bool) : ((a.pushes q u d).1).pc = a.pc := by
  simp [Act.pushes]
@[simp] theorem Act.pushes_g (a : Act) (q : Nat) (u d : Bool) : ((a.pushes q u d).1).g = a.g := by
  simp [Act.pushes]
@[simp] theorem Act.pushes_p (a : Act) (q : Nat) (u d : Bool) : ((a.pushes q u d).1).p = a.p := by
  simp [Act.pushes]
@[simp] theorem Act.pushes_h (a : Act) (q : Nat) (u d : Bool) : ((a.pushes q u d).1).h = a.h := by
  simp [Act.pushes]
@[simp] theorem Act.pushes_loops (a : Act) (q : Nat) (u d : Bool) : ((a.pushes q u d).1).loops = a.loops := by
  simp [Act.pushes]
@[simp] theorem Act.pushes_pfx (a : Act) (q : Nat) (u d : Bool) : ((a.pushes q u d).1).pfx = a.pfx := by
  simp [Act.pushes]
@[simp] theorem Act.pushes_s0 (a : Act) (q : Nat) (u d : Bool) : ((a.pushes q u d).1).s0 = a.s0 := by
  simp [Act.pushes]
@[simp] theorem Act.pushes_s1 (a : Act) (q : Nat) (u d : Bool) : ((a.pushes q u d).1).s1 = a.s1 := by
  simp [Act.pushes]
@[simp] theorem Act.pushes_rngReady (a : Act) (q : Nat) (u d : Bool) : ((a.pushes q u d).1).rngReady = a.rngReady := by
  simp [Act.pushes]
@[simp] theorem Act.pushes_deferred (a : Act) (q : Nat) (u d : Bool) : ((a.pushes q u d).1).deferred = a.deferred := by
  simp [Act.pushes]
@[simp] theorem Act.pushes_allocs (a : Act) (q : Nat) (u d : Bool) : ((a.pushes q u d).1).allocs = a.allocs := by
  simp [Act.pushes]
@[simp] theorem Act.pushes_segCount (a : Act) (q : Nat) (u d : Bool) : ((a.pushes q u d).1).segCount = a.segCount := by
  simp [Act.pushes]
@[simp] theorem Act.pushes_qa (a : Act) (q : Nat) (u d : Bool) : ((a.pushes q u d).1).qa = a.qa := by
  simp [Act.pushes]
@[simp] theorem Act.pushes_qc (a : Act) (q : Nat) (u d : Bool) : ((a.pushes q u d).1).qc = a.qc := by
  simp [Act.pushes]
@[simp] theorem Act.pushes_qs (a : Act) (q : Nat) (u d : Bool) : ((a.pushes q u d).1).qs = a.qs := by
  simp [Act.pushes]
@[simp] theorem Act.pushes_front (a : Act) (q : Nat) (u d : Bool) : ((a.pushes q u d).1).front = a.front := by
  simp [Act.pushes]
@[simp] theorem Act.pushes_rest (a : Act) (q : Nat) (u d : Bool) : ((a.pushes q u d).1).rest = a.rest := by
  simp [Act.pushes]
@[simp] theorem Act.pushes_ahead (a : Act) (q : Nat) (u d : Bool) : ((a.pushes q u d).1).ahead = a.ahead := by
  simp [Act.pushes]
@[simp] theorem Act.pushes_next (a : Act) (q : Nat) (u d : Bool) : ((a.pushes q u d).1).next = a.next := by
  simp [Act.pushes]
@[simp] theorem Act.pushes_loads (a : Act) (q : Nat) (u d : Bool) : ((a.pushes q u d).1).loads = a.loads := by
  simp [Act.pushes]
@[simp] theorem Act.pushes_owed (a : Act) (q : Nat) (u d : Bool) : ((a.pushes q u d).1).owed = a.owed := by
  simp [Act.pushes]
@[simp] theorem Act.pushes_faults (a : Act) (q : Nat) (u d : Bool) : ((a.pushes q u d).1).faults = a.faults := by
  simp [Act.pushes]
@[simp] theorem Act.pushes_uses (a : Act) (q : Nat) (u d : Bool) : ((a.pushes q u d).1).uses = a.uses := by
  simp [Act.pushes]
@[simp] theorem Act.pushes_pins (a : Act) (q : Nat) (u d : Bool) : ((a.pushes q u d).1).pins = a.pins := by
  simp [Act.pushes]
@[simp] theorem Act.pushes_busy (a : Act) (q : Nat) (u d : Bool) : ((a.pushes q u d).1).busy = a.busy := by
  simp [Act.pushes]
@[simp] theorem Act.pushes_held (a : Act) (q : Nat) (u d : Bool) : ((a.pushes q u d).1).held = a.held := by
  simp [Act.pushes]
@[simp] theorem Act.pushes_stall (a : Act) (q : Nat) (u d : Bool) : ((a.pushes q u d).1).stall = a.stall := by
  simp [Act.pushes]
@[simp] theorem Act.pushes_stalls (a : Act) (q : Nat) (u d : Bool) : ((a.pushes q u d).1).stalls = a.stalls := by
  simp [Act.pushes]
@[simp] theorem Act.pushes_began (a : Act) (q : Nat) (u d : Bool) : ((a.pushes q u d).1).began = a.began := by
  simp [Act.pushes]
@[simp] theorem Act.pushes_blocked (a : Act) (q : Nat) (u d : Bool) : ((a.pushes q u d).1).blocked = a.blocked := by
  simp [Act.pushes]
@[simp] theorem Act.pushes_dispatched (a : Act) (q : Nat) (u d : Bool) : ((a.pushes q u d).1).dispatched = a.dispatched := by
  simp [Act.pushes]
@[simp] theorem Act.pushes_obs (a : Act) (q : Nat) (u d : Bool) : ((a.pushes q u d).1).obs = a.obs := by
  simp [Act.pushes]
@[simp] theorem Act.done_act (a : Act) (q : Nat) (h : Hdr) (n : Nat) : (a.done q h n).act = a.act := by
  simp [Act.done]
@[simp] theorem Act.done_ctx (a : Act) (q : Nat) (h : Hdr) (n : Nat) : (a.done q h n).ctx = a.ctx := by
  simp [Act.done]
@[simp] theorem Act.done_seq (a : Act) (q : Nat) (h : Hdr) (n : Nat) : (a.done q h n).seq = a.seq := by
  simp [Act.done]
@[simp] theorem Act.done_kind (a : Act) (q : Nat) (h : Hdr) (n : Nat) : (a.done q h n).kind = a.kind := by
  simp [Act.done]
@[simp] theorem Act.done_status (a : Act) (q : Nat) (h : Hdr) (n : Nat) : (a.done q h n).status = a.status := by
  simp [Act.done]
@[simp] theorem Act.done_loading (a : Act) (q : Nat) (h : Hdr) (n : Nat) : (a.done q h n).loading = a.loading := by
  simp [Act.done]
@[simp] theorem Act.done_pc (a : Act) (q : Nat) (h : Hdr) (n : Nat) : (a.done q h n).pc = a.pc := by
  simp [Act.done]
@[simp] theorem Act.done_g (a : Act) (q : Nat) (h : Hdr) (n : Nat) : (a.done q h n).g = a.g := by
  simp [Act.done]
@[simp] theorem Act.done_p (a : Act) (q : Nat) (h : Hdr) (n : Nat) : (a.done q h n).p = a.p := by
  simp [Act.done]
@[simp] theorem Act.done_h (a : Act) (q : Nat) (h : Hdr) (n : Nat) : (a.done q h n).h = a.h := by
  simp [Act.done]
@[simp] theorem Act.done_loops (a : Act) (q : Nat) (h : Hdr) (n : Nat) : (a.done q h n).loops = a.loops := by
  simp [Act.done]
@[simp] theorem Act.done_pfx (a : Act) (q : Nat) (h : Hdr) (n : Nat) : (a.done q h n).pfx = a.pfx := by
  simp [Act.done]
@[simp] theorem Act.done_s0 (a : Act) (q : Nat) (h : Hdr) (n : Nat) : (a.done q h n).s0 = a.s0 := by
  simp [Act.done]
@[simp] theorem Act.done_s1 (a : Act) (q : Nat) (h : Hdr) (n : Nat) : (a.done q h n).s1 = a.s1 := by
  simp [Act.done]
@[simp] theorem Act.done_rngReady (a : Act) (q : Nat) (h : Hdr) (n : Nat) : (a.done q h n).rngReady = a.rngReady := by
  simp [Act.done]
@[simp] theorem Act.done_deferred (a : Act) (q : Nat) (h : Hdr) (n : Nat) : (a.done q h n).deferred = a.deferred := by
  simp [Act.done]
@[simp] theorem Act.done_allocs (a : Act) (q : Nat) (h : Hdr) (n : Nat) : (a.done q h n).allocs = a.allocs := by
  simp [Act.done]
@[simp] theorem Act.done_segCount (a : Act) (q : Nat) (h : Hdr) (n : Nat) : (a.done q h n).segCount = a.segCount := by
  simp [Act.done]
@[simp] theorem Act.done_front (a : Act) (q : Nat) (h : Hdr) (n : Nat) : (a.done q h n).front = a.front := by
  simp [Act.done]
@[simp] theorem Act.done_rest (a : Act) (q : Nat) (h : Hdr) (n : Nat) : (a.done q h n).rest = a.rest := by
  simp [Act.done]
@[simp] theorem Act.done_ahead (a : Act) (q : Nat) (h : Hdr) (n : Nat) : (a.done q h n).ahead = a.ahead := by
  simp [Act.done]
@[simp] theorem Act.done_next (a : Act) (q : Nat) (h : Hdr) (n : Nat) : (a.done q h n).next = a.next := by
  simp [Act.done]
@[simp] theorem Act.done_loads (a : Act) (q : Nat) (h : Hdr) (n : Nat) : (a.done q h n).loads = a.loads := by
  simp [Act.done]
@[simp] theorem Act.done_owed (a : Act) (q : Nat) (h : Hdr) (n : Nat) : (a.done q h n).owed = a.owed := by
  simp [Act.done]
@[simp] theorem Act.done_faults (a : Act) (q : Nat) (h : Hdr) (n : Nat) : (a.done q h n).faults = a.faults := by
  simp [Act.done]
@[simp] theorem Act.done_uses (a : Act) (q : Nat) (h : Hdr) (n : Nat) : (a.done q h n).uses = a.uses := by
  simp [Act.done]
@[simp] theorem Act.done_pins (a : Act) (q : Nat) (h : Hdr) (n : Nat) : (a.done q h n).pins = a.pins := by
  simp [Act.done]
@[simp] theorem Act.done_busy (a : Act) (q : Nat) (h : Hdr) (n : Nat) : (a.done q h n).busy = a.busy := by
  simp [Act.done]
@[simp] theorem Act.done_held (a : Act) (q : Nat) (h : Hdr) (n : Nat) : (a.done q h n).held = a.held := by
  simp [Act.done]
@[simp] theorem Act.done_dispatched (a : Act) (q : Nat) (h : Hdr) (n : Nat) : (a.done q h n).dispatched = a.dispatched := by
  simp [Act.done]
@[simp] theorem Act.done_obs (a : Act) (q : Nat) (h : Hdr) (n : Nat) : (a.done q h n).obs = a.obs := by
  simp [Act.done]
@[simp] theorem Act.wg_act (a : Act) (n : Nat) (v : BitVec 64) : (a.wg n v).act = a.act := by
  unfold Act.wg
  split <;> rfl
@[simp] theorem Act.wg_ctx (a : Act) (n : Nat) (v : BitVec 64) : (a.wg n v).ctx = a.ctx := by
  unfold Act.wg
  split <;> rfl
@[simp] theorem Act.wg_seq (a : Act) (n : Nat) (v : BitVec 64) : (a.wg n v).seq = a.seq := by
  unfold Act.wg
  split <;> rfl
@[simp] theorem Act.wg_kind (a : Act) (n : Nat) (v : BitVec 64) : (a.wg n v).kind = a.kind := by
  unfold Act.wg
  split <;> rfl
@[simp] theorem Act.wg_status (a : Act) (n : Nat) (v : BitVec 64) : (a.wg n v).status = a.status := by
  unfold Act.wg
  split <;> rfl
@[simp] theorem Act.wg_loading (a : Act) (n : Nat) (v : BitVec 64) : (a.wg n v).loading = a.loading := by
  unfold Act.wg
  split <;> rfl
@[simp] theorem Act.wg_pc (a : Act) (n : Nat) (v : BitVec 64) : (a.wg n v).pc = a.pc := by
  unfold Act.wg
  split <;> rfl
@[simp] theorem Act.wg_p (a : Act) (n : Nat) (v : BitVec 64) : (a.wg n v).p = a.p := by
  unfold Act.wg
  split <;> rfl
@[simp] theorem Act.wg_h (a : Act) (n : Nat) (v : BitVec 64) : (a.wg n v).h = a.h := by
  unfold Act.wg
  split <;> rfl
@[simp] theorem Act.wg_loops (a : Act) (n : Nat) (v : BitVec 64) : (a.wg n v).loops = a.loops := by
  unfold Act.wg
  split <;> rfl
@[simp] theorem Act.wg_pfx (a : Act) (n : Nat) (v : BitVec 64) : (a.wg n v).pfx = a.pfx := by
  unfold Act.wg
  split <;> rfl
@[simp] theorem Act.wg_tc (a : Act) (n : Nat) (v : BitVec 64) : (a.wg n v).tc = a.tc := by
  unfold Act.wg
  split <;> rfl
@[simp] theorem Act.wg_ts (a : Act) (n : Nat) (v : BitVec 64) : (a.wg n v).ts = a.ts := by
  unfold Act.wg
  split <;> rfl
@[simp] theorem Act.wg_ta (a : Act) (n : Nat) (v : BitVec 64) : (a.wg n v).ta = a.ta := by
  unfold Act.wg
  split <;> rfl
@[simp] theorem Act.wg_s0 (a : Act) (n : Nat) (v : BitVec 64) : (a.wg n v).s0 = a.s0 := by
  unfold Act.wg
  split <;> rfl
@[simp] theorem Act.wg_s1 (a : Act) (n : Nat) (v : BitVec 64) : (a.wg n v).s1 = a.s1 := by
  unfold Act.wg
  split <;> rfl
@[simp] theorem Act.wg_rngReady (a : Act) (n : Nat) (v : BitVec 64) : (a.wg n v).rngReady = a.rngReady := by
  unfold Act.wg
  split <;> rfl
@[simp] theorem Act.wg_deferred (a : Act) (n : Nat) (v : BitVec 64) : (a.wg n v).deferred = a.deferred := by
  unfold Act.wg
  split <;> rfl
@[simp] theorem Act.wg_allocs (a : Act) (n : Nat) (v : BitVec 64) : (a.wg n v).allocs = a.allocs := by
  unfold Act.wg
  split <;> rfl
@[simp] theorem Act.wg_segCount (a : Act) (n : Nat) (v : BitVec 64) : (a.wg n v).segCount = a.segCount := by
  unfold Act.wg
  split <;> rfl
@[simp] theorem Act.wg_qa (a : Act) (n : Nat) (v : BitVec 64) : (a.wg n v).qa = a.qa := by
  unfold Act.wg
  split <;> rfl
@[simp] theorem Act.wg_qc (a : Act) (n : Nat) (v : BitVec 64) : (a.wg n v).qc = a.qc := by
  unfold Act.wg
  split <;> rfl
@[simp] theorem Act.wg_qs (a : Act) (n : Nat) (v : BitVec 64) : (a.wg n v).qs = a.qs := by
  unfold Act.wg
  split <;> rfl
@[simp] theorem Act.wg_front (a : Act) (n : Nat) (v : BitVec 64) : (a.wg n v).front = a.front := by
  unfold Act.wg
  split <;> rfl
@[simp] theorem Act.wg_rest (a : Act) (n : Nat) (v : BitVec 64) : (a.wg n v).rest = a.rest := by
  unfold Act.wg
  split <;> rfl
@[simp] theorem Act.wg_ahead (a : Act) (n : Nat) (v : BitVec 64) : (a.wg n v).ahead = a.ahead := by
  unfold Act.wg
  split <;> rfl
@[simp] theorem Act.wg_next (a : Act) (n : Nat) (v : BitVec 64) : (a.wg n v).next = a.next := by
  unfold Act.wg
  split <;> rfl
@[simp] theorem Act.wg_loads (a : Act) (n : Nat) (v : BitVec 64) : (a.wg n v).loads = a.loads := by
  unfold Act.wg
  split <;> rfl
@[simp] theorem Act.wg_owed (a : Act) (n : Nat) (v : BitVec 64) : (a.wg n v).owed = a.owed := by
  unfold Act.wg
  split <;> rfl
@[simp] theorem Act.wg_faults (a : Act) (n : Nat) (v : BitVec 64) : (a.wg n v).faults = a.faults := by
  unfold Act.wg
  split <;> rfl
@[simp] theorem Act.wg_uses (a : Act) (n : Nat) (v : BitVec 64) : (a.wg n v).uses = a.uses := by
  unfold Act.wg
  split <;> rfl
@[simp] theorem Act.wg_pins (a : Act) (n : Nat) (v : BitVec 64) : (a.wg n v).pins = a.pins := by
  unfold Act.wg
  split <;> rfl
@[simp] theorem Act.wg_busy (a : Act) (n : Nat) (v : BitVec 64) : (a.wg n v).busy = a.busy := by
  unfold Act.wg
  split <;> rfl
@[simp] theorem Act.wg_held (a : Act) (n : Nat) (v : BitVec 64) : (a.wg n v).held = a.held := by
  unfold Act.wg
  split <;> rfl
@[simp] theorem Act.wg_stall (a : Act) (n : Nat) (v : BitVec 64) : (a.wg n v).stall = a.stall := by
  unfold Act.wg
  split <;> rfl
@[simp] theorem Act.wg_stalls (a : Act) (n : Nat) (v : BitVec 64) : (a.wg n v).stalls = a.stalls := by
  unfold Act.wg
  split <;> rfl
@[simp] theorem Act.wg_began (a : Act) (n : Nat) (v : BitVec 64) : (a.wg n v).began = a.began := by
  unfold Act.wg
  split <;> rfl
@[simp] theorem Act.wg_blocked (a : Act) (n : Nat) (v : BitVec 64) : (a.wg n v).blocked = a.blocked := by
  unfold Act.wg
  split <;> rfl
@[simp] theorem Act.wg_dispatched (a : Act) (n : Nat) (v : BitVec 64) : (a.wg n v).dispatched = a.dispatched := by
  unfold Act.wg
  split <;> rfl
@[simp] theorem Act.wg_obs (a : Act) (n : Nat) (v : BitVec 64) : (a.wg n v).obs = a.obs := by
  unfold Act.wg
  split <;> rfl
@[simp] theorem Act.wn_act (a : Act) (n v : Nat) : (a.wn n v).act = a.act := by
  simp [Act.wn]
@[simp] theorem Act.wn_ctx (a : Act) (n v : Nat) : (a.wn n v).ctx = a.ctx := by
  simp [Act.wn]
@[simp] theorem Act.wn_seq (a : Act) (n v : Nat) : (a.wn n v).seq = a.seq := by
  simp [Act.wn]
@[simp] theorem Act.wn_kind (a : Act) (n v : Nat) : (a.wn n v).kind = a.kind := by
  simp [Act.wn]
@[simp] theorem Act.wn_status (a : Act) (n v : Nat) : (a.wn n v).status = a.status := by
  simp [Act.wn]
@[simp] theorem Act.wn_loading (a : Act) (n v : Nat) : (a.wn n v).loading = a.loading := by
  simp [Act.wn]
@[simp] theorem Act.wn_pc (a : Act) (n v : Nat) : (a.wn n v).pc = a.pc := by
  simp [Act.wn]
@[simp] theorem Act.wn_p (a : Act) (n v : Nat) : (a.wn n v).p = a.p := by
  simp [Act.wn]
@[simp] theorem Act.wn_h (a : Act) (n v : Nat) : (a.wn n v).h = a.h := by
  simp [Act.wn]
@[simp] theorem Act.wn_loops (a : Act) (n v : Nat) : (a.wn n v).loops = a.loops := by
  simp [Act.wn]
@[simp] theorem Act.wn_pfx (a : Act) (n v : Nat) : (a.wn n v).pfx = a.pfx := by
  simp [Act.wn]
@[simp] theorem Act.wn_tc (a : Act) (n v : Nat) : (a.wn n v).tc = a.tc := by
  simp [Act.wn]
@[simp] theorem Act.wn_ts (a : Act) (n v : Nat) : (a.wn n v).ts = a.ts := by
  simp [Act.wn]
@[simp] theorem Act.wn_ta (a : Act) (n v : Nat) : (a.wn n v).ta = a.ta := by
  simp [Act.wn]
@[simp] theorem Act.wn_s0 (a : Act) (n v : Nat) : (a.wn n v).s0 = a.s0 := by
  simp [Act.wn]
@[simp] theorem Act.wn_s1 (a : Act) (n v : Nat) : (a.wn n v).s1 = a.s1 := by
  simp [Act.wn]
@[simp] theorem Act.wn_rngReady (a : Act) (n v : Nat) : (a.wn n v).rngReady = a.rngReady := by
  simp [Act.wn]
@[simp] theorem Act.wn_deferred (a : Act) (n v : Nat) : (a.wn n v).deferred = a.deferred := by
  simp [Act.wn]
@[simp] theorem Act.wn_allocs (a : Act) (n v : Nat) : (a.wn n v).allocs = a.allocs := by
  simp [Act.wn]
@[simp] theorem Act.wn_segCount (a : Act) (n v : Nat) : (a.wn n v).segCount = a.segCount := by
  simp [Act.wn]
@[simp] theorem Act.wn_qa (a : Act) (n v : Nat) : (a.wn n v).qa = a.qa := by
  simp [Act.wn]
@[simp] theorem Act.wn_qc (a : Act) (n v : Nat) : (a.wn n v).qc = a.qc := by
  simp [Act.wn]
@[simp] theorem Act.wn_qs (a : Act) (n v : Nat) : (a.wn n v).qs = a.qs := by
  simp [Act.wn]
@[simp] theorem Act.wn_front (a : Act) (n v : Nat) : (a.wn n v).front = a.front := by
  simp [Act.wn]
@[simp] theorem Act.wn_rest (a : Act) (n v : Nat) : (a.wn n v).rest = a.rest := by
  simp [Act.wn]
@[simp] theorem Act.wn_ahead (a : Act) (n v : Nat) : (a.wn n v).ahead = a.ahead := by
  simp [Act.wn]
@[simp] theorem Act.wn_next (a : Act) (n v : Nat) : (a.wn n v).next = a.next := by
  simp [Act.wn]
@[simp] theorem Act.wn_loads (a : Act) (n v : Nat) : (a.wn n v).loads = a.loads := by
  simp [Act.wn]
@[simp] theorem Act.wn_owed (a : Act) (n v : Nat) : (a.wn n v).owed = a.owed := by
  simp [Act.wn]
@[simp] theorem Act.wn_faults (a : Act) (n v : Nat) : (a.wn n v).faults = a.faults := by
  simp [Act.wn]
@[simp] theorem Act.wn_uses (a : Act) (n v : Nat) : (a.wn n v).uses = a.uses := by
  simp [Act.wn]
@[simp] theorem Act.wn_pins (a : Act) (n v : Nat) : (a.wn n v).pins = a.pins := by
  simp [Act.wn]
@[simp] theorem Act.wn_busy (a : Act) (n v : Nat) : (a.wn n v).busy = a.busy := by
  simp [Act.wn]
@[simp] theorem Act.wn_held (a : Act) (n v : Nat) : (a.wn n v).held = a.held := by
  simp [Act.wn]
@[simp] theorem Act.wn_stall (a : Act) (n v : Nat) : (a.wn n v).stall = a.stall := by
  simp [Act.wn]
@[simp] theorem Act.wn_stalls (a : Act) (n v : Nat) : (a.wn n v).stalls = a.stalls := by
  simp [Act.wn]
@[simp] theorem Act.wn_began (a : Act) (n v : Nat) : (a.wn n v).began = a.began := by
  simp [Act.wn]
@[simp] theorem Act.wn_blocked (a : Act) (n v : Nat) : (a.wn n v).blocked = a.blocked := by
  simp [Act.wn]
@[simp] theorem Act.wn_dispatched (a : Act) (n v : Nat) : (a.wn n v).dispatched = a.dispatched := by
  simp [Act.wn]
@[simp] theorem Act.wn_obs (a : Act) (n v : Nat) : (a.wn n v).obs = a.obs := by
  simp [Act.wn]
@[simp] theorem Act.wi_act (a : Act) (n : Nat) (v : Int) : (a.wi n v).act = a.act := by
  simp [Act.wi]
@[simp] theorem Act.wi_ctx (a : Act) (n : Nat) (v : Int) : (a.wi n v).ctx = a.ctx := by
  simp [Act.wi]
@[simp] theorem Act.wi_seq (a : Act) (n : Nat) (v : Int) : (a.wi n v).seq = a.seq := by
  simp [Act.wi]
@[simp] theorem Act.wi_kind (a : Act) (n : Nat) (v : Int) : (a.wi n v).kind = a.kind := by
  simp [Act.wi]
@[simp] theorem Act.wi_status (a : Act) (n : Nat) (v : Int) : (a.wi n v).status = a.status := by
  simp [Act.wi]
@[simp] theorem Act.wi_loading (a : Act) (n : Nat) (v : Int) : (a.wi n v).loading = a.loading := by
  simp [Act.wi]
@[simp] theorem Act.wi_pc (a : Act) (n : Nat) (v : Int) : (a.wi n v).pc = a.pc := by
  simp [Act.wi]
@[simp] theorem Act.wi_p (a : Act) (n : Nat) (v : Int) : (a.wi n v).p = a.p := by
  simp [Act.wi]
@[simp] theorem Act.wi_h (a : Act) (n : Nat) (v : Int) : (a.wi n v).h = a.h := by
  simp [Act.wi]
@[simp] theorem Act.wi_loops (a : Act) (n : Nat) (v : Int) : (a.wi n v).loops = a.loops := by
  simp [Act.wi]
@[simp] theorem Act.wi_pfx (a : Act) (n : Nat) (v : Int) : (a.wi n v).pfx = a.pfx := by
  simp [Act.wi]
@[simp] theorem Act.wi_tc (a : Act) (n : Nat) (v : Int) : (a.wi n v).tc = a.tc := by
  simp [Act.wi]
@[simp] theorem Act.wi_ts (a : Act) (n : Nat) (v : Int) : (a.wi n v).ts = a.ts := by
  simp [Act.wi]
@[simp] theorem Act.wi_ta (a : Act) (n : Nat) (v : Int) : (a.wi n v).ta = a.ta := by
  simp [Act.wi]
@[simp] theorem Act.wi_s0 (a : Act) (n : Nat) (v : Int) : (a.wi n v).s0 = a.s0 := by
  simp [Act.wi]
@[simp] theorem Act.wi_s1 (a : Act) (n : Nat) (v : Int) : (a.wi n v).s1 = a.s1 := by
  simp [Act.wi]
@[simp] theorem Act.wi_rngReady (a : Act) (n : Nat) (v : Int) : (a.wi n v).rngReady = a.rngReady := by
  simp [Act.wi]
@[simp] theorem Act.wi_deferred (a : Act) (n : Nat) (v : Int) : (a.wi n v).deferred = a.deferred := by
  simp [Act.wi]
@[simp] theorem Act.wi_allocs (a : Act) (n : Nat) (v : Int) : (a.wi n v).allocs = a.allocs := by
  simp [Act.wi]
@[simp] theorem Act.wi_segCount (a : Act) (n : Nat) (v : Int) : (a.wi n v).segCount = a.segCount := by
  simp [Act.wi]
@[simp] theorem Act.wi_qa (a : Act) (n : Nat) (v : Int) : (a.wi n v).qa = a.qa := by
  simp [Act.wi]
@[simp] theorem Act.wi_qc (a : Act) (n : Nat) (v : Int) : (a.wi n v).qc = a.qc := by
  simp [Act.wi]
@[simp] theorem Act.wi_qs (a : Act) (n : Nat) (v : Int) : (a.wi n v).qs = a.qs := by
  simp [Act.wi]
@[simp] theorem Act.wi_front (a : Act) (n : Nat) (v : Int) : (a.wi n v).front = a.front := by
  simp [Act.wi]
@[simp] theorem Act.wi_rest (a : Act) (n : Nat) (v : Int) : (a.wi n v).rest = a.rest := by
  simp [Act.wi]
@[simp] theorem Act.wi_ahead (a : Act) (n : Nat) (v : Int) : (a.wi n v).ahead = a.ahead := by
  simp [Act.wi]
@[simp] theorem Act.wi_next (a : Act) (n : Nat) (v : Int) : (a.wi n v).next = a.next := by
  simp [Act.wi]
@[simp] theorem Act.wi_loads (a : Act) (n : Nat) (v : Int) : (a.wi n v).loads = a.loads := by
  simp [Act.wi]
@[simp] theorem Act.wi_owed (a : Act) (n : Nat) (v : Int) : (a.wi n v).owed = a.owed := by
  simp [Act.wi]
@[simp] theorem Act.wi_faults (a : Act) (n : Nat) (v : Int) : (a.wi n v).faults = a.faults := by
  simp [Act.wi]
@[simp] theorem Act.wi_uses (a : Act) (n : Nat) (v : Int) : (a.wi n v).uses = a.uses := by
  simp [Act.wi]
@[simp] theorem Act.wi_pins (a : Act) (n : Nat) (v : Int) : (a.wi n v).pins = a.pins := by
  simp [Act.wi]
@[simp] theorem Act.wi_busy (a : Act) (n : Nat) (v : Int) : (a.wi n v).busy = a.busy := by
  simp [Act.wi]
@[simp] theorem Act.wi_held (a : Act) (n : Nat) (v : Int) : (a.wi n v).held = a.held := by
  simp [Act.wi]
@[simp] theorem Act.wi_stall (a : Act) (n : Nat) (v : Int) : (a.wi n v).stall = a.stall := by
  simp [Act.wi]
@[simp] theorem Act.wi_stalls (a : Act) (n : Nat) (v : Int) : (a.wi n v).stalls = a.stalls := by
  simp [Act.wi]
@[simp] theorem Act.wi_began (a : Act) (n : Nat) (v : Int) : (a.wi n v).began = a.began := by
  simp [Act.wi]
@[simp] theorem Act.wi_blocked (a : Act) (n : Nat) (v : Int) : (a.wi n v).blocked = a.blocked := by
  simp [Act.wi]
@[simp] theorem Act.wi_dispatched (a : Act) (n : Nat) (v : Int) : (a.wi n v).dispatched = a.dispatched := by
  simp [Act.wi]
@[simp] theorem Act.wi_obs (a : Act) (n : Nat) (v : Int) : (a.wi n v).obs = a.obs := by
  simp [Act.wi]
@[simp] theorem Act.wp_act (a : Act) (n : Nat) (b : Bool) : (a.wp n b).act = a.act := rfl
@[simp] theorem Act.wp_ctx (a : Act) (n : Nat) (b : Bool) : (a.wp n b).ctx = a.ctx := rfl
@[simp] theorem Act.wp_seq (a : Act) (n : Nat) (b : Bool) : (a.wp n b).seq = a.seq := rfl
@[simp] theorem Act.wp_kind (a : Act) (n : Nat) (b : Bool) : (a.wp n b).kind = a.kind := rfl
@[simp] theorem Act.wp_status (a : Act) (n : Nat) (b : Bool) : (a.wp n b).status = a.status := rfl
@[simp] theorem Act.wp_loading (a : Act) (n : Nat) (b : Bool) : (a.wp n b).loading = a.loading := rfl
@[simp] theorem Act.wp_pc (a : Act) (n : Nat) (b : Bool) : (a.wp n b).pc = a.pc := rfl
@[simp] theorem Act.wp_g (a : Act) (n : Nat) (b : Bool) : (a.wp n b).g = a.g := rfl
@[simp] theorem Act.wp_h (a : Act) (n : Nat) (b : Bool) : (a.wp n b).h = a.h := rfl
@[simp] theorem Act.wp_loops (a : Act) (n : Nat) (b : Bool) : (a.wp n b).loops = a.loops := rfl
@[simp] theorem Act.wp_pfx (a : Act) (n : Nat) (b : Bool) : (a.wp n b).pfx = a.pfx := rfl
@[simp] theorem Act.wp_tc (a : Act) (n : Nat) (b : Bool) : (a.wp n b).tc = a.tc := rfl
@[simp] theorem Act.wp_ts (a : Act) (n : Nat) (b : Bool) : (a.wp n b).ts = a.ts := rfl
@[simp] theorem Act.wp_ta (a : Act) (n : Nat) (b : Bool) : (a.wp n b).ta = a.ta := rfl
@[simp] theorem Act.wp_s0 (a : Act) (n : Nat) (b : Bool) : (a.wp n b).s0 = a.s0 := rfl
@[simp] theorem Act.wp_s1 (a : Act) (n : Nat) (b : Bool) : (a.wp n b).s1 = a.s1 := rfl
@[simp] theorem Act.wp_rngReady (a : Act) (n : Nat) (b : Bool) : (a.wp n b).rngReady = a.rngReady := rfl
@[simp] theorem Act.wp_deferred (a : Act) (n : Nat) (b : Bool) : (a.wp n b).deferred = a.deferred := rfl
@[simp] theorem Act.wp_allocs (a : Act) (n : Nat) (b : Bool) : (a.wp n b).allocs = a.allocs := rfl
@[simp] theorem Act.wp_segCount (a : Act) (n : Nat) (b : Bool) : (a.wp n b).segCount = a.segCount := rfl
@[simp] theorem Act.wp_qa (a : Act) (n : Nat) (b : Bool) : (a.wp n b).qa = a.qa := rfl
@[simp] theorem Act.wp_qc (a : Act) (n : Nat) (b : Bool) : (a.wp n b).qc = a.qc := rfl
@[simp] theorem Act.wp_qs (a : Act) (n : Nat) (b : Bool) : (a.wp n b).qs = a.qs := rfl
@[simp] theorem Act.wp_front (a : Act) (n : Nat) (b : Bool) : (a.wp n b).front = a.front := rfl
@[simp] theorem Act.wp_rest (a : Act) (n : Nat) (b : Bool) : (a.wp n b).rest = a.rest := rfl
@[simp] theorem Act.wp_ahead (a : Act) (n : Nat) (b : Bool) : (a.wp n b).ahead = a.ahead := rfl
@[simp] theorem Act.wp_next (a : Act) (n : Nat) (b : Bool) : (a.wp n b).next = a.next := rfl
@[simp] theorem Act.wp_loads (a : Act) (n : Nat) (b : Bool) : (a.wp n b).loads = a.loads := rfl
@[simp] theorem Act.wp_owed (a : Act) (n : Nat) (b : Bool) : (a.wp n b).owed = a.owed := rfl
@[simp] theorem Act.wp_faults (a : Act) (n : Nat) (b : Bool) : (a.wp n b).faults = a.faults := rfl
@[simp] theorem Act.wp_uses (a : Act) (n : Nat) (b : Bool) : (a.wp n b).uses = a.uses := rfl
@[simp] theorem Act.wp_pins (a : Act) (n : Nat) (b : Bool) : (a.wp n b).pins = a.pins := rfl
@[simp] theorem Act.wp_busy (a : Act) (n : Nat) (b : Bool) : (a.wp n b).busy = a.busy := rfl
@[simp] theorem Act.wp_held (a : Act) (n : Nat) (b : Bool) : (a.wp n b).held = a.held := rfl
@[simp] theorem Act.wp_stall (a : Act) (n : Nat) (b : Bool) : (a.wp n b).stall = a.stall := rfl
@[simp] theorem Act.wp_stalls (a : Act) (n : Nat) (b : Bool) : (a.wp n b).stalls = a.stalls := rfl
@[simp] theorem Act.wp_began (a : Act) (n : Nat) (b : Bool) : (a.wp n b).began = a.began := rfl
@[simp] theorem Act.wp_blocked (a : Act) (n : Nat) (b : Bool) : (a.wp n b).blocked = a.blocked := rfl
@[simp] theorem Act.wp_dispatched (a : Act) (n : Nat) (b : Bool) : (a.wp n b).dispatched = a.dispatched := rfl
@[simp] theorem Act.wp_obs (a : Act) (n : Nat) (b : Bool) : (a.wp n b).obs = a.obs := rfl
@[simp] theorem Act.setGen_act (a : Act) (g : Gen) : (a.setGen g).act = a.act := rfl
@[simp] theorem Act.setGen_ctx (a : Act) (g : Gen) : (a.setGen g).ctx = a.ctx := rfl
@[simp] theorem Act.setGen_seq (a : Act) (g : Gen) : (a.setGen g).seq = a.seq := rfl
@[simp] theorem Act.setGen_kind (a : Act) (g : Gen) : (a.setGen g).kind = a.kind := rfl
@[simp] theorem Act.setGen_status (a : Act) (g : Gen) : (a.setGen g).status = a.status := rfl
@[simp] theorem Act.setGen_loading (a : Act) (g : Gen) : (a.setGen g).loading = a.loading := rfl
@[simp] theorem Act.setGen_pc (a : Act) (g : Gen) : (a.setGen g).pc = a.pc := rfl
@[simp] theorem Act.setGen_g (a : Act) (g : Gen) : (a.setGen g).g = a.g := rfl
@[simp] theorem Act.setGen_p (a : Act) (g : Gen) : (a.setGen g).p = a.p := rfl
@[simp] theorem Act.setGen_h (a : Act) (g : Gen) : (a.setGen g).h = a.h := rfl
@[simp] theorem Act.setGen_loops (a : Act) (g : Gen) : (a.setGen g).loops = a.loops := rfl
@[simp] theorem Act.setGen_pfx (a : Act) (g : Gen) : (a.setGen g).pfx = a.pfx := rfl
@[simp] theorem Act.setGen_tc (a : Act) (g : Gen) : (a.setGen g).tc = a.tc := rfl
@[simp] theorem Act.setGen_ts (a : Act) (g : Gen) : (a.setGen g).ts = a.ts := rfl
@[simp] theorem Act.setGen_ta (a : Act) (g : Gen) : (a.setGen g).ta = a.ta := rfl
@[simp] theorem Act.setGen_rngReady (a : Act) (g : Gen) : (a.setGen g).rngReady = a.rngReady := rfl
@[simp] theorem Act.setGen_deferred (a : Act) (g : Gen) : (a.setGen g).deferred = a.deferred := rfl
@[simp] theorem Act.setGen_allocs (a : Act) (g : Gen) : (a.setGen g).allocs = a.allocs := rfl
@[simp] theorem Act.setGen_segCount (a : Act) (g : Gen) : (a.setGen g).segCount = a.segCount := rfl
@[simp] theorem Act.setGen_qa (a : Act) (g : Gen) : (a.setGen g).qa = a.qa := rfl
@[simp] theorem Act.setGen_qc (a : Act) (g : Gen) : (a.setGen g).qc = a.qc := rfl
@[simp] theorem Act.setGen_qs (a : Act) (g : Gen) : (a.setGen g).qs = a.qs := rfl
@[simp] theorem Act.setGen_front (a : Act) (g : Gen) : (a.setGen g).front = a.front := rfl
@[simp] theorem Act.setGen_rest (a : Act) (g : Gen) : (a.setGen g).rest = a.rest := rfl
@[simp] theorem Act.setGen_ahead (a : Act) (g : Gen) : (a.setGen g).ahead = a.ahead := rfl
@[simp] theorem Act.setGen_next (a : Act) (g : Gen) : (a.setGen g).next = a.next := rfl
@[simp] theorem Act.setGen_loads (a : Act) (g : Gen) : (a.setGen g).loads = a.loads := rfl
@[simp] theorem Act.setGen_owed (a : Act) (g : Gen) : (a.setGen g).owed = a.owed := rfl
@[simp] theorem Act.setGen_faults (a : Act) (g : Gen) : (a.setGen g).faults = a.faults := rfl
@[simp] theorem Act.setGen_uses (a : Act) (g : Gen) : (a.setGen g).uses = a.uses := rfl
@[simp] theorem Act.setGen_pins (a : Act) (g : Gen) : (a.setGen g).pins = a.pins := rfl
@[simp] theorem Act.setGen_busy (a : Act) (g : Gen) : (a.setGen g).busy = a.busy := rfl
@[simp] theorem Act.setGen_held (a : Act) (g : Gen) : (a.setGen g).held = a.held := rfl
@[simp] theorem Act.setGen_stall (a : Act) (g : Gen) : (a.setGen g).stall = a.stall := rfl
@[simp] theorem Act.setGen_stalls (a : Act) (g : Gen) : (a.setGen g).stalls = a.stalls := rfl
@[simp] theorem Act.setGen_began (a : Act) (g : Gen) : (a.setGen g).began = a.began := rfl
@[simp] theorem Act.setGen_blocked (a : Act) (g : Gen) : (a.setGen g).blocked = a.blocked := rfl
@[simp] theorem Act.setGen_dispatched (a : Act) (g : Gen) : (a.setGen g).dispatched = a.dispatched := rfl
@[simp] theorem Act.setGen_obs (a : Act) (g : Gen) : (a.setGen g).obs = a.obs := rfl
@[simp] theorem Act.progress_act (a : Act) : (a.progress).act = a.act := rfl
@[simp] theorem Act.progress_ctx (a : Act) : (a.progress).ctx = a.ctx := rfl
@[simp] theorem Act.progress_seq (a : Act) : (a.progress).seq = a.seq := rfl
@[simp] theorem Act.progress_kind (a : Act) : (a.progress).kind = a.kind := rfl
@[simp] theorem Act.progress_status (a : Act) : (a.progress).status = a.status := rfl
@[simp] theorem Act.progress_loading (a : Act) : (a.progress).loading = a.loading := rfl
@[simp] theorem Act.progress_pc (a : Act) : (a.progress).pc = a.pc := rfl
@[simp] theorem Act.progress_g (a : Act) : (a.progress).g = a.g := rfl
@[simp] theorem Act.progress_p (a : Act) : (a.progress).p = a.p := rfl
@[simp] theorem Act.progress_h (a : Act) : (a.progress).h = a.h := rfl
@[simp] theorem Act.progress_loops (a : Act) : (a.progress).loops = a.loops := rfl
@[simp] theorem Act.progress_pfx (a : Act) : (a.progress).pfx = a.pfx := rfl
@[simp] theorem Act.progress_tc (a : Act) : (a.progress).tc = a.tc := rfl
@[simp] theorem Act.progress_ts (a : Act) : (a.progress).ts = a.ts := rfl
@[simp] theorem Act.progress_ta (a : Act) : (a.progress).ta = a.ta := rfl
@[simp] theorem Act.progress_s0 (a : Act) : (a.progress).s0 = a.s0 := rfl
@[simp] theorem Act.progress_s1 (a : Act) : (a.progress).s1 = a.s1 := rfl
@[simp] theorem Act.progress_rngReady (a : Act) : (a.progress).rngReady = a.rngReady := rfl
@[simp] theorem Act.progress_deferred (a : Act) : (a.progress).deferred = a.deferred := rfl
@[simp] theorem Act.progress_allocs (a : Act) : (a.progress).allocs = a.allocs := rfl
@[simp] theorem Act.progress_segCount (a : Act) : (a.progress).segCount = a.segCount := rfl
@[simp] theorem Act.progress_qa (a : Act) : (a.progress).qa = a.qa := rfl
@[simp] theorem Act.progress_qc (a : Act) : (a.progress).qc = a.qc := rfl
@[simp] theorem Act.progress_qs (a : Act) : (a.progress).qs = a.qs := rfl
@[simp] theorem Act.progress_front (a : Act) : (a.progress).front = a.front := rfl
@[simp] theorem Act.progress_rest (a : Act) : (a.progress).rest = a.rest := rfl
@[simp] theorem Act.progress_ahead (a : Act) : (a.progress).ahead = a.ahead := rfl
@[simp] theorem Act.progress_next (a : Act) : (a.progress).next = a.next := rfl
@[simp] theorem Act.progress_loads (a : Act) : (a.progress).loads = a.loads := rfl
@[simp] theorem Act.progress_owed (a : Act) : (a.progress).owed = a.owed := rfl
@[simp] theorem Act.progress_faults (a : Act) : (a.progress).faults = a.faults := rfl
@[simp] theorem Act.progress_uses (a : Act) : (a.progress).uses = a.uses := rfl
@[simp] theorem Act.progress_pins (a : Act) : (a.progress).pins = a.pins := rfl
@[simp] theorem Act.progress_busy (a : Act) : (a.progress).busy = a.busy := rfl
@[simp] theorem Act.progress_held (a : Act) : (a.progress).held = a.held := rfl
@[simp] theorem Act.progress_stalls (a : Act) : (a.progress).stalls = a.stalls := rfl
@[simp] theorem Act.progress_began (a : Act) : (a.progress).began = a.began := rfl
@[simp] theorem Act.progress_dispatched (a : Act) : (a.progress).dispatched = a.dispatched := rfl
@[simp] theorem Act.progress_obs (a : Act) : (a.progress).obs = a.obs := rfl

end Sys2Proof.Machine
end

