-- ==== Sys2Proof/Laws/Sparse.lean ====
section
/-! SUPPORT. Finite maps: what a key holds after an update, and that updates keep the canonical form. -/

namespace Sys2Proof.Machine

variable {α : Type}

@[simp] theorem Sparse.find_nil (k : Nat) : Sparse.find ([] : Sparse α) k = none := rfl
@[simp] theorem Sparse.get_nil (d : α) (k : Nat) : Sparse.get d ([] : Sparse α) k = d := rfl

@[simp] theorem Sparse.find_set_same (m : Sparse α) (k : Nat) (v : α) : (m.set k v).find k = some v := by
  induction m with
  | nil => simp [Sparse.set, Sparse.find]
  | cons e m ih =>
    obtain ⟨j, u⟩ := e
    simp only [Sparse.set]
    split
    · simp [Sparse.find]
    · split
      · simp [Sparse.find]
      · next h1 h2 => simp [Sparse.find, h1, h2, ih]

theorem Sparse.find_set_other (m : Sparse α) {k j : Nat} (v : α) (h : j ≠ k) : (m.set k v).find j = m.find j := by
  induction m with
  | nil => simp [Sparse.set, Sparse.find, h]
  | cons e m ih =>
    obtain ⟨i, u⟩ := e
    simp only [Sparse.set]
    split
    · next h1 =>
      subst h1
      simp [Sparse.find, h]
    · split
      · next h1 h2 =>
        simp only [Sparse.find, h, if_false]
        split
        · next h3 =>
          have : ¬ j = i := by omega
          have : j < i := by omega
          simp [*]
        · rfl
      · next h1 h2 => simp only [Sparse.find, ih]

@[simp] theorem Sparse.get_set_same (d : α) (m : Sparse α) (k : Nat) (v : α) : (m.set k v).get d k = v := by
  simp [Sparse.get]

theorem Sparse.get_set_other (d : α) (m : Sparse α) {k j : Nat} (v : α) (h : j ≠ k) :
    (m.set k v).get d j = m.get d j := by
  simp [Sparse.get, Sparse.find_set_other m v h]

@[simp] theorem Sparse.set_set (m : Sparse α) (k : Nat) (u v : α) : (m.set k u).set k v = m.set k v := by
  induction m with
  | nil => simp [Sparse.set]
  | cons e m ih =>
    obtain ⟨j, w⟩ := e
    by_cases h1 : k = j
    · simp [Sparse.set, h1]
    · by_cases h2 : k < j
      · simp [Sparse.set, h1, h2]
      · simp [Sparse.set, h1, h2, ih]

/-- Keys that all lie above `k` do not hold it. -/
theorem Sparse.find_sortedFrom {lo k : Nat} {m : Sparse α} (h : Sparse.sortedFrom lo m = true) (hk : k < lo) :
    m.find k = none := by
  cases m with
  | nil => rfl
  | cons e m =>
    obtain ⟨j, u⟩ := e
    simp only [Sparse.sortedFrom, Bool.and_eq_true, decide_eq_true_eq] at h
    have h1 : ¬ k = j := by omega
    have h2 : k < j := by omega
    simp [Sparse.find, h1, h2]

theorem Sparse.sortedFrom_mono {lo hi : Nat} {m : Sparse α} (h : Sparse.sortedFrom hi m = true) (hk : lo ≤ hi) :
    Sparse.sortedFrom lo m = true := by
  cases m with
  | nil => rfl
  | cons e m =>
    obtain ⟨j, u⟩ := e
    simp only [Sparse.sortedFrom, Bool.and_eq_true, decide_eq_true_eq] at h ⊢
    exact ⟨by omega, h.2⟩

theorem Sparse.find_del_same {lo : Nat} {m : Sparse α} (h : Sparse.sortedFrom lo m = true) (k : Nat) :
    (m.del k).find k = none := by
  induction m generalizing lo with
  | nil => rfl
  | cons e m ih =>
    obtain ⟨j, u⟩ := e
    simp only [Sparse.sortedFrom, Bool.and_eq_true, decide_eq_true_eq] at h
    simp only [Sparse.del]
    split
    · next h1 => subst h1; exact Sparse.find_sortedFrom h.2 (by omega)
    · split
      · next h1 h2 => simp [Sparse.find, h1, h2]
      · next h1 h2 => simp [Sparse.find, h1, h2, ih h.2]

theorem Sparse.find_del_other {lo : Nat} {m : Sparse α} (h : Sparse.sortedFrom lo m = true) {k j : Nat} (hj : j ≠ k) :
    (m.del k).find j = m.find j := by
  induction m generalizing lo with
  | nil => rfl
  | cons e m ih =>
    obtain ⟨i, u⟩ := e
    simp only [Sparse.sortedFrom, Bool.and_eq_true, decide_eq_true_eq] at h
    simp only [Sparse.del]
    split
    · next h1 =>
      subst h1
      simp only [Sparse.find, hj, if_false]
      split
      · exact Sparse.find_sortedFrom h.2 (by omega)
      · rfl
    · split
      · rfl
      · simp only [Sparse.find, ih h.2]

theorem Sparse.sortedFrom_set {lo : Nat} {m : Sparse α} (h : Sparse.sortedFrom lo m = true) {k : Nat} (hk : lo ≤ k)
    (v : α) : Sparse.sortedFrom lo (m.set k v) = true := by
  induction m generalizing lo with
  | nil => simp [Sparse.set, Sparse.sortedFrom, hk]
  | cons e m ih =>
    obtain ⟨j, u⟩ := e
    simp only [Sparse.sortedFrom, Bool.and_eq_true, decide_eq_true_eq] at h
    simp only [Sparse.set]
    split
    · next h1 =>
      subst h1
      simp [Sparse.sortedFrom, hk, h.2]
    · split
      · simp only [Sparse.sortedFrom, Bool.and_eq_true, decide_eq_true_eq]
        exact ⟨hk, by omega, h.2⟩
      · simp only [Sparse.sortedFrom, Bool.and_eq_true, decide_eq_true_eq]
        exact ⟨h.1, ih h.2 (by omega)⟩

theorem Sparse.sortedFrom_del {lo : Nat} {m : Sparse α} (h : Sparse.sortedFrom lo m = true) (k : Nat) :
    Sparse.sortedFrom lo (m.del k) = true := by
  induction m generalizing lo with
  | nil => rfl
  | cons e m ih =>
    obtain ⟨j, u⟩ := e
    simp only [Sparse.sortedFrom, Bool.and_eq_true, decide_eq_true_eq] at h
    simp only [Sparse.del]
    split
    · exact Sparse.sortedFrom_mono h.2 (by omega)
    · split
      · simp [Sparse.sortedFrom, h.1, h.2]
      · simp only [Sparse.sortedFrom, Bool.and_eq_true, decide_eq_true_eq]
        exact ⟨h.1, ih h.2⟩

/-- No entry is the unlisted value. -/
theorem Sparse.all_set [DecidableEq α] {d : α} {m : Sparse α} (h : m.all (fun e => decide (e.2 ≠ d)) = true) (k : Nat)
    {v : α} (hv : v ≠ d) : (m.set k v).all (fun e => decide (e.2 ≠ d)) = true := by
  induction m with
  | nil => simp [Sparse.set, hv]
  | cons e m ih =>
    obtain ⟨j, u⟩ := e
    simp only [List.all_cons, Bool.and_eq_true] at h
    simp only [Sparse.set]
    split
    · simp only [List.all_cons, Bool.and_eq_true]
      exact ⟨by simpa using hv, h.2⟩
    · split
      · simp only [List.all_cons, Bool.and_eq_true]
        exact ⟨by simpa using hv, h⟩
      · simp only [List.all_cons, Bool.and_eq_true]
        exact ⟨h.1, ih h.2⟩

theorem Sparse.all_del [DecidableEq α] {d : α} {m : Sparse α} (h : m.all (fun e => decide (e.2 ≠ d)) = true) (k : Nat) :
    (m.del k).all (fun e => decide (e.2 ≠ d)) = true := by
  induction m with
  | nil => rfl
  | cons e m ih =>
    obtain ⟨j, u⟩ := e
    simp only [List.all_cons, Bool.and_eq_true] at h
    simp only [Sparse.del]
    split
    · exact h.2
    · split
      · simp only [List.all_cons, Bool.and_eq_true]
        exact h
      · simp only [List.all_cons, Bool.and_eq_true]
        exact ⟨h.1, ih h.2⟩

theorem Sparse.canonical_nil [DecidableEq α] (d : α) : Sparse.canonical d ([] : Sparse α) = true := rfl

/-- A write keeps the canonical form. -/
theorem Sparse.canonical_put [DecidableEq α] {d : α} {m : Sparse α} (h : m.canonical d = true) (k : Nat) (v : α) :
    (m.put d k v).canonical d = true := by
  simp only [Sparse.canonical, Sparse.sorted, Bool.and_eq_true] at h ⊢
  simp only [Sparse.put]
  split
  · exact ⟨Sparse.sortedFrom_del h.1 k, Sparse.all_del h.2 k⟩
  · next hv => exact ⟨Sparse.sortedFrom_set h.1 (Nat.zero_le k) v, Sparse.all_set h.2 k hv⟩

/-- A read after a write to the same key gives what was written. -/
theorem Sparse.get_put_same [DecidableEq α] {d : α} {m : Sparse α} (h : m.sorted = true) (k : Nat) (v : α) :
    (m.put d k v).get d k = v := by
  simp only [Sparse.put]
  split
  · next hv => simp [Sparse.get, Sparse.find_del_same h, hv]
  · simp

/-- A write leaves every other key alone. -/
theorem Sparse.get_put_other [DecidableEq α] {d : α} {m : Sparse α} (h : m.sorted = true) {k j : Nat} (v : α)
    (hj : j ≠ k) : (m.put d k v).get d j = m.get d j := by
  simp only [Sparse.put]
  split
  · simp [Sparse.get, Sparse.find_del_other h hj]
  · exact Sparse.get_set_other d m v hj

/-- A write keeps the keys rising. -/
theorem Sparse.sorted_put [DecidableEq α] {d : α} {m : Sparse α} (h : m.sorted = true) (k : Nat) (v : α) :
    (m.put d k v).sorted = true := by
  simp only [Sparse.put]
  split
  · exact Sparse.sortedFrom_del h k
  · exact Sparse.sortedFrom_set h (Nat.zero_le k) v

theorem canonical_putBytes {m : Sparse Byte} (h : m.canonical 0 = true) (a : Nat) (bs : List Byte) :
    (putBytes m a bs).canonical 0 = true := by
  induction bs generalizing m a with
  | nil => exact h
  | cons b bs ih => exact ih (Sparse.canonical_put h a b) (a + 1)

theorem canonical_writeLE {m : Sparse Byte} (h : m.canonical 0 = true) (a n v : Nat) :
    (writeLE m a n v).canonical 0 = true := canonical_putBytes h a _

theorem sorted_putBytes {m : Sparse Byte} (h : m.sorted = true) (a : Nat) (bs : List Byte) :
    (putBytes m a bs).sorted = true := by
  induction bs generalizing m a with
  | nil => exact h
  | cons b bs ih => exact ih (Sparse.sorted_put h a b) (a + 1)

/-- Bytes outside the ones written keep their values. -/
theorem get_putBytes_other {m : Sparse Byte} (h : m.sorted = true) (a : Nat) (bs : List Byte) {k : Nat}
    (hk : k < a ∨ a + bs.length ≤ k) : (putBytes m a bs).get 0 k = m.get 0 k := by
  induction bs generalizing m a with
  | nil => rfl
  | cons b bs ih =>
    simp only [List.length_cons] at hk
    rw [putBytes, ih (Sparse.sorted_put h a b) (a + 1) (by omega)]
    exact Sparse.get_put_other h b (by omega)

/-- The bytes written read back. -/
theorem get_putBytes_same {m : Sparse Byte} (h : m.sorted = true) (a : Nat) (bs : List Byte) {i : Nat}
    (hi : i < bs.length) : (putBytes m a bs).get 0 (a + i) = bs[i] := by
  induction bs generalizing m a i with
  | nil => simp at hi
  | cons b bs ih =>
    rw [putBytes]
    cases i with
    | zero =>
      rw [get_putBytes_other (Sparse.sorted_put h a b) (a + 1) bs (by omega)]
      simpa using Sparse.get_put_same h a b
    | succ i =>
      have := ih (Sparse.sorted_put (d := 0) h a b) (a + 1) (i := i) (by simpa using hi)
      rw [show a + (i + 1) = a + 1 + i by omega, this]
      rfl

@[simp] theorem bytesAt_length (m : Sparse Byte) (a n : Nat) : (bytesAt m a n).length = n := by
  induction n generalizing a with
  | zero => rfl
  | succ n ih => simp [bytesAt, ih]

@[simp] theorem toLE_length (n v : Nat) : (toLE n v).length = n := by
  induction n generalizing v with
  | zero => rfl
  | succ n ih => simp [toLE, ih]

theorem ofLE_toLE (n v : Nat) : ofLE (toLE n v) = v % 256 ^ n := by
  induction n generalizing v with
  | zero => simp [toLE, ofLE, Nat.mod_one]
  | succ n ih =>
    simp only [toLE, ofLE, ih, BitVec.toNat_ofNat]
    rw [show v % 256 ^ (n + 1) = v % 256 + 256 * (v / 256 % 256 ^ n) by
      rw [Nat.pow_succ', Nat.mod_mul]]
    omega

/-- What was written as bytes from `a` on reads back as those bytes. -/
theorem bytesAt_putBytes {m : Sparse Byte} (h : m.sorted = true) (a : Nat) (bs : List Byte) :
    bytesAt (putBytes m a bs) a bs.length = bs := by
  apply List.ext_getElem (by simp)
  intro i h1 h2
  have key : ∀ (n a : Nat) (m : Sparse Byte) (hi : i < (bytesAt m a n).length), (bytesAt m a n)[i] = m.get 0 (a + i) := by
    clear h1 h2
    induction i with
    | zero =>
      intro n a m hi
      cases n with
      | zero => simp at hi
      | succ n => simp [bytesAt]
    | succ i ih =>
      intro n a m hi
      cases n with
      | zero => simp at hi
      | succ n =>
        simp only [bytesAt, List.getElem_cons_succ]
        rw [ih n (a + 1) m (by simpa using hi)]
        congr 1
        omega
  rw [key]
  exact get_putBytes_same h a bs h2

end Sys2Proof.Machine
end

