-- ==== Sys2Proof/Laws/State.lean ====
section
/-! SUPPORT. What the updates of the state leave alone: one lemma for each field of each update. -/

namespace Sys2Proof.Machine

@[simp] theorem State.setEng_agenda (s : State) (g : Nat) (E : Engine) : (s.setEng g E).agenda = s.agenda := rfl
@[simp] theorem State.setEng_focus (s : State) (g : Nat) (E : Engine) : (s.setEng g E).focus = s.focus := rfl
@[simp] theorem State.setEng_free (s : State) (g : Nat) (E : Engine) : (s.setEng g E).free = s.free := rfl
@[simp] theorem State.setEng_sameCycle (s : State) (g : Nat) (E : Engine) : (s.setEng g E).sameCycle = s.sameCycle := rfl
@[simp] theorem State.setEng_arrivals (s : State) (g : Nat) (E : Engine) : (s.setEng g E).arrivals = s.arrivals := rfl
@[simp] theorem State.setEng_hubTime (s : State) (g : Nat) (E : Engine) : (s.setEng g E).hubTime = s.hubTime := rfl
@[simp] theorem State.setEng_units (s : State) (g : Nat) (E : Engine) : (s.setEng g E).units = s.units := rfl
@[simp] theorem State.setEng_clusters (s : State) (g : Nat) (E : Engine) : (s.setEng g E).clusters = s.clusters := rfl
@[simp] theorem State.setEng_harts (s : State) (g : Nat) (E : Engine) : (s.setEng g E).harts = s.harts := rfl
@[simp] theorem State.setEng_serverMask (s : State) (g : Nat) (E : Engine) : (s.setEng g E).serverMask = s.serverMask := rfl
@[simp] theorem State.setEng_mem (s : State) (g : Nat) (E : Engine) : (s.setEng g E).mem = s.mem := rfl
@[simp] theorem State.setEng_granKey (s : State) (g : Nat) (E : Engine) : (s.setEng g E).granKey = s.granKey := rfl
@[simp] theorem State.setEng_badBits (s : State) (g : Nat) (E : Engine) : (s.setEng g E).badBits = s.badBits := rfl
@[simp] theorem State.setEng_keys (s : State) (g : Nat) (E : Engine) : (s.setEng g E).keys = s.keys := rfl
@[simp] theorem State.setEng_ctxs (s : State) (g : Nat) (E : Engine) : (s.setEng g E).ctxs = s.ctxs := rfl
@[simp] theorem State.setEng_inflight (s : State) (g : Nat) (E : Engine) : (s.setEng g E).inflight = s.inflight := rfl
@[simp] theorem State.setEng_nextId (s : State) (g : Nat) (E : Engine) : (s.setEng g E).nextId = s.nextId := rfl
@[simp] theorem State.setEng_returns (s : State) (g : Nat) (E : Engine) : (s.setEng g E).returns = s.returns := rfl
@[simp] theorem State.setEng_injects (s : State) (g : Nat) (E : Engine) : (s.setEng g E).injects = s.injects := rfl
@[simp] theorem State.setEng_packets (s : State) (g : Nat) (E : Engine) : (s.setEng g E).packets = s.packets := rfl
@[simp] theorem State.setEng_tenures (s : State) (g : Nat) (E : Engine) : (s.setEng g E).tenures = s.tenures := rfl
@[simp] theorem State.setEng_requests (s : State) (g : Nat) (E : Engine) : (s.setEng g E).requests = s.requests := rfl
@[simp] theorem State.setEng_drains (s : State) (g : Nat) (E : Engine) : (s.setEng g E).drains = s.drains := rfl
@[simp] theorem State.setEng_resvs (s : State) (g : Nat) (E : Engine) : (s.setEng g E).resvs = s.resvs := rfl
@[simp] theorem State.setEng_resvReqs (s : State) (g : Nat) (E : Engine) : (s.setEng g E).resvReqs = s.resvReqs := rfl
@[simp] theorem State.setEng_tickets (s : State) (g : Nat) (E : Engine) : (s.setEng g E).tickets = s.tickets := rfl
@[simp] theorem State.setEng_ptWrites (s : State) (g : Nat) (E : Engine) : (s.setEng g E).ptWrites = s.ptWrites := rfl
@[simp] theorem State.setEng_hostLines (s : State) (g : Nat) (E : Engine) : (s.setEng g E).hostLines = s.hostLines := rfl
@[simp] theorem State.setEng_buffers (s : State) (g : Nat) (E : Engine) : (s.setEng g E).buffers = s.buffers := rfl
@[simp] theorem State.setEng_hostBack (s : State) (g : Nat) (E : Engine) : (s.setEng g E).hostBack = s.hostBack := rfl
@[simp] theorem State.setEng_views (s : State) (g : Nat) (E : Engine) : (s.setEng g E).views = s.views := rfl
@[simp] theorem State.setEng_peerWrites (s : State) (g : Nat) (E : Engine) : (s.setEng g E).peerWrites = s.peerWrites := rfl
@[simp] theorem State.setEng_ports (s : State) (g : Nat) (E : Engine) : (s.setEng g E).ports = s.ports := rfl
@[simp] theorem State.setEng_switches (s : State) (g : Nat) (E : Engine) : (s.setEng g E).switches = s.switches := rfl
@[simp] theorem State.setEng_shaper (s : State) (g : Nat) (E : Engine) : (s.setEng g E).shaper = s.shaper := rfl
@[simp] theorem State.setEng_buckets (s : State) (g : Nat) (E : Engine) : (s.setEng g E).buckets = s.buckets := rfl
@[simp] theorem State.setEng_arbs (s : State) (g : Nat) (E : Engine) : (s.setEng g E).arbs = s.arbs := rfl
@[simp] theorem State.setEng_groups (s : State) (g : Nat) (E : Engine) : (s.setEng g E).groups = s.groups := rfl
@[simp] theorem State.setEng_collRuns (s : State) (g : Nat) (E : Engine) : (s.setEng g E).collRuns = s.collRuns := rfl
@[simp] theorem State.setEng_chunks (s : State) (g : Nat) (E : Engine) : (s.setEng g E).chunks = s.chunks := rfl
@[simp] theorem State.setEng_drops (s : State) (g : Nat) (E : Engine) : (s.setEng g E).drops = s.drops := rfl
@[simp] theorem State.setEng_hub (s : State) (g : Nat) (E : Engine) : (s.setEng g E).hub = s.hub := rfl
@[simp] theorem State.setEng_bittern (s : State) (g : Nat) (E : Engine) : (s.setEng g E).bittern = s.bittern := rfl
@[simp] theorem State.setEng_plan (s : State) (g : Nat) (E : Engine) : (s.setEng g E).plan = s.plan := rfl
@[simp] theorem State.modEng_agenda (s : State) (g : Nat) (f : Engine → Engine) : (s.modEng g f).agenda = s.agenda := rfl
@[simp] theorem State.modEng_focus (s : State) (g : Nat) (f : Engine → Engine) : (s.modEng g f).focus = s.focus := rfl
@[simp] theorem State.modEng_free (s : State) (g : Nat) (f : Engine → Engine) : (s.modEng g f).free = s.free := rfl
@[simp] theorem State.modEng_sameCycle (s : State) (g : Nat) (f : Engine → Engine) : (s.modEng g f).sameCycle = s.sameCycle := rfl
@[simp] theorem State.modEng_arrivals (s : State) (g : Nat) (f : Engine → Engine) : (s.modEng g f).arrivals = s.arrivals := rfl
@[simp] theorem State.modEng_hubTime (s : State) (g : Nat) (f : Engine → Engine) : (s.modEng g f).hubTime = s.hubTime := rfl
@[simp] theorem State.modEng_units (s : State) (g : Nat) (f : Engine → Engine) : (s.modEng g f).units = s.units := rfl
@[simp] theorem State.modEng_clusters (s : State) (g : Nat) (f : Engine → Engine) : (s.modEng g f).clusters = s.clusters := rfl
@[simp] theorem State.modEng_harts (s : State) (g : Nat) (f : Engine → Engine) : (s.modEng g f).harts = s.harts := rfl
@[simp] theorem State.modEng_serverMask (s : State) (g : Nat) (f : Engine → Engine) : (s.modEng g f).serverMask = s.serverMask := rfl
@[simp] theorem State.modEng_mem (s : State) (g : Nat) (f : Engine → Engine) : (s.modEng g f).mem = s.mem := rfl
@[simp] theorem State.modEng_granKey (s : State) (g : Nat) (f : Engine → Engine) : (s.modEng g f).granKey = s.granKey := rfl
@[simp] theorem State.modEng_badBits (s : State) (g : Nat) (f : Engine → Engine) : (s.modEng g f).badBits = s.badBits := rfl
@[simp] theorem State.modEng_keys (s : State) (g : Nat) (f : Engine → Engine) : (s.modEng g f).keys = s.keys := rfl
@[simp] theorem State.modEng_ctxs (s : State) (g : Nat) (f : Engine → Engine) : (s.modEng g f).ctxs = s.ctxs := rfl
@[simp] theorem State.modEng_inflight (s : State) (g : Nat) (f : Engine → Engine) : (s.modEng g f).inflight = s.inflight := rfl
@[simp] theorem State.modEng_nextId (s : State) (g : Nat) (f : Engine → Engine) : (s.modEng g f).nextId = s.nextId := rfl
@[simp] theorem State.modEng_returns (s : State) (g : Nat) (f : Engine → Engine) : (s.modEng g f).returns = s.returns := rfl
@[simp] theorem State.modEng_injects (s : State) (g : Nat) (f : Engine → Engine) : (s.modEng g f).injects = s.injects := rfl
@[simp] theorem State.modEng_packets (s : State) (g : Nat) (f : Engine → Engine) : (s.modEng g f).packets = s.packets := rfl
@[simp] theorem State.modEng_tenures (s : State) (g : Nat) (f : Engine → Engine) : (s.modEng g f).tenures = s.tenures := rfl
@[simp] theorem State.modEng_requests (s : State) (g : Nat) (f : Engine → Engine) : (s.modEng g f).requests = s.requests := rfl
@[simp] theorem State.modEng_drains (s : State) (g : Nat) (f : Engine → Engine) : (s.modEng g f).drains = s.drains := rfl
@[simp] theorem State.modEng_resvs (s : State) (g : Nat) (f : Engine → Engine) : (s.modEng g f).resvs = s.resvs := rfl
@[simp] theorem State.modEng_resvReqs (s : State) (g : Nat) (f : Engine → Engine) : (s.modEng g f).resvReqs = s.resvReqs := rfl
@[simp] theorem State.modEng_tickets (s : State) (g : Nat) (f : Engine → Engine) : (s.modEng g f).tickets = s.tickets := rfl
@[simp] theorem State.modEng_ptWrites (s : State) (g : Nat) (f : Engine → Engine) : (s.modEng g f).ptWrites = s.ptWrites := rfl
@[simp] theorem State.modEng_hostLines (s : State) (g : Nat) (f : Engine → Engine) : (s.modEng g f).hostLines = s.hostLines := rfl
@[simp] theorem State.modEng_buffers (s : State) (g : Nat) (f : Engine → Engine) : (s.modEng g f).buffers = s.buffers := rfl
@[simp] theorem State.modEng_hostBack (s : State) (g : Nat) (f : Engine → Engine) : (s.modEng g f).hostBack = s.hostBack := rfl
@[simp] theorem State.modEng_views (s : State) (g : Nat) (f : Engine → Engine) : (s.modEng g f).views = s.views := rfl
@[simp] theorem State.modEng_peerWrites (s : State) (g : Nat) (f : Engine → Engine) : (s.modEng g f).peerWrites = s.peerWrites := rfl
@[simp] theorem State.modEng_ports (s : State) (g : Nat) (f : Engine → Engine) : (s.modEng g f).ports = s.ports := rfl
@[simp] theorem State.modEng_switches (s : State) (g : Nat) (f : Engine → Engine) : (s.modEng g f).switches = s.switches := rfl
@[simp] theorem State.modEng_shaper (s : State) (g : Nat) (f : Engine → Engine) : (s.modEng g f).shaper = s.shaper := rfl
@[simp] theorem State.modEng_buckets (s : State) (g : Nat) (f : Engine → Engine) : (s.modEng g f).buckets = s.buckets := rfl
@[simp] theorem State.modEng_arbs (s : State) (g : Nat) (f : Engine → Engine) : (s.modEng g f).arbs = s.arbs := rfl
@[simp] theorem State.modEng_groups (s : State) (g : Nat) (f : Engine → Engine) : (s.modEng g f).groups = s.groups := rfl
@[simp] theorem State.modEng_collRuns (s : State) (g : Nat) (f : Engine → Engine) : (s.modEng g f).collRuns = s.collRuns := rfl
@[simp] theorem State.modEng_chunks (s : State) (g : Nat) (f : Engine → Engine) : (s.modEng g f).chunks = s.chunks := rfl
@[simp] theorem State.modEng_drops (s : State) (g : Nat) (f : Engine → Engine) : (s.modEng g f).drops = s.drops := rfl
@[simp] theorem State.modEng_hub (s : State) (g : Nat) (f : Engine → Engine) : (s.modEng g f).hub = s.hub := rfl
@[simp] theorem State.modEng_bittern (s : State) (g : Nat) (f : Engine → Engine) : (s.modEng g f).bittern = s.bittern := rfl
@[simp] theorem State.modEng_plan (s : State) (g : Nat) (f : Engine → Engine) : (s.modEng g f).plan = s.plan := rfl
@[simp] theorem State.setAct_agenda (s : State) (g k : Nat) (a : Act) : (s.setAct g k a).agenda = s.agenda := rfl
@[simp] theorem State.setAct_focus (s : State) (g k : Nat) (a : Act) : (s.setAct g k a).focus = s.focus := rfl
@[simp] theorem State.setAct_free (s : State) (g k : Nat) (a : Act) : (s.setAct g k a).free = s.free := rfl
@[simp] theorem State.setAct_sameCycle (s : State) (g k : Nat) (a : Act) : (s.setAct g k a).sameCycle = s.sameCycle := rfl
@[simp] theorem State.setAct_arrivals (s : State) (g k : Nat) (a : Act) : (s.setAct g k a).arrivals = s.arrivals := rfl
@[simp] theorem State.setAct_hubTime (s : State) (g k : Nat) (a : Act) : (s.setAct g k a).hubTime = s.hubTime := rfl
@[simp] theorem State.setAct_units (s : State) (g k : Nat) (a : Act) : (s.setAct g k a).units = s.units := rfl
@[simp] theorem State.setAct_clusters (s : State) (g k : Nat) (a : Act) : (s.setAct g k a).clusters = s.clusters := rfl
@[simp] theorem State.setAct_harts (s : State) (g k : Nat) (a : Act) : (s.setAct g k a).harts = s.harts := rfl
@[simp] theorem State.setAct_serverMask (s : State) (g k : Nat) (a : Act) : (s.setAct g k a).serverMask = s.serverMask := rfl
@[simp] theorem State.setAct_mem (s : State) (g k : Nat) (a : Act) : (s.setAct g k a).mem = s.mem := rfl
@[simp] theorem State.setAct_granKey (s : State) (g k : Nat) (a : Act) : (s.setAct g k a).granKey = s.granKey := rfl
@[simp] theorem State.setAct_badBits (s : State) (g k : Nat) (a : Act) : (s.setAct g k a).badBits = s.badBits := rfl
@[simp] theorem State.setAct_keys (s : State) (g k : Nat) (a : Act) : (s.setAct g k a).keys = s.keys := rfl
@[simp] theorem State.setAct_ctxs (s : State) (g k : Nat) (a : Act) : (s.setAct g k a).ctxs = s.ctxs := rfl
@[simp] theorem State.setAct_inflight (s : State) (g k : Nat) (a : Act) : (s.setAct g k a).inflight = s.inflight := rfl
@[simp] theorem State.setAct_nextId (s : State) (g k : Nat) (a : Act) : (s.setAct g k a).nextId = s.nextId := rfl
@[simp] theorem State.setAct_returns (s : State) (g k : Nat) (a : Act) : (s.setAct g k a).returns = s.returns := rfl
@[simp] theorem State.setAct_injects (s : State) (g k : Nat) (a : Act) : (s.setAct g k a).injects = s.injects := rfl
@[simp] theorem State.setAct_packets (s : State) (g k : Nat) (a : Act) : (s.setAct g k a).packets = s.packets := rfl
@[simp] theorem State.setAct_tenures (s : State) (g k : Nat) (a : Act) : (s.setAct g k a).tenures = s.tenures := rfl
@[simp] theorem State.setAct_requests (s : State) (g k : Nat) (a : Act) : (s.setAct g k a).requests = s.requests := rfl
@[simp] theorem State.setAct_drains (s : State) (g k : Nat) (a : Act) : (s.setAct g k a).drains = s.drains := rfl
@[simp] theorem State.setAct_resvs (s : State) (g k : Nat) (a : Act) : (s.setAct g k a).resvs = s.resvs := rfl
@[simp] theorem State.setAct_resvReqs (s : State) (g k : Nat) (a : Act) : (s.setAct g k a).resvReqs = s.resvReqs := rfl
@[simp] theorem State.setAct_tickets (s : State) (g k : Nat) (a : Act) : (s.setAct g k a).tickets = s.tickets := rfl
@[simp] theorem State.setAct_ptWrites (s : State) (g k : Nat) (a : Act) : (s.setAct g k a).ptWrites = s.ptWrites := rfl
@[simp] theorem State.setAct_hostLines (s : State) (g k : Nat) (a : Act) : (s.setAct g k a).hostLines = s.hostLines := rfl
@[simp] theorem State.setAct_buffers (s : State) (g k : Nat) (a : Act) : (s.setAct g k a).buffers = s.buffers := rfl
@[simp] theorem State.setAct_hostBack (s : State) (g k : Nat) (a : Act) : (s.setAct g k a).hostBack = s.hostBack := rfl
@[simp] theorem State.setAct_views (s : State) (g k : Nat) (a : Act) : (s.setAct g k a).views = s.views := rfl
@[simp] theorem State.setAct_peerWrites (s : State) (g k : Nat) (a : Act) : (s.setAct g k a).peerWrites = s.peerWrites := rfl
@[simp] theorem State.setAct_ports (s : State) (g k : Nat) (a : Act) : (s.setAct g k a).ports = s.ports := rfl
@[simp] theorem State.setAct_switches (s : State) (g k : Nat) (a : Act) : (s.setAct g k a).switches = s.switches := rfl
@[simp] theorem State.setAct_shaper (s : State) (g k : Nat) (a : Act) : (s.setAct g k a).shaper = s.shaper := rfl
@[simp] theorem State.setAct_buckets (s : State) (g k : Nat) (a : Act) : (s.setAct g k a).buckets = s.buckets := rfl
@[simp] theorem State.setAct_arbs (s : State) (g k : Nat) (a : Act) : (s.setAct g k a).arbs = s.arbs := rfl
@[simp] theorem State.setAct_groups (s : State) (g k : Nat) (a : Act) : (s.setAct g k a).groups = s.groups := rfl
@[simp] theorem State.setAct_collRuns (s : State) (g k : Nat) (a : Act) : (s.setAct g k a).collRuns = s.collRuns := rfl
@[simp] theorem State.setAct_chunks (s : State) (g k : Nat) (a : Act) : (s.setAct g k a).chunks = s.chunks := rfl
@[simp] theorem State.setAct_drops (s : State) (g k : Nat) (a : Act) : (s.setAct g k a).drops = s.drops := rfl
@[simp] theorem State.setAct_hub (s : State) (g k : Nat) (a : Act) : (s.setAct g k a).hub = s.hub := rfl
@[simp] theorem State.setAct_bittern (s : State) (g k : Nat) (a : Act) : (s.setAct g k a).bittern = s.bittern := rfl
@[simp] theorem State.setAct_plan (s : State) (g k : Nat) (a : Act) : (s.setAct g k a).plan = s.plan := rfl
@[simp] theorem State.modAct_agenda (s : State) (g k : Nat) (f : Act → Act) : (s.modAct g k f).agenda = s.agenda := by
  unfold State.modAct
  split <;> rfl
@[simp] theorem State.modAct_focus (s : State) (g k : Nat) (f : Act → Act) : (s.modAct g k f).focus = s.focus := by
  unfold State.modAct
  split <;> rfl
@[simp] theorem State.modAct_free (s : State) (g k : Nat) (f : Act → Act) : (s.modAct g k f).free = s.free := by
  unfold State.modAct
  split <;> rfl
@[simp] theorem State.modAct_sameCycle (s : State) (g k : Nat) (f : Act → Act) : (s.modAct g k f).sameCycle = s.sameCycle := by
  unfold State.modAct
  split <;> rfl
@[simp] theorem State.modAct_arrivals (s : State) (g k : Nat) (f : Act → Act) : (s.modAct g k f).arrivals = s.arrivals := by
  unfold State.modAct
  split <;> rfl
@[simp] theorem State.modAct_hubTime (s : State) (g k : Nat) (f : Act → Act) : (s.modAct g k f).hubTime = s.hubTime := by
  unfold State.modAct
  split <;> rfl
@[simp] theorem State.modAct_units (s : State) (g k : Nat) (f : Act → Act) : (s.modAct g k f).units = s.units := by
  unfold State.modAct
  split <;> rfl
@[simp] theorem State.modAct_clusters (s : State) (g k : Nat) (f : Act → Act) : (s.modAct g k f).clusters = s.clusters := by
  unfold State.modAct
  split <;> rfl
@[simp] theorem State.modAct_harts (s : State) (g k : Nat) (f : Act → Act) : (s.modAct g k f).harts = s.harts := by
  unfold State.modAct
  split <;> rfl
@[simp] theorem State.modAct_serverMask (s : State) (g k : Nat) (f : Act → Act) : (s.modAct g k f).serverMask = s.serverMask := by
  unfold State.modAct
  split <;> rfl
@[simp] theorem State.modAct_mem (s : State) (g k : Nat) (f : Act → Act) : (s.modAct g k f).mem = s.mem := by
  unfold State.modAct
  split <;> rfl
@[simp] theorem State.modAct_granKey (s : State) (g k : Nat) (f : Act → Act) : (s.modAct g k f).granKey = s.granKey := by
  unfold State.modAct
  split <;> rfl
@[simp] theorem State.modAct_badBits (s : State) (g k : Nat) (f : Act → Act) : (s.modAct g k f).badBits = s.badBits := by
  unfold State.modAct
  split <;> rfl
@[simp] theorem State.modAct_keys (s : State) (g k : Nat) (f : Act → Act) : (s.modAct g k f).keys = s.keys := by
  unfold State.modAct
  split <;> rfl
@[simp] theorem State.modAct_ctxs (s : State) (g k : Nat) (f : Act → Act) : (s.modAct g k f).ctxs = s.ctxs := by
  unfold State.modAct
  split <;> rfl
@[simp] theorem State.modAct_inflight (s : State) (g k : Nat) (f : Act → Act) : (s.modAct g k f).inflight = s.inflight := by
  unfold State.modAct
  split <;> rfl
@[simp] theorem State.modAct_nextId (s : State) (g k : Nat) (f : Act → Act) : (s.modAct g k f).nextId = s.nextId := by
  unfold State.modAct
  split <;> rfl
@[simp] theorem State.modAct_returns (s : State) (g k : Nat) (f : Act → Act) : (s.modAct g k f).returns = s.returns := by
  unfold State.modAct
  split <;> rfl
@[simp] theorem State.modAct_injects (s : State) (g k : Nat) (f : Act → Act) : (s.modAct g k f).injects = s.injects := by
  unfold State.modAct
  split <;> rfl
@[simp] theorem State.modAct_packets (s : State) (g k : Nat) (f : Act → Act) : (s.modAct g k f).packets = s.packets := by
  unfold State.modAct
  split <;> rfl
@[simp] theorem State.modAct_tenures (s : State) (g k : Nat) (f : Act → Act) : (s.modAct g k f).tenures = s.tenures := by
  unfold State.modAct
  split <;> rfl
@[simp] theorem State.modAct_requests (s : State) (g k : Nat) (f : Act → Act) : (s.modAct g k f).requests = s.requests := by
  unfold State.modAct
  split <;> rfl
@[simp] theorem State.modAct_drains (s : State) (g k : Nat) (f : Act → Act) : (s.modAct g k f).drains = s.drains := by
  unfold State.modAct
  split <;> rfl
@[simp] theorem State.modAct_resvs (s : State) (g k : Nat) (f : Act → Act) : (s.modAct g k f).resvs = s.resvs := by
  unfold State.modAct
  split <;> rfl
@[simp] theorem State.modAct_resvReqs (s : State) (g k : Nat) (f : Act → Act) : (s.modAct g k f).resvReqs = s.resvReqs := by
  unfold State.modAct
  split <;> rfl
@[simp] theorem State.modAct_tickets (s : State) (g k : Nat) (f : Act → Act) : (s.modAct g k f).tickets = s.tickets := by
  unfold State.modAct
  split <;> rfl
@[simp] theorem State.modAct_ptWrites (s : State) (g k : Nat) (f : Act → Act) : (s.modAct g k f).ptWrites = s.ptWrites := by
  unfold State.modAct
  split <;> rfl
@[simp] theorem State.modAct_hostLines (s : State) (g k : Nat) (f : Act → Act) : (s.modAct g k f).hostLines = s.hostLines := by
  unfold State.modAct
  split <;> rfl
@[simp] theorem State.modAct_buffers (s : State) (g k : Nat) (f : Act → Act) : (s.modAct g k f).buffers = s.buffers := by
  unfold State.modAct
  split <;> rfl
@[simp] theorem State.modAct_hostBack (s : State) (g k : Nat) (f : Act → Act) : (s.modAct g k f).hostBack = s.hostBack := by
  unfold State.modAct
  split <;> rfl
@[simp] theorem State.modAct_views (s : State) (g k : Nat) (f : Act → Act) : (s.modAct g k f).views = s.views := by
  unfold State.modAct
  split <;> rfl
@[simp] theorem State.modAct_peerWrites (s : State) (g k : Nat) (f : Act → Act) : (s.modAct g k f).peerWrites = s.peerWrites := by
  unfold State.modAct
  split <;> rfl
@[simp] theorem State.modAct_ports (s : State) (g k : Nat) (f : Act → Act) : (s.modAct g k f).ports = s.ports := by
  unfold State.modAct
  split <;> rfl
@[simp] theorem State.modAct_switches (s : State) (g k : Nat) (f : Act → Act) : (s.modAct g k f).switches = s.switches := by
  unfold State.modAct
  split <;> rfl
@[simp] theorem State.modAct_shaper (s : State) (g k : Nat) (f : Act → Act) : (s.modAct g k f).shaper = s.shaper := by
  unfold State.modAct
  split <;> rfl
@[simp] theorem State.modAct_buckets (s : State) (g k : Nat) (f : Act → Act) : (s.modAct g k f).buckets = s.buckets := by
  unfold State.modAct
  split <;> rfl
@[simp] theorem State.modAct_arbs (s : State) (g k : Nat) (f : Act → Act) : (s.modAct g k f).arbs = s.arbs := by
  unfold State.modAct
  split <;> rfl
@[simp] theorem State.modAct_groups (s : State) (g k : Nat) (f : Act → Act) : (s.modAct g k f).groups = s.groups := by
  unfold State.modAct
  split <;> rfl
@[simp] theorem State.modAct_collRuns (s : State) (g k : Nat) (f : Act → Act) : (s.modAct g k f).collRuns = s.collRuns := by
  unfold State.modAct
  split <;> rfl
@[simp] theorem State.modAct_chunks (s : State) (g k : Nat) (f : Act → Act) : (s.modAct g k f).chunks = s.chunks := by
  unfold State.modAct
  split <;> rfl
@[simp] theorem State.modAct_drops (s : State) (g k : Nat) (f : Act → Act) : (s.modAct g k f).drops = s.drops := by
  unfold State.modAct
  split <;> rfl
@[simp] theorem State.modAct_hub (s : State) (g k : Nat) (f : Act → Act) : (s.modAct g k f).hub = s.hub := by
  unfold State.modAct
  split <;> rfl
@[simp] theorem State.modAct_bittern (s : State) (g k : Nat) (f : Act → Act) : (s.modAct g k f).bittern = s.bittern := by
  unfold State.modAct
  split <;> rfl
@[simp] theorem State.modAct_plan (s : State) (g k : Nat) (f : Act → Act) : (s.modAct g k f).plan = s.plan := by
  unfold State.modAct
  split <;> rfl
@[simp] theorem State.setCur_agenda (s : State) (a : Act) : (s.setCur a).agenda = s.agenda := rfl
@[simp] theorem State.setCur_focus (s : State) (a : Act) : (s.setCur a).focus = s.focus := rfl
@[simp] theorem State.setCur_free (s : State) (a : Act) : (s.setCur a).free = s.free := rfl
@[simp] theorem State.setCur_sameCycle (s : State) (a : Act) : (s.setCur a).sameCycle = s.sameCycle := rfl
@[simp] theorem State.setCur_arrivals (s : State) (a : Act) : (s.setCur a).arrivals = s.arrivals := rfl
@[simp] theorem State.setCur_hubTime (s : State) (a : Act) : (s.setCur a).hubTime = s.hubTime := rfl
@[simp] theorem State.setCur_units (s : State) (a : Act) : (s.setCur a).units = s.units := rfl
@[simp] theorem State.setCur_clusters (s : State) (a : Act) : (s.setCur a).clusters = s.clusters := rfl
@[simp] theorem State.setCur_harts (s : State) (a : Act) : (s.setCur a).harts = s.harts := rfl
@[simp] theorem State.setCur_serverMask (s : State) (a : Act) : (s.setCur a).serverMask = s.serverMask := rfl
@[simp] theorem State.setCur_mem (s : State) (a : Act) : (s.setCur a).mem = s.mem := rfl
@[simp] theorem State.setCur_granKey (s : State) (a : Act) : (s.setCur a).granKey = s.granKey := rfl
@[simp] theorem State.setCur_badBits (s : State) (a : Act) : (s.setCur a).badBits = s.badBits := rfl
@[simp] theorem State.setCur_keys (s : State) (a : Act) : (s.setCur a).keys = s.keys := rfl
@[simp] theorem State.setCur_ctxs (s : State) (a : Act) : (s.setCur a).ctxs = s.ctxs := rfl
@[simp] theorem State.setCur_inflight (s : State) (a : Act) : (s.setCur a).inflight = s.inflight := rfl
@[simp] theorem State.setCur_nextId (s : State) (a : Act) : (s.setCur a).nextId = s.nextId := rfl
@[simp] theorem State.setCur_returns (s : State) (a : Act) : (s.setCur a).returns = s.returns := rfl
@[simp] theorem State.setCur_injects (s : State) (a : Act) : (s.setCur a).injects = s.injects := rfl
@[simp] theorem State.setCur_packets (s : State) (a : Act) : (s.setCur a).packets = s.packets := rfl
@[simp] theorem State.setCur_tenures (s : State) (a : Act) : (s.setCur a).tenures = s.tenures := rfl
@[simp] theorem State.setCur_requests (s : State) (a : Act) : (s.setCur a).requests = s.requests := rfl
@[simp] theorem State.setCur_drains (s : State) (a : Act) : (s.setCur a).drains = s.drains := rfl
@[simp] theorem State.setCur_resvs (s : State) (a : Act) : (s.setCur a).resvs = s.resvs := rfl
@[simp] theorem State.setCur_resvReqs (s : State) (a : Act) : (s.setCur a).resvReqs = s.resvReqs := rfl
@[simp] theorem State.setCur_tickets (s : State) (a : Act) : (s.setCur a).tickets = s.tickets := rfl
@[simp] theorem State.setCur_ptWrites (s : State) (a : Act) : (s.setCur a).ptWrites = s.ptWrites := rfl
@[simp] theorem State.setCur_hostLines (s : State) (a : Act) : (s.setCur a).hostLines = s.hostLines := rfl
@[simp] theorem State.setCur_buffers (s : State) (a : Act) : (s.setCur a).buffers = s.buffers := rfl
@[simp] theorem State.setCur_hostBack (s : State) (a : Act) : (s.setCur a).hostBack = s.hostBack := rfl
@[simp] theorem State.setCur_views (s : State) (a : Act) : (s.setCur a).views = s.views := rfl
@[simp] theorem State.setCur_peerWrites (s : State) (a : Act) : (s.setCur a).peerWrites = s.peerWrites := rfl
@[simp] theorem State.setCur_ports (s : State) (a : Act) : (s.setCur a).ports = s.ports := rfl
@[simp] theorem State.setCur_switches (s : State) (a : Act) : (s.setCur a).switches = s.switches := rfl
@[simp] theorem State.setCur_shaper (s : State) (a : Act) : (s.setCur a).shaper = s.shaper := rfl
@[simp] theorem State.setCur_buckets (s : State) (a : Act) : (s.setCur a).buckets = s.buckets := rfl
@[simp] theorem State.setCur_arbs (s : State) (a : Act) : (s.setCur a).arbs = s.arbs := rfl
@[simp] theorem State.setCur_groups (s : State) (a : Act) : (s.setCur a).groups = s.groups := rfl
@[simp] theorem State.setCur_collRuns (s : State) (a : Act) : (s.setCur a).collRuns = s.collRuns := rfl
@[simp] theorem State.setCur_chunks (s : State) (a : Act) : (s.setCur a).chunks = s.chunks := rfl
@[simp] theorem State.setCur_drops (s : State) (a : Act) : (s.setCur a).drops = s.drops := rfl
@[simp] theorem State.setCur_hub (s : State) (a : Act) : (s.setCur a).hub = s.hub := rfl
@[simp] theorem State.setCur_bittern (s : State) (a : Act) : (s.setCur a).bittern = s.bittern := rfl
@[simp] theorem State.setCur_plan (s : State) (a : Act) : (s.setCur a).plan = s.plan := rfl
@[simp] theorem State.modCur_agenda (s : State) (f : Act → Act) : (s.modCur f).agenda = s.agenda := by
  simp [State.modCur]
@[simp] theorem State.modCur_focus (s : State) (f : Act → Act) : (s.modCur f).focus = s.focus := by
  simp [State.modCur]
@[simp] theorem State.modCur_free (s : State) (f : Act → Act) : (s.modCur f).free = s.free := by
  simp [State.modCur]
@[simp] theorem State.modCur_sameCycle (s : State) (f : Act → Act) : (s.modCur f).sameCycle = s.sameCycle := by
  simp [State.modCur]
@[simp] theorem State.modCur_arrivals (s : State) (f : Act → Act) : (s.modCur f).arrivals = s.arrivals := by
  simp [State.modCur]
@[simp] theorem State.modCur_hubTime (s : State) (f : Act → Act) : (s.modCur f).hubTime = s.hubTime := by
  simp [State.modCur]
@[simp] theorem State.modCur_units (s : State) (f : Act → Act) : (s.modCur f).units = s.units := by
  simp [State.modCur]
@[simp] theorem State.modCur_clusters (s : State) (f : Act → Act) : (s.modCur f).clusters = s.clusters := by
  simp [State.modCur]
@[simp] theorem State.modCur_harts (s : State) (f : Act → Act) : (s.modCur f).harts = s.harts := by
  simp [State.modCur]
@[simp] theorem State.modCur_serverMask (s : State) (f : Act → Act) : (s.modCur f).serverMask = s.serverMask := by
  simp [State.modCur]
@[simp] theorem State.modCur_mem (s : State) (f : Act → Act) : (s.modCur f).mem = s.mem := by
  simp [State.modCur]
@[simp] theorem State.modCur_granKey (s : State) (f : Act → Act) : (s.modCur f).granKey = s.granKey := by
  simp [State.modCur]
@[simp] theorem State.modCur_badBits (s : State) (f : Act → Act) : (s.modCur f).badBits = s.badBits := by
  simp [State.modCur]
@[simp] theorem State.modCur_keys (s : State) (f : Act → Act) : (s.modCur f).keys = s.keys := by
  simp [State.modCur]
@[simp] theorem State.modCur_ctxs (s : State) (f : Act → Act) : (s.modCur f).ctxs = s.ctxs := by
  simp [State.modCur]
@[simp] theorem State.modCur_inflight (s : State) (f : Act → Act) : (s.modCur f).inflight = s.inflight := by
  simp [State.modCur]
@[simp] theorem State.modCur_nextId (s : State) (f : Act → Act) : (s.modCur f).nextId = s.nextId := by
  simp [State.modCur]
@[simp] theorem State.modCur_returns (s : State) (f : Act → Act) : (s.modCur f).returns = s.returns := by
  simp [State.modCur]
@[simp] theorem State.modCur_injects (s : State) (f : Act → Act) : (s.modCur f).injects = s.injects := by
  simp [State.modCur]
@[simp] theorem State.modCur_packets (s : State) (f : Act → Act) : (s.modCur f).packets = s.packets := by
  simp [State.modCur]
@[simp] theorem State.modCur_tenures (s : State) (f : Act → Act) : (s.modCur f).tenures = s.tenures := by
  simp [State.modCur]
@[simp] theorem State.modCur_requests (s : State) (f : Act → Act) : (s.modCur f).requests = s.requests := by
  simp [State.modCur]
@[simp] theorem State.modCur_drains (s : State) (f : Act → Act) : (s.modCur f).drains = s.drains := by
  simp [State.modCur]
@[simp] theorem State.modCur_resvs (s : State) (f : Act → Act) : (s.modCur f).resvs = s.resvs := by
  simp [State.modCur]
@[simp] theorem State.modCur_resvReqs (s : State) (f : Act → Act) : (s.modCur f).resvReqs = s.resvReqs := by
  simp [State.modCur]
@[simp] theorem State.modCur_tickets (s : State) (f : Act → Act) : (s.modCur f).tickets = s.tickets := by
  simp [State.modCur]
@[simp] theorem State.modCur_ptWrites (s : State) (f : Act → Act) : (s.modCur f).ptWrites = s.ptWrites := by
  simp [State.modCur]
@[simp] theorem State.modCur_hostLines (s : State) (f : Act → Act) : (s.modCur f).hostLines = s.hostLines := by
  simp [State.modCur]
@[simp] theorem State.modCur_buffers (s : State) (f : Act → Act) : (s.modCur f).buffers = s.buffers := by
  simp [State.modCur]
@[simp] theorem State.modCur_hostBack (s : State) (f : Act → Act) : (s.modCur f).hostBack = s.hostBack := by
  simp [State.modCur]
@[simp] theorem State.modCur_views (s : State) (f : Act → Act) : (s.modCur f).views = s.views := by
  simp [State.modCur]
@[simp] theorem State.modCur_peerWrites (s : State) (f : Act → Act) : (s.modCur f).peerWrites = s.peerWrites := by
  simp [State.modCur]
@[simp] theorem State.modCur_ports (s : State) (f : Act → Act) : (s.modCur f).ports = s.ports := by
  simp [State.modCur]
@[simp] theorem State.modCur_switches (s : State) (f : Act → Act) : (s.modCur f).switches = s.switches := by
  simp [State.modCur]
@[simp] theorem State.modCur_shaper (s : State) (f : Act → Act) : (s.modCur f).shaper = s.shaper := by
  simp [State.modCur]
@[simp] theorem State.modCur_buckets (s : State) (f : Act → Act) : (s.modCur f).buckets = s.buckets := by
  simp [State.modCur]
@[simp] theorem State.modCur_arbs (s : State) (f : Act → Act) : (s.modCur f).arbs = s.arbs := by
  simp [State.modCur]
@[simp] theorem State.modCur_groups (s : State) (f : Act → Act) : (s.modCur f).groups = s.groups := by
  simp [State.modCur]
@[simp] theorem State.modCur_collRuns (s : State) (f : Act → Act) : (s.modCur f).collRuns = s.collRuns := by
  simp [State.modCur]
@[simp] theorem State.modCur_chunks (s : State) (f : Act → Act) : (s.modCur f).chunks = s.chunks := by
  simp [State.modCur]
@[simp] theorem State.modCur_drops (s : State) (f : Act → Act) : (s.modCur f).drops = s.drops := by
  simp [State.modCur]
@[simp] theorem State.modCur_hub (s : State) (f : Act → Act) : (s.modCur f).hub = s.hub := by
  simp [State.modCur]
@[simp] theorem State.modCur_bittern (s : State) (f : Act → Act) : (s.modCur f).bittern = s.bittern := by
  simp [State.modCur]
@[simp] theorem State.modCur_plan (s : State) (f : Act → Act) : (s.modCur f).plan = s.plan := by
  simp [State.modCur]
@[simp] theorem State.putSpad_agenda (s : State) (g : Nat) (src : SpadSrc) (cross : List (Cell × Bool)) (place : Nat) (l : List Put) : (s.putSpad g src cross place l).agenda = s.agenda := rfl
@[simp] theorem State.putSpad_focus (s : State) (g : Nat) (src : SpadSrc) (cross : List (Cell × Bool)) (place : Nat) (l : List Put) : (s.putSpad g src cross place l).focus = s.focus := rfl
@[simp] theorem State.putSpad_free (s : State) (g : Nat) (src : SpadSrc) (cross : List (Cell × Bool)) (place : Nat) (l : List Put) : (s.putSpad g src cross place l).free = s.free := rfl
@[simp] theorem State.putSpad_sameCycle (s : State) (g : Nat) (src : SpadSrc) (cross : List (Cell × Bool)) (place : Nat) (l : List Put) : (s.putSpad g src cross place l).sameCycle = s.sameCycle := rfl
@[simp] theorem State.putSpad_arrivals (s : State) (g : Nat) (src : SpadSrc) (cross : List (Cell × Bool)) (place : Nat) (l : List Put) : (s.putSpad g src cross place l).arrivals = s.arrivals := rfl
@[simp] theorem State.putSpad_hubTime (s : State) (g : Nat) (src : SpadSrc) (cross : List (Cell × Bool)) (place : Nat) (l : List Put) : (s.putSpad g src cross place l).hubTime = s.hubTime := rfl
@[simp] theorem State.putSpad_units (s : State) (g : Nat) (src : SpadSrc) (cross : List (Cell × Bool)) (place : Nat) (l : List Put) : (s.putSpad g src cross place l).units = s.units := rfl
@[simp] theorem State.putSpad_clusters (s : State) (g : Nat) (src : SpadSrc) (cross : List (Cell × Bool)) (place : Nat) (l : List Put) : (s.putSpad g src cross place l).clusters = s.clusters := rfl
@[simp] theorem State.putSpad_harts (s : State) (g : Nat) (src : SpadSrc) (cross : List (Cell × Bool)) (place : Nat) (l : List Put) : (s.putSpad g src cross place l).harts = s.harts := rfl
@[simp] theorem State.putSpad_serverMask (s : State) (g : Nat) (src : SpadSrc) (cross : List (Cell × Bool)) (place : Nat) (l : List Put) : (s.putSpad g src cross place l).serverMask = s.serverMask := rfl
@[simp] theorem State.putSpad_mem (s : State) (g : Nat) (src : SpadSrc) (cross : List (Cell × Bool)) (place : Nat) (l : List Put) : (s.putSpad g src cross place l).mem = s.mem := rfl
@[simp] theorem State.putSpad_granKey (s : State) (g : Nat) (src : SpadSrc) (cross : List (Cell × Bool)) (place : Nat) (l : List Put) : (s.putSpad g src cross place l).granKey = s.granKey := rfl
@[simp] theorem State.putSpad_badBits (s : State) (g : Nat) (src : SpadSrc) (cross : List (Cell × Bool)) (place : Nat) (l : List Put) : (s.putSpad g src cross place l).badBits = s.badBits := rfl
@[simp] theorem State.putSpad_keys (s : State) (g : Nat) (src : SpadSrc) (cross : List (Cell × Bool)) (place : Nat) (l : List Put) : (s.putSpad g src cross place l).keys = s.keys := rfl
@[simp] theorem State.putSpad_ctxs (s : State) (g : Nat) (src : SpadSrc) (cross : List (Cell × Bool)) (place : Nat) (l : List Put) : (s.putSpad g src cross place l).ctxs = s.ctxs := rfl
@[simp] theorem State.putSpad_inflight (s : State) (g : Nat) (src : SpadSrc) (cross : List (Cell × Bool)) (place : Nat) (l : List Put) : (s.putSpad g src cross place l).inflight = s.inflight := rfl
@[simp] theorem State.putSpad_nextId (s : State) (g : Nat) (src : SpadSrc) (cross : List (Cell × Bool)) (place : Nat) (l : List Put) : (s.putSpad g src cross place l).nextId = s.nextId := rfl
@[simp] theorem State.putSpad_returns (s : State) (g : Nat) (src : SpadSrc) (cross : List (Cell × Bool)) (place : Nat) (l : List Put) : (s.putSpad g src cross place l).returns = s.returns := rfl
@[simp] theorem State.putSpad_injects (s : State) (g : Nat) (src : SpadSrc) (cross : List (Cell × Bool)) (place : Nat) (l : List Put) : (s.putSpad g src cross place l).injects = s.injects := rfl
@[simp] theorem State.putSpad_packets (s : State) (g : Nat) (src : SpadSrc) (cross : List (Cell × Bool)) (place : Nat) (l : List Put) : (s.putSpad g src cross place l).packets = s.packets := rfl
@[simp] theorem State.putSpad_tenures (s : State) (g : Nat) (src : SpadSrc) (cross : List (Cell × Bool)) (place : Nat) (l : List Put) : (s.putSpad g src cross place l).tenures = s.tenures := rfl
@[simp] theorem State.putSpad_requests (s : State) (g : Nat) (src : SpadSrc) (cross : List (Cell × Bool)) (place : Nat) (l : List Put) : (s.putSpad g src cross place l).requests = s.requests := rfl
@[simp] theorem State.putSpad_drains (s : State) (g : Nat) (src : SpadSrc) (cross : List (Cell × Bool)) (place : Nat) (l : List Put) : (s.putSpad g src cross place l).drains = s.drains := rfl
@[simp] theorem State.putSpad_resvs (s : State) (g : Nat) (src : SpadSrc) (cross : List (Cell × Bool)) (place : Nat) (l : List Put) : (s.putSpad g src cross place l).resvs = s.resvs := rfl
@[simp] theorem State.putSpad_resvReqs (s : State) (g : Nat) (src : SpadSrc) (cross : List (Cell × Bool)) (place : Nat) (l : List Put) : (s.putSpad g src cross place l).resvReqs = s.resvReqs := rfl
@[simp] theorem State.putSpad_tickets (s : State) (g : Nat) (src : SpadSrc) (cross : List (Cell × Bool)) (place : Nat) (l : List Put) : (s.putSpad g src cross place l).tickets = s.tickets := rfl
@[simp] theorem State.putSpad_ptWrites (s : State) (g : Nat) (src : SpadSrc) (cross : List (Cell × Bool)) (place : Nat) (l : List Put) : (s.putSpad g src cross place l).ptWrites = s.ptWrites := rfl
@[simp] theorem State.putSpad_hostLines (s : State) (g : Nat) (src : SpadSrc) (cross : List (Cell × Bool)) (place : Nat) (l : List Put) : (s.putSpad g src cross place l).hostLines = s.hostLines := rfl
@[simp] theorem State.putSpad_buffers (s : State) (g : Nat) (src : SpadSrc) (cross : List (Cell × Bool)) (place : Nat) (l : List Put) : (s.putSpad g src cross place l).buffers = s.buffers := rfl
@[simp] theorem State.putSpad_hostBack (s : State) (g : Nat) (src : SpadSrc) (cross : List (Cell × Bool)) (place : Nat) (l : List Put) : (s.putSpad g src cross place l).hostBack = s.hostBack := rfl
@[simp] theorem State.putSpad_views (s : State) (g : Nat) (src : SpadSrc) (cross : List (Cell × Bool)) (place : Nat) (l : List Put) : (s.putSpad g src cross place l).views = s.views := rfl
@[simp] theorem State.putSpad_peerWrites (s : State) (g : Nat) (src : SpadSrc) (cross : List (Cell × Bool)) (place : Nat) (l : List Put) : (s.putSpad g src cross place l).peerWrites = s.peerWrites := rfl
@[simp] theorem State.putSpad_ports (s : State) (g : Nat) (src : SpadSrc) (cross : List (Cell × Bool)) (place : Nat) (l : List Put) : (s.putSpad g src cross place l).ports = s.ports := rfl
@[simp] theorem State.putSpad_switches (s : State) (g : Nat) (src : SpadSrc) (cross : List (Cell × Bool)) (place : Nat) (l : List Put) : (s.putSpad g src cross place l).switches = s.switches := rfl
@[simp] theorem State.putSpad_shaper (s : State) (g : Nat) (src : SpadSrc) (cross : List (Cell × Bool)) (place : Nat) (l : List Put) : (s.putSpad g src cross place l).shaper = s.shaper := rfl
@[simp] theorem State.putSpad_buckets (s : State) (g : Nat) (src : SpadSrc) (cross : List (Cell × Bool)) (place : Nat) (l : List Put) : (s.putSpad g src cross place l).buckets = s.buckets := rfl
@[simp] theorem State.putSpad_arbs (s : State) (g : Nat) (src : SpadSrc) (cross : List (Cell × Bool)) (place : Nat) (l : List Put) : (s.putSpad g src cross place l).arbs = s.arbs := rfl
@[simp] theorem State.putSpad_groups (s : State) (g : Nat) (src : SpadSrc) (cross : List (Cell × Bool)) (place : Nat) (l : List Put) : (s.putSpad g src cross place l).groups = s.groups := rfl
@[simp] theorem State.putSpad_collRuns (s : State) (g : Nat) (src : SpadSrc) (cross : List (Cell × Bool)) (place : Nat) (l : List Put) : (s.putSpad g src cross place l).collRuns = s.collRuns := rfl
@[simp] theorem State.putSpad_chunks (s : State) (g : Nat) (src : SpadSrc) (cross : List (Cell × Bool)) (place : Nat) (l : List Put) : (s.putSpad g src cross place l).chunks = s.chunks := rfl
@[simp] theorem State.putSpad_drops (s : State) (g : Nat) (src : SpadSrc) (cross : List (Cell × Bool)) (place : Nat) (l : List Put) : (s.putSpad g src cross place l).drops = s.drops := rfl
@[simp] theorem State.putSpad_hub (s : State) (g : Nat) (src : SpadSrc) (cross : List (Cell × Bool)) (place : Nat) (l : List Put) : (s.putSpad g src cross place l).hub = s.hub := rfl
@[simp] theorem State.putSpad_bittern (s : State) (g : Nat) (src : SpadSrc) (cross : List (Cell × Bool)) (place : Nat) (l : List Put) : (s.putSpad g src cross place l).bittern = s.bittern := rfl
@[simp] theorem State.putSpad_plan (s : State) (g : Nat) (src : SpadSrc) (cross : List (Cell × Bool)) (place : Nat) (l : List Put) : (s.putSpad g src cross place l).plan = s.plan := rfl
@[simp] theorem State.setSpad_agenda (s : State) (l : List Put) : (s.setSpad l).agenda = s.agenda := rfl
@[simp] theorem State.setSpad_focus (s : State) (l : List Put) : (s.setSpad l).focus = s.focus := rfl
@[simp] theorem State.setSpad_free (s : State) (l : List Put) : (s.setSpad l).free = s.free := rfl
@[simp] theorem State.setSpad_sameCycle (s : State) (l : List Put) : (s.setSpad l).sameCycle = s.sameCycle := rfl
@[simp] theorem State.setSpad_arrivals (s : State) (l : List Put) : (s.setSpad l).arrivals = s.arrivals := rfl
@[simp] theorem State.setSpad_hubTime (s : State) (l : List Put) : (s.setSpad l).hubTime = s.hubTime := rfl
@[simp] theorem State.setSpad_units (s : State) (l : List Put) : (s.setSpad l).units = s.units := rfl
@[simp] theorem State.setSpad_clusters (s : State) (l : List Put) : (s.setSpad l).clusters = s.clusters := rfl
@[simp] theorem State.setSpad_harts (s : State) (l : List Put) : (s.setSpad l).harts = s.harts := rfl
@[simp] theorem State.setSpad_serverMask (s : State) (l : List Put) : (s.setSpad l).serverMask = s.serverMask := rfl
@[simp] theorem State.setSpad_mem (s : State) (l : List Put) : (s.setSpad l).mem = s.mem := rfl
@[simp] theorem State.setSpad_granKey (s : State) (l : List Put) : (s.setSpad l).granKey = s.granKey := rfl
@[simp] theorem State.setSpad_badBits (s : State) (l : List Put) : (s.setSpad l).badBits = s.badBits := rfl
@[simp] theorem State.setSpad_keys (s : State) (l : List Put) : (s.setSpad l).keys = s.keys := rfl
@[simp] theorem State.setSpad_ctxs (s : State) (l : List Put) : (s.setSpad l).ctxs = s.ctxs := rfl
@[simp] theorem State.setSpad_inflight (s : State) (l : List Put) : (s.setSpad l).inflight = s.inflight := rfl
@[simp] theorem State.setSpad_nextId (s : State) (l : List Put) : (s.setSpad l).nextId = s.nextId := rfl
@[simp] theorem State.setSpad_returns (s : State) (l : List Put) : (s.setSpad l).returns = s.returns := rfl
@[simp] theorem State.setSpad_injects (s : State) (l : List Put) : (s.setSpad l).injects = s.injects := rfl
@[simp] theorem State.setSpad_packets (s : State) (l : List Put) : (s.setSpad l).packets = s.packets := rfl
@[simp] theorem State.setSpad_tenures (s : State) (l : List Put) : (s.setSpad l).tenures = s.tenures := rfl
@[simp] theorem State.setSpad_requests (s : State) (l : List Put) : (s.setSpad l).requests = s.requests := rfl
@[simp] theorem State.setSpad_drains (s : State) (l : List Put) : (s.setSpad l).drains = s.drains := rfl
@[simp] theorem State.setSpad_resvs (s : State) (l : List Put) : (s.setSpad l).resvs = s.resvs := rfl
@[simp] theorem State.setSpad_resvReqs (s : State) (l : List Put) : (s.setSpad l).resvReqs = s.resvReqs := rfl
@[simp] theorem State.setSpad_tickets (s : State) (l : List Put) : (s.setSpad l).tickets = s.tickets := rfl
@[simp] theorem State.setSpad_ptWrites (s : State) (l : List Put) : (s.setSpad l).ptWrites = s.ptWrites := rfl
@[simp] theorem State.setSpad_hostLines (s : State) (l : List Put) : (s.setSpad l).hostLines = s.hostLines := rfl
@[simp] theorem State.setSpad_buffers (s : State) (l : List Put) : (s.setSpad l).buffers = s.buffers := rfl
@[simp] theorem State.setSpad_hostBack (s : State) (l : List Put) : (s.setSpad l).hostBack = s.hostBack := rfl
@[simp] theorem State.setSpad_views (s : State) (l : List Put) : (s.setSpad l).views = s.views := rfl
@[simp] theorem State.setSpad_peerWrites (s : State) (l : List Put) : (s.setSpad l).peerWrites = s.peerWrites := rfl
@[simp] theorem State.setSpad_ports (s : State) (l : List Put) : (s.setSpad l).ports = s.ports := rfl
@[simp] theorem State.setSpad_switches (s : State) (l : List Put) : (s.setSpad l).switches = s.switches := rfl
@[simp] theorem State.setSpad_shaper (s : State) (l : List Put) : (s.setSpad l).shaper = s.shaper := rfl
@[simp] theorem State.setSpad_buckets (s : State) (l : List Put) : (s.setSpad l).buckets = s.buckets := rfl
@[simp] theorem State.setSpad_arbs (s : State) (l : List Put) : (s.setSpad l).arbs = s.arbs := rfl
@[simp] theorem State.setSpad_groups (s : State) (l : List Put) : (s.setSpad l).groups = s.groups := rfl
@[simp] theorem State.setSpad_collRuns (s : State) (l : List Put) : (s.setSpad l).collRuns = s.collRuns := rfl
@[simp] theorem State.setSpad_chunks (s : State) (l : List Put) : (s.setSpad l).chunks = s.chunks := rfl
@[simp] theorem State.setSpad_drops (s : State) (l : List Put) : (s.setSpad l).drops = s.drops := rfl
@[simp] theorem State.setSpad_hub (s : State) (l : List Put) : (s.setSpad l).hub = s.hub := rfl
@[simp] theorem State.setSpad_bittern (s : State) (l : List Put) : (s.setSpad l).bittern = s.bittern := rfl
@[simp] theorem State.setSpad_plan (s : State) (l : List Put) : (s.setSpad l).plan = s.plan := rfl
@[simp] theorem State.barUpdate_agenda (s : State) (g b d : Nat) (p : Int) : (s.barUpdate g b d p).agenda = s.agenda := rfl
@[simp] theorem State.barUpdate_focus (s : State) (g b d : Nat) (p : Int) : (s.barUpdate g b d p).focus = s.focus := rfl
@[simp] theorem State.barUpdate_free (s : State) (g b d : Nat) (p : Int) : (s.barUpdate g b d p).free = s.free := rfl
@[simp] theorem State.barUpdate_sameCycle (s : State) (g b d : Nat) (p : Int) : (s.barUpdate g b d p).sameCycle = s.sameCycle := rfl
@[simp] theorem State.barUpdate_arrivals (s : State) (g b d : Nat) (p : Int) : (s.barUpdate g b d p).arrivals = s.arrivals := rfl
@[simp] theorem State.barUpdate_hubTime (s : State) (g b d : Nat) (p : Int) : (s.barUpdate g b d p).hubTime = s.hubTime := rfl
@[simp] theorem State.barUpdate_units (s : State) (g b d : Nat) (p : Int) : (s.barUpdate g b d p).units = s.units := rfl
@[simp] theorem State.barUpdate_clusters (s : State) (g b d : Nat) (p : Int) : (s.barUpdate g b d p).clusters = s.clusters := rfl
@[simp] theorem State.barUpdate_harts (s : State) (g b d : Nat) (p : Int) : (s.barUpdate g b d p).harts = s.harts := rfl
@[simp] theorem State.barUpdate_serverMask (s : State) (g b d : Nat) (p : Int) : (s.barUpdate g b d p).serverMask = s.serverMask := rfl
@[simp] theorem State.barUpdate_mem (s : State) (g b d : Nat) (p : Int) : (s.barUpdate g b d p).mem = s.mem := rfl
@[simp] theorem State.barUpdate_granKey (s : State) (g b d : Nat) (p : Int) : (s.barUpdate g b d p).granKey = s.granKey := rfl
@[simp] theorem State.barUpdate_badBits (s : State) (g b d : Nat) (p : Int) : (s.barUpdate g b d p).badBits = s.badBits := rfl
@[simp] theorem State.barUpdate_keys (s : State) (g b d : Nat) (p : Int) : (s.barUpdate g b d p).keys = s.keys := rfl
@[simp] theorem State.barUpdate_ctxs (s : State) (g b d : Nat) (p : Int) : (s.barUpdate g b d p).ctxs = s.ctxs := rfl
@[simp] theorem State.barUpdate_inflight (s : State) (g b d : Nat) (p : Int) : (s.barUpdate g b d p).inflight = s.inflight := rfl
@[simp] theorem State.barUpdate_nextId (s : State) (g b d : Nat) (p : Int) : (s.barUpdate g b d p).nextId = s.nextId := rfl
@[simp] theorem State.barUpdate_returns (s : State) (g b d : Nat) (p : Int) : (s.barUpdate g b d p).returns = s.returns := rfl
@[simp] theorem State.barUpdate_injects (s : State) (g b d : Nat) (p : Int) : (s.barUpdate g b d p).injects = s.injects := rfl
@[simp] theorem State.barUpdate_packets (s : State) (g b d : Nat) (p : Int) : (s.barUpdate g b d p).packets = s.packets := rfl
@[simp] theorem State.barUpdate_tenures (s : State) (g b d : Nat) (p : Int) : (s.barUpdate g b d p).tenures = s.tenures := rfl
@[simp] theorem State.barUpdate_requests (s : State) (g b d : Nat) (p : Int) : (s.barUpdate g b d p).requests = s.requests := rfl
@[simp] theorem State.barUpdate_drains (s : State) (g b d : Nat) (p : Int) : (s.barUpdate g b d p).drains = s.drains := rfl
@[simp] theorem State.barUpdate_resvs (s : State) (g b d : Nat) (p : Int) : (s.barUpdate g b d p).resvs = s.resvs := rfl
@[simp] theorem State.barUpdate_resvReqs (s : State) (g b d : Nat) (p : Int) : (s.barUpdate g b d p).resvReqs = s.resvReqs := rfl
@[simp] theorem State.barUpdate_tickets (s : State) (g b d : Nat) (p : Int) : (s.barUpdate g b d p).tickets = s.tickets := rfl
@[simp] theorem State.barUpdate_ptWrites (s : State) (g b d : Nat) (p : Int) : (s.barUpdate g b d p).ptWrites = s.ptWrites := rfl
@[simp] theorem State.barUpdate_hostLines (s : State) (g b d : Nat) (p : Int) : (s.barUpdate g b d p).hostLines = s.hostLines := rfl
@[simp] theorem State.barUpdate_buffers (s : State) (g b d : Nat) (p : Int) : (s.barUpdate g b d p).buffers = s.buffers := rfl
@[simp] theorem State.barUpdate_hostBack (s : State) (g b d : Nat) (p : Int) : (s.barUpdate g b d p).hostBack = s.hostBack := rfl
@[simp] theorem State.barUpdate_views (s : State) (g b d : Nat) (p : Int) : (s.barUpdate g b d p).views = s.views := rfl
@[simp] theorem State.barUpdate_peerWrites (s : State) (g b d : Nat) (p : Int) : (s.barUpdate g b d p).peerWrites = s.peerWrites := rfl
@[simp] theorem State.barUpdate_ports (s : State) (g b d : Nat) (p : Int) : (s.barUpdate g b d p).ports = s.ports := rfl
@[simp] theorem State.barUpdate_switches (s : State) (g b d : Nat) (p : Int) : (s.barUpdate g b d p).switches = s.switches := rfl
@[simp] theorem State.barUpdate_shaper (s : State) (g b d : Nat) (p : Int) : (s.barUpdate g b d p).shaper = s.shaper := rfl
@[simp] theorem State.barUpdate_buckets (s : State) (g b d : Nat) (p : Int) : (s.barUpdate g b d p).buckets = s.buckets := rfl
@[simp] theorem State.barUpdate_arbs (s : State) (g b d : Nat) (p : Int) : (s.barUpdate g b d p).arbs = s.arbs := rfl
@[simp] theorem State.barUpdate_groups (s : State) (g b d : Nat) (p : Int) : (s.barUpdate g b d p).groups = s.groups := rfl
@[simp] theorem State.barUpdate_collRuns (s : State) (g b d : Nat) (p : Int) : (s.barUpdate g b d p).collRuns = s.collRuns := rfl
@[simp] theorem State.barUpdate_chunks (s : State) (g b d : Nat) (p : Int) : (s.barUpdate g b d p).chunks = s.chunks := rfl
@[simp] theorem State.barUpdate_drops (s : State) (g b d : Nat) (p : Int) : (s.barUpdate g b d p).drops = s.drops := rfl
@[simp] theorem State.barUpdate_hub (s : State) (g b d : Nat) (p : Int) : (s.barUpdate g b d p).hub = s.hub := rfl
@[simp] theorem State.barUpdate_bittern (s : State) (g b d : Nat) (p : Int) : (s.barUpdate g b d p).bittern = s.bittern := rfl
@[simp] theorem State.barUpdate_plan (s : State) (g b d : Nat) (p : Int) : (s.barUpdate g b d p).plan = s.plan := rfl
@[simp] theorem State.setCluster_agenda (s : State) (c : Nat) (x : Cluster) : (s.setCluster c x).agenda = s.agenda := rfl
@[simp] theorem State.setCluster_focus (s : State) (c : Nat) (x : Cluster) : (s.setCluster c x).focus = s.focus := rfl
@[simp] theorem State.setCluster_free (s : State) (c : Nat) (x : Cluster) : (s.setCluster c x).free = s.free := rfl
@[simp] theorem State.setCluster_sameCycle (s : State) (c : Nat) (x : Cluster) : (s.setCluster c x).sameCycle = s.sameCycle := rfl
@[simp] theorem State.setCluster_arrivals (s : State) (c : Nat) (x : Cluster) : (s.setCluster c x).arrivals = s.arrivals := rfl
@[simp] theorem State.setCluster_hubTime (s : State) (c : Nat) (x : Cluster) : (s.setCluster c x).hubTime = s.hubTime := rfl
@[simp] theorem State.setCluster_engines (s : State) (c : Nat) (x : Cluster) : (s.setCluster c x).engines = s.engines := rfl
@[simp] theorem State.setCluster_units (s : State) (c : Nat) (x : Cluster) : (s.setCluster c x).units = s.units := rfl
@[simp] theorem State.setCluster_harts (s : State) (c : Nat) (x : Cluster) : (s.setCluster c x).harts = s.harts := rfl
@[simp] theorem State.setCluster_serverMask (s : State) (c : Nat) (x : Cluster) : (s.setCluster c x).serverMask = s.serverMask := rfl
@[simp] theorem State.setCluster_mem (s : State) (c : Nat) (x : Cluster) : (s.setCluster c x).mem = s.mem := rfl
@[simp] theorem State.setCluster_granKey (s : State) (c : Nat) (x : Cluster) : (s.setCluster c x).granKey = s.granKey := rfl
@[simp] theorem State.setCluster_badBits (s : State) (c : Nat) (x : Cluster) : (s.setCluster c x).badBits = s.badBits := rfl
@[simp] theorem State.setCluster_keys (s : State) (c : Nat) (x : Cluster) : (s.setCluster c x).keys = s.keys := rfl
@[simp] theorem State.setCluster_ctxs (s : State) (c : Nat) (x : Cluster) : (s.setCluster c x).ctxs = s.ctxs := rfl
@[simp] theorem State.setCluster_inflight (s : State) (c : Nat) (x : Cluster) : (s.setCluster c x).inflight = s.inflight := rfl
@[simp] theorem State.setCluster_nextId (s : State) (c : Nat) (x : Cluster) : (s.setCluster c x).nextId = s.nextId := rfl
@[simp] theorem State.setCluster_returns (s : State) (c : Nat) (x : Cluster) : (s.setCluster c x).returns = s.returns := rfl
@[simp] theorem State.setCluster_injects (s : State) (c : Nat) (x : Cluster) : (s.setCluster c x).injects = s.injects := rfl
@[simp] theorem State.setCluster_packets (s : State) (c : Nat) (x : Cluster) : (s.setCluster c x).packets = s.packets := rfl
@[simp] theorem State.setCluster_tenures (s : State) (c : Nat) (x : Cluster) : (s.setCluster c x).tenures = s.tenures := rfl
@[simp] theorem State.setCluster_requests (s : State) (c : Nat) (x : Cluster) : (s.setCluster c x).requests = s.requests := rfl
@[simp] theorem State.setCluster_drains (s : State) (c : Nat) (x : Cluster) : (s.setCluster c x).drains = s.drains := rfl
@[simp] theorem State.setCluster_resvs (s : State) (c : Nat) (x : Cluster) : (s.setCluster c x).resvs = s.resvs := rfl
@[simp] theorem State.setCluster_resvReqs (s : State) (c : Nat) (x : Cluster) : (s.setCluster c x).resvReqs = s.resvReqs := rfl
@[simp] theorem State.setCluster_tickets (s : State) (c : Nat) (x : Cluster) : (s.setCluster c x).tickets = s.tickets := rfl
@[simp] theorem State.setCluster_ptWrites (s : State) (c : Nat) (x : Cluster) : (s.setCluster c x).ptWrites = s.ptWrites := rfl
@[simp] theorem State.setCluster_hostLines (s : State) (c : Nat) (x : Cluster) : (s.setCluster c x).hostLines = s.hostLines := rfl
@[simp] theorem State.setCluster_buffers (s : State) (c : Nat) (x : Cluster) : (s.setCluster c x).buffers = s.buffers := rfl
@[simp] theorem State.setCluster_hostBack (s : State) (c : Nat) (x : Cluster) : (s.setCluster c x).hostBack = s.hostBack := rfl
@[simp] theorem State.setCluster_views (s : State) (c : Nat) (x : Cluster) : (s.setCluster c x).views = s.views := rfl
@[simp] theorem State.setCluster_peerWrites (s : State) (c : Nat) (x : Cluster) : (s.setCluster c x).peerWrites = s.peerWrites := rfl
@[simp] theorem State.setCluster_ports (s : State) (c : Nat) (x : Cluster) : (s.setCluster c x).ports = s.ports := rfl
@[simp] theorem State.setCluster_switches (s : State) (c : Nat) (x : Cluster) : (s.setCluster c x).switches = s.switches := rfl
@[simp] theorem State.setCluster_shaper (s : State) (c : Nat) (x : Cluster) : (s.setCluster c x).shaper = s.shaper := rfl
@[simp] theorem State.setCluster_buckets (s : State) (c : Nat) (x : Cluster) : (s.setCluster c x).buckets = s.buckets := rfl
@[simp] theorem State.setCluster_arbs (s : State) (c : Nat) (x : Cluster) : (s.setCluster c x).arbs = s.arbs := rfl
@[simp] theorem State.setCluster_groups (s : State) (c : Nat) (x : Cluster) : (s.setCluster c x).groups = s.groups := rfl
@[simp] theorem State.setCluster_collRuns (s : State) (c : Nat) (x : Cluster) : (s.setCluster c x).collRuns = s.collRuns := rfl
@[simp] theorem State.setCluster_chunks (s : State) (c : Nat) (x : Cluster) : (s.setCluster c x).chunks = s.chunks := rfl
@[simp] theorem State.setCluster_drops (s : State) (c : Nat) (x : Cluster) : (s.setCluster c x).drops = s.drops := rfl
@[simp] theorem State.setCluster_hub (s : State) (c : Nat) (x : Cluster) : (s.setCluster c x).hub = s.hub := rfl
@[simp] theorem State.setCluster_bittern (s : State) (c : Nat) (x : Cluster) : (s.setCluster c x).bittern = s.bittern := rfl
@[simp] theorem State.setCluster_plan (s : State) (c : Nat) (x : Cluster) : (s.setCluster c x).plan = s.plan := rfl
@[simp] theorem State.modCluster_agenda (s : State) (c : Nat) (f : Cluster → Cluster) : (s.modCluster c f).agenda = s.agenda := rfl
@[simp] theorem State.modCluster_focus (s : State) (c : Nat) (f : Cluster → Cluster) : (s.modCluster c f).focus = s.focus := rfl
@[simp] theorem State.modCluster_free (s : State) (c : Nat) (f : Cluster → Cluster) : (s.modCluster c f).free = s.free := rfl
@[simp] theorem State.modCluster_sameCycle (s : State) (c : Nat) (f : Cluster → Cluster) : (s.modCluster c f).sameCycle = s.sameCycle := rfl
@[simp] theorem State.modCluster_arrivals (s : State) (c : Nat) (f : Cluster → Cluster) : (s.modCluster c f).arrivals = s.arrivals := rfl
@[simp] theorem State.modCluster_hubTime (s : State) (c : Nat) (f : Cluster → Cluster) : (s.modCluster c f).hubTime = s.hubTime := rfl
@[simp] theorem State.modCluster_engines (s : State) (c : Nat) (f : Cluster → Cluster) : (s.modCluster c f).engines = s.engines := rfl
@[simp] theorem State.modCluster_units (s : State) (c : Nat) (f : Cluster → Cluster) : (s.modCluster c f).units = s.units := rfl
@[simp] theorem State.modCluster_harts (s : State) (c : Nat) (f : Cluster → Cluster) : (s.modCluster c f).harts = s.harts := rfl
@[simp] theorem State.modCluster_serverMask (s : State) (c : Nat) (f : Cluster → Cluster) : (s.modCluster c f).serverMask = s.serverMask := rfl
@[simp] theorem State.modCluster_mem (s : State) (c : Nat) (f : Cluster → Cluster) : (s.modCluster c f).mem = s.mem := rfl
@[simp] theorem State.modCluster_granKey (s : State) (c : Nat) (f : Cluster → Cluster) : (s.modCluster c f).granKey = s.granKey := rfl
@[simp] theorem State.modCluster_badBits (s : State) (c : Nat) (f : Cluster → Cluster) : (s.modCluster c f).badBits = s.badBits := rfl
@[simp] theorem State.modCluster_keys (s : State) (c : Nat) (f : Cluster → Cluster) : (s.modCluster c f).keys = s.keys := rfl
@[simp] theorem State.modCluster_ctxs (s : State) (c : Nat) (f : Cluster → Cluster) : (s.modCluster c f).ctxs = s.ctxs := rfl
@[simp] theorem State.modCluster_inflight (s : State) (c : Nat) (f : Cluster → Cluster) : (s.modCluster c f).inflight = s.inflight := rfl
@[simp] theorem State.modCluster_nextId (s : State) (c : Nat) (f : Cluster → Cluster) : (s.modCluster c f).nextId = s.nextId := rfl
@[simp] theorem State.modCluster_returns (s : State) (c : Nat) (f : Cluster → Cluster) : (s.modCluster c f).returns = s.returns := rfl
@[simp] theorem State.modCluster_injects (s : State) (c : Nat) (f : Cluster → Cluster) : (s.modCluster c f).injects = s.injects := rfl
@[simp] theorem State.modCluster_packets (s : State) (c : Nat) (f : Cluster → Cluster) : (s.modCluster c f).packets = s.packets := rfl
@[simp] theorem State.modCluster_tenures (s : State) (c : Nat) (f : Cluster → Cluster) : (s.modCluster c f).tenures = s.tenures := rfl
@[simp] theorem State.modCluster_requests (s : State) (c : Nat) (f : Cluster → Cluster) : (s.modCluster c f).requests = s.requests := rfl
@[simp] theorem State.modCluster_drains (s : State) (c : Nat) (f : Cluster → Cluster) : (s.modCluster c f).drains = s.drains := rfl
@[simp] theorem State.modCluster_resvs (s : State) (c : Nat) (f : Cluster → Cluster) : (s.modCluster c f).resvs = s.resvs := rfl
@[simp] theorem State.modCluster_resvReqs (s : State) (c : Nat) (f : Cluster → Cluster) : (s.modCluster c f).resvReqs = s.resvReqs := rfl
@[simp] theorem State.modCluster_tickets (s : State) (c : Nat) (f : Cluster → Cluster) : (s.modCluster c f).tickets = s.tickets := rfl
@[simp] theorem State.modCluster_ptWrites (s : State) (c : Nat) (f : Cluster → Cluster) : (s.modCluster c f).ptWrites = s.ptWrites := rfl
@[simp] theorem State.modCluster_hostLines (s : State) (c : Nat) (f : Cluster → Cluster) : (s.modCluster c f).hostLines = s.hostLines := rfl
@[simp] theorem State.modCluster_buffers (s : State) (c : Nat) (f : Cluster → Cluster) : (s.modCluster c f).buffers = s.buffers := rfl
@[simp] theorem State.modCluster_hostBack (s : State) (c : Nat) (f : Cluster → Cluster) : (s.modCluster c f).hostBack = s.hostBack := rfl
@[simp] theorem State.modCluster_views (s : State) (c : Nat) (f : Cluster → Cluster) : (s.modCluster c f).views = s.views := rfl
@[simp] theorem State.modCluster_peerWrites (s : State) (c : Nat) (f : Cluster → Cluster) : (s.modCluster c f).peerWrites = s.peerWrites := rfl
@[simp] theorem State.modCluster_ports (s : State) (c : Nat) (f : Cluster → Cluster) : (s.modCluster c f).ports = s.ports := rfl
@[simp] theorem State.modCluster_switches (s : State) (c : Nat) (f : Cluster → Cluster) : (s.modCluster c f).switches = s.switches := rfl
@[simp] theorem State.modCluster_shaper (s : State) (c : Nat) (f : Cluster → Cluster) : (s.modCluster c f).shaper = s.shaper := rfl
@[simp] theorem State.modCluster_buckets (s : State) (c : Nat) (f : Cluster → Cluster) : (s.modCluster c f).buckets = s.buckets := rfl
@[simp] theorem State.modCluster_arbs (s : State) (c : Nat) (f : Cluster → Cluster) : (s.modCluster c f).arbs = s.arbs := rfl
@[simp] theorem State.modCluster_groups (s : State) (c : Nat) (f : Cluster → Cluster) : (s.modCluster c f).groups = s.groups := rfl
@[simp] theorem State.modCluster_collRuns (s : State) (c : Nat) (f : Cluster → Cluster) : (s.modCluster c f).collRuns = s.collRuns := rfl
@[simp] theorem State.modCluster_chunks (s : State) (c : Nat) (f : Cluster → Cluster) : (s.modCluster c f).chunks = s.chunks := rfl
@[simp] theorem State.modCluster_drops (s : State) (c : Nat) (f : Cluster → Cluster) : (s.modCluster c f).drops = s.drops := rfl
@[simp] theorem State.modCluster_hub (s : State) (c : Nat) (f : Cluster → Cluster) : (s.modCluster c f).hub = s.hub := rfl
@[simp] theorem State.modCluster_bittern (s : State) (c : Nat) (f : Cluster → Cluster) : (s.modCluster c f).bittern = s.bittern := rfl
@[simp] theorem State.modCluster_plan (s : State) (c : Nat) (f : Cluster → Cluster) : (s.modCluster c f).plan = s.plan := rfl
@[simp] theorem State.setCtx_agenda (s : State) (c : Nat) (x : Ctx) : (s.setCtx c x).agenda = s.agenda := rfl
@[simp] theorem State.setCtx_focus (s : State) (c : Nat) (x : Ctx) : (s.setCtx c x).focus = s.focus := rfl
@[simp] theorem State.setCtx_free (s : State) (c : Nat) (x : Ctx) : (s.setCtx c x).free = s.free := rfl
@[simp] theorem State.setCtx_sameCycle (s : State) (c : Nat) (x : Ctx) : (s.setCtx c x).sameCycle = s.sameCycle := rfl
@[simp] theorem State.setCtx_arrivals (s : State) (c : Nat) (x : Ctx) : (s.setCtx c x).arrivals = s.arrivals := rfl
@[simp] theorem State.setCtx_hubTime (s : State) (c : Nat) (x : Ctx) : (s.setCtx c x).hubTime = s.hubTime := rfl
@[simp] theorem State.setCtx_engines (s : State) (c : Nat) (x : Ctx) : (s.setCtx c x).engines = s.engines := rfl
@[simp] theorem State.setCtx_units (s : State) (c : Nat) (x : Ctx) : (s.setCtx c x).units = s.units := rfl
@[simp] theorem State.setCtx_clusters (s : State) (c : Nat) (x : Ctx) : (s.setCtx c x).clusters = s.clusters := rfl
@[simp] theorem State.setCtx_harts (s : State) (c : Nat) (x : Ctx) : (s.setCtx c x).harts = s.harts := rfl
@[simp] theorem State.setCtx_serverMask (s : State) (c : Nat) (x : Ctx) : (s.setCtx c x).serverMask = s.serverMask := rfl
@[simp] theorem State.setCtx_mem (s : State) (c : Nat) (x : Ctx) : (s.setCtx c x).mem = s.mem := rfl
@[simp] theorem State.setCtx_granKey (s : State) (c : Nat) (x : Ctx) : (s.setCtx c x).granKey = s.granKey := rfl
@[simp] theorem State.setCtx_badBits (s : State) (c : Nat) (x : Ctx) : (s.setCtx c x).badBits = s.badBits := rfl
@[simp] theorem State.setCtx_keys (s : State) (c : Nat) (x : Ctx) : (s.setCtx c x).keys = s.keys := rfl
@[simp] theorem State.setCtx_inflight (s : State) (c : Nat) (x : Ctx) : (s.setCtx c x).inflight = s.inflight := rfl
@[simp] theorem State.setCtx_nextId (s : State) (c : Nat) (x : Ctx) : (s.setCtx c x).nextId = s.nextId := rfl
@[simp] theorem State.setCtx_returns (s : State) (c : Nat) (x : Ctx) : (s.setCtx c x).returns = s.returns := rfl
@[simp] theorem State.setCtx_injects (s : State) (c : Nat) (x : Ctx) : (s.setCtx c x).injects = s.injects := rfl
@[simp] theorem State.setCtx_packets (s : State) (c : Nat) (x : Ctx) : (s.setCtx c x).packets = s.packets := rfl
@[simp] theorem State.setCtx_tenures (s : State) (c : Nat) (x : Ctx) : (s.setCtx c x).tenures = s.tenures := rfl
@[simp] theorem State.setCtx_requests (s : State) (c : Nat) (x : Ctx) : (s.setCtx c x).requests = s.requests := rfl
@[simp] theorem State.setCtx_drains (s : State) (c : Nat) (x : Ctx) : (s.setCtx c x).drains = s.drains := rfl
@[simp] theorem State.setCtx_resvs (s : State) (c : Nat) (x : Ctx) : (s.setCtx c x).resvs = s.resvs := rfl
@[simp] theorem State.setCtx_resvReqs (s : State) (c : Nat) (x : Ctx) : (s.setCtx c x).resvReqs = s.resvReqs := rfl
@[simp] theorem State.setCtx_tickets (s : State) (c : Nat) (x : Ctx) : (s.setCtx c x).tickets = s.tickets := rfl
@[simp] theorem State.setCtx_ptWrites (s : State) (c : Nat) (x : Ctx) : (s.setCtx c x).ptWrites = s.ptWrites := rfl
@[simp] theorem State.setCtx_hostLines (s : State) (c : Nat) (x : Ctx) : (s.setCtx c x).hostLines = s.hostLines := rfl
@[simp] theorem State.setCtx_buffers (s : State) (c : Nat) (x : Ctx) : (s.setCtx c x).buffers = s.buffers := rfl
@[simp] theorem State.setCtx_hostBack (s : State) (c : Nat) (x : Ctx) : (s.setCtx c x).hostBack = s.hostBack := rfl
@[simp] theorem State.setCtx_views (s : State) (c : Nat) (x : Ctx) : (s.setCtx c x).views = s.views := rfl
@[simp] theorem State.setCtx_peerWrites (s : State) (c : Nat) (x : Ctx) : (s.setCtx c x).peerWrites = s.peerWrites := rfl
@[simp] theorem State.setCtx_ports (s : State) (c : Nat) (x : Ctx) : (s.setCtx c x).ports = s.ports := rfl
@[simp] theorem State.setCtx_switches (s : State) (c : Nat) (x : Ctx) : (s.setCtx c x).switches = s.switches := rfl
@[simp] theorem State.setCtx_shaper (s : State) (c : Nat) (x : Ctx) : (s.setCtx c x).shaper = s.shaper := rfl
@[simp] theorem State.setCtx_buckets (s : State) (c : Nat) (x : Ctx) : (s.setCtx c x).buckets = s.buckets := rfl
@[simp] theorem State.setCtx_arbs (s : State) (c : Nat) (x : Ctx) : (s.setCtx c x).arbs = s.arbs := rfl
@[simp] theorem State.setCtx_groups (s : State) (c : Nat) (x : Ctx) : (s.setCtx c x).groups = s.groups := rfl
@[simp] theorem State.setCtx_collRuns (s : State) (c : Nat) (x : Ctx) : (s.setCtx c x).collRuns = s.collRuns := rfl
@[simp] theorem State.setCtx_chunks (s : State) (c : Nat) (x : Ctx) : (s.setCtx c x).chunks = s.chunks := rfl
@[simp] theorem State.setCtx_drops (s : State) (c : Nat) (x : Ctx) : (s.setCtx c x).drops = s.drops := rfl
@[simp] theorem State.setCtx_hub (s : State) (c : Nat) (x : Ctx) : (s.setCtx c x).hub = s.hub := rfl
@[simp] theorem State.setCtx_bittern (s : State) (c : Nat) (x : Ctx) : (s.setCtx c x).bittern = s.bittern := rfl
@[simp] theorem State.setCtx_plan (s : State) (c : Nat) (x : Ctx) : (s.setCtx c x).plan = s.plan := rfl
@[simp] theorem State.modCtx_agenda (s : State) (c : Nat) (f : Ctx → Ctx) : (s.modCtx c f).agenda = s.agenda := rfl
@[simp] theorem State.modCtx_focus (s : State) (c : Nat) (f : Ctx → Ctx) : (s.modCtx c f).focus = s.focus := rfl
@[simp] theorem State.modCtx_free (s : State) (c : Nat) (f : Ctx → Ctx) : (s.modCtx c f).free = s.free := rfl
@[simp] theorem State.modCtx_sameCycle (s : State) (c : Nat) (f : Ctx → Ctx) : (s.modCtx c f).sameCycle = s.sameCycle := rfl
@[simp] theorem State.modCtx_arrivals (s : State) (c : Nat) (f : Ctx → Ctx) : (s.modCtx c f).arrivals = s.arrivals := rfl
@[simp] theorem State.modCtx_hubTime (s : State) (c : Nat) (f : Ctx → Ctx) : (s.modCtx c f).hubTime = s.hubTime := rfl
@[simp] theorem State.modCtx_engines (s : State) (c : Nat) (f : Ctx → Ctx) : (s.modCtx c f).engines = s.engines := rfl
@[simp] theorem State.modCtx_units (s : State) (c : Nat) (f : Ctx → Ctx) : (s.modCtx c f).units = s.units := rfl
@[simp] theorem State.modCtx_clusters (s : State) (c : Nat) (f : Ctx → Ctx) : (s.modCtx c f).clusters = s.clusters := rfl
@[simp] theorem State.modCtx_harts (s : State) (c : Nat) (f : Ctx → Ctx) : (s.modCtx c f).harts = s.harts := rfl
@[simp] theorem State.modCtx_serverMask (s : State) (c : Nat) (f : Ctx → Ctx) : (s.modCtx c f).serverMask = s.serverMask := rfl
@[simp] theorem State.modCtx_mem (s : State) (c : Nat) (f : Ctx → Ctx) : (s.modCtx c f).mem = s.mem := rfl
@[simp] theorem State.modCtx_granKey (s : State) (c : Nat) (f : Ctx → Ctx) : (s.modCtx c f).granKey = s.granKey := rfl
@[simp] theorem State.modCtx_badBits (s : State) (c : Nat) (f : Ctx → Ctx) : (s.modCtx c f).badBits = s.badBits := rfl
@[simp] theorem State.modCtx_keys (s : State) (c : Nat) (f : Ctx → Ctx) : (s.modCtx c f).keys = s.keys := rfl
@[simp] theorem State.modCtx_inflight (s : State) (c : Nat) (f : Ctx → Ctx) : (s.modCtx c f).inflight = s.inflight := rfl
@[simp] theorem State.modCtx_nextId (s : State) (c : Nat) (f : Ctx → Ctx) : (s.modCtx c f).nextId = s.nextId := rfl
@[simp] theorem State.modCtx_returns (s : State) (c : Nat) (f : Ctx → Ctx) : (s.modCtx c f).returns = s.returns := rfl
@[simp] theorem State.modCtx_injects (s : State) (c : Nat) (f : Ctx → Ctx) : (s.modCtx c f).injects = s.injects := rfl
@[simp] theorem State.modCtx_packets (s : State) (c : Nat) (f : Ctx → Ctx) : (s.modCtx c f).packets = s.packets := rfl
@[simp] theorem State.modCtx_tenures (s : State) (c : Nat) (f : Ctx → Ctx) : (s.modCtx c f).tenures = s.tenures := rfl
@[simp] theorem State.modCtx_requests (s : State) (c : Nat) (f : Ctx → Ctx) : (s.modCtx c f).requests = s.requests := rfl
@[simp] theorem State.modCtx_drains (s : State) (c : Nat) (f : Ctx → Ctx) : (s.modCtx c f).drains = s.drains := rfl
@[simp] theorem State.modCtx_resvs (s : State) (c : Nat) (f : Ctx → Ctx) : (s.modCtx c f).resvs = s.resvs := rfl
@[simp] theorem State.modCtx_resvReqs (s : State) (c : Nat) (f : Ctx → Ctx) : (s.modCtx c f).resvReqs = s.resvReqs := rfl
@[simp] theorem State.modCtx_tickets (s : State) (c : Nat) (f : Ctx → Ctx) : (s.modCtx c f).tickets = s.tickets := rfl
@[simp] theorem State.modCtx_ptWrites (s : State) (c : Nat) (f : Ctx → Ctx) : (s.modCtx c f).ptWrites = s.ptWrites := rfl
@[simp] theorem State.modCtx_hostLines (s : State) (c : Nat) (f : Ctx → Ctx) : (s.modCtx c f).hostLines = s.hostLines := rfl
@[simp] theorem State.modCtx_buffers (s : State) (c : Nat) (f : Ctx → Ctx) : (s.modCtx c f).buffers = s.buffers := rfl
@[simp] theorem State.modCtx_hostBack (s : State) (c : Nat) (f : Ctx → Ctx) : (s.modCtx c f).hostBack = s.hostBack := rfl
@[simp] theorem State.modCtx_views (s : State) (c : Nat) (f : Ctx → Ctx) : (s.modCtx c f).views = s.views := rfl
@[simp] theorem State.modCtx_peerWrites (s : State) (c : Nat) (f : Ctx → Ctx) : (s.modCtx c f).peerWrites = s.peerWrites := rfl
@[simp] theorem State.modCtx_ports (s : State) (c : Nat) (f : Ctx → Ctx) : (s.modCtx c f).ports = s.ports := rfl
@[simp] theorem State.modCtx_switches (s : State) (c : Nat) (f : Ctx → Ctx) : (s.modCtx c f).switches = s.switches := rfl
@[simp] theorem State.modCtx_shaper (s : State) (c : Nat) (f : Ctx → Ctx) : (s.modCtx c f).shaper = s.shaper := rfl
@[simp] theorem State.modCtx_buckets (s : State) (c : Nat) (f : Ctx → Ctx) : (s.modCtx c f).buckets = s.buckets := rfl
@[simp] theorem State.modCtx_arbs (s : State) (c : Nat) (f : Ctx → Ctx) : (s.modCtx c f).arbs = s.arbs := rfl
@[simp] theorem State.modCtx_groups (s : State) (c : Nat) (f : Ctx → Ctx) : (s.modCtx c f).groups = s.groups := rfl
@[simp] theorem State.modCtx_collRuns (s : State) (c : Nat) (f : Ctx → Ctx) : (s.modCtx c f).collRuns = s.collRuns := rfl
@[simp] theorem State.modCtx_chunks (s : State) (c : Nat) (f : Ctx → Ctx) : (s.modCtx c f).chunks = s.chunks := rfl
@[simp] theorem State.modCtx_drops (s : State) (c : Nat) (f : Ctx → Ctx) : (s.modCtx c f).drops = s.drops := rfl
@[simp] theorem State.modCtx_hub (s : State) (c : Nat) (f : Ctx → Ctx) : (s.modCtx c f).hub = s.hub := rfl
@[simp] theorem State.modCtx_bittern (s : State) (c : Nat) (f : Ctx → Ctx) : (s.modCtx c f).bittern = s.bittern := rfl
@[simp] theorem State.modCtx_plan (s : State) (c : Nat) (f : Ctx → Ctx) : (s.modCtx c f).plan = s.plan := rfl
@[simp] theorem State.setHart_agenda (s : State) (h : Nat) (x : Hart) : (s.setHart h x).agenda = s.agenda := rfl
@[simp] theorem State.setHart_focus (s : State) (h : Nat) (x : Hart) : (s.setHart h x).focus = s.focus := rfl
@[simp] theorem State.setHart_free (s : State) (h : Nat) (x : Hart) : (s.setHart h x).free = s.free := rfl
@[simp] theorem State.setHart_sameCycle (s : State) (h : Nat) (x : Hart) : (s.setHart h x).sameCycle = s.sameCycle := rfl
@[simp] theorem State.setHart_arrivals (s : State) (h : Nat) (x : Hart) : (s.setHart h x).arrivals = s.arrivals := rfl
@[simp] theorem State.setHart_hubTime (s : State) (h : Nat) (x : Hart) : (s.setHart h x).hubTime = s.hubTime := rfl
@[simp] theorem State.setHart_engines (s : State) (h : Nat) (x : Hart) : (s.setHart h x).engines = s.engines := rfl
@[simp] theorem State.setHart_units (s : State) (h : Nat) (x : Hart) : (s.setHart h x).units = s.units := rfl
@[simp] theorem State.setHart_clusters (s : State) (h : Nat) (x : Hart) : (s.setHart h x).clusters = s.clusters := rfl
@[simp] theorem State.setHart_serverMask (s : State) (h : Nat) (x : Hart) : (s.setHart h x).serverMask = s.serverMask := rfl
@[simp] theorem State.setHart_mem (s : State) (h : Nat) (x : Hart) : (s.setHart h x).mem = s.mem := rfl
@[simp] theorem State.setHart_granKey (s : State) (h : Nat) (x : Hart) : (s.setHart h x).granKey = s.granKey := rfl
@[simp] theorem State.setHart_badBits (s : State) (h : Nat) (x : Hart) : (s.setHart h x).badBits = s.badBits := rfl
@[simp] theorem State.setHart_keys (s : State) (h : Nat) (x : Hart) : (s.setHart h x).keys = s.keys := rfl
@[simp] theorem State.setHart_ctxs (s : State) (h : Nat) (x : Hart) : (s.setHart h x).ctxs = s.ctxs := rfl
@[simp] theorem State.setHart_inflight (s : State) (h : Nat) (x : Hart) : (s.setHart h x).inflight = s.inflight := rfl
@[simp] theorem State.setHart_nextId (s : State) (h : Nat) (x : Hart) : (s.setHart h x).nextId = s.nextId := rfl
@[simp] theorem State.setHart_returns (s : State) (h : Nat) (x : Hart) : (s.setHart h x).returns = s.returns := rfl
@[simp] theorem State.setHart_injects (s : State) (h : Nat) (x : Hart) : (s.setHart h x).injects = s.injects := rfl
@[simp] theorem State.setHart_packets (s : State) (h : Nat) (x : Hart) : (s.setHart h x).packets = s.packets := rfl
@[simp] theorem State.setHart_tenures (s : State) (h : Nat) (x : Hart) : (s.setHart h x).tenures = s.tenures := rfl
@[simp] theorem State.setHart_requests (s : State) (h : Nat) (x : Hart) : (s.setHart h x).requests = s.requests := rfl
@[simp] theorem State.setHart_drains (s : State) (h : Nat) (x : Hart) : (s.setHart h x).drains = s.drains := rfl
@[simp] theorem State.setHart_resvs (s : State) (h : Nat) (x : Hart) : (s.setHart h x).resvs = s.resvs := rfl
@[simp] theorem State.setHart_resvReqs (s : State) (h : Nat) (x : Hart) : (s.setHart h x).resvReqs = s.resvReqs := rfl
@[simp] theorem State.setHart_tickets (s : State) (h : Nat) (x : Hart) : (s.setHart h x).tickets = s.tickets := rfl
@[simp] theorem State.setHart_ptWrites (s : State) (h : Nat) (x : Hart) : (s.setHart h x).ptWrites = s.ptWrites := rfl
@[simp] theorem State.setHart_hostLines (s : State) (h : Nat) (x : Hart) : (s.setHart h x).hostLines = s.hostLines := rfl
@[simp] theorem State.setHart_buffers (s : State) (h : Nat) (x : Hart) : (s.setHart h x).buffers = s.buffers := rfl
@[simp] theorem State.setHart_hostBack (s : State) (h : Nat) (x : Hart) : (s.setHart h x).hostBack = s.hostBack := rfl
@[simp] theorem State.setHart_views (s : State) (h : Nat) (x : Hart) : (s.setHart h x).views = s.views := rfl
@[simp] theorem State.setHart_peerWrites (s : State) (h : Nat) (x : Hart) : (s.setHart h x).peerWrites = s.peerWrites := rfl
@[simp] theorem State.setHart_ports (s : State) (h : Nat) (x : Hart) : (s.setHart h x).ports = s.ports := rfl
@[simp] theorem State.setHart_switches (s : State) (h : Nat) (x : Hart) : (s.setHart h x).switches = s.switches := rfl
@[simp] theorem State.setHart_shaper (s : State) (h : Nat) (x : Hart) : (s.setHart h x).shaper = s.shaper := rfl
@[simp] theorem State.setHart_buckets (s : State) (h : Nat) (x : Hart) : (s.setHart h x).buckets = s.buckets := rfl
@[simp] theorem State.setHart_arbs (s : State) (h : Nat) (x : Hart) : (s.setHart h x).arbs = s.arbs := rfl
@[simp] theorem State.setHart_groups (s : State) (h : Nat) (x : Hart) : (s.setHart h x).groups = s.groups := rfl
@[simp] theorem State.setHart_collRuns (s : State) (h : Nat) (x : Hart) : (s.setHart h x).collRuns = s.collRuns := rfl
@[simp] theorem State.setHart_chunks (s : State) (h : Nat) (x : Hart) : (s.setHart h x).chunks = s.chunks := rfl
@[simp] theorem State.setHart_drops (s : State) (h : Nat) (x : Hart) : (s.setHart h x).drops = s.drops := rfl
@[simp] theorem State.setHart_hub (s : State) (h : Nat) (x : Hart) : (s.setHart h x).hub = s.hub := rfl
@[simp] theorem State.setHart_bittern (s : State) (h : Nat) (x : Hart) : (s.setHart h x).bittern = s.bittern := rfl
@[simp] theorem State.setHart_plan (s : State) (h : Nat) (x : Hart) : (s.setHart h x).plan = s.plan := rfl
@[simp] theorem State.modHart_agenda (s : State) (h : Nat) (f : Hart → Hart) : (s.modHart h f).agenda = s.agenda := rfl
@[simp] theorem State.modHart_focus (s : State) (h : Nat) (f : Hart → Hart) : (s.modHart h f).focus = s.focus := rfl
@[simp] theorem State.modHart_free (s : State) (h : Nat) (f : Hart → Hart) : (s.modHart h f).free = s.free := rfl
@[simp] theorem State.modHart_sameCycle (s : State) (h : Nat) (f : Hart → Hart) : (s.modHart h f).sameCycle = s.sameCycle := rfl
@[simp] theorem State.modHart_arrivals (s : State) (h : Nat) (f : Hart → Hart) : (s.modHart h f).arrivals = s.arrivals := rfl
@[simp] theorem State.modHart_hubTime (s : State) (h : Nat) (f : Hart → Hart) : (s.modHart h f).hubTime = s.hubTime := rfl
@[simp] theorem State.modHart_engines (s : State) (h : Nat) (f : Hart → Hart) : (s.modHart h f).engines = s.engines := rfl
@[simp] theorem State.modHart_units (s : State) (h : Nat) (f : Hart → Hart) : (s.modHart h f).units = s.units := rfl
@[simp] theorem State.modHart_clusters (s : State) (h : Nat) (f : Hart → Hart) : (s.modHart h f).clusters = s.clusters := rfl
@[simp] theorem State.modHart_serverMask (s : State) (h : Nat) (f : Hart → Hart) : (s.modHart h f).serverMask = s.serverMask := rfl
@[simp] theorem State.modHart_mem (s : State) (h : Nat) (f : Hart → Hart) : (s.modHart h f).mem = s.mem := rfl
@[simp] theorem State.modHart_granKey (s : State) (h : Nat) (f : Hart → Hart) : (s.modHart h f).granKey = s.granKey := rfl
@[simp] theorem State.modHart_badBits (s : State) (h : Nat) (f : Hart → Hart) : (s.modHart h f).badBits = s.badBits := rfl
@[simp] theorem State.modHart_keys (s : State) (h : Nat) (f : Hart → Hart) : (s.modHart h f).keys = s.keys := rfl
@[simp] theorem State.modHart_ctxs (s : State) (h : Nat) (f : Hart → Hart) : (s.modHart h f).ctxs = s.ctxs := rfl
@[simp] theorem State.modHart_inflight (s : State) (h : Nat) (f : Hart → Hart) : (s.modHart h f).inflight = s.inflight := rfl
@[simp] theorem State.modHart_nextId (s : State) (h : Nat) (f : Hart → Hart) : (s.modHart h f).nextId = s.nextId := rfl
@[simp] theorem State.modHart_returns (s : State) (h : Nat) (f : Hart → Hart) : (s.modHart h f).returns = s.returns := rfl
@[simp] theorem State.modHart_injects (s : State) (h : Nat) (f : Hart → Hart) : (s.modHart h f).injects = s.injects := rfl
@[simp] theorem State.modHart_packets (s : State) (h : Nat) (f : Hart → Hart) : (s.modHart h f).packets = s.packets := rfl
@[simp] theorem State.modHart_tenures (s : State) (h : Nat) (f : Hart → Hart) : (s.modHart h f).tenures = s.tenures := rfl
@[simp] theorem State.modHart_requests (s : State) (h : Nat) (f : Hart → Hart) : (s.modHart h f).requests = s.requests := rfl
@[simp] theorem State.modHart_drains (s : State) (h : Nat) (f : Hart → Hart) : (s.modHart h f).drains = s.drains := rfl
@[simp] theorem State.modHart_resvs (s : State) (h : Nat) (f : Hart → Hart) : (s.modHart h f).resvs = s.resvs := rfl
@[simp] theorem State.modHart_resvReqs (s : State) (h : Nat) (f : Hart → Hart) : (s.modHart h f).resvReqs = s.resvReqs := rfl
@[simp] theorem State.modHart_tickets (s : State) (h : Nat) (f : Hart → Hart) : (s.modHart h f).tickets = s.tickets := rfl
@[simp] theorem State.modHart_ptWrites (s : State) (h : Nat) (f : Hart → Hart) : (s.modHart h f).ptWrites = s.ptWrites := rfl
@[simp] theorem State.modHart_hostLines (s : State) (h : Nat) (f : Hart → Hart) : (s.modHart h f).hostLines = s.hostLines := rfl
@[simp] theorem State.modHart_buffers (s : State) (h : Nat) (f : Hart → Hart) : (s.modHart h f).buffers = s.buffers := rfl
@[simp] theorem State.modHart_hostBack (s : State) (h : Nat) (f : Hart → Hart) : (s.modHart h f).hostBack = s.hostBack := rfl
@[simp] theorem State.modHart_views (s : State) (h : Nat) (f : Hart → Hart) : (s.modHart h f).views = s.views := rfl
@[simp] theorem State.modHart_peerWrites (s : State) (h : Nat) (f : Hart → Hart) : (s.modHart h f).peerWrites = s.peerWrites := rfl
@[simp] theorem State.modHart_ports (s : State) (h : Nat) (f : Hart → Hart) : (s.modHart h f).ports = s.ports := rfl
@[simp] theorem State.modHart_switches (s : State) (h : Nat) (f : Hart → Hart) : (s.modHart h f).switches = s.switches := rfl
@[simp] theorem State.modHart_shaper (s : State) (h : Nat) (f : Hart → Hart) : (s.modHart h f).shaper = s.shaper := rfl
@[simp] theorem State.modHart_buckets (s : State) (h : Nat) (f : Hart → Hart) : (s.modHart h f).buckets = s.buckets := rfl
@[simp] theorem State.modHart_arbs (s : State) (h : Nat) (f : Hart → Hart) : (s.modHart h f).arbs = s.arbs := rfl
@[simp] theorem State.modHart_groups (s : State) (h : Nat) (f : Hart → Hart) : (s.modHart h f).groups = s.groups := rfl
@[simp] theorem State.modHart_collRuns (s : State) (h : Nat) (f : Hart → Hart) : (s.modHart h f).collRuns = s.collRuns := rfl
@[simp] theorem State.modHart_chunks (s : State) (h : Nat) (f : Hart → Hart) : (s.modHart h f).chunks = s.chunks := rfl
@[simp] theorem State.modHart_drops (s : State) (h : Nat) (f : Hart → Hart) : (s.modHart h f).drops = s.drops := rfl
@[simp] theorem State.modHart_hub (s : State) (h : Nat) (f : Hart → Hart) : (s.modHart h f).hub = s.hub := rfl
@[simp] theorem State.modHart_bittern (s : State) (h : Nat) (f : Hart → Hart) : (s.modHart h f).bittern = s.bittern := rfl
@[simp] theorem State.modHart_plan (s : State) (h : Nat) (f : Hart → Hart) : (s.modHart h f).plan = s.plan := rfl
@[simp] theorem State.setUnit_agenda (s : State) (u : Nat) (x : MxUnit) : (s.setUnit u x).agenda = s.agenda := rfl
@[simp] theorem State.setUnit_focus (s : State) (u : Nat) (x : MxUnit) : (s.setUnit u x).focus = s.focus := rfl
@[simp] theorem State.setUnit_free (s : State) (u : Nat) (x : MxUnit) : (s.setUnit u x).free = s.free := rfl
@[simp] theorem State.setUnit_sameCycle (s : State) (u : Nat) (x : MxUnit) : (s.setUnit u x).sameCycle = s.sameCycle := rfl
@[simp] theorem State.setUnit_arrivals (s : State) (u : Nat) (x : MxUnit) : (s.setUnit u x).arrivals = s.arrivals := rfl
@[simp] theorem State.setUnit_hubTime (s : State) (u : Nat) (x : MxUnit) : (s.setUnit u x).hubTime = s.hubTime := rfl
@[simp] theorem State.setUnit_engines (s : State) (u : Nat) (x : MxUnit) : (s.setUnit u x).engines = s.engines := rfl
@[simp] theorem State.setUnit_clusters (s : State) (u : Nat) (x : MxUnit) : (s.setUnit u x).clusters = s.clusters := rfl
@[simp] theorem State.setUnit_harts (s : State) (u : Nat) (x : MxUnit) : (s.setUnit u x).harts = s.harts := rfl
@[simp] theorem State.setUnit_serverMask (s : State) (u : Nat) (x : MxUnit) : (s.setUnit u x).serverMask = s.serverMask := rfl
@[simp] theorem State.setUnit_mem (s : State) (u : Nat) (x : MxUnit) : (s.setUnit u x).mem = s.mem := rfl
@[simp] theorem State.setUnit_granKey (s : State) (u : Nat) (x : MxUnit) : (s.setUnit u x).granKey = s.granKey := rfl
@[simp] theorem State.setUnit_badBits (s : State) (u : Nat) (x : MxUnit) : (s.setUnit u x).badBits = s.badBits := rfl
@[simp] theorem State.setUnit_keys (s : State) (u : Nat) (x : MxUnit) : (s.setUnit u x).keys = s.keys := rfl
@[simp] theorem State.setUnit_ctxs (s : State) (u : Nat) (x : MxUnit) : (s.setUnit u x).ctxs = s.ctxs := rfl
@[simp] theorem State.setUnit_inflight (s : State) (u : Nat) (x : MxUnit) : (s.setUnit u x).inflight = s.inflight := rfl
@[simp] theorem State.setUnit_nextId (s : State) (u : Nat) (x : MxUnit) : (s.setUnit u x).nextId = s.nextId := rfl
@[simp] theorem State.setUnit_returns (s : State) (u : Nat) (x : MxUnit) : (s.setUnit u x).returns = s.returns := rfl
@[simp] theorem State.setUnit_injects (s : State) (u : Nat) (x : MxUnit) : (s.setUnit u x).injects = s.injects := rfl
@[simp] theorem State.setUnit_packets (s : State) (u : Nat) (x : MxUnit) : (s.setUnit u x).packets = s.packets := rfl
@[simp] theorem State.setUnit_tenures (s : State) (u : Nat) (x : MxUnit) : (s.setUnit u x).tenures = s.tenures := rfl
@[simp] theorem State.setUnit_requests (s : State) (u : Nat) (x : MxUnit) : (s.setUnit u x).requests = s.requests := rfl
@[simp] theorem State.setUnit_drains (s : State) (u : Nat) (x : MxUnit) : (s.setUnit u x).drains = s.drains := rfl
@[simp] theorem State.setUnit_resvs (s : State) (u : Nat) (x : MxUnit) : (s.setUnit u x).resvs = s.resvs := rfl
@[simp] theorem State.setUnit_resvReqs (s : State) (u : Nat) (x : MxUnit) : (s.setUnit u x).resvReqs = s.resvReqs := rfl
@[simp] theorem State.setUnit_tickets (s : State) (u : Nat) (x : MxUnit) : (s.setUnit u x).tickets = s.tickets := rfl
@[simp] theorem State.setUnit_ptWrites (s : State) (u : Nat) (x : MxUnit) : (s.setUnit u x).ptWrites = s.ptWrites := rfl
@[simp] theorem State.setUnit_hostLines (s : State) (u : Nat) (x : MxUnit) : (s.setUnit u x).hostLines = s.hostLines := rfl
@[simp] theorem State.setUnit_buffers (s : State) (u : Nat) (x : MxUnit) : (s.setUnit u x).buffers = s.buffers := rfl
@[simp] theorem State.setUnit_hostBack (s : State) (u : Nat) (x : MxUnit) : (s.setUnit u x).hostBack = s.hostBack := rfl
@[simp] theorem State.setUnit_views (s : State) (u : Nat) (x : MxUnit) : (s.setUnit u x).views = s.views := rfl
@[simp] theorem State.setUnit_peerWrites (s : State) (u : Nat) (x : MxUnit) : (s.setUnit u x).peerWrites = s.peerWrites := rfl
@[simp] theorem State.setUnit_ports (s : State) (u : Nat) (x : MxUnit) : (s.setUnit u x).ports = s.ports := rfl
@[simp] theorem State.setUnit_switches (s : State) (u : Nat) (x : MxUnit) : (s.setUnit u x).switches = s.switches := rfl
@[simp] theorem State.setUnit_shaper (s : State) (u : Nat) (x : MxUnit) : (s.setUnit u x).shaper = s.shaper := rfl
@[simp] theorem State.setUnit_buckets (s : State) (u : Nat) (x : MxUnit) : (s.setUnit u x).buckets = s.buckets := rfl
@[simp] theorem State.setUnit_arbs (s : State) (u : Nat) (x : MxUnit) : (s.setUnit u x).arbs = s.arbs := rfl
@[simp] theorem State.setUnit_groups (s : State) (u : Nat) (x : MxUnit) : (s.setUnit u x).groups = s.groups := rfl
@[simp] theorem State.setUnit_collRuns (s : State) (u : Nat) (x : MxUnit) : (s.setUnit u x).collRuns = s.collRuns := rfl
@[simp] theorem State.setUnit_chunks (s : State) (u : Nat) (x : MxUnit) : (s.setUnit u x).chunks = s.chunks := rfl
@[simp] theorem State.setUnit_drops (s : State) (u : Nat) (x : MxUnit) : (s.setUnit u x).drops = s.drops := rfl
@[simp] theorem State.setUnit_hub (s : State) (u : Nat) (x : MxUnit) : (s.setUnit u x).hub = s.hub := rfl
@[simp] theorem State.setUnit_bittern (s : State) (u : Nat) (x : MxUnit) : (s.setUnit u x).bittern = s.bittern := rfl
@[simp] theorem State.setUnit_plan (s : State) (u : Nat) (x : MxUnit) : (s.setUnit u x).plan = s.plan := rfl
@[simp] theorem State.modHub_agenda (s : State) (f : Hub → Hub) : (s.modHub f).agenda = s.agenda := rfl
@[simp] theorem State.modHub_focus (s : State) (f : Hub → Hub) : (s.modHub f).focus = s.focus := rfl
@[simp] theorem State.modHub_free (s : State) (f : Hub → Hub) : (s.modHub f).free = s.free := rfl
@[simp] theorem State.modHub_sameCycle (s : State) (f : Hub → Hub) : (s.modHub f).sameCycle = s.sameCycle := rfl
@[simp] theorem State.modHub_arrivals (s : State) (f : Hub → Hub) : (s.modHub f).arrivals = s.arrivals := rfl
@[simp] theorem State.modHub_hubTime (s : State) (f : Hub → Hub) : (s.modHub f).hubTime = s.hubTime := rfl
@[simp] theorem State.modHub_engines (s : State) (f : Hub → Hub) : (s.modHub f).engines = s.engines := rfl
@[simp] theorem State.modHub_units (s : State) (f : Hub → Hub) : (s.modHub f).units = s.units := rfl
@[simp] theorem State.modHub_clusters (s : State) (f : Hub → Hub) : (s.modHub f).clusters = s.clusters := rfl
@[simp] theorem State.modHub_harts (s : State) (f : Hub → Hub) : (s.modHub f).harts = s.harts := rfl
@[simp] theorem State.modHub_serverMask (s : State) (f : Hub → Hub) : (s.modHub f).serverMask = s.serverMask := rfl
@[simp] theorem State.modHub_mem (s : State) (f : Hub → Hub) : (s.modHub f).mem = s.mem := rfl
@[simp] theorem State.modHub_granKey (s : State) (f : Hub → Hub) : (s.modHub f).granKey = s.granKey := rfl
@[simp] theorem State.modHub_badBits (s : State) (f : Hub → Hub) : (s.modHub f).badBits = s.badBits := rfl
@[simp] theorem State.modHub_keys (s : State) (f : Hub → Hub) : (s.modHub f).keys = s.keys := rfl
@[simp] theorem State.modHub_ctxs (s : State) (f : Hub → Hub) : (s.modHub f).ctxs = s.ctxs := rfl
@[simp] theorem State.modHub_inflight (s : State) (f : Hub → Hub) : (s.modHub f).inflight = s.inflight := rfl
@[simp] theorem State.modHub_nextId (s : State) (f : Hub → Hub) : (s.modHub f).nextId = s.nextId := rfl
@[simp] theorem State.modHub_returns (s : State) (f : Hub → Hub) : (s.modHub f).returns = s.returns := rfl
@[simp] theorem State.modHub_injects (s : State) (f : Hub → Hub) : (s.modHub f).injects = s.injects := rfl
@[simp] theorem State.modHub_packets (s : State) (f : Hub → Hub) : (s.modHub f).packets = s.packets := rfl
@[simp] theorem State.modHub_tenures (s : State) (f : Hub → Hub) : (s.modHub f).tenures = s.tenures := rfl
@[simp] theorem State.modHub_requests (s : State) (f : Hub → Hub) : (s.modHub f).requests = s.requests := rfl
@[simp] theorem State.modHub_drains (s : State) (f : Hub → Hub) : (s.modHub f).drains = s.drains := rfl
@[simp] theorem State.modHub_resvs (s : State) (f : Hub → Hub) : (s.modHub f).resvs = s.resvs := rfl
@[simp] theorem State.modHub_resvReqs (s : State) (f : Hub → Hub) : (s.modHub f).resvReqs = s.resvReqs := rfl
@[simp] theorem State.modHub_tickets (s : State) (f : Hub → Hub) : (s.modHub f).tickets = s.tickets := rfl
@[simp] theorem State.modHub_ptWrites (s : State) (f : Hub → Hub) : (s.modHub f).ptWrites = s.ptWrites := rfl
@[simp] theorem State.modHub_hostLines (s : State) (f : Hub → Hub) : (s.modHub f).hostLines = s.hostLines := rfl
@[simp] theorem State.modHub_buffers (s : State) (f : Hub → Hub) : (s.modHub f).buffers = s.buffers := rfl
@[simp] theorem State.modHub_hostBack (s : State) (f : Hub → Hub) : (s.modHub f).hostBack = s.hostBack := rfl
@[simp] theorem State.modHub_views (s : State) (f : Hub → Hub) : (s.modHub f).views = s.views := rfl
@[simp] theorem State.modHub_peerWrites (s : State) (f : Hub → Hub) : (s.modHub f).peerWrites = s.peerWrites := rfl
@[simp] theorem State.modHub_ports (s : State) (f : Hub → Hub) : (s.modHub f).ports = s.ports := rfl
@[simp] theorem State.modHub_switches (s : State) (f : Hub → Hub) : (s.modHub f).switches = s.switches := rfl
@[simp] theorem State.modHub_shaper (s : State) (f : Hub → Hub) : (s.modHub f).shaper = s.shaper := rfl
@[simp] theorem State.modHub_buckets (s : State) (f : Hub → Hub) : (s.modHub f).buckets = s.buckets := rfl
@[simp] theorem State.modHub_arbs (s : State) (f : Hub → Hub) : (s.modHub f).arbs = s.arbs := rfl
@[simp] theorem State.modHub_groups (s : State) (f : Hub → Hub) : (s.modHub f).groups = s.groups := rfl
@[simp] theorem State.modHub_collRuns (s : State) (f : Hub → Hub) : (s.modHub f).collRuns = s.collRuns := rfl
@[simp] theorem State.modHub_chunks (s : State) (f : Hub → Hub) : (s.modHub f).chunks = s.chunks := rfl
@[simp] theorem State.modHub_drops (s : State) (f : Hub → Hub) : (s.modHub f).drops = s.drops := rfl
@[simp] theorem State.modHub_bittern (s : State) (f : Hub → Hub) : (s.modHub f).bittern = s.bittern := rfl
@[simp] theorem State.modHub_plan (s : State) (f : Hub → Hub) : (s.modHub f).plan = s.plan := rfl
@[simp] theorem State.modBittern_agenda (s : State) (f : Bittern → Bittern) : (s.modBittern f).agenda = s.agenda := rfl
@[simp] theorem State.modBittern_focus (s : State) (f : Bittern → Bittern) : (s.modBittern f).focus = s.focus := rfl
@[simp] theorem State.modBittern_free (s : State) (f : Bittern → Bittern) : (s.modBittern f).free = s.free := rfl
@[simp] theorem State.modBittern_sameCycle (s : State) (f : Bittern → Bittern) : (s.modBittern f).sameCycle = s.sameCycle := rfl
@[simp] theorem State.modBittern_arrivals (s : State) (f : Bittern → Bittern) : (s.modBittern f).arrivals = s.arrivals := rfl
@[simp] theorem State.modBittern_hubTime (s : State) (f : Bittern → Bittern) : (s.modBittern f).hubTime = s.hubTime := rfl
@[simp] theorem State.modBittern_engines (s : State) (f : Bittern → Bittern) : (s.modBittern f).engines = s.engines := rfl
@[simp] theorem State.modBittern_units (s : State) (f : Bittern → Bittern) : (s.modBittern f).units = s.units := rfl
@[simp] theorem State.modBittern_clusters (s : State) (f : Bittern → Bittern) : (s.modBittern f).clusters = s.clusters := rfl
@[simp] theorem State.modBittern_harts (s : State) (f : Bittern → Bittern) : (s.modBittern f).harts = s.harts := rfl
@[simp] theorem State.modBittern_serverMask (s : State) (f : Bittern → Bittern) : (s.modBittern f).serverMask = s.serverMask := rfl
@[simp] theorem State.modBittern_mem (s : State) (f : Bittern → Bittern) : (s.modBittern f).mem = s.mem := rfl
@[simp] theorem State.modBittern_granKey (s : State) (f : Bittern → Bittern) : (s.modBittern f).granKey = s.granKey := rfl
@[simp] theorem State.modBittern_badBits (s : State) (f : Bittern → Bittern) : (s.modBittern f).badBits = s.badBits := rfl
@[simp] theorem State.modBittern_keys (s : State) (f : Bittern → Bittern) : (s.modBittern f).keys = s.keys := rfl
@[simp] theorem State.modBittern_ctxs (s : State) (f : Bittern → Bittern) : (s.modBittern f).ctxs = s.ctxs := rfl
@[simp] theorem State.modBittern_inflight (s : State) (f : Bittern → Bittern) : (s.modBittern f).inflight = s.inflight := rfl
@[simp] theorem State.modBittern_nextId (s : State) (f : Bittern → Bittern) : (s.modBittern f).nextId = s.nextId := rfl
@[simp] theorem State.modBittern_returns (s : State) (f : Bittern → Bittern) : (s.modBittern f).returns = s.returns := rfl
@[simp] theorem State.modBittern_injects (s : State) (f : Bittern → Bittern) : (s.modBittern f).injects = s.injects := rfl
@[simp] theorem State.modBittern_packets (s : State) (f : Bittern → Bittern) : (s.modBittern f).packets = s.packets := rfl
@[simp] theorem State.modBittern_tenures (s : State) (f : Bittern → Bittern) : (s.modBittern f).tenures = s.tenures := rfl
@[simp] theorem State.modBittern_requests (s : State) (f : Bittern → Bittern) : (s.modBittern f).requests = s.requests := rfl
@[simp] theorem State.modBittern_drains (s : State) (f : Bittern → Bittern) : (s.modBittern f).drains = s.drains := rfl
@[simp] theorem State.modBittern_resvs (s : State) (f : Bittern → Bittern) : (s.modBittern f).resvs = s.resvs := rfl
@[simp] theorem State.modBittern_resvReqs (s : State) (f : Bittern → Bittern) : (s.modBittern f).resvReqs = s.resvReqs := rfl
@[simp] theorem State.modBittern_tickets (s : State) (f : Bittern → Bittern) : (s.modBittern f).tickets = s.tickets := rfl
@[simp] theorem State.modBittern_ptWrites (s : State) (f : Bittern → Bittern) : (s.modBittern f).ptWrites = s.ptWrites := rfl
@[simp] theorem State.modBittern_hostLines (s : State) (f : Bittern → Bittern) : (s.modBittern f).hostLines = s.hostLines := rfl
@[simp] theorem State.modBittern_buffers (s : State) (f : Bittern → Bittern) : (s.modBittern f).buffers = s.buffers := rfl
@[simp] theorem State.modBittern_hostBack (s : State) (f : Bittern → Bittern) : (s.modBittern f).hostBack = s.hostBack := rfl
@[simp] theorem State.modBittern_views (s : State) (f : Bittern → Bittern) : (s.modBittern f).views = s.views := rfl
@[simp] theorem State.modBittern_peerWrites (s : State) (f : Bittern → Bittern) : (s.modBittern f).peerWrites = s.peerWrites := rfl
@[simp] theorem State.modBittern_ports (s : State) (f : Bittern → Bittern) : (s.modBittern f).ports = s.ports := rfl
@[simp] theorem State.modBittern_switches (s : State) (f : Bittern → Bittern) : (s.modBittern f).switches = s.switches := rfl
@[simp] theorem State.modBittern_shaper (s : State) (f : Bittern → Bittern) : (s.modBittern f).shaper = s.shaper := rfl
@[simp] theorem State.modBittern_buckets (s : State) (f : Bittern → Bittern) : (s.modBittern f).buckets = s.buckets := rfl
@[simp] theorem State.modBittern_arbs (s : State) (f : Bittern → Bittern) : (s.modBittern f).arbs = s.arbs := rfl
@[simp] theorem State.modBittern_groups (s : State) (f : Bittern → Bittern) : (s.modBittern f).groups = s.groups := rfl
@[simp] theorem State.modBittern_collRuns (s : State) (f : Bittern → Bittern) : (s.modBittern f).collRuns = s.collRuns := rfl
@[simp] theorem State.modBittern_chunks (s : State) (f : Bittern → Bittern) : (s.modBittern f).chunks = s.chunks := rfl
@[simp] theorem State.modBittern_drops (s : State) (f : Bittern → Bittern) : (s.modBittern f).drops = s.drops := rfl
@[simp] theorem State.modBittern_hub (s : State) (f : Bittern → Bittern) : (s.modBittern f).hub = s.hub := rfl
@[simp] theorem State.modBittern_plan (s : State) (f : Bittern → Bittern) : (s.modBittern f).plan = s.plan := rfl
@[simp] theorem State.wr_agenda (s : State) (a n v : Nat) : (s.wr a n v).agenda = s.agenda := rfl
@[simp] theorem State.wr_focus (s : State) (a n v : Nat) : (s.wr a n v).focus = s.focus := rfl
@[simp] theorem State.wr_free (s : State) (a n v : Nat) : (s.wr a n v).free = s.free := rfl
@[simp] theorem State.wr_sameCycle (s : State) (a n v : Nat) : (s.wr a n v).sameCycle = s.sameCycle := rfl
@[simp] theorem State.wr_arrivals (s : State) (a n v : Nat) : (s.wr a n v).arrivals = s.arrivals := rfl
@[simp] theorem State.wr_hubTime (s : State) (a n v : Nat) : (s.wr a n v).hubTime = s.hubTime := rfl
@[simp] theorem State.wr_engines (s : State) (a n v : Nat) : (s.wr a n v).engines = s.engines := rfl
@[simp] theorem State.wr_units (s : State) (a n v : Nat) : (s.wr a n v).units = s.units := rfl
@[simp] theorem State.wr_clusters (s : State) (a n v : Nat) : (s.wr a n v).clusters = s.clusters := rfl
@[simp] theorem State.wr_harts (s : State) (a n v : Nat) : (s.wr a n v).harts = s.harts := rfl
@[simp] theorem State.wr_serverMask (s : State) (a n v : Nat) : (s.wr a n v).serverMask = s.serverMask := rfl
@[simp] theorem State.wr_granKey (s : State) (a n v : Nat) : (s.wr a n v).granKey = s.granKey := rfl
@[simp] theorem State.wr_badBits (s : State) (a n v : Nat) : (s.wr a n v).badBits = s.badBits := rfl
@[simp] theorem State.wr_keys (s : State) (a n v : Nat) : (s.wr a n v).keys = s.keys := rfl
@[simp] theorem State.wr_ctxs (s : State) (a n v : Nat) : (s.wr a n v).ctxs = s.ctxs := rfl
@[simp] theorem State.wr_inflight (s : State) (a n v : Nat) : (s.wr a n v).inflight = s.inflight := rfl
@[simp] theorem State.wr_nextId (s : State) (a n v : Nat) : (s.wr a n v).nextId = s.nextId := rfl
@[simp] theorem State.wr_returns (s : State) (a n v : Nat) : (s.wr a n v).returns = s.returns := rfl
@[simp] theorem State.wr_injects (s : State) (a n v : Nat) : (s.wr a n v).injects = s.injects := rfl
@[simp] theorem State.wr_packets (s : State) (a n v : Nat) : (s.wr a n v).packets = s.packets := rfl
@[simp] theorem State.wr_tenures (s : State) (a n v : Nat) : (s.wr a n v).tenures = s.tenures := rfl
@[simp] theorem State.wr_requests (s : State) (a n v : Nat) : (s.wr a n v).requests = s.requests := rfl
@[simp] theorem State.wr_drains (s : State) (a n v : Nat) : (s.wr a n v).drains = s.drains := rfl
@[simp] theorem State.wr_resvs (s : State) (a n v : Nat) : (s.wr a n v).resvs = s.resvs := rfl
@[simp] theorem State.wr_resvReqs (s : State) (a n v : Nat) : (s.wr a n v).resvReqs = s.resvReqs := rfl
@[simp] theorem State.wr_tickets (s : State) (a n v : Nat) : (s.wr a n v).tickets = s.tickets := rfl
@[simp] theorem State.wr_ptWrites (s : State) (a n v : Nat) : (s.wr a n v).ptWrites = s.ptWrites := rfl
@[simp] theorem State.wr_hostLines (s : State) (a n v : Nat) : (s.wr a n v).hostLines = s.hostLines := rfl
@[simp] theorem State.wr_buffers (s : State) (a n v : Nat) : (s.wr a n v).buffers = s.buffers := rfl
@[simp] theorem State.wr_hostBack (s : State) (a n v : Nat) : (s.wr a n v).hostBack = s.hostBack := rfl
@[simp] theorem State.wr_views (s : State) (a n v : Nat) : (s.wr a n v).views = s.views := rfl
@[simp] theorem State.wr_peerWrites (s : State) (a n v : Nat) : (s.wr a n v).peerWrites = s.peerWrites := rfl
@[simp] theorem State.wr_ports (s : State) (a n v : Nat) : (s.wr a n v).ports = s.ports := rfl
@[simp] theorem State.wr_switches (s : State) (a n v : Nat) : (s.wr a n v).switches = s.switches := rfl
@[simp] theorem State.wr_shaper (s : State) (a n v : Nat) : (s.wr a n v).shaper = s.shaper := rfl
@[simp] theorem State.wr_buckets (s : State) (a n v : Nat) : (s.wr a n v).buckets = s.buckets := rfl
@[simp] theorem State.wr_arbs (s : State) (a n v : Nat) : (s.wr a n v).arbs = s.arbs := rfl
@[simp] theorem State.wr_groups (s : State) (a n v : Nat) : (s.wr a n v).groups = s.groups := rfl
@[simp] theorem State.wr_collRuns (s : State) (a n v : Nat) : (s.wr a n v).collRuns = s.collRuns := rfl
@[simp] theorem State.wr_chunks (s : State) (a n v : Nat) : (s.wr a n v).chunks = s.chunks := rfl
@[simp] theorem State.wr_drops (s : State) (a n v : Nat) : (s.wr a n v).drops = s.drops := rfl
@[simp] theorem State.wr_hub (s : State) (a n v : Nat) : (s.wr a n v).hub = s.hub := rfl
@[simp] theorem State.wr_bittern (s : State) (a n v : Nat) : (s.wr a n v).bittern = s.bittern := rfl
@[simp] theorem State.wr_plan (s : State) (a n v : Nat) : (s.wr a n v).plan = s.plan := rfl
@[simp] theorem State.wrBytes_agenda (s : State) (a : Nat) (bs : List Byte) : (s.wrBytes a bs).agenda = s.agenda := rfl
@[simp] theorem State.wrBytes_focus (s : State) (a : Nat) (bs : List Byte) : (s.wrBytes a bs).focus = s.focus := rfl
@[simp] theorem State.wrBytes_free (s : State) (a : Nat) (bs : List Byte) : (s.wrBytes a bs).free = s.free := rfl
@[simp] theorem State.wrBytes_sameCycle (s : State) (a : Nat) (bs : List Byte) : (s.wrBytes a bs).sameCycle = s.sameCycle := rfl
@[simp] theorem State.wrBytes_arrivals (s : State) (a : Nat) (bs : List Byte) : (s.wrBytes a bs).arrivals = s.arrivals := rfl
@[simp] theorem State.wrBytes_hubTime (s : State) (a : Nat) (bs : List Byte) : (s.wrBytes a bs).hubTime = s.hubTime := rfl
@[simp] theorem State.wrBytes_engines (s : State) (a : Nat) (bs : List Byte) : (s.wrBytes a bs).engines = s.engines := rfl
@[simp] theorem State.wrBytes_units (s : State) (a : Nat) (bs : List Byte) : (s.wrBytes a bs).units = s.units := rfl
@[simp] theorem State.wrBytes_clusters (s : State) (a : Nat) (bs : List Byte) : (s.wrBytes a bs).clusters = s.clusters := rfl
@[simp] theorem State.wrBytes_harts (s : State) (a : Nat) (bs : List Byte) : (s.wrBytes a bs).harts = s.harts := rfl
@[simp] theorem State.wrBytes_serverMask (s : State) (a : Nat) (bs : List Byte) : (s.wrBytes a bs).serverMask = s.serverMask := rfl
@[simp] theorem State.wrBytes_granKey (s : State) (a : Nat) (bs : List Byte) : (s.wrBytes a bs).granKey = s.granKey := rfl
@[simp] theorem State.wrBytes_badBits (s : State) (a : Nat) (bs : List Byte) : (s.wrBytes a bs).badBits = s.badBits := rfl
@[simp] theorem State.wrBytes_keys (s : State) (a : Nat) (bs : List Byte) : (s.wrBytes a bs).keys = s.keys := rfl
@[simp] theorem State.wrBytes_ctxs (s : State) (a : Nat) (bs : List Byte) : (s.wrBytes a bs).ctxs = s.ctxs := rfl
@[simp] theorem State.wrBytes_inflight (s : State) (a : Nat) (bs : List Byte) : (s.wrBytes a bs).inflight = s.inflight := rfl
@[simp] theorem State.wrBytes_nextId (s : State) (a : Nat) (bs : List Byte) : (s.wrBytes a bs).nextId = s.nextId := rfl
@[simp] theorem State.wrBytes_returns (s : State) (a : Nat) (bs : List Byte) : (s.wrBytes a bs).returns = s.returns := rfl
@[simp] theorem State.wrBytes_injects (s : State) (a : Nat) (bs : List Byte) : (s.wrBytes a bs).injects = s.injects := rfl
@[simp] theorem State.wrBytes_packets (s : State) (a : Nat) (bs : List Byte) : (s.wrBytes a bs).packets = s.packets := rfl
@[simp] theorem State.wrBytes_tenures (s : State) (a : Nat) (bs : List Byte) : (s.wrBytes a bs).tenures = s.tenures := rfl
@[simp] theorem State.wrBytes_requests (s : State) (a : Nat) (bs : List Byte) : (s.wrBytes a bs).requests = s.requests := rfl
@[simp] theorem State.wrBytes_drains (s : State) (a : Nat) (bs : List Byte) : (s.wrBytes a bs).drains = s.drains := rfl
@[simp] theorem State.wrBytes_resvs (s : State) (a : Nat) (bs : List Byte) : (s.wrBytes a bs).resvs = s.resvs := rfl
@[simp] theorem State.wrBytes_resvReqs (s : State) (a : Nat) (bs : List Byte) : (s.wrBytes a bs).resvReqs = s.resvReqs := rfl
@[simp] theorem State.wrBytes_tickets (s : State) (a : Nat) (bs : List Byte) : (s.wrBytes a bs).tickets = s.tickets := rfl
@[simp] theorem State.wrBytes_ptWrites (s : State) (a : Nat) (bs : List Byte) : (s.wrBytes a bs).ptWrites = s.ptWrites := rfl
@[simp] theorem State.wrBytes_hostLines (s : State) (a : Nat) (bs : List Byte) : (s.wrBytes a bs).hostLines = s.hostLines := rfl
@[simp] theorem State.wrBytes_buffers (s : State) (a : Nat) (bs : List Byte) : (s.wrBytes a bs).buffers = s.buffers := rfl
@[simp] theorem State.wrBytes_hostBack (s : State) (a : Nat) (bs : List Byte) : (s.wrBytes a bs).hostBack = s.hostBack := rfl
@[simp] theorem State.wrBytes_views (s : State) (a : Nat) (bs : List Byte) : (s.wrBytes a bs).views = s.views := rfl
@[simp] theorem State.wrBytes_peerWrites (s : State) (a : Nat) (bs : List Byte) : (s.wrBytes a bs).peerWrites = s.peerWrites := rfl
@[simp] theorem State.wrBytes_ports (s : State) (a : Nat) (bs : List Byte) : (s.wrBytes a bs).ports = s.ports := rfl
@[simp] theorem State.wrBytes_switches (s : State) (a : Nat) (bs : List Byte) : (s.wrBytes a bs).switches = s.switches := rfl
@[simp] theorem State.wrBytes_shaper (s : State) (a : Nat) (bs : List Byte) : (s.wrBytes a bs).shaper = s.shaper := rfl
@[simp] theorem State.wrBytes_buckets (s : State) (a : Nat) (bs : List Byte) : (s.wrBytes a bs).buckets = s.buckets := rfl
@[simp] theorem State.wrBytes_arbs (s : State) (a : Nat) (bs : List Byte) : (s.wrBytes a bs).arbs = s.arbs := rfl
@[simp] theorem State.wrBytes_groups (s : State) (a : Nat) (bs : List Byte) : (s.wrBytes a bs).groups = s.groups := rfl
@[simp] theorem State.wrBytes_collRuns (s : State) (a : Nat) (bs : List Byte) : (s.wrBytes a bs).collRuns = s.collRuns := rfl
@[simp] theorem State.wrBytes_chunks (s : State) (a : Nat) (bs : List Byte) : (s.wrBytes a bs).chunks = s.chunks := rfl
@[simp] theorem State.wrBytes_drops (s : State) (a : Nat) (bs : List Byte) : (s.wrBytes a bs).drops = s.drops := rfl
@[simp] theorem State.wrBytes_hub (s : State) (a : Nat) (bs : List Byte) : (s.wrBytes a bs).hub = s.hub := rfl
@[simp] theorem State.wrBytes_bittern (s : State) (a : Nat) (bs : List Byte) : (s.wrBytes a bs).bittern = s.bittern := rfl
@[simp] theorem State.wrBytes_plan (s : State) (a : Nat) (bs : List Byte) : (s.wrBytes a bs).plan = s.plan := rfl
@[simp] theorem State.draw_agenda (s : State) : (s.draw.2).agenda = s.agenda := rfl
@[simp] theorem State.draw_focus (s : State) : (s.draw.2).focus = s.focus := rfl
@[simp] theorem State.draw_sameCycle (s : State) : (s.draw.2).sameCycle = s.sameCycle := rfl
@[simp] theorem State.draw_arrivals (s : State) : (s.draw.2).arrivals = s.arrivals := rfl
@[simp] theorem State.draw_hubTime (s : State) : (s.draw.2).hubTime = s.hubTime := rfl
@[simp] theorem State.draw_engines (s : State) : (s.draw.2).engines = s.engines := rfl
@[simp] theorem State.draw_units (s : State) : (s.draw.2).units = s.units := rfl
@[simp] theorem State.draw_clusters (s : State) : (s.draw.2).clusters = s.clusters := rfl
@[simp] theorem State.draw_harts (s : State) : (s.draw.2).harts = s.harts := rfl
@[simp] theorem State.draw_serverMask (s : State) : (s.draw.2).serverMask = s.serverMask := rfl
@[simp] theorem State.draw_mem (s : State) : (s.draw.2).mem = s.mem := rfl
@[simp] theorem State.draw_granKey (s : State) : (s.draw.2).granKey = s.granKey := rfl
@[simp] theorem State.draw_badBits (s : State) : (s.draw.2).badBits = s.badBits := rfl
@[simp] theorem State.draw_keys (s : State) : (s.draw.2).keys = s.keys := rfl
@[simp] theorem State.draw_ctxs (s : State) : (s.draw.2).ctxs = s.ctxs := rfl
@[simp] theorem State.draw_inflight (s : State) : (s.draw.2).inflight = s.inflight := rfl
@[simp] theorem State.draw_nextId (s : State) : (s.draw.2).nextId = s.nextId := rfl
@[simp] theorem State.draw_returns (s : State) : (s.draw.2).returns = s.returns := rfl
@[simp] theorem State.draw_injects (s : State) : (s.draw.2).injects = s.injects := rfl
@[simp] theorem State.draw_packets (s : State) : (s.draw.2).packets = s.packets := rfl
@[simp] theorem State.draw_tenures (s : State) : (s.draw.2).tenures = s.tenures := rfl
@[simp] theorem State.draw_requests (s : State) : (s.draw.2).requests = s.requests := rfl
@[simp] theorem State.draw_drains (s : State) : (s.draw.2).drains = s.drains := rfl
@[simp] theorem State.draw_resvs (s : State) : (s.draw.2).resvs = s.resvs := rfl
@[simp] theorem State.draw_resvReqs (s : State) : (s.draw.2).resvReqs = s.resvReqs := rfl
@[simp] theorem State.draw_tickets (s : State) : (s.draw.2).tickets = s.tickets := rfl
@[simp] theorem State.draw_ptWrites (s : State) : (s.draw.2).ptWrites = s.ptWrites := rfl
@[simp] theorem State.draw_hostLines (s : State) : (s.draw.2).hostLines = s.hostLines := rfl
@[simp] theorem State.draw_buffers (s : State) : (s.draw.2).buffers = s.buffers := rfl
@[simp] theorem State.draw_hostBack (s : State) : (s.draw.2).hostBack = s.hostBack := rfl
@[simp] theorem State.draw_views (s : State) : (s.draw.2).views = s.views := rfl
@[simp] theorem State.draw_peerWrites (s : State) : (s.draw.2).peerWrites = s.peerWrites := rfl
@[simp] theorem State.draw_ports (s : State) : (s.draw.2).ports = s.ports := rfl
@[simp] theorem State.draw_switches (s : State) : (s.draw.2).switches = s.switches := rfl
@[simp] theorem State.draw_shaper (s : State) : (s.draw.2).shaper = s.shaper := rfl
@[simp] theorem State.draw_buckets (s : State) : (s.draw.2).buckets = s.buckets := rfl
@[simp] theorem State.draw_arbs (s : State) : (s.draw.2).arbs = s.arbs := rfl
@[simp] theorem State.draw_groups (s : State) : (s.draw.2).groups = s.groups := rfl
@[simp] theorem State.draw_collRuns (s : State) : (s.draw.2).collRuns = s.collRuns := rfl
@[simp] theorem State.draw_chunks (s : State) : (s.draw.2).chunks = s.chunks := rfl
@[simp] theorem State.draw_drops (s : State) : (s.draw.2).drops = s.drops := rfl
@[simp] theorem State.draw_hub (s : State) : (s.draw.2).hub = s.hub := rfl
@[simp] theorem State.draw_bittern (s : State) : (s.draw.2).bittern = s.bittern := rfl
@[simp] theorem State.draw_plan (s : State) : (s.draw.2).plan = s.plan := rfl

end Sys2Proof.Machine
end

