-- ==== Sys2Proof/Laws/Issue.lean ====
section
/-! SUPPORT. The course of an issuing word and of a control word: what each outcome of the effect gives. -/

namespace Sys2Proof.Machine

/-! ### The parts of the state by number -/

@[simp] theorem eng_setEng_same (s : State) (g : Nat) (E : Engine) : (s.setEng g E).eng g = E := by
  simp [State.eng, State.setEng]
theorem eng_setEng_other (s : State) {g j : Nat} (E : Engine) (h : j ≠ g) : (s.setEng g E).eng j = s.eng j := by
  simp [State.eng, State.setEng, Sparse.get_set_other _ _ _ h]
@[simp] theorem setEng_setEng (s : State) (g : Nat) (E F : Engine) : (s.setEng g E).setEng g F = s.setEng g F := by
  simp [State.setEng]
@[simp] theorem act_setAct_same (E : Engine) (k : Nat) (a : Option Act) : (E.setAct k a).act k = a := by
  simp [Engine.act, Engine.setAct, Engine.slot]
theorem act_setAct_other (E : Engine) {k j : Nat} (a : Option Act) (h : j ≠ k) : (E.setAct k a).act j = E.act j := by
  simp [Engine.act, Engine.setAct, Engine.slot, Sparse.get_set_other _ _ _ h]
@[simp] theorem setAct_setAct (E : Engine) (k : Nat) (a b : Option Act) : (E.setAct k a).setAct k b = E.setAct k b := by
  simp [Engine.setAct, Engine.slot]
@[simp] theorem state_act_setAct (s : State) (g k : Nat) (a : Act) : (s.setAct g k a).act g k = some a := by
  simp [State.act, State.setAct]
@[simp] theorem state_setAct_setAct (s : State) (g k : Nat) (a b : Act) : (s.setAct g k a).setAct g k b = s.setAct g k b := by
  simp [State.setAct]
@[simp] theorem cur_setCur (s : State) (a : Act) : (s.setCur a).cur = some a := by
  simp [State.cur, State.setCur]
@[simp] theorem setCur_setCur (s : State) (a b : Act) : (s.setCur a).setCur b = s.setCur b := by
  simp [State.setCur]
theorem modCur_eq (s : State) {a : Act} (h : s.cur = some a) (f : Act → Act) : s.modCur f = s.setCur (f a) := by
  simp only [State.cur] at h
  simp [State.modCur, State.modAct, State.setCur, h]

/-! ### Coming to rest -/

/-- Without a recorded fault nothing is taken. -/
theorem settle_calm (s : State) {g k : Nat} {a : Act} (h : s.act g k = some a) (hf : a.faults = []) : s.settle g k = s := by
  simp [State.settle, h, hf, earliest]

/-- A word leaves its queue where no fault is recorded and its pushes fit and are made at once. -/
theorem retire_calm {q : Nat} {h : Hdr} {s : State} {b : Act} (hf : b.faults = []) (hp : b.fits q h s.focus.n = true)
    (hn : pushesNow h s = true) : (s.setCur b).retire q h = s.setCur (b.done q h s.focus.n) := by
  have hn' : (s.sameCycle && (h.pushu || h.pushd)) = false := by
    simp only [pushesNow] at hn
    revert hn
    cases s.sameCycle <;> cases h.pushu <;> cases h.pushd <;> decide
  have hq : ((b.pops q h).leave q s.focus.n).pushes q h.pushu h.pushd = (b.done q h s.focus.n, true) :=
    Prod.ext rfl hp
  simp only [State.retire, cur_setCur, State.finish, State.setCur_sameCycle, State.setCur_focus, hn', State.complete, hq]
  simp only [State.setCur, state_setAct_setAct]
  exact settle_calm (a := b.done q h s.focus.n) _ (by simp) (by simp [hf])

/-! ### Tokens -/

/-- The token counter of queue `q` as a number of its own. -/
theorem tok_setTok_same (a : Act) (q v : Nat) : (a.setTok q v).tok q = v :=
  match q with
  | 0 => rfl
  | 1 => rfl
  | _ + 2 => rfl

theorem tok_setQueue (a : Act) (q j : Nat) (l : List QEntry) : (a.setQueue q l).tok j = a.tok j := by
  unfold Act.tok
  split <;> simp

/-- What the counters hold decides what they hold after a write of one. -/
theorem tok_setTok_congr {a b : Act} (h : ∀ j, b.tok j = a.tok j) (q v j : Nat) : (b.setTok q v).tok j = (a.setTok q v).tok j := by
  have h0 : b.ta = a.ta := h 0
  have h1 : b.tc = a.tc := h 1
  have h2 : b.ts = a.ts := h 2
  match q, j with
  | 0, 0 | 1, 1 | _ + 2, _ + 2 => rfl
  | 0, 1 | _ + 2, 1 => exact h1
  | 1, 0 | _ + 2, 0 => exact h0
  | 0, _ + 2 | 1, _ + 2 => exact h2

theorem tok_pops_congr {a b : Act} (h : ∀ j, b.tok j = a.tok j) (q : Nat) (hd : Hdr) (j : Nat) :
    (b.pops q hd).tok j = (a.pops q hd).tok j := by
  have h1 : ∀ j, (b.setTok q (a.tok q - 1)).tok j = (a.setTok q (a.tok q - 1)).tok j := tok_setTok_congr h q _
  have hp : ∀ x : Act, (x.pops q hd).tok j = (let y := if hd.popu then x.setTok q (x.tok q - 1) else x
      if hd.popd then y.setTok (downOf q) (y.tok (downOf q) - 1) else y).tok j := by
    intro x
    unfold Act.pops
    dsimp only
    split <;> rfl
  rw [hp a, hp b]
  dsimp only
  split <;> split
  · simp only [h, h1]
    exact tok_setTok_congr h1 _ _ j
  · simp only [h]
    exact tok_setTok_congr h _ _ j
  · simp only [h, h1]
  · exact h j

theorem tok_leave (a : Act) (q n j : Nat) : (a.leave q n).tok j = a.tok j := by
  unfold Act.leave Act.tok
  split <;> simp

theorem pushes_congr {a b : Act} (h : ∀ j, b.tok j = a.tok j) (q : Nat) (u d : Bool) :
    (b.pushes q u d).2 = (a.pushes q u d).2 := by
  have key : ∀ {a b : Act}, (∀ j, b.tok j = a.tok j) → ∀ (q : Nat) (x : Bool), (b.push1 q x).2 = (a.push1 q x).2 ∧
      ∀ j, (b.push1 q x).1.tok j = (a.push1 q x).1.tok j := by
    intro a b h q x
    unfold Act.push1
    rw [h q]
    split
    · exact ⟨rfl, h⟩
    · split
      · exact ⟨rfl, h⟩
      · exact ⟨rfl, tok_setTok_congr h _ _⟩
  have k1 := key h q u
  have k2 := key k1.2 (downOf q) d
  simp only [Act.pushes, k1.1, k2.1]

/-- Whether the pushes fit is a matter of the token counters alone. -/
theorem fits_congr {a b : Act} (hc : b.tc = a.tc) (hs : b.ts = a.ts) (ha : b.ta = a.ta) (q : Nat) (h : Hdr) (n : Nat) :
    b.fits q h n = a.fits q h n := by
  have ht : ∀ j, b.tok j = a.tok j := by
    intro j
    unfold Act.tok
    split <;> assumption
  unfold Act.fits
  apply pushes_congr
  intro j
  rw [tok_leave, tok_leave]
  exact tok_pops_congr ht q h j

/-! ### The course of a word -/

/-- No activation: no word. -/
theorem issue_noActivation {q : Nat} {h : Hdr} {body : State → Act → Res} {s : State} (hc : s.cur = none) :
    issue q h body s = .fault .noActivation := by
  simp [issue, hc]

/-- A missing token: the word waits. -/
theorem issue_blocked {q : Nat} {h : Hdr} {body : State → Act → Res} {s : State} {a : Act} (hc : s.cur = some a)
    (ht : a.canPop q h = false) : issue q h body s = .next (s.noteBlock q) := by
  simp [issue, hc, ht]

/-- A false guard: the word has no effect, and its tokens move. -/
theorem issue_skipped {q : Nat} {h : Hdr} {body : State → Act → Res} {s : State} {a : Act} (hc : s.cur = some a)
    (ht : a.canPop q h = true) (hg : condTrue h.guard a = false) : issue q h body s = .next (s.retire q h) := by
  simp [issue, hc, ht, hg]

/-- The word takes its effect. -/
theorem issue_ready {q : Nat} {h : Hdr} {body : State → Act → Res} {s : State} {a : Act} (r : Ready q h s a) :
    issue q h body s =
      match body s a with
      | .ok t => .next (t.retire q h)
      | .wait t => .next (t.noteWait q)
      | .later t => .next (t.modCur (fun a => (a.pops q h).progress))
      | .raise t code info addr reason share => .next (t.raiseCur code info addr reason share) := by
  simp only [issue, r.runs, r.tokens, r.guard]
  cases body s a <;> simp

/-- A word whose effect is on its activation alone. -/
theorem issue_onAct {q : Nat} {h : Hdr} {s : State} {a b : Act} {body : State → Act → Res} (r : Ready q h s a)
    (hb : body s a = .ok (s.setCur b)) (hf : b.faults = a.faults) (hc : b.tc = a.tc) (hs : b.ts = a.ts) (ha : b.ta = a.ta) :
    issue q h body s = .next (s.setCur (b.done q h s.focus.n)) := by
  rw [issue_ready r, hb]
  have : b.fits q h s.focus.n = true := by rw [fits_congr hc hs ha]; exact r.fits
  simp [retire_calm (hf.trans r.calm) this r.now]

/-- A word whose effect changes the state and leaves an activation in focus with the same tokens and no fault. -/
theorem issue_put {q : Nat} {h : Hdr} {s t : State} {a b : Act} {body : State → Act → Res} (r : Ready q h s a)
    (hb : body s a = .ok (t.setCur b)) (ht : t.focus = s.focus) (hy : t.sameCycle = s.sameCycle) (hf : b.faults = a.faults)
    (hc : b.tc = a.tc) (hs : b.ts = a.ts) (ha : b.ta = a.ta) : issue q h body s = .next (t.setCur (b.done q h s.focus.n)) := by
  rw [issue_ready r, hb]
  have : b.fits q h t.focus.n = true := by rw [ht, fits_congr hc hs ha]; exact r.fits
  simp [retire_calm (hf.trans r.calm) this (by simpa [pushesNow, hy] using r.now), ht]

/-- A word whose effect leaves the activation in focus as it is. -/
theorem issue_keep {q : Nat} {h : Hdr} {s t : State} {a : Act} {body : State → Act → Res} (r : Ready q h s a)
    (hb : body s a = .ok t) (hc : t.cur = some a) (ht : t.focus = s.focus) (hy : t.sameCycle = s.sameCycle) :
    issue q h body s = .next (t.setCur (a.done q h s.focus.n)) := by
  rw [issue_ready r, hb]
  have k : t.retire q h = (t.setCur a).retire q h := by
    simp only [State.retire, hc, cur_setCur, State.finish, State.complete]
    simp [State.setCur]
  have : a.fits q h t.focus.n = true := by rw [ht]; exact r.fits
  simp only [k, retire_calm r.calm this (by simpa [pushesNow, hy] using r.now), ht]

/-- A word that waits at the head of its queue. -/
theorem issue_waits {q : Nat} {h : Hdr} {s t : State} {a : Act} {body : State → Act → Res} (r : Ready q h s a)
    (hb : body s a = .wait t) : issue q h body s = .next (t.noteWait q) := by
  rw [issue_ready r, hb]

/-- A word that raises a fault. -/
theorem issue_raises {q : Nat} {h : Hdr} {s t : State} {a : Act} {body : State → Act → Res} {c i x y z : Nat} (r : Ready q h s a)
    (hb : body s a = .raise t c i x y z) : issue q h body s = .next (t.raiseCur c i x y z) := by
  rw [issue_ready r, hb]

/-- A word that enters a deferred effect, or raises SEG_OVERFLOW. -/
theorem issue_defers {q : Nat} {h : Hdr} {s t : State} {a : Act} {body : State → Act → Res} {e : Effect} {u : List Nat}
    (r : Ready q h s a) (ht : t.focus = s.focus) (hy : t.sameCycle = s.sameCycle) (hb : body s a = deferEff e u t a) :
    issue q h body s = .next (if a.deferred.length < 64 then t.setCur (({ a with
        deferred := insertDeferred { n := s.focus.n, pc := s.focus.pc, eff := e, uses := u } a.deferred
        uses := u ++ a.uses } : Act).done q h s.focus.n)
      else t.raiseCur 6 0 0 0 0) := by
  split
  · next hl =>
    rw [deferEff, if_neg (by omega), ht] at hb
    exact issue_put r hb ht hy rfl rfl rfl rfl
  · next hl =>
    rw [deferEff, if_pos (by omega)] at hb
    exact issue_raises r hb

/-- A scalar word writes what its function gives. -/
theorem alu_ready {h : Hdr} {s : State} {a : Act} {f : Act → Act} (r : Ready 1 h s a) (hf : (f a).faults = a.faults)
    (hc : (f a).tc = a.tc) (hs : (f a).ts = a.ts) (ha : (f a).ta = a.ta) :
    alu h s f = .next (s.setCur ((f a).done 1 h s.focus.n)) :=
  issue_onAct r rfl hf hc hs ha

/-- A control word goes on. -/
theorem frontEnd_go {s : State} {a b : Act} {f : Act → CtlRes} (hc : s.cur = some a) (hf : f a = .go b) :
    frontEnd s f = .next (s.setCur b.frontDone) := by
  simp [frontEnd, hc, hf]

/-- A control word raises a fault. -/
theorem frontEnd_fail {s : State} {a : Act} {f : Act → CtlRes} {code info : Nat} (hc : s.cur = some a)
    (hf : f a = .fail code info) : frontEnd s f = .next (s.raiseCur code info 0 0 0) := by
  simp [frontEnd, hc, hf]

end Sys2Proof.Machine
end

