-- ==== Sys2Proof/Laws/Memory.lean ====
section
/-! SUPPORT. Every operation that writes memory keeps its canonical form (log 9), and reset has it. -/

namespace Sys2Proof.Machine

/-- Leaving entries out keeps the canonical form. -/
theorem Sparse.sortedFrom_filter {α : Type} {lo : Nat} {m : Sparse α} (h : Sparse.sortedFrom lo m = true) (p : Nat × α → Bool) :
    Sparse.sortedFrom lo (m.filter p) = true := by
  induction m generalizing lo with
  | nil => rfl
  | cons e m ih =>
    obtain ⟨k, v⟩ := e
    simp only [Sparse.sortedFrom, Bool.and_eq_true, decide_eq_true_eq] at h
    rw [List.filter_cons]
    split
    · simp only [Sparse.sortedFrom, Bool.and_eq_true, decide_eq_true_eq]
      exact ⟨h.1, ih h.2⟩
    · exact Sparse.sortedFrom_mono (ih h.2) (by omega)

theorem wf_filter {m : List Host.Cell} (h : Memory.wf m = true) (p : Host.Cell → Bool) : Memory.wf (m.filter p) = true := by
  simp only [Memory.wf, Sparse.canonical, Sparse.sorted, Bool.and_eq_true, List.all_eq_true] at h ⊢
  exact ⟨Sparse.sortedFrom_filter h.1 p, fun e he => h.2 e (List.mem_filter.mp he).1⟩

/-- A list of writes, some of them left out, keeps the canonical form. -/
theorem wf_foldl_put {l m : List Host.Cell} (h : Memory.wf m = true) (p : Host.Cell → Bool) :
    Memory.wf (l.foldl (fun m c => if p c then Sparse.put 0 m c.1 c.2 else m) m) = true := by
  induction l generalizing m with
  | nil => exact h
  | cons c l ih =>
    refine ih ?_
    dsimp only
    split
    · exact Sparse.canonical_put h _ _
    · exact h

/-- Writes one after the other keep it. -/
theorem wf_foldl_putBytes {l : List (Nat × List Byte)} {m : List Host.Cell} (h : Memory.wf m = true) :
    Memory.wf (l.foldl (fun m e => putBytes m (128 * e.1) e.2) m) = true := by
  induction l generalizing m with
  | nil => exact h
  | cons e l ih => exact ih (canonical_putBytes h _ _)

theorem wf_reset : Memory.wf State.reset.mem = true := rfl

theorem wf_wr {s : State} (h : Memory.wf s.mem = true) (a n v : Nat) : Memory.wf (s.wr a n v).mem = true :=
  canonical_writeLE h a n v

theorem wf_wrBytes {s : State} (h : Memory.wf s.mem = true) (a : Nat) (bs : List Byte) : Memory.wf (s.wrBytes a bs).mem = true :=
  canonical_putBytes h a bs

/-- A read of a granule draws a free value at most. -/
@[simp] theorem granuleAs_mem (s : State) (g key : Nat) : (s.granuleAs g key).2.mem = s.mem := by
  simp only [State.granuleAs]
  split
  · split <;> rfl
  · rfl

@[simp] theorem readKeyed_mem (s : State) (a n key : Nat) : (s.readKeyed a n key).2.mem = s.mem := by
  simp only [State.readKeyed]
  split
  · exact granuleAs_mem s _ _
  · rfl

@[simp] theorem repair_mem (s : State) (gr : Nat) : (s.repair gr).mem = s.mem := by
  simp only [State.repair]
  split <;> rfl

theorem wf_writeKeyed {s : State} (h : Memory.wf s.mem = true) (a key : Nat) (bs : List Byte) :
    Memory.wf (s.writeKeyed a key bs).mem = true := by
  simp only [State.writeKeyed]
  split
  · exact canonical_putBytes (by rw [granuleAs_mem, repair_mem]; exact h) _ _
  · exact wf_wrBytes (by rw [repair_mem]; exact h) a bs

theorem wf_memAfter {s : State} (h : Memory.wf s.mem = true) (n : Nat) : Memory.wf (s.memAfter n) = true := by
  have k := wf_foldl_put (l := Config.memoryAfter n) (wf_filter h (fun c => 3 * 2 ^ 40 ≤ c.1)) (fun c => decide (c.1 < 3 * 2 ^ 40))
  simp only [decide_eq_true_eq] at k
  exact k

@[simp] theorem romBoot_mem (s : State) : s.romBoot.mem = s.mem := by
  simp only [State.romBoot]
  split <;> rfl

/-- Whatever memory holds after a reset, it is in canonical form. -/
theorem wf_deviceReset {s : State} (h : Memory.wf s.mem = true) : Memory.wf s.deviceReset.mem = true := by
  simpa [State.deviceReset] using wf_memAfter h s.free

theorem wf_fatalReset {s : State} (h : Memory.wf s.mem = true) : Memory.wf s.fatalReset.mem = true := by
  simp only [State.fatalReset, State.hubErr, State.modHub]
  exact wf_deviceReset (wf_foldl_putBytes h)

/-- Placing a word keeps it. -/
theorem wf_placeWord {s : State} (h : Memory.wf s.mem = true) (nbits w : Nat) : Memory.wf (s.placeWord nbits w).mem = true := by
  simp only [State.placeWord]
  split
  · exact canonical_writeLE (canonical_writeLE h _ _ _) _ _ _
  · exact h

/-- The plaintext byte outside the bytes of a write is as before. -/
theorem byte_wr_other {s : State} (h : Memory.wf s.mem = true) (a n v : Nat) {b : Nat} (hb : b < a ∨ a + n ≤ b) :
    (s.wr a n v).byte b = s.byte b :=
  get_putBytes_other (by simp only [Memory.wf, Sparse.canonical, Bool.and_eq_true] at h; exact h.1) a _ (by simpa using hb)

/-- The bytes written are the bytes read. -/
theorem bytes_wrBytes {s : State} (h : Memory.wf s.mem = true) (a : Nat) (bs : List Byte) :
    bytesAt (s.wrBytes a bs).mem a bs.length = bs :=
  bytesAt_putBytes (by simp only [Memory.wf, Sparse.canonical, Bool.and_eq_true] at h; exact h.1) a bs

end Sys2Proof.Machine
end

