-- ==== Sys2Proof/Tests/Slice0.lean ====
section
/-! SUPPORT. Tests. `witness_…` shows for a statement concrete states and operands that meet its hypotheses, one conjunct per clause;
`test_…` compares the model on fixed values with what the specification's own tables, examples and encodings give. -/

open Sys2Proof Sys2Proof.Machine

namespace Sys2Proof.Tests

set_option Elab.async false

/-! ### States and operands -/

/-- A header without tokens whose guard holds, and one whose guard is predicate 0. -/
def h0 : Hdr := { stop := false, popu := false, popd := false, pushu := false, pushd := false, guard := 15 }
def hP : Hdr := { h0 with guard := 0 }
/-- An activation of context 1. -/
def a0 : Act := { act := 0, ctx := 1, seq := 0, rngReady := true }
/-- A context record: page table at 0x10000, 4 tile handles, handler table at 0x40000, fault-queue descriptor at 0x20000, call-queue
descriptor at 0x20040, 2 queues in the table at 0x50000, the tile table at 0x98000, QUOTA 4,096, and the PRIV bit. -/
def rcd1 : List Byte := toLE 256 (0x10000 + 0x98000 * 2 ^ 128 + 4 * 2 ^ 176 + 0x40000 * 2 ^ 192 + 0x20000 * 2 ^ 384 + 0x20040 * 2 ^ 448 + 0x50000 * 2 ^ 512 +
  2 * 2 ^ 560 + 4096 * 2 ^ 896 + 4 * 2 ^ 912)
/-- Memory: the boot entries of cluster 0's home route table for the homes 0, 1 and 6, a page table that maps the first GiB of window 0 to
DPA 0 with every permission, and a fault queue of 16 records. -/
def mem1 : List Host.Cell :=
  writeLE (writeLE (writeLE (([0, 1, 6] : List Nat).foldl (fun m h => writeLE m (16 * h) 16 (bootRoute 0 h 0)) [])
    0x10000 8 0x12001) 0x12000 8 0x19F) 0x20000 8 (0x30000 + 4 * 2 ^ 48)
/-- The reset state with the contexts 1 and 2 live on that memory; context 2 has no PRIV bit. -/
def base : State := { State.reset with
  ctxs := [(1, { state := .live, rcd := rcd1 }), (2, { state := .live, rcd := rcd1.set 114 0 })], mem := mem1 }
/-- A state with an activation in the slot in focus. -/
def put (s : State) (a : Act) : State := s.setAct 0 0 a
def on (a : Act) : State := put base a
/-- An operand form whose fields are all zero but D = 1, A = 2, B = 3. -/
def x0 : XForm := { d := 1, a := 2, b := 3, c := 0, fmt := 0, rm := 0, sat := false, fn := 0 }
def i0 : IForm := { d := 1, a := 2, imm := 5 }
def b0 : BForm := { cond := 15, hint := false, a := 2, imm := 4 }

/-- The next state of an outcome, if it is one. -/
def next? : Host.Outcome State Fault Refusal → Option State
  | .next t => some t
  | _ => none
/-- The activation in focus after an instruction, and the value of a register of it. -/
def actAfter (i : Instr) (s : State) : Option Act := (next? (exec i s)).bind State.cur
def regAfter (i : Instr) (s : State) (r : Nat) : Option Nat := (actAfter i s).map (fun a => a.ug r)

theorem cur_put (s : State) (hs : s.focus = {}) (a : Act) : (put s a).cur = some a := by
  simp [State.cur, put, hs]

theorem issues_put (s : State) (hs : s.focus = {}) (q : Nat) (h : Hdr) (a : Act) (hf : a.faults = []) (ht : h.noTokens = true) :
    Issues q h (put s a) a := by
  have k : h.popu = false ∧ h.popd = false ∧ h.pushu = false ∧ h.pushd = false := by
    simpa [Hdr.noTokens, and_assoc] using ht
  exact ⟨cur_put s hs a, by simp [Act.canPop, k], by simp [Act.fits, Act.pushes, Act.push1, k], hf, by simp [pushesNow, k]⟩

theorem ready_put (s : State) (hs : s.focus = {}) (q : Nat) (a : Act) (hf : a.faults = []) : Ready q h0 (put s a) a :=
  ⟨issues_put s hs q h0 a hf rfl, rfl⟩

theorem issues_on (q : Nat) (h : Hdr) (a : Act) (hf : a.faults = []) (ht : h.noTokens = true) : Issues q h (on a) a :=
  issues_put base rfl q h a hf ht

theorem ready_on (q : Nat) (a : Act) (hf : a.faults = []) : Ready q h0 (on a) a := ready_put base rfl q a hf

/-- An allocation in an empty future table takes the index that the device's choice names; the entry is in the table where the context has
room there. -/
theorem alloc_empty (s : State) (c ctx : Nat) (n : Int) (h : (s.cluster c).futs = []) (hc : c < 1024)
    (hq : 0 < (s.ctx ctx).quota) :
    (s.allocFut c ctx n).1 = mkHandle c (Config.freeNat s.free % 4096) 1 ∧
    ((s.allocFut c ctx n).2.cluster c).wfree = 2048 - ((s.cluster c).holds.filter (fun w => w.spill.isNone)).length := by
  have e : s.draw.2.cluster c = s.cluster c := rfl
  have d : s.draw.1 = Config.freeNat s.free := rfl
  have q : (s.draw.2.ctx ctx).quota = (s.ctx ctx).quota := rfl
  have k : freeIndex (s.cluster c) 4096 s.draw.1 = some (Config.freeNat s.free % 4096) := by
    rw [freeIndex, h, d]
    rfl
  have hc' : hCluster (mkHandle c (Config.freeNat s.free % 4096) 1) = c := by
    simp only [hCluster, mkHandle, fieldOf]
    omega
  have sp : (s.ctx ctx).quota ≤ (s.cluster c).entries ctx false ↔ False := by
    simp [Cluster.entries, h]
    omega
  simp only [State.allocFut, e, k, h, q, sp, decide_false, State.setFut]
  refine ⟨rfl, ?_⟩
  have g : ∀ x : Cluster, (s.draw.2.setCluster c x).cluster c = x := fun x => Sparse.get_set_same _ _ _ _
  have n1 : (Sparse.get ({} : Fut) [] (Config.freeNat s.free % 4096)).gen = 1 := rfl
  simp only [n1, State.modCluster, hc', e]
  rw [if_neg (by decide), g, h]
  simp [Cluster.wfree, Sparse.set]

/-! ### Scalar words -/

/-- g2 = 7, g3 = -2. -/
def aR : Act := (a0.wg 2 7).wg 3 (-2)

theorem witness_IntegerArithmeticWritesItsResult :
    Claims.arithmetic aR (.add h0 x0) = some (h0, 1, 5) ∧
    Claims.arithmetic aR (.div h0 { x0 with b := 0 }) = some (h0, 1, BitVec.allOnes 64) ∧
    Claims.arithmetic aR (.add h0 { x0 with sat := true, fn := 1 }) = some (h0, 1, BitVec.allOnes 64) ∧ Ready 1 h0 (on aR) aR :=
  ⟨by decide +kernel, by decide +kernel, by decide +kernel, ready_on 1 aR rfl⟩

theorem witness_LogicShiftAndCountWriteTheirResult :
    Claims.logic aR (.roli h0 { i0 with imm := 63 }) = some (h0, 1, BitVec.ofNat 64 (2 ^ 63 + 3)) ∧ Ready 1 h0 (on aR) aR :=
  ⟨by decide +kernel, ready_on 1 aR rfl⟩

theorem witness_SelectMoveAndFieldWordsWriteTheirBits :
    (Claims.moved aR 0 (.sext h0 { x0 with fmt := 16 })).isSome = true ∧ (Claims.moved aR 0 (.zext h0 { x0 with fmt := 17 })).isSome = true ∧
    (Claims.moved aR 0 (.bswap h0 { x0 with fmt := 21 })).isSome = true ∧ (Claims.moved aR 0 (.bfi h0 x0)).isSome = true ∧
    Ready 1 h0 (on aR) aR :=
  ⟨by decide +kernel, by decide +kernel, by decide +kernel, by decide +kernel, ready_on 1 aR rfl⟩

theorem witness_ComparisonsWriteTheirPredicate :
    Claims.predicate aR (.cmp h0 { x0 with d := 11, fn := 11 }) = some (h0, 11, false) ∧
    Claims.predicate aR (.cmpi h0 { i0 with d := 0, imm := 0x2FFFFFFF }) = some (h0, 0, false) ∧ Ready 1 h0 (on aR) aR :=
  ⟨by decide +kernel, by decide +kernel, ready_on 1 aR rfl⟩

/-- R127: division truncates toward zero, a quotient by zero is all ones, and the remainder by zero is the dividend. -/
theorem test_div_truncates : regAfter (.div h0 x0) (on aR) 1 = some (2 ^ 64 - 3) := by decide +kernel
theorem test_rem_by_zero : regAfter (.rem h0 { x0 with b := 0 }) (on aR) 1 = some 7 := by decide +kernel
theorem test_mulh_is_signed : regAfter (.mulh h0 x0) (on aR) 1 = some (2 ^ 64 - 1) := by decide +kernel
theorem test_sra_keeps_the_sign : regAfter (.srai h0 { i0 with a := 3, imm := 63 }) (on aR) 1 = some (2 ^ 64 - 1) := by decide +kernel
theorem test_rol_by_63 : regAfter (.roli h0 { i0 with imm := 63 }) (on aR) 1 = some (2 ^ 63 + 3) := by decide +kernel
theorem test_clz_of_zero : regAfter (.clz h0 { x0 with a := 0 }) (on aR) 1 = some 64 := by decide +kernel
theorem test_movhi_places_bit_38 : regAfter (.movhi h0 { i0 with imm := 1 }) (on aR) 1 = some (2 ^ 38) := by decide +kernel
theorem test_g0_stays_zero : regAfter (.add h0 { x0 with d := 0 }) (on aR) 0 = some 0 := by decide +kernel

/-! ### Scalar floating point, random numbers and the prefix -/

/-- g2 = 1.5, g3 = 2.0 in F32. -/
def aF : Act := (a0.wg 2 0x3FC00000).wg 3 0x40000000

theorem witness_FloatArithmeticRoundsOnce :
    (Claims.exactFloat aF (.fmul h0 x0)).map (fun x => (x.1, x.2.1)) = some (h0, x0) ∧ x0.rm ≠ 5 ∧
    (Claims.exactFloat aF (.fmul h0 { x0 with rm := 5, fmt := 5 })).map (fun x => (x.1, x.2.1)) = some (h0, { x0 with rm := 5, fmt := 5 }) ∧
    a0.rngReady = true ∧ { aF with rngReady := false }.rngReady = false ∧ Ready 1 h0 (on aF) aF ∧
    Ready 1 h0 (on { aF with rngReady := false }) { aF with rngReady := false } :=
  ⟨by decide +kernel, by decide, by decide +kernel, rfl, rfl, ready_on 1 _ rfl, ready_on 1 _ rfl⟩

theorem witness_FloatCompareClassConvertAndRandomComplete :
    Ready 1 h0 (on aF) aF ∧ aF.rngReady = true ∧ [24, 8, 11][({ x0 with fmt := 2 } : XForm).fmt.toNat]? = some 11 ∧
    Ready 1 h0 (on { aF with rngReady := false }) { aF with rngReady := false } :=
  ⟨ready_on 1 _ rfl, rfl, rfl, ready_on 1 _ rfl⟩

theorem witness_FloatCodesAreTheCodesOfTheirValues :
    (floatVal 0 0x7F800000).isNan = false ∧ (0x7F800000 : Nat) < 2 ^ fmtWidth 0 ∧ (floatVal 5 7).isNan = false ∧ 7 < 2 ^ fmtWidth 5 := by
  decide +kernel

theorem witness_FmtRecordsThePrefix :
    (on a0).cur = some a0 ∧ a0.pfx = none ∧ condTrue h0.guard a0 = true ∧ condTrue hP.guard a0 = false ∧
    (on { a0 with pfx := some {} }).cur = some { a0 with pfx := some {} } ∧ { a0 with pfx := some {} }.pfx ≠ none :=
  ⟨rfl, rfl, rfl, by decide +kernel, rfl, by decide⟩

theorem test_fmul_of_halves : regAfter (.fmul h0 x0) (on aF) 1 = some 0x40400000 := by decide +kernel
theorem test_fadd_is_exact : regAfter (.fadd h0 x0) (on aF) 1 = some 0x40600000 := by decide +kernel

/-! ### Control-class words -/

/-- An activation inside a loop body of four words at address 0x1000, two iterations remaining. -/
def l0 : Loop := { start := 0x1000, len := 4, remain := 2 }
def aL : Act := { (a0.wg 2 0x1018).wg 63 0x1000 with loops := [l0] }

theorem witness_NopTrapAndBreakpoint : (on a0).cur = some a0 := rfl

theorem witness_TransfersGoToTheirTarget :
    (on aL).cur = some aL ∧ Claims.target (on aL) aL (.br b0) = some (b0, 0x1018) ∧ condTrue b0.cond aL = true ∧
    condTrue ({ b0 with cond := 0 } : BForm).cond aL = false ∧ Claims.goodTarget (on aL) 0x1018 ∧
    Claims.leavesNoLoop (.br b0) = false ∧ Claims.leavesNoLoop (.ret b0) = true ∧ (∀ l r, aL.loops = l :: r → l.holds 0x1018 = true) ∧
    Claims.target (on aL) aL (.ret b0) = some (b0, 0x1000) ∧
    Claims.target (on (aL.wg 2 0x1020)) (aL.wg 2 0x1020) (.call b0) = some (b0, 0x1020) ∧ Claims.goodTarget (on (aL.wg 2 0x1020)) 0x1020 ∧
    (aL.wg 2 0x1020).loops = l0 :: [] ∧ l0.holds 0x1020 = false := by
  refine ⟨rfl, by decide +kernel, rfl, by decide +kernel, ?_, rfl, rfl, ?_, by decide +kernel, by decide +kernel, ?_, rfl, rfl⟩
  · exact ⟨by decide, by decide, by decide +kernel⟩
  · intro l r h
    cases h
    rfl
  · exact ⟨by decide, by decide, by decide +kernel⟩

theorem witness_BadTargetsFault :
    Claims.target (on (a0.wg 2 (2 ^ 48))) (a0.wg 2 (2 ^ 48)) (.br b0) = some (b0, 2 ^ 48) ∧ condTrue b0.cond (a0.wg 2 (2 ^ 48)) = true ∧
    Claims.target (on (a0.wg 2 4)) (a0.wg 2 4) (.call b0) = some (b0, 4) ∧ 4 < 2 ^ 48 ∧ 4 % 8 ≠ 0 :=
  ⟨by decide +kernel, rfl, by decide +kernel, by decide, by decide⟩

theorem witness_LoopsOpenOrSkip :
    Claims.loopCount aL (.loopi { b0 with imm := 4 }) = some ({ b0 with imm := 4 }, 0) ∧
    Claims.loopCount aL (.loopi { b0 with imm := 0x10002 }) = some ({ b0 with imm := 0x10002 }, 1) ∧
    3 ≤ { aL with loops := [l0, l0, l0] }.loops.length ∧ aL.loops.length < 3 ∧
    badInline { on aL with focus := { pc := 0x1008 } }.ncode 0x1010 = false ∧ 0x1010 + 8 * 2 ≤ l0.start + 8 * l0.len ∧
    l0.start + 8 * l0.len < 0x1010 + 8 * 3 :=
  ⟨by decide +kernel, by decide +kernel, by decide, by decide, by decide +kernel, by decide, by decide⟩

theorem witness_LoopBackFollowsTheRule :
    0x1020 = l0.stop ∧ 0 < l0.remain ∧ { l0 with remain := 0 }.remain = 0 ∧ 0x1018 ≠ l0.stop ∧ l0.remain = 2 ∧ 2 ≤ 2 := by decide

theorem witness_HintWordsOnlyMoveTokens :
    (1 : BitVec 2) ≠ 0 ∧ Issues ((1 : BitVec 2).toNat - 1) hP (on a0) a0 ∧ (on a0).cur = some a0 :=
  ⟨by decide, issues_on _ hP a0 rfl rfl, rfl⟩

/-- A fault recorded at number 3, and an activation of which it alone is left. -/
def f3 : Raised := { n := 3, pc := 0x1000, code := 22, info := 0 }
def aT : Act := { a0 with faults := [{ f3 with n := 5 }, f3] }

theorem witness_TakingAFaultEndsTheSegment :
    earliest aT.faults = some f3 ∧ (on aT).act 0 0 = some aT ∧ aT.stuck = true ∧ aT.busy = false ∧
    { aT with qa := [{ pc := 0, n := 1, word := 0 }] }.stuck = false ∧ (1 : Nat) ≠ 0 ∧ (∀ x, x ∈ ((on aT).eng 0).spill → x.slot = none) ∧
    0 < 16384 ∧ (∀ i, (((on aT).cluster (0 / 16)).futs.get {} i).gen < 1024) ∧ aT.allocs = [] ∧ replayable f3.code = true ∧
    (on aT).fqRoom aT.ctx = true ∧ ((on aT).allocFut (0 / 16) aT.ctx 0).1 ≠ 0 ∧
    0 < (((on aT).allocFut (0 / 16) aT.ctx 0).2.cluster (0 / 16)).wfree := by
  obtain ⟨e, k⟩ := alloc_empty (on aT) (0 / 16) aT.ctx 0 rfl (by decide) (by decide +kernel)
  refine ⟨by decide +kernel, rfl, by decide +kernel, rfl, by decide +kernel, by decide, fun x h => ?_, by decide, fun i => ?_, rfl,
    rfl, by decide +kernel, ?_, ?_⟩
  · cases (show x ∈ [] from h)
  · show (1 : Nat) < 1024
    decide
  · rw [e]
    simp [mkHandle]
  · rw [k]
    decide +kernel

theorem test_call_links : regAfter (.calli b0) (on a0) 63 = some 8 := by decide +kernel
theorem test_loop_body_is_held : (actAfter (.br b0) (on aL)).map (fun a => (a.pc, a.loops)) = some (0x1018, [l0]) := by decide +kernel
/-! ### The course of every issuing word, and the words that defer their effect -/

/-- A header that pops from the word's own queue and pushes downstream. -/
def hT : Hdr := { h0 with popu := true, pushd := true }

theorem witness_EveryIssuingWordFollowsTheCourse :
    Claims.issues (.add h0 x0) = some (1, h0) ∧ Claims.issues (.ld hP ⟨1, 2, 3, 0, 0, 0⟩) = some (0, hP) ∧
    Claims.issues (.yield h0 ⟨0, 0, 0, 0, 0, 0⟩) = some (2, h0) ∧ State.reset.cur = none ∧ (on a0).cur = some a0 ∧
    a0.canPop 1 hT = false ∧ Issues 1 hP (on a0) a0 ∧ condTrue hP.guard a0 = false :=
  ⟨by decide +kernel, by decide +kernel, by decide +kernel, rfl, rfl, rfl, issues_on 1 hP a0 rfl rfl, by decide +kernel⟩

theorem witness_TokensMoveOnTheRing :
    2 < 3 ∧ { a0 with ts := 1, ta := 14 }.canPop 2 hT = true ∧ { a0 with ts := 1, ta := 14 }.fits 2 hT 0 = true ∧
    { on { a0 with ts := 1 } with sameCycle := true }.sameCycle = true ∧ (hT.pushu = true ∨ hT.pushd = true) := by decide

theorem witness_TokenOverflowIsRaised :
    (1 : BitVec 2) ≠ 0 ∧ (on { a0 with ta := 1, tc := 15 }).cur = some { a0 with ta := 1, tc := 15 } ∧
    { a0 with ta := 1, tc := 15 }.canPop ((1 : BitVec 2).toNat - 1) hT = true ∧
    { a0 with ta := 1, tc := 15 }.fits ((1 : BitVec 2).toNat - 1) hT (on { a0 with ta := 1, tc := 15 }).focus.n = false ∧
    pushesNow hT (on { a0 with ta := 1, tc := 15 }) = true :=
  ⟨by decide, rfl, by decide, by decide, rfl⟩

/-- g2 = 0x17FE0, the last 32-byte line of scratchpad and a mapped global address; g3 = 1025, the handle of entry 1 with generation 1;
g4 = 0x7FFFFF, no return address; g5 = 0x17F80, the last 128 bytes of scratchpad. -/
def aD : Act := (((a0.wg 2 0x17FE0).wg 3 1025).wg 4 0xFE0000).wg 5 0x17F80
def m0 : MForm := { d := 1, a := 2, b := 3, fmt := 0, mode := 0, ofs := 0 }
def y0 : YForm := { d := 1, a := 2, b := 3, obj := 0, sub := 0, imm := 0 }
/-- A tile of context 1 under handle 0x4001 and group 3 of context 1 with every engine. -/
def sG (a : Act) : State := put { base with
  ctxs := [(1, { state := .live, rcd := rcd1, tiles := [(1, { defd := true })] })],
  mem := writeLE mem1 0x98040 8 (1 + 2 ^ 32), groups := [(3, { state := .registered, ctx := 1, mask := 2 ^ 512 - 1 })] } a
def aG : Act := (a0.wg 2 0x4001).wg 3 3

theorem witness_DeferringWordsEnterTheirEffect_memory :
    (∀ i ∈ ([.stg h0 { m0 with fmt := 16 } Cvt.none, .cpy h0 { y0 with a := 5 }, .cpym h0 { y0 with a := 5 },
        .atomg h0 { m0 with b := 4, fmt := 20 }, .red h0 { m0 with fmt := 21, mode := 9 }, .sch h0 { m0 with fmt := 20 },
        .schRel h0 { m0 with fmt := 20, mode := 1 }] : List Instr),
      ((Claims.defers (on aD) aD i).map (fun x => (x.1, x.2.1))) = some (0, h0)) ∧
    Ready 0 h0 (on aD) aD ∧ aD.deferred.length < 64 ∧
    Ready 0 h0 (on { aD with deferred := List.replicate 64 { n := 0, pc := 0, eff := .ffree 0 } })
      { aD with deferred := List.replicate 64 { n := 0, pc := 0, eff := .ffree 0 } } :=
  ⟨by decide +kernel, ready_on 0 aD rfl, by decide, ready_on 0 _ rfl⟩

theorem witness_DeferringWordsEnterTheirEffect_sync :
    (∀ i ∈ ([.binit h0 { y0 with a := 0, imm := 1 }, .barr h0 y0, .barrx h0 { y0 with imm := 0xFFFF }, .bexp h0 { y0 with imm := 0x8000 },
        .send h0 { y0 with a := 0 }, .sendi h0 { y0 with d := 2, a := 0, imm := 4 }, .spawn h0 { y0 with a := 0 },
        .fres h0 { y0 with a := 3 }, .fdec h0 { y0 with a := 3, imm := 1 }, .ffree h0 { y0 with a := 3 },
        .fcall h0 { y0 with d := 5 }, .fence h0 { y0 with sub := 3 }] : List Instr),
      ((Claims.defers (on aD) aD i).map (fun x => (x.1, x.2.1))) = some (2, h0)) ∧ Ready 2 h0 (on aD) aD ∧
    (∀ i ∈ ([.tfree h0 y0, .trel h0 y0, .collBcast h0 { y0 with a := 0 }, .collReduce h0 { y0 with a := 0, sub := 1 },
        .collAllred h0 { y0 with a := 0, sub := 2 }] : List Instr),
      ((Claims.defers (sG aG) aG i).map (fun x => (x.1, x.2.1))) = some (2, h0)) ∧ Ready 2 h0 (sG aG) aG :=
  ⟨by decide +kernel, ready_on 2 aD rfl, by decide +kernel, ready_put _ rfl 2 aG rfl⟩

/-- A state whose home route table is empty. -/
def noRoutes : State := { base with hub := { base.hub with hrt := 0x200000 } }
/-- Where a walk meets a route fault, its info word. -/
def routeOf (w : Walk) : Option Nat :=
  match w with
  | .route i => some i
  | _ => none

theorem witness_TranslationTouchesOnlyOneEntry :
    Memory.wf base.mem = true ∧ Claims.leafEntry base 1 0x17FE0 (some (0, 0)) = some 0x12000 ∧
    (base.translate 1 .rw 0x17FE0 8 (some (0, 0))).1 = .ok (.dpa 0x17FE0 0) [0x240, 0x200] ∧
    (base.translate 1 .x 0x17FE0 (2 ^ 40) (some (0, 0))).1 ≠ .ok (.dpa 0 0) [] ∧
    Claims.leafEntry base 1 (2 ^ 30) (some (0, 0)) = none ∧ routeOf (base.walk (some (0, 0)) (2 ^ 30) 4 0 (base.ctx 1).ptRoot []).1 = none ∧
    routeOf (noRoutes.walk (some (0, 0)) 0 4 0 (noRoutes.ctx 1).ptRoot []).1 = some 1 ∧ Memory.wf noRoutes.mem = true ∧ 2 ^ 48 ≤ 2 ^ 48 := by
  decide +kernel

theorem witness_ScratchpadChecksRaise :
    Ready 0 h0 (on (a0.wg 2 0x17FFE)) (a0.wg 2 0x17FFE) ∧
    memAddr { m0 with fmt := 15 } (a0.wg 2 0x17FFE) % fmtAlign (15 : BitVec 5).toNat ≠ 0 ∧
    memAddr { m0 with fmt := 19 } (a0.wg 2 0x18000) % fmtAlign (19 : BitVec 5).toNat = 0 ∧
    0x18000 < memAddr { m0 with fmt := 19 } (a0.wg 2 0x18000) + fmtBytes (19 : BitVec 5).toNat ∧
    Ready 0 h0 (on (a0.wg 2 0x18000)) (a0.wg 2 0x18000) :=
  ⟨ready_on 0 _ rfl, by decide +kernel, by decide +kernel, by decide +kernel, ready_on 0 _ rfl⟩

/-! ### Words that act at issue on scratchpad, caches, barriers, futures and tiles -/

theorem witness_ScratchpadLoadAndStore :
    Claims.spadOk (memAddr { m0 with fmt := 16 } (a0.wg 2 0x17FF8)) (fmtBytes 16) (fmtAlign 16) = true ∧
    Claims.spadOk (memAddr { m0 with fmt := 12 } (a0.wg 2 0x17FFF)) (fmtBytes 12) (fmtAlign 12) = true ∧
    fmtWidth 16 ≠ 4 ∧ fmtWidth 12 = 4 ∧ Ready 0 h0 (on (a0.wg 2 0x17FF8)) (a0.wg 2 0x17FF8) ∧
    Ready 0 h0 (on (a0.wg 2 0x17FFF)) (a0.wg 2 0x17FFF) ∧ Sparse.canonical 0 (on (a0.wg 2 0x17FF8)).spad = true ∧
    ((on (a0.wg 2 0x17FF8)).reads (a0.wg 2 0x17FF8) 0).1.cross = [] :=
  ⟨by decide +kernel, by decide +kernel, by decide, by decide, ready_on 0 _ rfl, ready_on 0 _ rfl, by decide +kernel, by decide +kernel⟩

theorem witness_ScratchpadAtomicsReadModifyWrite :
    Ready 0 h0 (on aD) aD ∧ Sparse.canonical 0 (on aD).spad = true ∧ [15, 16, 20, 21].contains (21 : BitVec 5).toNat = true ∧
    Claims.spadOk (baseAddr { m0 with fmt := 21, mode := 9 } aD) 8 8 = true ∧ Claims.atomWord (9 % 16) 64 0 1025 0 = some 1025 :=
  ⟨ready_on 0 aD rfl, by decide +kernel, by decide, by decide +kernel, by decide⟩

theorem witness_GlobalLoadsSetOut :
    Ready 0 h0 (on aD) aD ∧ memAddr { m0 with fmt := 16, ofs := 1 } aD % fmtAlign 16 ≠ 0 ∧ memAddr { m0 with fmt := 16 } aD % fmtAlign 16 = 0 ∧
    (on aD).translate 1 .r 0x17FE0 8 (on aD).via = (.ok (.dpa 0x17FE0 0) [0x240, 0x200], on aD) ∧
    (on aD).translate 1 .r (2 ^ 30) 8 (on aD).via = (.bad { code := 7, page := 2 ^ 30 }, on aD) :=
  ⟨ready_on 0 aD rfl, by decide +kernel, by decide +kernel, by decide +kernel, by decide +kernel⟩

theorem witness_CacheWordsComplete :
    Ready 0 h0 (on aD) aD ∧ (on aD).translate aD.ctx .r (baseAddr m0 aD) 1 (on aD).via = (.ok (.dpa 0x17FE0 0) [0x240, 0x200], on aD) ∧
    (((on aD).setCur aD).recall 0 1 (128 * (0x17FE0 / 128)) 128 false false).isSome = true ∧
    (let u : State := { on aD with hostLines := [(0, 0x17F80, true)] }
     u.translate aD.ctx .r (baseAddr m0 aD) 1 u.via = (.ok (.dpa 0x17FE0 0) [0x240, 0x200], u) ∧
     (u.setCur aD).recall 0 1 (128 * (0x17FE0 / 128)) 128 false false = none) ∧
    (on aD).translate aD.ctx .r (2 ^ 30) 1 (on aD).via = (.bad { code := 7, page := 2 ^ 30 }, on aD) ∧
    baseAddr m0 (a0.wg 2 (2 ^ 30)) = 2 ^ 30 :=
  ⟨ready_on 0 aD rfl, by decide +kernel, by decide +kernel, by decide +kernel, by decide +kernel, by decide +kernel⟩

theorem witness_CopyAndBarrierQueriesReadTheirState : Ready 0 h0 (on aD) aD ∧ Ready 2 h0 (on aD) aD :=
  ⟨ready_on 0 aD rfl, ready_on 2 aD rfl⟩

/-- Barrier 0 at phase 1, barrier 1 overrun. -/
def sB (a : Act) : State := put (base.setEng 0 { bars := [(0, { phase := 1 }), (1, { overrun := true })] }) a

theorem witness_BarrierWaitCompletesWaitsOrFaults :
    Ready 2 h0 (sB a0) a0 ∧ (((sB a0).eng 0).bar 0).overrun = false ∧ reached (((sB a0).eng 0).bar 0).phase 1 = true ∧
    reached (((sB a0).eng 0).bar 0).phase 2 = false ∧ (((sB a0).eng 0).bar 1).overrun = true ∧
    barTarget { y0 with a := 0, imm := 1 } a0 = 1 ∧ barTarget { y0 with a := 0, imm := 2 } a0 = 2 :=
  ⟨ready_put _ rfl 2 a0 rfl, by decide +kernel, by decide +kernel, by decide +kernel, by decide +kernel, by decide +kernel, by decide +kernel⟩

theorem witness_BarrierUpdateFollowsTheRule :
    ({ overrun := true } : Bar).overrun = true ∧ ({ expect := 2 } : Bar).arr + 2 ≤ 2 ∧ (0 : Int) + (2 ^ 39 - 1) < 2 ^ 39 ∧
    ({ expect := 2, pend := -1 } : Bar).pend + 0 < 0 ∧ ({ expect := 2 } : Bar).expect < 0 + 3 ∧ ((2 ^ 39 : Int) ≤ 0 + 2 ^ 39) ∧
    [(1, (0 : Int))] ≠ [] ∧ ({} : Bar).due = none := by decide

/-- Cluster 0 with future 1 of context 1, LIVE at phase 1; and a cluster whose table is full. -/
def sF (a : Act) : State := put { base with clusters := [(0, { futs := [(1, { state := .live, ctx := 1, phase := 1, value := 9 })] })] } a

theorem witness_FutureTestsRouteAndAllocation :
    Ready 2 h0 (sF aD) aD ∧ ((sF aD).findFut (aD.ug 3 % 2 ^ 32) aD.ctx).map (fun x => x.value) = some 9 ∧
    (sF aD).findFut (aD.ug 2 % 2 ^ 32) aD.ctx = none :=
  ⟨ready_put _ rfl 2 aD rfl, by decide +kernel, by decide +kernel⟩

theorem witness_AllocationTakesAFreeFuture : ∃ i, i < 4096 ∧ (((on a0).cluster 0).futs.get {} i).state = .free := ⟨0, by decide, rfl⟩

/-- A scratchpad with a tile descriptor of one granule at 0x17FE0. -/
def sT (a : Act) : State := put (base.setEng 0 { spad := writeLE [] 0x17FE0 32 (2 ^ 64) }) a

theorem witness_TileAndScopeWordsComplete :
    Ready 2 h0 (sT aD) aD ∧ Claims.spadOk (yAddr y0 aD) 32 32 = true ∧ tdReject true (ofLE (bytesAt (sT aD).spad (yAddr y0 aD) 32)) = none ∧
    (∃ i, (sT aD).freeTile 1 ((sT aD).ctx 1).tileCnt ((sT aD).ctx 1).tileCnt (sT aD).draw.1 = some i) ∧
    (let u : State := { sT aD with
        ctxs := [(1, { state := .live, rcd := rcd1, tiles := [(0, {}), (1, {}), (2, {}), (3, {})] })],
        mem := ([0, 1, 2, 3] : List Nat).foldl (fun m i => writeLE m (0x98000 + 64 * i) 8 (1 + 2 ^ 32)) mem1 }
     u.freeTile 1 4 4 2 = none ∧ (u.ctx 1).tileCnt = 4 ∧ Memory.wf u.mem = true) ∧
    Ready 2 h0 (sG aG) aG ∧ (sG aG).tile 1 (aG.ug 2 % 2 ^ 32) ≠ none ∧ (sG aG).tile 1 (aG.ug 3 % 2 ^ 32) = none ∧
    Claims.spadOk (yAddr { y0 with a := 5 } aD) 128 8 = true := by
  refine ⟨ready_put _ rfl 2 aD rfl, by decide +kernel, by decide +kernel, ?_, by decide +kernel, ready_put _ rfl 2 aG rfl,
    by decide +kernel, by decide +kernel, by decide +kernel⟩
  have c : ((sT aD).ctx 1).tileCnt = 4 := by decide +kernel
  rw [c]
  exact ⟨(sT aD).draw.1 % 4, rfl⟩

theorem witness_SpecialRegisters :
    Ready 2 h0 (on aD) aD ∧ ({ y0 with imm := 0x044 } : YForm).imm.toNat = 0x044 ∧ ((on aD).ctx aD.ctx).priv = true ∧
    ((on { aD with ctx := 2 }).ctx 2).priv = false ∧ (0xFFF : BitVec 16).toNat < 4096 ∧ (0xFFF : BitVec 16) ≠ 0x004 :=
  ⟨ready_on 2 aD rfl, rfl, by decide +kernel, by decide +kernel, by decide, by decide⟩

/-! ### Shape records and vector words -/

/-- The record of a rank-1 tensor of `n` elements of a format at an address. -/
def vec (fmt ad n : Nat) : BitVec 256 := BitVec.ofNat 256 (ad + fmt * 2 ^ 17 + n * 2 ^ 64)
/-- Shape registers: h0 to h2 I32, h3 and h4 F32, h5 and h6 complex I32 (all of 4 elements), h7 N32, h8 32 elements of E4M3, h9 32 of F32,
h10 4 scales, h11 and h12 one I32 element; h13 starts past the scratchpad, and h15 was never written. -/
def aV : Act := { a0.wg 2 0x100 with h := [(0, vec 15 0x100 4), (1, vec 15 0x200 4), (2, vec 15 0x300 4), (3, vec 0 0x400 4),
  (4, vec 0 0x500 4), (5, vec 22 0x600 4), (6, vec 22 0x700 4), (7, vec 20 0x800 4), (8, vec 3 0x900 32), (9, vec 0 0xA00 32),
  (10, vec 6 0xB00 4), (11, vec 15 0xC00 1), (12, vec 15 0xD00 1), (13, vec 15 0x18000 4), (14, vec 15 0x102 4)] }
def v0 : VForm := { hd := 0, ha := 1, hb := 2, hc := 0, g := 2, fmt := 15, rm := 0, sat := false, mask := 0, fn := 0 }
/-- Every feature accepted. -/
def sV (a : Act) : State := put { base with hub := { base.hub with featAcc := 2 ^ 256 - 1 } } a

/-- A vector word passes every check and needs no generator state. -/
def passes (a : Act) (i : Instr) : Bool :=
  match Claims.vectorWord i with
  | some (_, _, _, wants, waits) => checkAll (sV a).hub.featAcc a (wants a) == none && !waits a
  | none => false
/-- The check that a vector word fails. -/
def failsAt (a : Act) (i : Instr) : Option (Nat × Nat) :=
  match Claims.vectorWord i with
  | some (_, _, _, wants, _) => checkAll (sV a).hub.featAcc a (wants a)
  | none => none

theorem witness_ShapeLoadAndStore :
    Ready 1 h0 (on aD) aD ∧ Claims.spadOk (baseAddr m0 aD) 32 32 = true ∧ aV.shape 1 = some (vec 15 0x200 4).toNat ∧
    aV.shape 15 = none ∧ Ready 1 h0 (on aV) aV ∧ Claims.spadOk (baseAddr m0 aV) 32 32 = true :=
  ⟨ready_on 1 aD rfl, by decide +kernel, by decide +kernel, by decide +kernel, ready_on 1 aV rfl, by decide +kernel⟩

theorem witness_ShapeFieldWords :
    Ready 1 h0 (on aV) aV ∧ (0, 16, 0, 0, 0x17FFF, 0) ∈ Claims.setFields ∧ (13, 251, 232, -(2 ^ 19), 2 ^ 19 - 1, 0) ∈ Claims.setFields ∧
    v0.fn.toNat % 16 = 0 ∧ ((aV.rg v0.g.toNat).toNat : Int) ≤ 0x17FFF ∧ (0x17FFF : Int) < ((a0.wg 2 0x18000).rg v0.g.toNat).toNat ∧
    ((a0.wg 2 (-(2 ^ 19) - 1)).rg v0.g.toNat).toInt < -(2 ^ 19) ∧
    (0 : Int) ≤ ((aV.shape 1).getD 0 % 2 ^ 17 : Nat) + (aV.rg v0.g.toNat).toInt :=
  ⟨ready_on 1 aV rfl, by decide, by decide, by decide, by decide +kernel, by decide +kernel, by decide +kernel, by decide +kernel⟩

theorem witness_VectorWords_pass :
    (∀ i ∈ ([.vmov h0 v0, .vfill h0 { v0 with hd := 3 }, .vadd h0 v0, .vsub h0 v0, .vmul h0 v0, .vfma h0 v0, .vmin h0 v0, .vmax h0 v0,
      .vabs h0 v0, .vneg h0 v0, .vand h0 v0, .vor h0 v0, .vxor h0 v0, .vshl h0 { v0 with fn := 1 }, .vshr h0 { v0 with hb := 7 },
      .vcmp h0 { v0 with fn := 11 }, .vsel h0 v0, .vcvt h0 { v0 with hd := 3 }, .vquant h0 { v0 with hd := 8, ha := 9, hc := 10 },
      .vred h0 { v0 with hd := 11 }, .vscan h0 v0, .vexp h0 { v0 with hd := 3 }, .vlog h0 { v0 with hd := 3 },
      .vrcp h0 { v0 with hd := 3, ha := 4 }, .vrsq h0 { v0 with hd := 3, ha := 4 }, .vtanh h0 { v0 with hd := 3, ha := 4 },
      .verf h0 { v0 with hd := 3, ha := 4 }, .vcmul h0 { v0 with hd := 5, ha := 5, hb := 6 }, .vcmac h0 { v0 with ha := 5, hb := 6, hc := 1 },
      .vgath h0 v0, .vscat h0 v0, .vtrans h0 { v0 with fn := 0xE4 }, .vrnd h0 v0] : List Instr), passes aV i = true) ∧
    Ready 1 h0 (sV aV) aV ∧ Sparse.canonical 0 (sV aV).spad = true :=
  ⟨by decide +kernel, ready_put _ rfl 1 aV rfl, by decide +kernel⟩

/-- Each check number of R156 is met; and words that wait for the generator state. -/
theorem witness_VectorWords_fail_and_wait :
    failsAt aV (.vadd h0 { v0 with hd := 15 }) = some (15, 1) ∧ failsAt aV (.vadd h0 { v0 with hd := 10 }) = some (10, 2) ∧
    failsAt { aV with h := [(0, vec 15 0x100 0)] } (.vrnd h0 v0) = some (0, 3) ∧ failsAt aV (.vadd h0 { v0 with ha := 9 }) = some (9, 4) ∧
    failsAt aV (.vadd h0 { v0 with hb := 14 }) = some (14, 5) ∧ failsAt aV (.vadd h0 { v0 with hd := 13 }) = some (13, 6) ∧
    failsAt aV (.vrnd h0 v0) = none ∧ ((Claims.vectorWord (.vrnd h0 v0)).map (fun x => x.2.2.2.2 { aV with rngReady := false })) = some true ∧
    Ready 1 h0 (sV { aV with rngReady := false }) { aV with rngReady := false } :=
  ⟨by decide +kernel, by decide +kernel, by decide +kernel, by decide +kernel, by decide +kernel, by decide +kernel, by decide +kernel,
    by decide +kernel, ready_put _ rfl 1 _ rfl⟩

theorem witness_ElementwiseWordsStoreEachElement :
    (Claims.elementwise (.vadd h0 v0)).isSome = true ∧ (Claims.elementwise (.vscat h0 v0)).isSome = true ∧
    (Claims.elementwise (.vcmac h0 { v0 with ha := 5, hb := 6, hc := 1 })).isSome = true ∧
    (Claims.elementwise (.vmov h0 v0)).map (fun e => e.here aV) = some true ∧
    (Claims.elementwise (.vcvt h0 { v0 with hd := 3 })).map (fun e => e.here aV) = some true ∧
    (Claims.elementwise (.vrnd h0 v0)).map (fun e => e.here aV) = some true ∧ Ready 1 h0 (sV aV) aV := by
  exact ⟨rfl, rfl, rfl, by decide +kernel, by decide +kernel, by decide +kernel, ready_put _ rfl 1 aV rfl⟩

/-- Shape registers for the block words: h0 32 elements of MX E4M3, h1 32 of F32, h2 and h3 64 of CE4M3. -/
def aW : Act := { a0 with h := [(0, vec 7 0x1000 32 + 0x1800 * 2 ^ 32), (1, vec 0 0x2000 32), (2, vec 10 0x3000 64), (3, vec 10 0x4000 64)] }

theorem witness_RowWordsStoreEachRow :
    (∀ x ∈ ([(.vred h0 { v0 with hd := 11 }, aV), (.vscan h0 v0, aV), (.vquant h0 { v0 with hd := 8, ha := 9, hc := 10 }, aV),
      (.vcvt h0 v0, aW), (.vmov h0 { v0 with hd := 2, ha := 3 }, aW)] : List (Instr × Act)),
      passes x.2 x.1 = true ∧ (Claims.rowwise x.1).map (fun e => e.here x.2) = some true) ∧
    Ready 1 h0 (sV aV) aV ∧ Ready 1 h0 (sV aW) aW :=
  ⟨by decide +kernel, ready_put _ rfl 1 aV rfl, ready_put _ rfl 1 aW rfl⟩

/-- A scratchpad with -1 in the four elements of h1 and 3 in those of h11 and h12. -/
def sN (a : Act) : State := put (base.setEng 0
  { spad := writeLE (writeLE (writeLE [] 0x200 16 (2 ^ 128 - 1)) 0xC00 4 3) 0xD00 4 3 }) a
/-- The scratchpad bytes after an elementwise word, as a number, with the device's choice 0 where R161 leaves one. -/
def spadAfter (i : Instr) (a : Act) (ad n : Nat) : Option Nat :=
  (Claims.elementwise i).map (fun e =>
    let k := sizeOf' (e.space a)
    readLE (putEach (sN a).spad (({ pick := 0 } : Reads).walk k (sN a).spad (fun i src =>
      e.store a src (digitsOf (e.space a) i) ((e.draws a k).1.getD i 0)))) ad n)

theorem witness_VectorAddOfSingleIntegers :
    Ready 1 h0 (sN aV) aV ∧ Sparse.canonical 0 (sN aV).spad = true ∧
    checkAll (sN aV).hub.featAcc aV (arithWants { v0 with hd := 11, ha := 12, hb := 11 } [12, 11] true aV) = none ∧
    (∀ r ∈ ([11, 12, 11] : List (BitVec 4)), shFmt (aV.sh r.toNat) = 15 ∧ shExts (aV.sh r.toNat) = [1, 1, 1, 1]) ∧
    ((sN aV).reads aV 1).1.cross = [] ∧ (next? (exec (.vadd h0 { v0 with hd := 11, ha := 12, hb := 11 }) (sN aV))).isSome = true :=
  ⟨ready_put _ rfl 1 aV rfl, by decide +kernel, rfl, by decide +kernel, by decide +kernel, by decide +kernel⟩

theorem witness_VectorSumOfIntegersWraps :
    Ready 1 h0 (sN aV) aV ∧ checkAll (sN aV).hub.featAcc aV (vredWants { v0 with hd := 11 } aV) = none ∧ v0.fmt = 15 ∧ v0.fn = 0 ∧
    shFmt (aV.sh 11) = 15 ∧ shFmt (aV.sh 1) = 15 ∧ shRank (aV.sh 1) = 1 ∧
    ((sN aV).reads aV 1).1.cross = [] ∧ (next? (exec (.vred h0 { v0 with hd := 11 }) (sN aV))).isSome = true :=
  ⟨ready_put _ rfl 1 aV rfl, by decide +kernel, rfl, rfl, by decide +kernel, by decide +kernel, by decide +kernel, by decide +kernel⟩

theorem test_vadd_of_one : spadAfter (.vadd h0 { v0 with hd := 11, ha := 12, hb := 12 }) aV 0xC00 4 = some 6 := by decide +kernel
theorem test_vneg_negates : spadAfter (.vneg h0 v0) aV 0x100 16 = some (1 + 2 ^ 32 + 2 ^ 64 + 2 ^ 96) := by decide +kernel
theorem test_vshr_keeps_the_sign : spadAfter (.vshr h0 { v0 with fn := 1 }) aV 0x100 4 = some 0xFFFFFFFF := by decide +kernel

/-! ### The matrix unit -/

/-- The record of a rank-2 tensor whose rows are `st` bytes apart. -/
def rows (fmt ad n m st : Nat) : BitVec 256 := BitVec.ofNat 256 (ad + fmt * 2 ^ 17 + 2 ^ 22 + n * 2 ^ 64 + m * 2 ^ 80 + st * 2 ^ 128)
/-- h0 an I8 operand of 96 by 16, h1 a complex one, h2 a 16 by 16 tensor of I32, h3 16 scales of F32; g2 = 16, g3 = 96. -/
def aM : Act := { (a0.wg 2 16).wg 3 96 with h := [(0, rows 13 0 96 16 96), (1, rows 22 0 (mxK 22) 16 256), (2, rows 15 0x4000 16 16 64),
  (3, vec 0 0x6000 16)] }
def t0 : TForm := { acc := 1, ws := 0, ha := 0, hs := 3, fa := 13, fb := 13, rm := 0, sat := false, fn := 0 }
/-- A matrix word passes every check, with a command, or with the info word of a broken limit. -/
def mxPasses (a : Act) (i : Instr) : Option Bool :=
  match Claims.matrixWord a i with
  | some (_, _, _, wants, .ok _) => if checkAll (sV a).hub.featAcc a wants = none then some true else none
  | some (_, _, _, wants, .error _) => if checkAll (sV a).hub.featAcc a wants = none then some false else none
  | none => none

theorem witness_MatrixWordsReserveAnEntry :
    (∀ i ∈ ([.mldb h0 t0, .mma h0 t0, .mmac h0 { t0 with ha := 1, fa := 22, fb := 22 }, .mzero h0 t0,
      .mst h0 { t0 with ha := 2, fb := 15, fn := 8 }, .mbar h0 { t0 with fn := 95 }, .mcfgClrsat h0 { t0 with fn := 5 * 64 },
      .mcfgGate h0 { t0 with fn := 64 + 2 }] : List Instr), mxPasses aM i = some true) ∧
    mxPasses aM (.mcfgWeight h0 { t0 with fn := 2 }) = some false ∧ mxPasses (a0.wg 2 15) (.mcfgWeight h0 { t0 with fn := 2 }) = some true ∧
    mxPasses aM (.mcfgGate h0 { t0 with fn := 64 + 3 }) = some false ∧
    checkAll (sV aM).hub.featAcc aM [exactly 2 13 [96, 16, 1, 1]] = some (2, 2) ∧
    Ready 1 h0 (sV aM) aM ∧ (sV aM).mxUsed 0 < 16 ∧ aM.deferred.length < 64 ∧ aM.mxReserved < 16 ∧
    16 ≤ (put (base.setEng 0 { mx := { queue := List.replicate 16 { op := .mbar 0 0, ctx := 1 } } }) aM).mxUsed 0 ∧
    16 ≤ { aM with deferred := List.replicate 16 { n := 0, pc := 0, eff := .matrix { op := .mbar 0 0, ctx := 1 } } }.mxReserved :=
  ⟨by decide +kernel, by decide +kernel, by decide +kernel, by decide +kernel, by decide +kernel, ready_put _ rfl 1 aM rfl,
    by decide +kernel, by decide, by decide +kernel, by decide +kernel, by decide +kernel⟩

/-- Engines of matrix unit 0: engine 0 with the commands `q`, credit `c`, barrier 5 overrun behind gate 0; context 1 everywhere. -/
def sX (q : List MxCmd) (c : Nat) : State := { State.reset with
  engines := [(0, { ctx := some 1, mx := { queue := q, credit := c, gates := [(0, (5, 0))] }, bars := [(5, { overrun := true })] }),
    (1, { ctx := some 1, mx := { rejSince := true } }), (2, { ctx := some 2 })],
  units := [(0, { slots := [(3, { valid := true, ctx := 1, fmt := 13 })] })] }
def cZ : MxCmd := { op := .mzero 1 2, ctx := 1 }

theorem witness_TheArbiterGrantsInTurn :
    0 < 8 ∧ ((sX [{ cZ with gate := some 0 }] 1).eng (8 * 0 + 0)).mx.queue = { cZ with gate := some 0 } :: [] ∧
    (sX [{ cZ with gate := some 0 }] 1).gateOverrun (8 * 0 + 0) { cZ with gate := some 0 } = true ∧
    (sX [{ cZ with op := .mldb 3 13 false 0 0, gate := some 0 }] 1).gateOverrun (8 * 0 + 0) { cZ with op := .mldb 3 13 false 0 0, gate := some 0 } = true ∧
    ((sX [cZ] 1).eng (8 * 0 + 0)).mx.queue = cZ :: [] ∧ (sX [cZ] 1).gateOverrun (8 * 0 + 0) cZ = false ∧
    Claims.picked (sX [cZ] 1) 0 0 ∧ (∀ j, j < 8 → ¬ Claims.candidate (sX [cZ] 0) 0 j) ∧ Claims.picked ((sX [cZ] 0).mxReload 0) 0 0 ∧
    (¬ Claims.picked (sX [cZ] 1) 0 1 ∧ Claims.candidate (sX [cZ] 1) 0 0) := by
  have k : Claims.candidate (sX [cZ] 1) 0 0 := ⟨by decide +kernel, by decide +kernel⟩
  refine ⟨by decide, rfl, by decide +kernel, by decide +kernel, rfl, rfl, ⟨0, by decide, rfl, k, fun j h => by omega⟩, ?_,
    ⟨0, by decide, rfl, ⟨by decide +kernel, by decide +kernel⟩, fun j h => by omega⟩, ?_, k⟩
  · unfold Claims.candidate
    decide +kernel
  · rintro ⟨i, -, h, -, n⟩
    obtain rfl | hi := Nat.eq_zero_or_pos i
    · exact absurd h (by decide +kernel)
    · exact n 0 hi k

theorem witness_GrantedCommandsAct :
    cZ.op = .mzero 1 2 ∧ ((sX [] 1).eng 0).mx.acc.sorted = true ∧ (MxOp.weight 15) = .weight 15 ∧
    (((sX [] 1).wslot (0 / 8) 3).valid = true ∧ ((sX [] 1).wslot (0 / 8) 3).ctx = cZ.ctx ∧ ((sX [] 1).wslot (0 / 8) 3).fmt = 13) ∧
    ¬ (((sX [] 1).wslot (0 / 8) 4).valid = true) := by decide +kernel

/-- The blocks of a source that every read sees the same. -/
def plainBlocks (m : Sparse Byte) (base : Nat) : Nat → Nat → Nat → Sparse Byte → Option (Sparse Byte)
  | 0, _, _, data => some data
  | n + 1, b, pos, data =>
    let blk := bytesAt m (base + 128 * b) 128
    let u := fieldOf (ofLE (blk.take 2)) 9 6
    let u := if u < 3 || 8 < u then 8 else u
    if 2048 < pos + 16 * u then none else plainBlocks m base n (b + 1) (pos + 16 * u) (putBytes data pos (blk.take (16 * u)))

theorem blockSeen_plain (m : Sparse Byte) (a : Nat) : blockSeen (fun _ => m) a = bytesAt m a 128 := by
  have h : (List.range 64).map (fun _ => bytesAt m a 128) = List.replicate 64 (bytesAt m a 128) := by simp
  unfold blockSeen
  rw [h, if_pos (by simp)]
  rfl

theorem loadBlocks_plain (m : Sparse Byte) (base : Nat) (n b pos : Nat) (d : Sparse Byte) :
    loadBlocks (fun _ => m) base n b pos d = plainBlocks m base n b pos d := by
  induction n generalizing b pos d with
  | zero => rfl
  | succ n ih => simp only [loadBlocks, plainBlocks, blockSeen_plain, ih]

/-- Matrix unit 0 with one running command of an engine. -/
def sR (g : Nat) (op : MxOp) : State := { sX [] 1 with units := [(0, { running := [{ eng := g, cmd := { op := op, ctx := 1 } }] })] }

theorem witness_MatrixCommandsComplete :
    (∀ op ∈ ([.mldb 0 13 false (rows 13 0 96 16 96).toNat 0, .mldb 0 10 false (vec 10 0 1536).toNat 0,
        .mma 1 0 (rows 13 0 96 16 96).toNat 0 13 13 0 false false, .mmac 1 0 (rows 22 0 (mxK 22) 16 256).toNat 22 22 false false false,
        .mst 1 (rows 15 0x4000 16 16 64).toNat 0 15 15 0 false false false false false] : List MxOp),
      (sR 0 op).mxDone 0 0 = some { eng := 0, cmd := { op := op, ctx := 1 } }) ∧
    (loadBlocks (fun _ => (List.range 24).foldl (fun m b => writeLE m (128 * b) 2 320) []) 0 24 0 0 []).isSome = true ∧
    loadBlocks (fun _ => []) 0 24 0 0 [] = none ∧
    (sR 0 (.mbar 5 1)).mxDone 0 0 = some { eng := 0, cmd := { op := .mbar 5 1, ctx := 1 } } ∧
    ((sR 0 (.mbar 5 1)).eng (8 * 0 + (0 % 8 ^^^ 1))).ctx = some 1 ∧ ((sR 0 (.mbar 5 1)).eng 0).mx.rejSince = false ∧
    ((sR 1 (.mbar 5 0)).eng (8 * 0 + (1 % 8 ^^^ 0))).ctx = some 1 ∧ ((sR 1 (.mbar 5 0)).eng 1).mx.rejSince = true ∧
    ((sR 0 (.mbar 5 2)).eng (8 * 0 + (0 % 8 ^^^ 2))).ctx ≠ some 1 ∧ ((sR 0 (.mzero 0 1)).mxReads 0 cZ).1.cross = [] ∧
    Sparse.canonical 0 ((sR 0 (.mzero 0 1)).eng 0).spad = true := by
  simp only [loadBlocks_plain]
  decide +kernel

theorem witness_MatrixMultiplyOfIntegers :
    (({} : Mx).acc.sorted = true) ∧ ({ fmt := 13 } : WSlot).fmt = 13 ∧ 15 < 16 ∧ (1 : Nat) ≠ 2 := by decide

/-! ### Words that end a segment -/

theorem ends_put (q : Nat) (inline : Bool) (a : Act) (hf : a.faults = [] ∧ a.busy = false ∧ a.alone 0 = true)
    (ht : a.ta = 0 ∧ a.tc = 0 ∧ a.ts = 0) : Claims.Ends q h0 inline (on a) a where
  toReady := ready_on q a hf.1
  fresh := hf.2.1
  alone := hf.2.2
  place := .inr (by show (0 : Nat) < _; decide)
  drained := ht

theorem witness_EndingWordsCheckTheirSegment :
    Claims.ending (.exit h0 y0) = some (2, h0, true) ∧ Claims.ending (.lrw h0 m0) = some (0, h0, false) ∧ Ready 2 h0 (on a0) a0 ∧
    a0.busy = false ∧ { a0 with front := some { pc := 0, n := 1, word := 0 } }.alone 2 = false ∧ a0.alone 0 = true ∧
    inlineBase ≤ { on a0 with focus := { pc := inlineBase } }.focus.pc ∧ (on a0).focus.pc < inlineBase ∧
    ¬ (({ a0 with ta := 1 }.pops 2 h0).ta = 0 ∧ ({ a0 with ta := 1 }.pops 2 h0).tc = 0 ∧ ({ a0 with ta := 1 }.pops 2 h0).ts = 0) :=
  ⟨rfl, rfl, ready_on 2 a0 rfl, rfl, by decide +kernel, by decide +kernel, by decide, by decide +kernel, by decide +kernel⟩

/-- An activation whose segment holds a full fence, one that waits at its head with nothing left, and a state with an effect of the engine
in flight. -/
def aFe : Act := { a0 with deferred := [{ n := 0, pc := 0, eff := .fence 3 3 }] }
def aBu : Act := { a0 with busy := true, held := [2] }
def sFe (a : Act) : State := put { base with inflight := [{ id := 0, g := 0, ctx := 1, tgt := .dpa 0x100 0, va := 0x100, op := .write [0] none }] } a
/-- An increment of engine 0 has not reached its future. -/
def sJo (a : Act) : State := put { base with
  packets := [{ route := 0, ctx := 1, kind := 3, src := .engine 0 0, place := .switch 0 0, body := .future 1025 (.inc 1) }] } a

theorem ends_state (q : Nat) (s : State) (a : Act) (r : Ready q h0 s a) (hf : a.busy = false ∧ a.alone s.focus.n = true)
    (hp : s.focus.pc < inlineBase) (ht : a.ta = 0 ∧ a.tc = 0 ∧ a.ts = 0) : Claims.Ends q h0 false s a where
  toReady := r
  fresh := hf.1
  alone := hf.2
  place := .inr hp
  drained := ht

/-- g2 = 0x4001, a tile of `sG`; g3 = 1025, a future of `sF`. Every word ends at once; a join, a fence and an operation to the agent
hold back one that has just begun and one that waits at its head. -/
theorem witness_EndingWordsEndTheActivation :
    Claims.Ends 2 h0 true (on a0) a0 ∧
    (∀ i ∈ ([.commit h0 y0, .exit h0 y0, .yield h0 y0, .migrate h0 y0, .lrw h0 { m0 with fmt := 21, b := 0 }] : List Instr),
      (Claims.captured (on aD) aD i).isSome = true) ∧
    (Claims.captured (sF aD) aD (.await h0 { y0 with a := 3 })).isSome = true ∧ (Claims.captured (sG aG) aG (.tacq h0 y0)).isSome = true ∧
    (Claims.setOut (on a0) a0).joining 0 = false ∧ Claims.performed (on a0) a0 = ((Claims.performed (on a0) a0).1, []) ∧
    Claims.settled (Claims.performed (on a0) a0).1 a0 (.exit h0 y0) = true ∧
    Claims.Ends 2 h0 false (sJo a0) a0 ∧ (Claims.setOut (sJo a0) a0).joining 0 = true ∧
    Claims.Ends 2 h0 false (sFe aFe) aFe ∧ (Claims.setOut (sFe aFe) aFe).joining 0 = false ∧ (Claims.performed (sFe aFe) aFe).2 ≠ [] ∧
    Claims.settled (sJo aD) aD (.await h0 { y0 with a := 3 }) = false ∧
    Ready 2 h0 (on aBu) aBu ∧ aBu.busy = true ∧ (on aBu).joining 0 = false ∧ ((on aBu).perform 0 aBu aBu.deferred).2 = [] ∧
    Ready 2 h0 (sJo aBu) aBu ∧ (sJo aBu).joining 0 = true :=
  ⟨ends_put 2 true a0 (by decide +kernel) (by decide), by decide +kernel, by decide +kernel, by decide +kernel, by decide +kernel, rfl, rfl,
    ends_state 2 _ a0 (ready_put _ rfl 2 a0 rfl) (by decide +kernel) (by decide) (by decide), by decide +kernel,
    ends_state 2 _ aFe (ready_put _ rfl 2 aFe rfl) (by decide +kernel) (by decide) (by decide), by decide +kernel, by decide +kernel,
    by decide +kernel, ready_on 2 aBu rfl, rfl, by decide +kernel, by decide +kernel, ready_put _ rfl 2 aBu rfl, by decide +kernel⟩

theorem witness_EndingWordsCheckTheirOperands :
    Claims.Ends 2 h0 false (on a0) a0 ∧ (on a0).findFut (a0.ug y0.a.toNat % 2 ^ 32) a0.ctx = none ∧
    (on a0).tile a0.ctx (a0.ug y0.a.toNat % 2 ^ 32) = none ∧ 2 ^ 49 ≤ (a0.wg 2 (2 ^ 49)).ug 2 ∧ (2 ^ 30 : Nat) < 2 ^ 49 ∧
    (on (a0.wg 2 (2 ^ 30))).translate 1 .r ((a0.wg 2 (2 ^ 30)).ug 2) 1 (some (0, 0)) = (.bad { code := 7, page := 2 ^ 30 }, on (a0.wg 2 (2 ^ 30))) ∧
    Claims.Ends 0 h0 false (on aD) aD ∧ (liveOf (aD.ug 0)).ok = true ∧ (liveOf (2 ^ 20 - 1)).ok = false ∧
    baseAddr { m0 with ofs := 1 } aD % (fmtWidth 20 / 8) ≠ 0 ∧ baseAddr m0 aD % (fmtWidth 21 / 8) = 0 ∧
    2 ^ 48 ≤ baseAddr m0 (a0.wg 2 (2 ^ 48)) ∧ baseAddr m0 aD < 2 ^ 48 :=
  ⟨ends_put 2 false a0 (by decide +kernel) (by decide), by decide +kernel, by decide +kernel, by decide +kernel, by decide, by decide +kernel,
    ends_put 0 false aD (by decide +kernel) (by decide), by decide +kernel, by decide +kernel, by decide +kernel, by decide +kernel,
    by decide +kernel, by decide +kernel⟩

theorem witness_CommitBeginsANewSegment :
    Claims.Ends 2 h0 false (on a0) a0 ∧ (on a0).joining 0 = false ∧ Claims.performed (on a0) a0 = ((Claims.performed (on a0) a0).1, []) :=
  ⟨ends_put 2 false a0 (by decide +kernel) (by decide), by decide +kernel, rfl⟩

theorem witness_MigrateSendsTheContinuation :
    Claims.Ends 2 h0 false (on aD) aD ∧ aD.ug 2 < 2 ^ 49 ∧
    (on aD).translate aD.ctx .r (aD.ug 2) 1 (on aD).via = (.ok (.dpa 0x17FE0 0) [0x240, 0x200], on aD) ∧
    (Claims.setOut (on aD) aD).joining 0 = false ∧ Claims.performed (on aD) aD = ((Claims.performed (on aD) aD).1, []) :=
  ⟨ends_put 2 false aD (by decide +kernel) (by decide), by decide +kernel, by decide +kernel, by decide +kernel, rfl⟩

theorem witness_LrwFilesItsRequest :
    Claims.Ends 0 h0 false (on aD) aD ∧ (liveOf (aD.ug 0)).ok = true ∧ baseAddr m0 aD % (fmtWidth 21 / 8) = 0 ∧
    baseAddr m0 aD < 2 ^ 48 ∧ (on aD).translate aD.ctx .rw (baseAddr m0 aD) 8 (on aD).via = (.ok (.dpa 0x17FE0 0) [0x240, 0x200], on aD) ∧
    (Claims.setOut (on aD) aD).joining 0 = false ∧ Claims.performed (on aD) aD = ((Claims.performed (on aD) aD).1, []) :=
  ⟨ends_put 0 false aD (by decide +kernel) (by decide), by decide +kernel, by decide +kernel, by decide +kernel, by decide +kernel,
    by decide +kernel, rfl⟩

/-- EXIT frees the slot. -/
theorem test_exit_frees_the_slot : (next? (exec (.exit h0 y0) (on a0))).map (fun t => (t.act 0 0).isNone) = some true := by decide +kernel

/-! ### The Sedge harts -/

/-- A hart of context 1 in M mode: x10 to x15 hold addresses and handles. -/
def hart0 : Hart := { run := .run, ctx := 1, x := [(10, 0x60000), (11, 0x60080), (12, 1025), (13, 2049), (14, 3073), (15, 0x60100)] }
def f0 : HForm := { d := 5, a := 10, b := 11 }
/-- Memory with a call queue of 16 records that holds one, a prefill queue of 16 tokens, an image of kind 3 at 0x60080, and a reply block
of one token at 0x60100. -/
def memH : List Host.Cell := [(0x20040, 8, 0x70000 + 4 * 2 ^ 48), (0x2004C, 4, 1), (0x50000, 8, 0x80000 + 4 * 2 ^ 48), (0x60080, 8, 3),
  (0x60100, 8, 7), (0x60108, 2, 1)].foldl (fun m x => writeLE m x.1 x.2.1 x.2.2) mem1
/-- Cluster 0 with future 1 LIVE at phase 1, future 2 LAPSED, and future 3 LIVE and bound to prefill queue 0. -/
def futsH : Sparse Cluster := [(0, { futs := [(1, { state := .live, ctx := 1, phase := 1 }), (2, { state := .lapsed, ctx := 1 }),
  (3, { state := .live, ctx := 1, pq := some 0 })] })]
def sH (H : Hart) : State := { base with
  hub := { base.hub with featAcc := 2 ^ 256 - 1 }, harts := [(0, H)], mem := memH, clusters := futsH }

/-- Every extension word may be executed by a server hart in M mode. -/
theorem goes_on (i : Instr) (h : (Claims.hartWord i).isSome = true) : Claims.HartGoes (sH hart0) i := by
  refine ⟨rfl, ?_, fun _ _ _ _ _ => by decide +kernel⟩
  have k : ∀ n ∈ [0, 4, 5, 6], (sH hart0).feat n = true := by decide +kernel
  obtain ⟨⟨f, u, sv, n, a⟩, e⟩ := Option.isSome_iff_exists.mp h
  refine ⟨f, u, sv, n, a, e, k n ?_, fun m => (nomatch (show Mode.m = .u from m)), fun _ => by decide +kernel⟩
  unfold Claims.hartWord at e
  split at e <;> simp_all

theorem witness_HartGoes : ∀ i ∈ ([.xsend f0, .xfres f0, .xfdec f0, .xftest f0 3, .xfwait f0 1, .xfrestok f0, .xcqpop f0, .xfence f0 1,
    .xcapset f0 15, .xcapclr f0, .xcpyr f0, .xvreg f0, .xvregUnregister f0, .xvregRetry f0] : List Instr), Claims.HartGoes (sH hart0) i := by
  intro i hi
  refine goes_on i ?_
  revert i
  decide +kernel

theorem witness_HartWordsNeedTheirModeAndContext :
    (Claims.hartWord (.xsend f0)).isSome = true ∧ (Claims.me (sH { hart0 with mode := .u })).run = .run ∧
    ¬ Claims.mayExecute (sH { hart0 with mode := .u }) (.xsend f0) ∧
    ¬ Claims.mayExecute { sH hart0 with focus := { hart := 1 } } (.xcpyr f0) ∧
    Claims.mayExecute (sH hart0) (.xsend f0) ∧ ((sH { hart0 with ctx := 3 }).ctx (Claims.me (sH { hart0 with ctx := 3 })).ctx).exists = false := by
  refine ⟨rfl, rfl, ?_, ?_, (goes_on _ rfl).may, by decide +kernel⟩
  · rintro ⟨f, u, sv, n, a, e, -, k, -⟩
    cases e
    exact absurd (k rfl) (by decide +kernel)
  · rintro ⟨f, u, sv, n, a, e, -, -, k⟩
    cases e
    exact absurd (k rfl) (by decide +kernel)

/-- An operand can be read. -/
def canFetch (s : State) (va k align : Nat) : Bool := (Claims.fetched s 0 va k align).isSome
/-- An operand fails its checks. -/
def badFetch (s : State) (va k : Nat) : Bool :=
  match s.hartAccess 0 hLoad va k with
  | (.error _, _) => true
  | _ => false
/-- An access passes its checks. -/
def canAccess (s : State) (n : HNeed) (va k : Nat) : Bool :=
  match s.hartAccess 0 n va k with
  | (.ok _, _) => true
  | _ => false
/-- An access passes, reads, and writes. -/
def canReadWrite (s : State) (n : HNeed) (va k : Nat) : Bool :=
  match s.hartAccess 0 n va k with
  | (.ok ps, t) =>
    match t.hartRead 0 ps with
    | .ok _ u => (u.hartWrite 0 ps (toLE k 1)).isSome
    | _ => false
  | _ => false

theorem witness_XsendInjectsItsMessage :
    (Claims.me (sH hart0)).xr 12 % 128 ≠ 0 ∧ canFetch (sH hart0) 0x60000 128 128 = true ∧ canFetch (sH hart0) 0x60080 16 16 = true ∧
    (sH hart0).isServer 0 = true ∧ 0 % 4 ≠ 3 ∧ (sH hart0).rd 0x60080 8 % 4 = 3 ∧ canFetch (sH hart0) 0x60080 128 128 = true ∧
    badFetch (sH hart0) (2 ^ 46) 128 = true ∧ badFetch (sH hart0) (2 ^ 46) 16 = true ∧ (Claims.me (sH hart0)).xr 10 % 16 = 0 := by
  decide +kernel

/-- A write of the hart's party that the hart has seen is on its way; and cluster 1 has a live future. -/
def sHw : State := { sH hart0 with
  clusters := futsH ++ [(1, { futs := [(1, { state := .live, ctx := 1 })] })]
  nextId := 1, inflight := [{ id := 0, g := 0, ctx := 1, tgt := .dpa 0x100 0, va := 0x100, op := .write [0] none, reach := 1 }] }

theorem witness_HartUpdatesAreReleases :
    0 / 4 ≠ hCluster 0x400401 ∧ ¬ (0 / 4 ≠ hCluster 1025 ∨ ∃ x, sHw.findFut 1025 1 = some x ∧ x.farWaiter (hCluster 1025) = true) ∧
    sHw.inflight.any (fun f => decide (f.id < sHw.nextId) && f.seen (hartSeer 0 1) && !f.tgt.isRemote) = true ∧
    (sH hart0).inflight = [] := by
  refine ⟨by decide, ?_, by decide +kernel, rfl⟩
  have e : (sHw.findFut 1025 1).map (fun x => x.farWaiter (hCluster 1025)) = some false := by decide +kernel
  rintro (h | ⟨x, h, k⟩)
  · exact h rfl
  · rw [h] at e
    exact absurd k (by simpa using e)

theorem witness_HartResolvesAndDecrements :
    hGen 1024 = 0 ∧ Claims.reachable (sH hart0) 0 1025 ∧ ((sH hart0).findFut 1025 1).map (fun x => x.state) = some .live ∧
    Claims.reachable (sH hart0) 0 2049 ∧ ((sH hart0).findFut 2049 1).map (fun x => x.state) = some .lapsed ∧
    Claims.reachable (sH hart0) 0 4097 ∧ (sH hart0).findFut 4097 1 = none ∧ 0 < 2 ^ 31 - 1 ∧ (2 ^ 31 - 1 : Nat) < 2 ^ 31 ∧
    (Claims.signalled (sH hart0) 0 1 1025).isSome = true ∧ Claims.signalled sHw 0 1 0x400401 = none :=
  ⟨rfl, ⟨by decide, by decide +kernel, by decide +kernel, by decide +kernel⟩, by decide +kernel, ⟨by decide, by decide +kernel, by decide +kernel, by decide +kernel⟩,
    by decide +kernel, ⟨by decide, by decide +kernel, by decide +kernel, by decide +kernel⟩, by decide +kernel, by decide, by decide,
    by decide +kernel, by decide +kernel⟩

/-- A waiter of a hart for a phase. -/
def w2 : Waiter := { hart := some 0, target := 2 }

/-- A future of cluster 1 whose last resolution released a write at the cluster alone. -/
def sFar : State := { sHw with
  clusters := [(1, { futs := [(1, { state := .live, ctx := 1, cover := 1 })] })]
  inflight := sHw.inflight.map (fun f => { f with reach := 2 }) }

theorem witness_HartTestsAndWaits :
    Claims.reachable (sH hart0) 0 1025 ∧ ((sH hart0).findFut 1025 1).map (fun x => (x.state, reached x.phase 1, reached x.phase 2)) =
      some (.live, true, false) ∧ ((sH hart0).findFut 2049 1).map (fun x => x.state) = some .lapsed ∧
    ((sH hart0).fileWaiter 1025 w2).isSome = true ∧
    ({ sH hart0 with clusters := [(0, { futs := [(1, { state := .live, ctx := 1, waiters := List.replicate 2047 w2 }),
      (2, { ctx := 1, waiters := [w2, { w2 with spill := some 0 }] })] })] } : State).fileWaiter 1025 w2 = none ∧
    (sH hart0).farRelease 1025 0 = false ∧ sFar.farRelease 0x400401 0 = true ∧ Claims.reachable sFar 0 0x400401 :=
  ⟨⟨by decide, by decide +kernel, by decide +kernel, by decide +kernel⟩, by decide +kernel, by decide +kernel, by decide +kernel, by decide +kernel, by decide +kernel, by decide +kernel,
    ⟨by decide, by decide +kernel, by decide +kernel, by decide +kernel⟩⟩

/-- An injection enters its queue. -/
def canInject (s : State) (hd : Nat) : Bool :=
  match s.injectAt 1 hd 7 (toLE 4 9) (some 0) none (s.findFut hd 1) with
  | .held _ => true
  | _ => false

theorem witness_HartInjectsTokens :
    ((Claims.replyBlock (sH hart0) 0x60100).map (fun x => (x.1, x.2.1, decide (x.2.2.focus = (sH hart0).focus)))) =
      some (7, toLE 4 0, true) ∧
    Claims.reachable (sH hart0) 0 3073 ∧ canInject (sH hart0) 3073 = true ∧
    ((sH hart0).findFut 1025 1).map (fun x => (x.state, x.pq)) = some (.live, none) ∧
    ((sH hart0).findFut 2049 1).map (fun x => decide (x.state ≠ .live)) = some true ∧
    ((sH hart0).prefillQ 1 0).tail = ({ ctx := 1, q := 0, start := 0, ntok := 1, h := 3073, value := 7 } : Inject).start ∧
    ((sH hart0).prefillQ 1 0).tail ≠ 1 ∧ ({ ctx := 1, q := 0, start := 0, ntok := 1, h := 3073, value := 7, reset := true } : Inject).reset = true :=
  ⟨by decide +kernel, ⟨by decide, by decide +kernel, by decide +kernel, by decide +kernel⟩, by decide +kernel, by decide +kernel, by decide +kernel,
    by decide +kernel, by decide +kernel, rfl⟩

theorem witness_XcqpopTakesTheOldestCall :
    (Claims.me (sH hart0)).xr 12 % 64 ≠ 0 ∧ 0x60000 % 64 = 0 ∧ canReadWrite (sH hart0) hStore 0x60000 64 = true ∧
    ((sH hart0).callQ 1).formed = true ∧ ((sH hart0).callQ 1).head ≠ ((sH hart0).callQ 1).tail ∧
    ((base).callQ 1).head = (base.callQ 1).tail ∧
    (((sH hart0).translate 1 .r (((sH hart0).callQ 1).slot ((sH hart0).callQ 1).head) 64).1 = .ok (.dpa 0x70000 0) [0x240, 0x200]) ∧
    ((sH hart0).recall 1024 1 0x70000 64 false false).isSome = true := by decide +kernel

/-- A copy of context 1 with a held page. -/
def copy1 : Copy := {
  slot := 0, id := 1, ctx := 1, bar := 0, mcast := false, desc := [], pages := [{ page := 0x60000, code := 7 }] }

theorem witness_FencesCapabilitiesAndReplays :
    (1 : BitVec 2) ≠ 0 ∧ (1 ≤ (3 : BitVec 5).toNat ∧ (3 : BitVec 5).toNat ≤ 3) ∧ (sH hart0).feat 16 = true ∧
    ¬ ((1 ≤ (4 : BitVec 5).toNat ∧ (4 : BitVec 5).toNat ≤ 3) ∨ (8 ≤ (4 : BitVec 5).toNat ∧ (4 : BitVec 5).toNat < 16)) ∧
    (0x60000 % 128 = 0 ∧ 0x60080 % 128 = 0 ∧ 0x60000 % 2 ^ 48 < 0x60080 % 2 ^ 48 ∧ 0x60000 / 2 ^ 51 % 2 = 0 ∧ 0x60080 / 2 ^ 49 = 0) ∧
    ¬ (1025 % 128 = 0) ∧ hart0.caps.canonical 0 = true ∧
    (((base.setEng 0 { copies := [copy1] }).eng 0).copies.any (fun c => (c.ctx == 1 && c.id == 1 % 2 ^ 16) &&
        c.pages.any (fun p => p.held && p.page == 0x60000))) = true ∧
    (base.eng 0).copies.any (fun _ => true) = false := by decide +kernel

/-- A registration block of a view of one 16-bit block, of OP `op`, kind `kind`, with its view area at `vb` and rows of `vs` bytes. -/
def memR (op kind vb vs w0 : Nat) : List Host.Cell := [(0x60000, 8, w0),
  (0x60008, 8, 1 + 2 ^ 18 + kind * 2 ^ 36 + 2 ^ 39 + 2 ^ 44 + op * 2 ^ 53), (0x60010, 8, 128), (0x60018, 8, vb), (0x60020, 8, vs),
  (0x60038, 8, 0x180000)].foldl (fun m x => writeLE m x.1 x.2.1 x.2.2) mem1
/-- View 5 of context 1, of one block. -/
def view5 : View := {
  ctx := 1, num := 5, master := 0x100000, nrb := 1, ncb := 1, kind := 2, mfmt := 1, vfmt := 1, rm := 0, sat := false,
  mstride := 128, vbase := 0x140000, vstride := 64, sbase := 0, sstride := 0, alt := 0x180000, frames := [] }
def sReg (op w0 : Nat) : State := { sH hart0 with mem := memR op 2 0 64 w0, views := [view5] }
/-- What XVREG reads there. -/
def blockOf (m : List Host.Cell) : RegBlock := { w := Claims.wordsOf 8 (bytesAt m 0x60000 64) }
def block (op w0 : Nat) : RegBlock := blockOf (memR op 2 0 64 w0)
/-- The latching of the frames of a block's view, with the view and the state after it. -/
def latched (m : List Host.Cell) : Option (View × State) :=
  let v := (blockOf m).view 1
  match ({ sH hart0 with mem := m } : State).latch 1 .r (rowFrames v.master v.mstride (64 * v.ncb * v.mw) (32 * v.nrb)) with
  | (some mf, t) =>
    match t.latch 1 .w (if v.kind = 3 then [] else rowFrames v.vbase v.vstride v.viewRows.2 v.viewRows.1).eraseDups with
    | (some wf, u) => some ({ v with frames := (mf ++ wf).eraseDups }, u)
    | _ => none
  | _ => none

/-- A view of kind 3 in window 2 meets no other; a transposed view whose area is its master does. -/
theorem witness_XvregRegisters :
    (let m := memR 0 3 (2 ^ 49) 128 0x100000
     (Claims.regBlock { sH hart0 with mem := m } f0).map (fun x => x.1) = some (blockOf m) ∧ (blockOf m).op = 0 ∧
     (blockOf m).formed = true ∧ (sH hart0).feat (kindFeature 3) = true ∧ (sH hart0).roomFor ((blockOf m).view 1) = true ∧
     (latched m).map (fun x => x.2.clashes x.1) = some false) ∧
    (blockOf (memR 0 3 (2 ^ 49) 128 0x100001)).formed = false ∧ (blockOf (memR 0 2 0x100000 64 0x100000)).formed = true ∧
    (latched (memR 0 2 0x100000 64 0x100000)).map (fun x => x.2.clashes x.1) = some true := by decide +kernel

theorem witness_XvregEndsAndRetries :
    (block 1 5).op = 1 ∧ posOf (fun (v : View) => v.ctx == 1 && v.num == (block 1 5).word 0 % 2 ^ 10) (sReg 1 5).views = some 0 ∧
    (sReg 1 5).views[0]? = some view5 ∧ view5.blocks.any (fun b => b.2.running.isSome) = false ∧
    posOf (fun (v : View) => v.ctx == 1 && v.num == (block 1 6).word 0 % 2 ^ 10) (sReg 1 6).views = none ∧
    (block 2 5).op = 2 ∧ (block 2 5).word 0 / 2 ^ 10 % 2 ^ 30 < view5.nb ∧
    view5.nb ≤ (block 2 (5 + 2 ^ 10)).word 0 / 2 ^ 10 % 2 ^ 30 := by decide +kernel

/-- A cache-block word drains its line. -/
def canClean (s : State) (k va : Nat) : Bool :=
  match s.hartAccess 0 hCbo va 128 with
  | (.ok ps, t) => (t.hartClean 0 k ps).isSome
  | _ => false

theorem witness_HartAccessesComplete :
    ((sH hart0).hart 0).run = .run ∧ canAccess (sH hart0) hFetch 0x60000 2 = true ∧ canAccess (sH hart0) hFetch (2 ^ 46) 4 = false ∧
    canReadWrite (sH hart0) hLoad 0x60007 8 = true ∧ canAccess (sH hart0) hLoad (2 ^ 46) 8 = false ∧
    canReadWrite (sH hart0) hStore 0x6007F 2 = true ∧ canAccess (sH hart0) hStore (2 ^ 46) 1 = false ∧ 0x60004 % 8 ≠ 0 ∧
    canReadWrite (sH hart0) hBoth 0x60008 8 = true ∧ canReadWrite (sH hart0) hLr 0x60008 8 = true ∧
    ((sH hart0).hart 0).resv ≠ some 0x60008 ∧ hart0.cboLegal 18 = true ∧ { hart0 with mode := .s }.cboLegal 15 = false ∧
    canReadWrite (sH hart0) hStore 0x60040 64 = true ∧ canAccess (sH hart0) hCbo 0x60080 128 = true ∧
    canClean (sH hart0) 16 0x60080 = true ∧ canClean (sH hart0) 18 0x60080 = true := by decide +kernel

/-- The pieces of eight bytes that a hart may load all lie in the flash tier; and its access passes its checks. -/
def flashOnly (s : State) (va : Nat) : Bool :=
  match s.hartPieces 0 (s.hart 0) hLoad (cutRun 2 va 8) with
  | (.ok ps, _) => ps.all (fun p => inFlash p.pa p.n)
  | _ => false
def flashAccess (s : State) (va : Nat) : Bool :=
  match s.hartAccess 0 hLoad va 8 true with
  | (.ok _, _) => true
  | _ => false

theorem witness_FlashAccessesComplete :
    flashOnly (sH hart0) (2 ^ 45) = true ∧ flashOnly (sH hart0) (2 ^ 46 - 8) = true ∧ (sH hart0).isServer 0 = true ∧
    ((sH hart0).hart 0).mode ≠ .u ∧ (sH hart0).feat 12 = true ∧ base.feat 12 = false ∧
    flashAccess (sH hart0) (2 ^ 45) = true ∧ (sH hart0).isServer 1 = false ∧
    ({ sH hart0 with harts := [(0, hart0), (1, hart0)] }.hart 1).run = .run := by decide +kernel

theorem witness_CsrAccessesComplete :
    (sH hart0).readCsr 0 0x5C0 = some 1 ∧ 0x5C0 / 256 % 4 ≤ modeCode hart0.mode ∧ csrReadOnly 0x5C0 = false ∧
    modeCode { hart0 with mode := .u }.mode < 0x5C0 / 256 % 4 ∧ (sH hart0).readCsr 0 0xDC0 = some 4096 ∧ csrReadOnly 0xDC0 = true ∧
    (sH hart0).readCsr 0 0x5C1 = some 0 := by decide +kernel

theorem witness_InterruptEndsTheWait :
    ({ hart0 with run := .wait 1025 5 }.run = .wait 1025 5) ∧ { hart0 with csr := { mie := 128, mstatus := 8 } }.takes 7 = some false ∧
    { hart0 with mode := .s, csr := { mie := 2, mideleg := 2, mstatus := 2 } }.takes 1 = some true := by decide +kernel

theorem witness_HartsTakeExceptions :
    (hart0.mode = .m) ∧ ({ hart0 with mode := .u } : Hart).csr.medeleg.testBit 5 = false ∧
    (({ hart0 with mode := .s, csr := { medeleg := 32 } } : Hart).mode ≠ .m ∧ ({ medeleg := 32 } : Csrs).medeleg.testBit 5 = true) ∧
    ((if hStore.x then 1 else if hStore.w || hStore.st then 7 else 5) = 7) ∧ (15 : Nat) ≠ 7 := by decide +kernel

/-- A fault queue with a doorbell; one that is full; one whose ring is misplaced. -/
def sBell : State := { base with mem := writeLE mem1 0x20010 4 1025 }
def sFull : State := { base with mem := writeLE mem1 0x2000C 4 16 }
def sMisplaced : State := { base with mem := writeLE mem1 0x20000 8 (0x30020 + 4 * 2 ^ 48) }

theorem witness_FaultRecordsAreAppended :
    Memory.wf base.mem = true ∧ Memory.wf sBell.mem = true ∧ Memory.wf sFull.mem = true ∧ Memory.wf sMisplaced.mem = true ∧
    (base.ctx 1).exists = true ∧ (base.ctx 7).exists = false ∧ (base.ctx 1).fqDesc = 0x20000 ∧
    (readLE base.mem 0x20000 8 % 2 ^ 48 = 0x30000 ∧ readLE base.mem 0x20000 8 / 2 ^ 48 % 2 ^ 5 = 4 ∧ inDram 0x30000 (64 * 2 ^ 4) = true ∧
      readLE base.mem 0x20008 4 = 0 ∧ readLE base.mem 0x2000C 4 = 0 ∧ 0x20000 + 32 ≤ 0x30000) ∧
    readLE base.mem 0x20010 4 = 0 ∧ readLE sBell.mem 0x20010 4 ≠ 0 ∧
    ¬ (readLE sFull.mem 0x2000C 4 + 2 ^ 32 - readLE sFull.mem 0x20008 4) % 2 ^ 32 < 2 ^ 4 ∧
    readLE sMisplaced.mem 0x20000 8 % 2 ^ 48 % 64 ≠ 0 := by decide +kernel

/-- The cluster itself; one of its die; one of its package on another die; one of another package. -/
theorem witness_RoutesFollowTheTable :
    (5 * 2 ^ 14 / 2 ^ 14 % 2 ^ 10 = 5) ∧ (7 ≠ 5 ∧ 7 / 16 = 5 / 16) ∧ (37 / 16 ≠ 5 / 16 ∧ 37 / 256 = 5 / 256) ∧ 300 / 256 ≠ 5 / 256 := by
  decide +kernel

/-- XFTEST of a stale handle gives status 3 and 0. -/
theorem test_xftest_of_a_stale_handle :
    (next? (exec (.xftest { f0 with a := 15 } 0) (sH hart0))).map (fun t => ((t.hart 0).xst, (t.hart 0).xr 5)) = some (3, 0) := by
  decide +kernel
theorem test_xfence_of_kind_zero : (next? (exec (.xfence f0 0) (sH hart0))).map (fun t => (t.hart 0).csr.mcause) = some 2 := by
  decide +kernel

/-! ### Activations and their scheduling -/

/-- Words written field by field (R82 to R85): an ADDI that closes its group, with POPU where `p`; and one whose opcode is reserved. -/
def wAddi (p : Bool) : BitVec 64 := Claims.talquin 0b10 1 (if p then 0b1000 else 0) 0b01111 0x01 (1#6 ++ 2#6 ++ 5#32)
def wBad : BitVec 64 := Claims.talquin 0b10 1 0 0b01111 0x7F 0
/-- SHLI by 64, and MZERO. -/
def wShli : BitVec 64 := Claims.talquin 0b10 1 0 0b01111 0x12 (1#6 ++ 2#6 ++ 64#32)
def wMzero : BitVec 64 := Claims.talquin 0b10 1 0 0b01111 0x73 0
/-- Context 1 on engine 0, with the home of the first granules of the map reached by the route of switches 0, 1024 and 1152, window 2 with a
route over Nalornaz link 0, which is UP. -/
def memA : List Host.Cell := [(0x60200, 8, (wAddi false).toNat), (0x60208, 8, wBad.toNat), (0x60210, 8, wShli.toNat),
  (0x90020, 16, mkRoute 2 [24, 16, 18] 3), (0x90900, 16, mkRoute 3 [24, 16, 20, 48] 3), (0x90000, 16, mkRoute 2 [24, 16, 16] 3), (0x90010, 16, mkRoute 2 [24, 16, 17] 3),
  (0x100, 16, mkRoute 4 [24, 16, 20, 32, 0, 0] 3)].foldl
  (fun m x => writeLE m x.1 x.2.1 x.2.2) mem1
def sA (es : Sparse Engine) : State := { base with
  hub := { base.hub with hrt := 0x90000 }, mem := memA, engines := es, ports := [(linkKey 0, { state := .up })],
  clusters := [(0, { cycles := 100 })] }
def with0 (a : Act) : State := sA [(0, { ctx := some 1, slots := [(0, { act := some a })] })]
/-- What a fetch gives. -/
def fetched (s : State) (pc : Nat) : Option (Option (BitVec 64)) :=
  match (s.fetch 0 0 1 pc).1 with
  | .word w => some (some w)
  | .past => some none
  | _ => none

/-- The static fields of a word that fail, where its instruction needs no feature. -/
def fails (w : BitVec 64) : Option (List Nat) :=
  match decode w with
  | .ok i => if i.feature = none then some (i.fails 1) else none
  | _ => none

theorem witness_GroupsOfOneWordDispatch :
    Claims.Dispatches (with0 { a0 with pc := 0x10200 }) 0 0 { a0 with pc := 0x10200 } ∧ a0.loops = [] ∧ a0.pfx = none ∧
    fetched (with0 a0) inlineBase = some none ∧
    fetched { with0 a0 with mem := writeLE memA 0x10200 8 (wAddi false).toNat } 0x10200 = some (some (wAddi false)) ∧
    (wAddi false).getLsbD 61 = true ∧ (wAddi false).extractLsb' 62 2 ≠ 0 ∧ decode wBad = .illegalInstr ∧ wBad.getLsbD 61 = true ∧
    fails (wAddi false) = some [] ∧ (fails wShli).map List.length = some 1 ∧
    (a0.queue 1).length < 16 ∧ a0.qs.length ≤ 8 := by
  refine ⟨⟨rfl, rfl, rfl, rfl, rfl, rfl, rfl, fun x h => (nomatch (show none = some x from h)), by decide +kernel, rfl⟩, rfl, rfl, by decide +kernel, by decide +kernel, by decide +kernel,
    by decide +kernel, by decide +kernel, by decide +kernel, by decide +kernel, by decide +kernel, by decide, by decide⟩

/-- A message of context `c` on channel `ch`, with FMT word `d`. -/
def msgOf (kind ch c d : Nat) : Msg := { words := mkHdr kind ch false c c 0 0 0 :: (List.replicate 11 0 ++ [d, 0, 0, 0]) }

theorem witness_DispatchTakesTheHead :
    (let s := sA [(0, { ctx := some 1, inbox := [{ msg := msgOf 0 7 1 0, arrived := 90 }] })]
     0 < 4 ∧ (s.eng 0).ctx = some 1 ∧ (s.eng 0).incoming = none ∧ (s.eng 0).act 0 = none ∧ (s.ctx 1).state = .live ∧ (s.cluster 0).gated = false ∧
     (s.eng 0).heads.any (fun x => !(s.eng 0).check4 x.msg) = false ∧
     (∀ x ∈ (s.eng 0).heads, (s.cluster 0).age = 0 ∨ s.now 0 ≤ x.arrived + (s.cluster 0).age) ∧
     (s.eng 0).headOf 7 = some { msg := msgOf 0 7 1 0, arrived := 90 } ∧ (∀ j, j < 7 → (s.eng 0).headOf j = none)) ∧
    (let s := sA [(0, { ctx := some 1, deque := [msgOf 0 0 1 0] })]
     (s.eng 0).inbox = [] ∧ (s.eng 0).deque = [] ++ [msgOf 0 0 1 0] ∧ (msgOf 0 0 1 0).ctx = 1) := by decide +kernel

/-- Slot 0 loads a record. -/
def sL (m : Msg) : State := sA [(0, {
  ctx := some 1, slots := [(0, { act := some { a0 with loading := true } })], inbox := [{ msg := m, slot := some 0 }] })]

theorem witness_ActivationsStartAsTheirRecord :
    (sL (msgOf 0 0 1 0)).act 0 0 = some { a0 with loading := true } ∧ (((sL (msgOf 2 0 1 0)).eng 0).entry 0).msg.kind = 2 ∧
    (((sL (msgOf 0 0 1 0)).eng 0).entry 0).msg.kind ≠ 2 ∧ (sL (msgOf 0 0 1 0)).rd 0x40000 8 % 2 ^ 48 % 8 = 0 ∧
    (10 * 2 ^ 22) / 2 ^ 22 % 16 + 0 ≤ 10 ∧ loopsOk 0 [] = true ∧ ¬ ((11 * 2 ^ 22) / 2 ^ 22 % 16 + 0 ≤ 10) ∧
    (msgOf 0 0 1 (11 * 2 ^ 22)).word 12 = 11 * 2 ^ 22 ∧ (msgOf 0 0 1 0).vals = [] ∧
    (with0 { a0 with rngReady := false }).act 0 0 = some { a0 with rngReady := false } := by decide +kernel

/-- A load of 8 bytes in flight. -/
def ld0 (t : Target) : Load := {
  pc := 0, n := 0, reg := 1, fmt := 21, hi := false, va := 0x60000, tgt := t, const := false, policy := 0, pushu := false, pushd := false }
def aLd (t : Target) : Act := { a0 with loads := [ld0 t] }

/-- An atomic of context 1 to 0x20000, and a line of constants in the cache. -/
def sHeld : State := { with0 a0 with inflight := [{
  id := 0, g := 0, ctx := 1, tgt := .dpa 0x20000 0, va := 0x20000, op := .atomic 0 20 1 0 false none }] }
def ldC : Load := { ld0 (.dpa 0x20000 0) with const := true }
def sCon : State := { with0 { a0 with loads := [ldC] } with engines := [(0, { ctx := some 1, ccache := [(0xC00, [toLE 128 7])] })] }

theorem witness_LoadsReturn :
    (∀ t ∈ ([.dpa 0x20000 0, .remote 2 0, .dpa (2 ^ 47) 0] : List Target), (with0 a0).sentLoad (aLd t) 0 = some (ld0 t) ∧ (with0 a0).viewLoad (ld0 t) = false) ∧
    (with0 (aLd (.dpa 0x20000 0))).act 0 0 = some (aLd (.dpa 0x20000 0)) ∧ (ld0 (.dpa 0x20000 0)).const = false ∧
    (ldC.const = true ∧ ((sCon.constRead 0 (ldC.va / 128)).1).isSome = true) ∧
    (with0 a0).routeFault 1 0 0 (.dpa 0x20000 0) = none ∧ (with0 a0).routeFault 1 0 0 (.dpa (64 * 65536) 0) = some 1 ∧
    (with0 a0).routeFault 1 0 0 (.remote 2 0) = none ∧ 0 % 32 = 0 ∧ (with0 a0).routeFault 1 0 0 (.dpa (2 ^ 47) 0) = none ∧
    (with0 a0).hostGone (2 ^ 47) = true ∧ (with0 a0).hostGone 0x20000 = false ∧
    sHeld.heldFrom (engineSeer 0 1) 0x20000 8 = true ∧ (with0 a0).heldFrom (engineSeer 0 1) 0x20000 8 = false ∧
    ((with0 a0).recall 0 1 0x20000 8 false false).isSome = true ∧
    { with0 a0 with hostLines := [(0, 0x20000, true)] }.recall 0 1 0x20000 8 false false = none ∧ (aLd (.dpa 0x20000 0)).faults = [] ∧
    (with0 a0).findsBad 0x20000 8 1 1 = none ∧ ({ with0 a0 with badBits := [0x400] }.findsBad 0x20000 8 1 1).isSome = true ∧
    (({ aLd (.dpa 0x20000 0) with loads := [] }.leave 0 0).pushes 0 false false).2 = true := by decide +kernel

/-- A load that allocates no line. -/
def ldN : Load := { ld0 (.dpa 0x20000 0) with alloc := false }

theorem witness_PlainLoadsReadTheirBytes :
    (with0 { a0 with loads := [ldN] }).act 0 0 = some { a0 with loads := [ldN] } ∧
    (with0 a0).sentLoad { a0 with loads := [ldN] } 0 = some ldN ∧ (with0 a0).badBits = [] ∧
    (with0 a0).viewLoad ldN = false ∧ ldN.alloc = false ∧ ldN.va / 2 ^ 48 = 0 ∧
    (with0 a0).routeFault 1 0 0 (.dpa 0x20000 0) = none ∧ (with0 a0).inflight = [] ∧
    ((with0 a0).recall 0 1 0x20000 8 false false).map (fun t => decide (t.readKeyed 0x20000 8 0 = (bytesAt (with0 a0).mem 0x20000 8, t))) =
      some true := by decide +kernel

/-- View 5 whose only block is in the state `b`, with its frames latched. -/
def sVw (b : VBlock) : State := { with0 a0 with views := [{ view5 with
  frames := [(0x10, 0x10, 0), (0x14, 0x14, 0)], blocks := [(0, b)] }] }
/-- What a load of view bytes under a policy gets, with the pins it holds: 0 a version, 1 a wait, 2 the version is gone, 3 a fault. -/
def served (s : State) (policy : Nat) (pins : List Pin) : Nat :=
  match (s.serveAll (engineSeer 0 1) policy (s.viewBlocks 0x140000 8) pins).1 with
  | .ok _ => 0
  | .wait => 1
  | .gone => 2
  | .fault _ => 3

theorem witness_ViewLoadsAreServed :
    (sVw {}).viewBlocks 0x140000 8 = [(0, 0)] ∧ served (sVw { gen := 1, tag := 1, noVersion := false }) 0 [] = 0 ∧
    served (sVw { gen := 2, tag := 1, noVersion := false }) 0 [] = 1 ∧
    served (sVw { gen := 2, tag := 2, noVersion := false }) 0 [{ view := 1029, block := 0, buf := 0, tag := 1 }] = 2 ∧
    a0.mayNot = false ∧ { a0 with faults := [{ n := 1, pc := 0, code := 1, info := 0 }] }.mayNot = true ∧
    served (sVw { faulted := true }) 2 [] = 3 := by decide +kernel

/-- Four running activations, of channels 1 and 2; and a record of channel 0. -/
def sP : State := sA [(0, {
  ctx := some 1, slots := [(0, { act := some a0 }), (1, { act := some { a0 with act := 256 } }), (2, { act := some { a0 with act := 512 } }),
    (3, { act := some { a0 with act := 768 } })],
  inbox := [{ msg := msgOf 0 1 1 0, slot := some 0 }, { msg := msgOf 0 2 1 0, slot := some 1 }, { msg := msgOf 0 1 1 0, slot := some 2 },
    { msg := msgOf 0 1 1 0, slot := some 3 }, { msg := msgOf 0 0 1 0 }] })]
/-- Queue entries; an activation that waits since cycle 1 at an MZERO; one that waits for a token at an ADDI with POPU. -/
def entry (n : Nat) (w : BitVec 64) : QEntry := { pc := 0, n := n, word := w }
def aE : Act := { a0 with qc := [entry 7 wMzero], stalls := [(7, 1)], blocked := [1] }
def aK : Act := { a0 with qc := [entry 7 (wAddi true)], stall := some 36 }

theorem witness_ActivationsLeaveTheirSlots :
    ((sP.eng 0).waiting 0 = true ∧ (∀ j, j < 4 → ((sP.eng 0).act j).isSome) ∧ (sP.eng 0).victim = some 1) ∧
    (aE.queue 1 = entry 7 wMzero :: [] ∧ aE.evictWait 1 = true ∧ (7, 1) ∈ aE.stalls ∧ (entry 7 wMzero).n = 7 ∧ 1 + 98 < (with0 aE).now 0 ∧
      aE.busy = false) ∧
    ({ aE with deferred := List.replicate 16 { n := 0, pc := 0, eff := .matrix { op := .mbar 0 0, ctx := 1 } } }.mxReserved = 16 ∧
      aE.wantsEntry = true ∧ (∀ j, j < 4 → j ≠ 0 → ((with0 aE).eng 0).act j = none)) ∧
    (aK.firstHead = some (entry 7 (wAddi true)) ∧ aK.stall = some 36 ∧ 36 + 64 ≤ (with0 aK).now 0 ∧ (∀ q, q < 3 → aK.tokenWait q = true) ∧
      { with0 aK with ctxs := [(1, { state := .held, rcd := rcd1 })] }.frontCan 0 0 aK = false) := by decide +kernel

/-- Engine 0 of context 1 has nothing to run, and a record for context 2 waits; and the switch has begun while a granted command runs. -/
def sW : State := sA [(0, { ctx := some 1, inbox := [{ msg := msgOf 0 1 2 0 }] })]
def sWc : State := { sA [(0, { ctx := some 1, incoming := some 2 })] with
  units := [(0, { running := [{ eng := 0, cmd := { op := .mldb 0 13 false 0 0, ctx := 1 } }] })] }
/-- Engine 0 scans; engine 1 of context 1 has a task. -/
def sScan (n : Nat) : State := sA [(0, { ctx := some 1, scan := n }), (1, { ctx := some 1, deque := [msgOf 0 1 1 0] })]

theorem witness_EnginesSwitchAndSteal :
    ((sW.eng 0).ctx = some 1 ∧ (sW.ctx 2).state = .live ∧ (sW.cluster 0).gated = false ∧ (sW.eng 0).wants 2 = true ∧
      (sW.eng 0).incoming = none ∧ sW.nothingRuns 0 = true ∧
      ((sW.requeueAll 0).modEng 0 (fun e => { e with incoming := some 2 })).mayLeave 0 = true) ∧
    ((sWc.eng 0).incoming = some 2 ∧ ((sWc.requeueAll 0).modEng 0 (fun e => { e with incoming := some 2 })).mayLeave 0 = false) ∧
    (2 ≠ 1 ∧ Sparse.sorted sW.mem = true ∧ (sW.eng 0).spad.sorted = true ∧ (sW.eng 0).mx.queue.length ≤ 16 ∧ (sW.eng 0).deque = [] ∧
      (sW.eng 0).saved.contains 2 = false ∧ ([2] : List Nat).contains 2 = true) ∧
    ((sScan 0).mayScan 0 = some 1 ∧ ((sScan 0).eng 0).rescan = none ∧ victimAt 0 0 0 = some 1 ∧ ((sScan 0).eng 1).ctx = some 1 ∧
      ((sScan 0).stealTask 1 1).isSome = true ∧ (((sScan 0).stealTask 1 1).bind (fun x => x.2.released (engineSource 1) 1 0 0 false)).isSome = true) ∧
    (victimAt 0 0 1 = some 2 ∧ ((sScan 1).eng 2).ctx ≠ some 1) ∧ victimAt 0 0 15 = none ∧
    (36 + 64 ≤ (sScan 0).now 0 ∧ ((sScan 0).mayScan 0).isSome = true) := by decide +kernel

/-- A packet at an endpoint of cluster 0. -/
def pk (b : Payload) (port : Nat) : Packet := { route := 0, ctx := 1, src := .engine 0 0, place := .endpoint 0 port, body := b }
def sPk (b : Payload) (port : Nat) : State := { sA [] with packets := [pk b port] }

theorem witness_MessagesArrive :
    (sPk (.msg (msgOf 0 0 1 0)) 0).packetFirst 0 = some (pk (.msg (msgOf 0 0 1 0)) 0) ∧
    (sPk (.msg (msgOf 0 0 1 0)) 20).packetFirst 0 = some (pk (.msg (msgOf 0 0 1 0)) 20) ∧
    (sPk (.msg (msgOf 0 0 1 0)) 16).packetFirst 0 = some (pk (.msg (msgOf 0 0 1 0)) 16) ∧
    (sPk (.routeFault 1 0 (.msg (msgOf 0 0 1 0))) 0).packetFirst 0 = some (pk (.routeFault 1 0 (.msg (msgOf 0 0 1 0))) 0) ∧
    (sPk (.routeFault 1 0 (.future 1025 .free)) 20).packetFirst 0 = some (pk (.routeFault 1 0 (.future 1025 .free)) 20) ∧
    (sPk (.migrated (msgOf 1 0 1 0)) 20).packetFirst 0 = some (pk (.migrated (msgOf 1 0 1 0)) 20) ∧ ((sA []).cluster 0).gated = false ∧
    ((sA []).released (.engine 0 0) 1 0 0 false).isSome = true ∧ sHeld.released (.engine 0 0) 1 1 1 false = none ∧
    (sA []).leastLoaded [0, 1] = some 0 ∧
    ((List.range 16).map (fun e => 16 * 0 + e)).filter (fun g => ((sA []).eng g).ctx == some (msgOf 1 0 1 0).ctx) = [] := by decide +kernel

/-- An operation of context `c` on a future of cluster 0, at its agent. -/
def op (c h : Nat) (o : FutOp) : Packet := { pk (.future h o) 20 with ctx := c, kind := 1, cls := 1 }
def sOp (m : Packet) : State := { sA [] with packets := [m], clusters := futsH, mem := memA }
/-- What an append to the call queue gives: 0 a record, 1 no room, 2 a wait. -/
def appended (s : State) : Nat :=
  match s.callAppend 1 (List.replicate 64 0) with
  | .ok _ => 0
  | .fails _ => 1
  | .wait _ => 2

theorem witness_FutureOperationsArrive :
    (sOp (op 3 1025 .free)).packetFirst 0 = some (op 3 1025 .free) ∧ ((sOp (op 3 1025 .free)).ctx 3).exists = false ∧
    ((sOp (op 1 1025 .free)).cluster (hCluster 1025)).gated = false ∧ ((sOp (op 1 1025 .free)).ctx 1).exists = true ∧
    ((sOp (op 1 1025 .free)).findFut 1025 1).map (fun x => (x.state, x.farWaiter 0)) = some (.live, false) ∧
    ((sOp (op 1 1025 .free)).findFut 2049 1).map (fun x => x.state) = some .lapsed ∧ (sOp (op 1 1025 .free)).findFut 4097 1 = none ∧
    ((sOp (op 1 1025 .free)).released (.engine 0 0) 1 0 0 false).isSome = true ∧ sHeld.released (.engine 0 0) 1 1 0 true = none ∧
    appended { sOp (op 1 1025 .free) with mem := memH } = 0 ∧
    appended { sOp (op 1 1025 .free) with mem := writeLE memH 0x2004C 4 16 } = 1 ∧
    appended { sOp (op 1 1025 .free) with mem := memH, hostLines := [(0, 0x70040, true)] } = 2 := by decide +kernel

theorem witness_WaiterDeadlinesPass :
    (let f : Fut := { state := .live, ctx := 1, waiters := [{ w2 with deadline := some 0 }, { w2 with deadline := some 0, lapse := true }] }
     let s : State := { base with clusters := [(0, { futs := [(1, f)] })] }
     s.futAt 0 1 = f ∧ f.waiters[0]? = some { w2 with deadline := some 0 } ∧ f.waiters[1]? = some { w2 with deadline := some 0, lapse := true } ∧
     f.state = .live ∧ 0 ≤ s.hubTime ∧ s.sameCycle = false) := by decide +kernel

/-- A dispatched activation has its handle of R28: engine 0, slot 0, generation 0. -/
theorem test_dispatch_gives_the_handle :
    (next? (exec (.dispatch 0 3) (sA [(0, { ctx := some 1, deque := [msgOf 0 0 1 0] })]))).bind (fun t => (t.act 0 3).map (fun a => a.act))
      = some 768 := by decide +kernel

/-! ### Copies, memory effects, tenure, reservations, hosts -/

/-- A copy of 8 bytes from global 0x20000 to scratchpad 0x100 (R198); its only sector; the same to global 0x20080. -/
def copyIn : Copy := {
  slot := 0, id := 0, ctx := 1, bar := 0, mcast := false, desc := toLE 128 (0x20000 + 0x100 * 2 ^ 64 + 8 * 2 ^ 192) }
def copyOut : Copy := { copyIn with desc := toLE 128 (0x100 + 0x20080 * 2 ^ 64 + 2 ^ 128 + 8 * 2 ^ 192) }
def sec0 : Sector := { ref := { i := 0, first := 0, len := 8 }, src := [{ va := 0x20000, n := 8, tgt := .dpa 0x20000 0 }] }
def sCp (c : Copy) : State := { with0 a0 with engines := [(0, { ctx := some 1, copies := [c] })] }
/-- An answer without an error. -/
def good {α : Type} (x : Except Nat α) : Bool :=
  match x with
  | .ok _ => true
  | .error _ => false
/-- Whether the global pieces of a side translate. -/
def xlates (c : Copy) (source : Bool) : Bool :=
  match ((sCp c).xlatePieces 0 1 (if source then .r else .w) (c.pieces source c.sector)).1 with
  | .ok _ => true
  | _ => false

theorem witness_CopiesMoveTheirSectors :
    (((sCp copyIn).eng 0).copies[0]? = some copyIn ∧ ((sCp copyIn).eng 0).ctx = some copyIn.ctx ∧ copyIn.replay = [] ∧
      copyIn.issuing = true ∧ xlates copyIn true = true ∧ copyOut.issuing = true ∧ xlates copyOut false = true ∧
      xlates { copyIn with desc := toLE 128 (2 ^ 30 + 0x100 * 2 ^ 64 + 8 * 2 ^ 192) } true = false ∧
      xlates { copyIn with desc := toLE 128 (0x100 + 2 ^ 30 * 2 ^ 64 + 2 ^ 128 + 8 * 2 ^ 192) } false = false ∧
      (sCp copyOut).segMarked [{ va := 0x20080, n := 8, tgt := .dpa 0x20080 0 }] = none ∧ (sCp copyOut).segBlocks sec0.src = []) ∧
    ((sec0.src ++ sec0.dst).any Seg.isRemote = false ∧ (sec0.src ++ sec0.dst).any (sCp copyIn).segGone = false ∧
      (sCp copyIn).sectorHeld 0 1 sec0 = false ∧ { sCp copyIn with inflight := sHeld.inflight }.sectorHeld 0 1 sec0 = true ∧
      good ((sCp copyIn).recallSegs 0 1 false sec0.src) = true ∧
      good ((sCp copyIn).recallSegs 0 1 true sec0.dst) = true ∧ (sCp copyIn).segMarked sec0.dst = none) ∧
    (copyIn.global true = true ∧ copyIn.global false = false ∧ copyIn.mcast = false ∧ copyIn.bar ≠ 127 ∧ sec0.data = none ∧
      ((sCp copyIn).eng 0).crossing (copyIn.since.getD 0 ((sCp copyIn).eng 0).past.length) (fun _ x => x == .word) = [] ∧
      (sCp copyIn).unshaped sec0.ticket = true ∧ { sCp copyIn with shaper := [⟨5, 0, 0⟩] }.unshaped 5 = false ∧ (sCp copyIn).badBits = [] ∧
      (({ sCp copyIn with free := 2 } : State).segBytes 0 1 [] sec0.src).2.eng 0 = (sCp copyIn).eng 0) ∧
    (copyIn.working = false ∧ 4 ≤ ((({ sCp copyIn with engines := [(0, { ctx := some 1, copies := copyIn :: List.replicate 4 { copyIn with
      working := true } })] } : State).eng 0).copies.filter (fun x => x.working)).length) ∧
    (posOf (fun (p : HeldPage) => p.asked && p.held) [{ page := 0, code := 7, asked := true }] = some 0 ∧
      { copyIn with next := 8 }.issuing = false) := by decide +kernel

/-- An effect in flight from engine 0 of context 1. -/
def fl (o : MemOp) (t : Target) : InFlight := { id := 0, g := 0, ctx := 1, tgt := t, op := o }
def sFl (o : MemOp) (t : Target) : State := { with0 a0 with inflight := [fl o t] }

/-- The bytes at an address can be read at their home; else the read waits for a version of a view. -/
def freshRead (s : State) (a : Nat) : Bool :=
  match s.readFresh (engineSeer 0 1) a 4 0 with
  | .ok _ => true
  | .error _ => false

theorem witness_MemoryEffectsReachTheirPlace :
    (∀ x ∈ ([(.write [1] none, .dpa 0x20000 0), (.write [1] (some true), .remote 2 0), (.write [1] none, .dpa (2 ^ 47) 0),
        (.atomic 0 15 1 0 false (some (0, 127)), .dpa 0x20000 0)] : List (MemOp × Target)),
      (sFl x.1 x.2).nextFlight 0 = some (fl x.1 x.2) ∧ (sFl x.1 x.2).routeFault 1 0 0 x.2 = none) ∧
    (with0 a0).hostGone 0x20000 = false ∧ (with0 a0).hostGone (2 ^ 47) = true ∧
    (((sFl (.write [1] none) (.dpa 0x20000 0)).dropFlight 0).allowWrite 0 1 0x20000 1 false).isSome = true ∧
    (((sFl (.atomic 0 15 1 0 false none) (.dpa 0x20000 0)).dropFlight 0).allowWrite 0 1 0x20000 4 true).isSome = true ∧
    (({ sFl (.write [1] none) (.dpa 0x20000 0) with hostLines := [(0, 0x20000, true)] } : State).dropFlight 0).allowWrite 0 1 0x20000 1 false = none ∧
    ((sFl (.atomic 0 15 1 0 false none) (.dpa 0x20000 0)).dropFlight 0).findsBad 0x20000 4 1 1 = none ∧
    ({ sFl (.atomic 0 15 1 0 false none) (.dpa 0x20000 0) with badBits := [0x400] }.findsBad 0x20000 4 1 1).isSome = true ∧
    freshRead (with0 a0) 0x20000 = true ∧ freshRead (sVw { gen := 2, tag := 1, noVersion := false }) 0x140000 = false ∧
    remoteCode (0 % 32) = 0 ∧ remoteCode (7 % 32) ≠ 0 ∧
    (sFl (.write [1] none) (.dpa (64 * 65536) 0)).routeFault 1 0 0 (.dpa (64 * 65536) 0) = some 1 ∧
    (let r : AtomRet := { g := 0, ctx := 1, addr := 0, bar := 127, v := 1, w := 4 }
     [r][0]? = some r ∧ ((sA [(0, { ctx := some 1 })]).eng r.g).ctx = some r.ctx ∧ ((sA [(0, { ctx := some 2 })]).eng r.g).ctx ≠ some r.ctx) := by
  decide +kernel

/-- A request of engine 0 for tile 0x4001 of context 1, one granule at 0x20000, not yet checked and at its home; a tenure of it. -/
def rq : TReq := { g := 0, ctx := 1, tile := 0x4001, write := true, deadline := some 0, msg := msgOf 1 0 1 0 }
def rqAt : TReq := { rq with homes := [(2, [0x20000])] }
def rqHome : TReq := { rqAt with arrived := true, part := [{ g := 2, lo := 0, hi := 0 }] }
def ten : Tenure := { cl := 0, ctx := 1, tile := 0x4001, st := .m }
def sRq (r : TReq) (ts : List Tenure) : State :=
  ({ sA [] with requests := [r], tenures := ts } : State).setTile 1 1 { defd := true, desc := 0x20000 + 2 ^ 64 }

/-- The granules of the tile that a request asks for. -/
def asked (r : TReq) (s : State) : Option (List Nat) :=
  match (s.tileDpas 0 r.ctx (if r.write then .w else .r) (match r.homes with
    | [] => tdGrans (0x20000 + 2 ^ 64)
    | (_, vas) :: _ => vas)).1 with
  | .ok gs => some gs
  | .error _ => none

theorem witness_TenureIsGrantedAndEnds :
    ((sRq rq [ten]).requests[0]? = some rq ∧ rq.arrived = false ∧ rq.homes = [] ∧
      (sRq rq [ten]).tenures.find? (fun t => t.cl == 0 && t.ctx == 1 && t.tile == 0x4001) = some ten ∧ ten.drain = false ∧
      ten.st.isWrite = true ∧ ten.hold < 65535 ∧ 65535 ≤ { ten with hold := 65535 }.hold ∧ { ten with drain := true }.drain = true ∧
      { ten with st := .s }.st.isWrite = false ∧ rq.write = true ∧ ((sRq rq [ten]).tenureOf 0 1 0x4001).isSome = true) ∧
    ((sRq rq []).tenures.find? (fun t => t.cl == 0 && t.ctx == 1 && t.tile == 0x4001) = none ∧ (sRq rq []).slice 0 < 512 ∧
      ((sRq rq []).tile 1 0x4001).isSome = true ∧ (sRq rq []).tile 1 0x4002 = none ∧
      (match ((sRq rq []).tileDpas 0 1 .w (tdGrans (0x20000 + 2 ^ 64))).1 with
        | .ok gs => decide (gs = [0x400])
        | _ => false) = true ∧
      (match ((sRq rq []).tileDpas 0 1 .w (tdGrans (2 ^ 30 + 2 ^ 64))).1 with
        | .ok _ => false
        | _ => true) = true ∧
      512 ≤ (sRq rq ((List.range 512).map (fun n => { ten with tile := n }))).slice 0) ∧
    (asked rq (sRq rq []) = some [0x400] ∧ (partsOf ([0x20000].zip [0x400])) = [(2, [0x20000])] ∧ asked rqAt (sRq rqAt []) = some [0x400] ∧
      ([(0x20000, 0x400)].filter (fun x => granHome x.2 == 2)) = [(0x20000, 0x400)] ∧
      ([(0x20000, 0x400)].filter (fun x => granHome x.2 == 5)) = [] ∧ (sRq rqAt []).homeFault 0 20 (128 * 0x400) = none ∧
      ({ sRq rqAt [] with ports := [(portKey 0 true 24, { state := .down })] }.homeFault 0 20 (128 * 0x400)).isSome = true) ∧
    (rqHome.arrived = true ∧ rqHome.homes = [(2, [0x20000])] ∧ (sRq rqHome []).grantable 0 rqHome 2 = true ∧
      (sRq rqHome [{ ten with ctx := 2, spans := rqHome.part }]).grantable 0 rqHome 2 = false ∧ (sRq rqHome []).tenures = [] ∧
      (∀ q ∈ (sRq rqHome []).requests, q = rqHome) ∧ (sRq rqHome []).tileRecords 2 < 4096 ∧
      (sRq rqHome []).hostIn true [{ g := 2, lo := 0, hi := 0 }] = false) ∧
    (rq.deadline = some 0 ∧ 0 ≤ (sRq rq []).hubTime ∧ (sRq rq []).sameCycle = false) ∧
    ({ ten with drain := true }.drain = true ∧ (sRq rq []).covering { ten with drain := true } = false ∧
      sHeld.covering { ten with drain := true, cover := some (0, 1) } = true) := by decide +kernel

/-- A request for the word at 0x20000, and its holder with ticket 9. -/
def user0 : ResvUser := { ctx := 1, g := 0 }
def rr0 : ResvReq := { dpa := 0x20000, key := 0, user := user0 }
def resv0 (n : Nat) : Resv := { dpa := 0x20000, key := 0, holder := user0, ticket := 9, deadline := some 0, waiters := List.replicate n user0 }

/-- The word can be read for its waiter. -/
def canRead (s : State) : Bool :=
  match s.readable 0x20000 0 user0 with
  | .ok _ => true
  | .error _ => false

theorem witness_ReservationsAreGrantedAndPassed :
    ([rr0][0]? = some rr0 ∧ 1024 ≤ ({ sA [] with resvs := [resv0 1023] } : State).resvUsed (homeIx 0x20000) ∧
      ({ sA [] with resvs := [resv0 1022] } : State).resvUsed (homeIx 0x20000) < 1024 ∧
      posOf (fun (r : Resv) => r.dpa == rr0.dpa) [resv0 0] = some 0 ∧ posOf (fun (r : Resv) => r.dpa == rr0.dpa) [] = none) ∧
    (∀ rel ∈ [true, false], (sFl (.sch 20 1 9 rel) (.dpa 0x20000 0)).nextFlight 0 = some (fl (.sch 20 1 9 rel) (.dpa 0x20000 0))) ∧
    (with0 a0).routeFault 1 0 0 (.dpa 0x20000 0) = none ∧ posOf (fun (r : Resv) => r.dpa == 0x20000 && r.ticket == 9) [resv0 0] = some 0 ∧
    posOf (fun (r : Resv) => r.dpa == 0x20000 && r.ticket == 8) [resv0 0] = none ∧
    (((sFl (.sch 20 1 9 false) (.dpa 0x20000 0)).dropFlight 0).allowWrite 0 1 0x20000 4 true).isSome = true ∧
    (({ sFl (.sch 20 1 9 false) (.dpa 0x20000 0) with hostLines := [(0, 0x20000, true)] } : State).dropFlight 0).allowWrite 0 1 0x20000 4 true
      = none ∧
    ((with0 a0).homeFault 0 0 0x20000 = none ∧ ((with0 a0).homeFault 0 0 (64 * 65536)).isSome = true ∧
      canRead (with0 a0) = true ∧ canRead sHeld = false) ∧
    ({ resv0 0 with passing := some 0 }.passing = some 0 ∧ (resv0 0).passing = none ∧ (resv0 1).waiters = user0 :: [] ∧ (resv0 0).waiters = []) ∧
    ((resv0 0).deadline = some 0 ∧ 0 ≤ base.hubTime) := by decide +kernel

/-- Host 0 has its port open and holds the lease. -/
def sHost (l : List (Nat × Nat × Bool)) : State := { sA [] with
  hub := { base.hub with link0 := true, bootState := 3, holder := 0 }, hostLines := l }

theorem witness_HostLinesAndTableWrites :
    ((sHost []).hostOpen 0 = true ∧ 0x20000 / 2 ^ 46 ≠ 2 + 0 ∧ inDram 0x20000 64 = true ∧
      (∀ l ∈ (sHost [(0, 0x20000, true)]).hostLines, ¬ (l.1 ≠ 0 ∧ l.2.1 = 0x20000 ∧ l.2.2 = true)) ∧
      (∀ l ∈ (sHost [(0, 0x20000, true)]).hostLines, ¬ (l.1 ≠ 0 ∧ l.2.1 / 128 = 0x20000 / 128)) ∧
      ((sHost []).recall 1024 256 0x20000 64 false false).isSome = true ∧ ((sHost []).allowWrite 1024 256 0x20000 64 false).isSome = true ∧ (sHost []).badBits = [] ∧
      (0, 0x20000, true) ∈ (sHost [(0, 0x20000, true)]).hostLines) ∧
    (2 ^ 47 / 2 ^ 46 = 2 + 0 ∧ ((sHost []).recall 1024 256 (2 ^ 47) 64 true false).isSome = true) ∧
    ([0x240][0]? = some 0x240 ∧ (sHost []).ptBusy 0x240 = false ∧
     (let t : State := { sHost [] with inflight := [{ fl (.write [] none) (.dpa 0 0) with uses := [0x240] }] }
      t.ptBusy 0x240 = true ∧ t.allowWrite 1024 256 0x12000 64 false = none) ∧
     ((sHost []).allowWrite 1024 256 0x20000 64 false).isSome = true) := by
  decide +kernel

/-! ### Contexts and views through their events, the hub -/

/-- A good context record at 0x200000, and memory that holds it. -/
def rcdOk : List Byte := toLE 256 (ofLE rcd1 + 2 ^ 688 + 2 ^ 752 + 2 ^ 816)
def sCtx (x : CtxState) : State := { sHost [] with
  mem := putBytes mem1 0x200000 (rcdOk.take 128), ctxs := [(3, { state := x })] }

theorem witness_ContextCommandsAct :
    ((sHost []).hostOpen 0 = true ∧ { (sHost []).hub with holder := 1 }.holder ≠ 0 ∧ Claims.fromHolder (sCtx .free) 0) ∧
    ({ (sHost []).hub with ctxStat := 256 }.ctxStat / 2 ^ 8 % 8 = 1 ∧ (sCtx .free).hub.ctxStat / 2 ^ 8 % 8 ≠ 1) ∧
    (((sCtx .live).ctx 3).state ≠ .free ∧ ((sCtx .free).ctx 3).state = .free ∧ (sCtx .free).unwriteFeatures.recordOk 0x200000 = true ∧
      (sCtx .free).hub.locked = false ∧ { (sCtx .free).hub with featWas := some 1 }.featWas ≠ none ∧
      (sCtx .free).unwriteFeatures.recordOk 0x300000 = false ∧ ((sCtx .free).ctx 3).state ≠ .live ∧ ((sCtx .live).ctx 3).state = .live) ∧
    (((sCtx .dying).ctx 3).state = .dying ∧ (sCtx .dying).ended 3 = true ∧ 3 < 256) :=
  ⟨⟨by decide +kernel, by decide, by decide +kernel, rfl⟩, by decide +kernel, by decide +kernel, by decide +kernel⟩

theorem witness_ViewBlocksAreRecomputed :
    (∀ v, (sVw v).views.length = 1) ∧ ((sVw {}).ctx view5.ctx).exists = true ∧
    ({ pending := true } : VBlock).running = none ∧ (sVw { pending := true }).pinBlocks { view5 with blocks := [(0, { pending := true })] } 0
      = false ∧
    (sCp { copyIn with pins := [{ view := 1029, block := 0, buf := 1, tag := 1 }] }).pinBlocks
      { view5 with blocks := [(0, { pending := true, noVersion := false, ret := some 1 })] } 0 = true ∧
    ({ running := some 1 } : VBlock).running = some 1 :=
  ⟨fun _ => rfl, by decide +kernel, rfl, by decide +kernel, by decide +kernel, rfl⟩

/-- An injection of connection `c` that waits for its turn. -/
def conn1 (c : Nat) : Inject := { ctx := 1, q := 0, start := 0, ntok := 1, h := 3073, value := 7, conn := some c }

theorem witness_TheLeaseChangesHands :
    ((sHost []).hostOpen 0 = true ∧ base.hub.holder = 2 ∧ (sHost []).hub.holder = 0 ∧ { (sHost []).hub with holder := 1 }.holder ≠ 2) ∧
    ((sHost []).hub.holder < 2 ∧ (sHost []).hub.remain = 0 ∧ { (sHost []).hub with remain := 1 }.remain ≠ 0) ∧
    (let t := { sHost [] with hub := { (sHost []).hub with featAcc := 2 ^ 11 + 1, arm1 := true, link1 := true } }
     t.feat 11 = true ∧ t.hub.arm (1 - t.hub.holder) = true ∧ t.linkUp (1 - t.hub.holder) = true) ∧
    ¬ ((sHost []).feat 11 = true) ∧ (1 : Nat) < 2 ∧
    (let h := { base.hub with orphan := some 0, grace := 1 }
     h.holder = 2 ∧ h.orphan = some 0 ∧ 0 + h.grace * 1000 < 1001) ∧
    (sFl (.write [1] none) (.dpa (2 ^ 47) 0)).inflight[0]? = some (fl (.write [1] none) (.dpa (2 ^ 47) 0)) ∧
    ([conn1 4] : List Inject)[0]? = some (conn1 4) := by decide +kernel

/-- Launch queue 5 of context 1, enabled, with a ring of 2 entries at 0x300000, one of them filled. -/
def lq5 (tail : Nat) : LaunchQ := { cfg := 1 + 0x300000 + 2 ^ 48 + 2 ^ 53, head := 0, tail := tail }
def sLq : State := { sHost [] with hub := { (sHost []).hub with queues := [(5, lq5 1)], pendIrq := [(3, 0)] } }

theorem witness_HubWritesAct :
    (Claims.fromHolder sLq 0 ∧ sLq.hub.locked = false ∧ { sLq.hub with locked := true }.locked = true) ∧
    ((sLq.lq 4).cfg % 2 = 0 ∧ { lq5 0 with cfg := 0x300000 + 2 ^ 48 }.formed = true ∧ { lq5 0 with cfg := 0 }.formed = false ∧
      (sLq.lq 5).cfg % 2 = 1 ∧ (2 % 2 ^ 32 + 2 ^ 32 - (sLq.lq 5).head) % 2 ^ 32 ≤ 2 ^ (sLq.lq 5).log ∧
      2 ^ (sLq.lq 5).log < (3 % 2 ^ 32 + 2 ^ 32 - (sLq.lq 5).head) % 2 ^ 32) ∧
    (sLq.hub.holder < 2 ∧ (sLq.lq 5).head ≠ (sLq.lq 5).tail ∧
      ((sLq.recall 1024 256 0x300000 128 false false).bind (fun t => t.recall 1024 256 (0x300000 + 128) 128 false false)).isSome = true ∧
      (sLq.lq 5).ring = 0x300000 ∧ (sLq.ctx (sLq.lq 5).ctx).state = .live ∧ (launchEntry 1 (bytesAt sLq.mem 0x300000 256)).1.kind ≠ 1 ∧
      (launchEntry 1 (1 :: List.replicate 255 0)).1.kind = 1) ∧
    (sLq.hub.pendIrq[0]? = some (3, 0) ∧ sLq.linkUp sLq.hub.holder = true ∧ sLq.inflight = []) ∧
    ((4 : Nat) ≠ 8 ∧ { sLq.hub with holder := 1 }.holder ≠ 0 ∧ ({ sLq with ctxs := [] } : State).anyCtx = false) :=
  ⟨⟨⟨by decide +kernel, rfl⟩, rfl, rfl⟩, by decide +kernel, by decide +kernel, by decide +kernel, by decide +kernel⟩

/-- Stream 7: port 3, UDP 80, 16 slots of 256 bytes at 0x400000, state at 0x500000, LOW 1 and HIGH 2; 2 slots are used where `u`. -/
def ing7 : Ingest := {
  cfg := 1 + 8 * 2 ^ 5 + 80 * 2 ^ 13 + 4 * 2 ^ 29 + 8 * 2 ^ 34 + 2 ^ 38, ring := 0x400000, state := 0x500000, mark := 2 + 2 ^ 21 }
def sIng : State := { sHost [] with
  hub := { (sHost []).hub with featAcc := 2 ^ 256 - 1, ingest := [(7, ing7), (8, { ing7 with paused := true })], rkey := [(1, 77)] },
  mem := writeLE mem1 0x500004 4 2, clusters := futsH, hubTime := 20 }
/-- A remote resolution of future 1025 of context 1 with a key. -/
def rmt (key : Nat) : List Byte := toLE 32 (1025 + 2 ^ 40 + key * 2 ^ 64)

theorem witness_TheEndpointActs :
    ((toLE 128 0).length = 128 ∧ (toLE 16 0).length = 16) ∧
    ((rmt 77).length = 32 ∧ (fun (o n : Nat) => ofLE (((rmt 77).drop o).take n)) 0 4 = 1025 ∧ ofLE (((rmt 77).drop 5).take 1) = 1 ∧
      sIng.rkey 1 ≠ 0 ∧ ofLE (((rmt 77).drop 8).take 8) = sIng.rkey 1 ∧ hGen 1025 ≠ 0 ∧ (sIng.cluster (hCluster 1025)).gated = false ∧
      sIng.futRoute (.endpoint sIng.draw.1) (hCluster 1025) = none ∧ sIng.injects = [] ∧
      (sIng.findFut 1025 1).map (fun x => x.state) = some .live ∧ ofLE (((rmt 76).drop 8).take 8) ≠ sIng.rkey 1) ∧
    (conn1 sIng.draw.1 ∈ ({ sIng with injects := [conn1 sIng.draw.1] } : State).injects ∧ (conn1 sIng.draw.1).conn = some sIng.draw.1) ∧
    (Claims.fromHolder sIng 0 ∧ sIng.feat 8 = true ∧ (sIng.stream 6).cfg % 2 = 0 ∧ ({ cfg := 0 } : Ingest).formed = false ∧
      { ing7 with cfg := ing7.cfg - 1 }.formed = true) ∧
    (sIng.streamFor 3 80 = some 7 ∧ ((sIng.allowRange (sIng.stream 7).state 64).bind (fun t => t.allowRange
      ((sIng.stream 7).ring + sIng.ingTail (sIng.stream 7) % 2 ^ (sIng.stream 7).log * 2 ^ (sIng.stream 7).slotLog)
      (2 ^ (sIng.stream 7).slotLog))).isSome = true ∧ (sIng.allowRange (sIng.stream 8).state 64).isSome = true) ∧
    ((sIng.stream 8).en = true ∧ (sIng.stream 8).paused = true ∧ (sIng.stream 8).low < sIng.ingUsed (sIng.stream 8) ∧
      (sIng.stream 8).pausedAt + 20 ≤ sIng.hubTime) :=
  ⟨by decide +kernel, by decide +kernel, ⟨.head _, rfl⟩, ⟨⟨by decide +kernel, rfl⟩, by decide +kernel, by decide +kernel, by decide +kernel, by decide +kernel⟩,
    by decide +kernel, by decide +kernel⟩

/-- CREATE locks the accepted features, and a claim of the free lease advances the epoch (R22, R423). -/
theorem test_create_locks_the_features :
    (next? (exec (.ctxCreate 0 3 0x200000) (sCtx .free))).map (fun t => (t.hub.locked, t.hub.ctxStat)) = some (true, 3) := by
  decide +kernel

/-! ### Bittern: resets, the boot chain, its map, and SPDM -/

/-- The Ed25519 key of the secret that is 32 zero bytes (RFC 8032), and SHA-512 of it: the root key. -/
def pub : Nat := 0x29da598ba148c03aa643e21d77153265730d6f2ad0a8a3622da4b6cebc276a3b
def root : Nat := 0xa2dda735ee37f9185a5cf88f03e935a8c3df2d89003f18e6f09bfd5357ddb1731fc6d7b43f33295e1bc1101f246aa126d01c86bce855c0584263ab79c6cfd57d
/-- The header of an image of `len` bytes with a signature (R443); an image of 8 zero bytes, signed; a plan of one harmonic without
bands at each domain's lowest frequency; the image with the plan in its place behind it. -/
def header (len sig : Nat) : Nat := 0x314A5247 + len * 2 ^ 64 + pub * 2 ^ 128 + sig * 2 ^ 384
def image8 : List Byte := toLE 136 (header 8
  0x2f52405b64d2b721765201b684b970ed66ad0956fa5632794c7b626404ca2f4ab4d1da78e46c3126b87d524d42070f5a4cfce4f3c78b963c025341e56b92d91)
def plan0 : List Byte := toLE 328 (2 ^ 8 + 500000 * 2 ^ 64 + 3000000 * 2 ^ 128 + 1000000 * 2 ^ 192 + 156250 * 2 ^ 256 + 156250 * 2 ^ 320 +
  100000 * 2 ^ 384)
def from' (o : Nat) (bs : List Byte) : Sparse Byte := bs.zipIdx.map (fun e => (o + e.2, e.1))
def bit8 (o : Nat) : Bittern := { rootKey := root, part := from' o image8 }
def bitP : Bittern := { rootKey := root, part := from' (imageAt + 128 + 528) (plan0.take 64) }
def bitB : Bittern := { rootKey := root, part := (bit8 imageAt).part ++ bitP.part }

theorem find_append (l m : Sparse Byte) (k : Nat) (h : ∀ e ∈ l, e.1 < k) : Sparse.find (l ++ m) k = Sparse.find m k := by
  induction l with
  | nil => rfl
  | cons e l ih =>
    have := h e (by simp)
    simp only [List.cons_append, Sparse.find]
    rw [if_neg (by omega), if_neg (by omega), ih (fun x hx => h x (by simp [hx]))]

theorem bytesAt_append (l m : Sparse Byte) (n : Nat) : ∀ a, (∀ e ∈ l, e.1 < a) → bytesAt (l ++ m) a n = bytesAt m a n := by
  induction n with
  | zero => intro a _; rfl
  | succ n ih =>
    intro a h
    simp only [bytesAt, Sparse.get, find_append l m a h]
    rw [ih (a + 1) (fun e he => by have := h e he; omega)]

/-- The configuration block is read behind the bytes of the header. -/
theorem config_append (b : Bittern) (l m : Sparse Byte) (h : ∀ e ∈ l, e.1 < imageAt + 136) :
    { b with part := l ++ m }.configOk = ({ part := m } : Bittern).configOk := by
  have k : ∀ o n, 8 ≤ o → bytesAt (l ++ m) (imageAt + 128 + o) n = bytesAt m (imageAt + 128 + o) n :=
    fun o n ho => bytesAt_append l m n _ (fun e he => by have := h e he; omega)
  simp only [Bittern.configOk, Bittern.config, Bittern.image]
  simp only [k 512 8 (by decide), k 520 8 (by decide), k 856 8 (by decide), k 864 160 (by decide), k 528 328 (by decide)]
  congr 1

theorem header_low : ∀ e ∈ (bit8 imageAt).part, e.1 < imageAt + 136 := by decide +kernel

theorem config_bitB : bitB.configOk = true :=
  (config_append bitB (bit8 imageAt).part bitP.part header_low).trans (by decide +kernel)

theorem config_bit8 : (bit8 imageAt).configOk = false := by
  have k := config_append (bit8 imageAt) (bit8 imageAt).part [] header_low
  rw [List.append_nil] at k
  exact k.trans (by decide +kernel)

theorem witness_BootFollowsItsStages :
    (bit8 0).imageFault 0 (2 ^ 24) 0 = none ∧ ({} : Bittern).imageFault 0 (2 ^ 24) 0 = some 1 ∧
    State.reset.hub.bootState ≠ 1 ∧ (State.reset.setBoot 1 0 0).hub.bootState = 1 ∧
    ({} : Bittern).imageFault imageAt (2 ^ 30) 0 = some 1 ∧ 3 % 16 < 4 ∧ 4 ≤ 4 % 16 := by decide +kernel

theorem witness_BootFollowsItsStages_device :
    (bit8 imageAt).imageFault imageAt (2 ^ 30) 0 = none ∧ (bit8 imageAt).configOk = false ∧
    bitB.imageFault imageAt (2 ^ 30) 0 = none ∧ bitB.configOk = true :=
  ⟨by decide +kernel, config_bit8, by decide +kernel, config_bitB⟩

/-- R446: the digest of RFC 6234's test message "abc", and R444: the signature of RFC 8032's first test vector. -/
theorem test_sha512_of_abc : sha512 [0x61, 0x62, 0x63] = toBE 64
    0xddaf35a193617abacc417349ae20413112e6fa4e89a97ea20a9eeee64b55d39a2192992a274fc1a836ba3c23a3feebbd454d4423643ce80e2a9ac94fa54ca49f := by
  decide +kernel
theorem test_ed25519_accepts_a_signature :
    edVerify (toBE 32 0xd75a980182b10ab7d54bfed3c964073a0ee172f3daa62325af021a68f707511a) (toBE 64
      0xe5564300c360ac729086e2cc806e828a84877f1eb8e5d974d873e065224901555fb8821590a33bacc61e39701cf9b46bd25bf5f0595bbe24655141438e7a100b) []
      = true := by decide +kernel

theorem witness_BitternUnitsAct :
    0 / 2 ^ 16 % 2 = 0 ∧ ({ edStat := 1 } : Bittern).edStat = 1 ∧ (2 ^ 16 + 4096) / 2 ^ 16 % 2 = 1 ∧ (2 ^ 16 + 4096) % 2 ^ 16 ≤ 4096 ∧
    (({} : Bittern).operand 0x0803FFE0 32).isSome = true ∧ (({} : Bittern).operand 0x08000000 64).isSome = true ∧
    (({} : Bittern).operand 0x08000000 (4096 % 2 ^ 16)).isSome = true ∧ 4096 < (2 ^ 16 + 4097) % 2 ^ 16 ∧
    ({} : Bittern).operand 0x0803FFE1 32 = none ∧ ({ edRun := some ([], [], []) } : Bittern).edRun = some ([], [], []) := by decide +kernel

theorem witness_BitternAccessesComplete :
    (0xFFF8 % 8 = 0 ∧ 0xFFF8 + 8 ≤ 0x10000) ∧ (0x08000000 ≤ 0x0803FFFF ∧ 0x0803FFFF + 1 ≤ 0x08040000) ∧
    (0x09000000 ≤ 0x0903FFF8 ∧ 0x0903FFF8 + 8 ≤ 0x09040000) ∧ (0x10000000 ≤ 0x4FFFFFFE ∧ 0x4FFFFFFE + 2 ≤ 0x50000000) ∧
    (0xA0000000 ≤ 0xA0000044 ∧ 0xA0000044 + 4 ≤ 0xA0000048) ∧ (0xB0000000 ≤ 0xB0000038 ∧ 0xB0000038 < 0xB0000040) ∧
    0xB0001000 ≤ 0xB0001000 ∧ (0x50000000 ≤ 0x8FFFFFF8 ∧ 0x8FFFFFF8 + 8 ≤ 0x90000000) ∧ (2 < 12 ∧ 11 < 12 ∧ 3 ≤ 11) ∧
    (∀ a ∈ [0x10000, 0x08040000, 0x90000000, 0xA0000048, 0xB0001000], ∀ r ∈ [(0, 0x10000), (0x08000000, 0x40000), (0x09000000, 0x40000),
      (0x10000000, 0x40000000), (0x50000000, 0x40000000), (0xA0000000, 0x48), (0xB0000000, 0x1000)], ¬ (r.1 ≤ a ∧ a + 8 ≤ r.1 + r.2)) := by
  decide

/-- A request of a code. -/
def spdm (code : Byte) : List Byte := [0x13, code, 0, 0, 0, 0, 0, 0]

theorem witness_SpdmAnswers :
    4 ≤ (spdm 0x84).length ∧ (∀ c ∈ ([0x84, 0xE1, 0xE3, 0x81, 0x82, 0x83, 0xE0] : List Byte), ((spdm c).getD 1 0) = c) ∧
    (((spdm 0x05).getD 1 0).toNat ∉ spdmCodes) ∧ ({ busy := true } : Bittern).busy = true ∧ State.reset.bittern.busy = false ∧
    ((spdm 0x83).getD 2 0).toNat % 16 = 0 ∧ (State.reset.measured 0).isSome = true ∧ State.reset.measured 0x80 = none := by decide +kernel

theorem witness_SpdmAnswers_certificate : ((spdm 0x82).getD 4 0).toNat + 256 * ((spdm 0x82).getD 5 0).toNat ≤ certChain.length := by
  simp [spdm]

/-! ### Keys, plans, power and errors -/

/-- Host 0 holds the lease, every feature is accepted, and no context exists. -/
def sMg : State := { State.reset with
  hub := { link0 := true, bootState := 3, holder := 0, featAcc := 2 ^ 256 - 1 }, mem := putBytes [] 0x1000 (plan0.take 64), hubTime := 1000 }
def mgHub (f : Hub → Hub) : State := sMg.modHub f

theorem holder_mg : Claims.fromHolder sMg 0 := ⟨by decide +kernel, rfl⟩

theorem witness_KeysMove :
    Claims.fromHolder sMg 0 ∧ (mgHub (fun h => { h with keyRes := 1 })).hub.keyRes = 1 ∧ sMg.hub.keyRes ≠ 1 ∧ 4096 % 4096 = 0 ∧
    (mgHub (fun h => { h with featAcc := 1 })).feat 13 = false ∧ 4095 % 4096 ≠ 0 ∧ sMg.feat 13 = true ∧
    (sMg.allowWrite hubParty 256 0x1000 64 false).isSome = true ∧
    { sMg with hostLines := [(0, 0x1000, true)] }.allowWrite hubParty 256 0x1000 64 false = none ∧ inDram 0x1000 64 = true ∧ inDram (3 * 2 ^ 40) 64 = false ∧
    (mgHub (fun h => { h with keyWait := some (4095, 0x1000) })).hub.keyMove = none ∧
    (mgHub (fun h => { h with keyWait := some (4095, 0x1000) })).hub.keyWait = some (4095, 0x1000) ∧
    ((mgHub (fun h => { h with keyWait := some (4095, 0x1000) })).allowWrite hubParty 256 0x1000 64 false).isSome = true ∧
    (mgHub (fun h => { h with keyMove := some (4095, 7) })).hub.keyMove = some (4095, 7) ∧ sMg.keys.get 0 4095 ≠ 7 ∧
    ([(5, 4095)] : Sparse Nat) ≠ [] :=
  ⟨holder_mg, by decide +kernel⟩

theorem witness_PlansAreChecked :
    Claims.fromHolder sMg 0 ∧ (mgHub (fun h => { h with planRes := 1 })).hub.planRes = 1 ∧ sMg.hub.planRes ≠ 1 ∧
    (mgHub (fun h => { h with featAcc := 1 })).feat 10 = false ∧ sMg.feat 10 = true ∧ sMg.anyCtx = false ∧
    { sMg with ctxs := [(1, { state := .live })] }.anyCtx = true ∧ inDram (3 * 2 ^ 40) 328 = false ∧ inDram 0x1000 328 = true ∧
    planInRange (bytesAt sMg.mem 0x1000 328) = true ∧ planClear (bytesAt sMg.mem 0x1000 328) = true ∧ planInRange (bytesAt sMg.mem 0 328) = false ∧
    planInRange (bytesAt (writeLE (writeLE sMg.mem 0x1000 1 1) 0x104C 4 (2 ^ 32 - 1)) 0x1000 328) = true ∧
    planClear (bytesAt (writeLE (writeLE sMg.mem 0x1000 1 1) 0x104C 4 (2 ^ 32 - 1)) 0x1000 328) = false :=
  ⟨holder_mg, by decide +kernel⟩

/-- The harts of cluster 0 wait for an interrupt. -/
def sQt : State := { sMg with harts := (List.range 4).map (fun h => (h, { run := .wfi })), clusters := [(0, { idle := some 0 })] }

theorem witness_PowerFollowsItsRules :
    1023 < 1024 ∧ 48 ≤ 48 ∧ 110 ≤ 110 ∧ 255 < 256 ∧ 109 < 110 ∧ Memory.wf sMg.mem = true ∧ (∀ e ∈ ([2 ^ 40, 3 * 2 ^ 39] : List Nat), 128 * e / 2 ^ 46 = 2 ∨ 128 * e / 2 ^ 46 = 3) ∧
    (mgHub (fun h => { h with trip := some 0 })).hub.trip = some 0 ∧ 0 + 100000 < { sMg with hubTime := 100001 }.hubTime ∧
    sMg.hub.trip = none ∧ { sMg with inflight := [fl (.write [] none) (.dpa (2 ^ 47) 0)] }.hostFlying = true ∧ sMg.hostFlying = false ∧
    (sQt.cluster 0).gated = false ∧ sQt.quiet 0 = true ∧ sQt.inflight = [] ∧ (sQt.cluster 0).idle = some 0 ∧ 0 + 1000 ≤ sQt.hubTime ∧
    { sQt with hubTime := 999 }.hubTime < 0 + 1000 ∧ ({ sQt with clusters := [(0, { gated := true })] }.cluster 0).gated = true := by
  decide +kernel

theorem witness_ErrorsAreContained :
    Claims.fromHolder sMg 0 ∧ sMg.badBits = [] ∧ { sMg with badBits := [0x80] }.badBits = [0x4000 / 128] ∧ 5 ∈ [1, 2, 3, 4, 5, 6] ∧ sMg.errorCtxs 5 0 0 = [] ∧ sMg.errorCtxs 1 3 0 = [] ∧ Memory.wf sMg.mem = true ∧
    bitOf (0x4000 + 32 + 4) 5 = true ∧ inDram ((0x4000 + 32 + 4) / 2 ^ 6 % 2 ^ 42 * 64 + 64 * (0 % 2 ^ ((0x4000 + 32 + 4) % 32))) 64 = true ∧
    bitOf sMg.hub.mce 5 = false ∧ 6 ∈ [1, 2, 3, 4, 6] ∧ { sMg with ctxs := [(3, { state := .live })] }.errorCtxs 6 3 0 = [3] ∧
    (2 < 3 ∧ 12288 = 1 + 3 * 4095 + 2 ∧ ({ sMg with harts := [(4095, { run := .run })] }.hart 4095).run = .run) :=
  ⟨holder_mg, by decide +kernel⟩

/-! ### The fabric -/

/-- A packet of engine 0 on a route, at switch 0 behind port 0. -/
def pw (route ptr : Nat) (b : Payload) : Packet := {
  route := route, ptr := ptr, ctx := 1, src := .engine 0 0, place := .switch 0 0, body := b }
def sSw (p : Packet) : State := { sA [] with packets := [p] }
def letter0 : Payload := .msg (msgOf 0 0 1 0)

/-- A packet for engine 5 of cluster 0; its engine has a write on its way to another device that a message covers. -/
def pF : Packet := pw (mkRoute 0 [5] 0) 0 letter0
def sPod : State := { sA [] with inflight := [{ fl (.write [1] (some true)) (.remote 2 0) with reach := 3 }] }

theorem witness_SwitchesForwardOrReturn :
    Claims.standsAt (sSw (pw 0 0 letter0)) 0 0 0 (pw 0 0 letter0) ∧ (pw 0 0 letter0).malformed = false ∧
    (∀ p ∈ ([{ pw 0 0 letter0 with cls := 3 }, { pw 0 0 letter0 with kind := 8 }, { pw 0 0 letter0 with len := 9 }] : List Packet),
      (sSw p).packetFirst 0 = some p ∧ p.malformed = true) ∧
    (sSw (pw 0 0 letter0)).checkHop (mkRoute 2 [24, 16, 17] 3) 0 0 0 false = .goes (.switch 1024 0) ∧
    (sSw (pw 0 0 letter0)).checkHop (mkRoute 0 [5] 0) 0 0 0 false = .goes (.endpoint 0 5) ∧
    (sSw (pw 0 0 letter0)).checkHop (mkRoute 4 [24, 16, 20, 32, 0, 0] 3) 3 1184 0 false = .goes (.link 0) ∧
    (sSw (pw 0 0 letter0)).checkHop 0 0 0 0 false = .fails 1 ∧ letter0.isFault = false ∧ (Payload.routeFault 0 0 letter0).isFault = true ∧
    (sSw (pw (mkRoute 0 [5] 0) 0 letter0)).packets = [pw (mkRoute 0 [5] 0) 0 letter0] ∧
    ((sSw pF).portTurn 5 pF).isSome = true ∧ { sSw pF with packets := [pF, { pF with cls := 1 }] }.portTurn 5 pF = none ∧
    (sSw pF).owesPod pF.src pF.ctx 0 = false ∧ sPod.owesPod pF.src pF.ctx 1 = true ∧
    (let f := { fl (.write [] none) (.remote 2 0) with since := 0 }
     { sFl (.write [] none) (.remote 2 0) with hubTime := 2000 }.nextFlight 0 = some f ∧ f.since + 2000 ≤ 2000 ∧ 1999 < f.since + 2000 ∧
     (sFl (.write [] none) (.remote 2 0)).unshaped f.ticket = true) ∧
    ((with0 (aLd (.remote 2 0))).act 0 0 = some (aLd (.remote 2 0)) ∧ (aLd (.remote 2 0)).loads[0]? = some (ld0 (.remote 2 0)) ∧
      (ld0 (.remote 2 0)).since + 2000 ≤ { with0 (aLd (.remote 2 0)) with hubTime := 2000 }.hubTime ∧
      (with0 (aLd (.remote 2 0))).unshaped (ld0 (.remote 2 0)).ticket = true) ∧
    ([pF, pF][1]? = some pF ∧ pF ∈ [pF, pF].take 1) :=
  ⟨⟨by decide +kernel, rfl⟩, by decide +kernel⟩

theorem witness_OutputPortsServeInTurn :
    (∀ ps ∈ [[{ pF with tc := 0 }, pF], [{ pF with cls := 1 }, pF], [{ pF with tc := 2 }]],
      { sSw pF with packets := ps }.packets.filter (fun q => { sSw pF with packets := ps }.outPort q == some 5) = ps) ∧
    pF.tc ≠ 0 ∧ pF.cls ≠ 1 ∧ 0 < ({ left := [8, 4, 1] } : Arb).share pF.tc ∧ pF.tc < 2 ∧ ({ left := [8, 0, 1] } : Arb).share 2 ≤ 0 ∧
    (∀ k < 4, -5 < ({ left := [8, 4, -4] } : Arb).share k) ∧ 3 < 4 := by decide +kernel

/-- A packet of TC 0 in the shaper, with a bucket. -/
def pS : Packet := { pw 0 0 letter0 with tc := 0, place := .shaper, ticket := 9 }
def shp : Shaped := { ticket := 9, key := 256 * pS.src.shaper + 1, flits := 5 }
def sSh (n : Nat) : State := { sSw pS with buckets := [(shp.key, { flits := n })], shaper := [shp, shp] }

theorem witness_TheShaperCharges :
    ((∀ cls ∈ ([tcMsg, tcMem, tcBulk] : List (Nat → Nat)), cls (2 ^ 28 + 2 ^ 30 + 2 ^ 32) ≠ 0 ∧ cls 1 = 0) ∧ 0 % 2 ^ 12 = 0 ∧ 1 % 2 ^ 12 ≠ 0) ∧
    (sSh 4).shaper[0]? = some shp ∧ (sSh 4).shaper[1]? = some shp ∧ (∀ y ∈ (sSh 4).shaper.take 1, y.key = shp.key) ∧
    (sSh 4).shaper.take 0 = [] ∧ (sSh 4).packets[0]? = some pS ∧ pS.ticket = shp.ticket ∧ pS.place = .shaper ∧
    (sSw pS).buckets.find shp.key = none ∧ (sSh 4).buckets.find shp.key = some { flits := 4 } ∧
    (sSh 4).ctxTc (shp.key % 256) % 2 ^ 12 = 0 ∧
    ((sSh 4).modHub (fun h => { h with ctxTc := [(1, 1)] })).ctxTc (shp.key % 256) % 2 ^ 12 ≠ 0 ∧ 4 < shp.flits ∧ shp.flits ≤ 5 := by
  decide +kernel

theorem witness_LinksFollowTheirStates :
    31 < 32 ∧ (State.reset.linkPort 31).state = .down ∧ ((sA []).linkPort 0).state ≠ .down ∧
    ({ sA [] with ports := [(linkKey 0, { state := .training })] }.linkPort 0).state = .training ∧ 0 + 10 ≤ 10 ∧ 9 < 0 + 10 ∧
    ((List.range 16).map (fun n => n + 985)).filter (fun n => 1000 < n + 1000) = (List.range 16).map (fun n => n + 985) ∧
    ([0] : List Nat).filter (fun n => 1000 < n + 1000) = [] ∧ ((sA []).linkPort 0).state ≠ .training ∧
    ((sA []).linkPort 0).state = .up ∧ ({ sA [] with ports := [(linkKey 0, { state := .disabled })] }.linkPort 0).state = .disabled ∧
    bitOf 0 31 = false ∧ bitOf (2 ^ 31) 31 = true := by decide +kernel



/-- A peer's request names this device and holds the key of context 1. -/
def sRem : State := { base with hub := { base.hub with devid := 9, akey := [(1, 77)] } }
/-- What an address of window 0 translates to. -/
def lands (need : Need) (o : Nat) : Option Nat :=
  match (sRem.translate0 1 need o).1 with
  | .ok (.dpa a _) _ => some a
  | _ => none

theorem witness_RemoteRequestsAreAnswered :
    1 < 256 ∧ 0x2007F < 2 ^ 48 ∧ 0x2007F % 128 + 1 ≤ 128 ∧ ¬ (8 = sRem.hub.devid) ∧
    (9 = sRem.hub.devid ∧ sRem.hub.akey.get 0 1 ≠ 0 ∧ 77 = sRem.hub.akey.get 0 1 ∧ (sRem.ctx 1).state = .live) ∧
    lands .r 0x2007F = some 0x2007F ∧ lands .w 0x20078 = some 0x20078 ∧ lands .rw 0x20078 = some 0x20078 ∧ 0x20078 % 8 = 0 ∧
    (sRem.allowWrite 1024 256 0x20078 8 false).isSome = true ∧ (sRem.recall 1024 256 0x2007F 1 false false).isSome = true ∧ 12 < 13 ∧
    sRem.viewBlocks 0x2007F 1 = [] ∧ sRem.agentFault 0x20078 = none ∧ effTc (sRem.ctxTc 1) (tcMem (sRem.ctxTc 1)) ≠ 0 ∧
    ({ sRem with ports := [(portKey 1184 false 0, { state := .down })] }.agentFault 0x20078).isSome = true ∧
    (let p : Packet := { pw (mkRoute 4 [24, 16, 20, 32, 0, 52] 4) 5 (.request 8 1 77 0 0x2007F 1 0) with place := .endpoint 1184 52 }
     (sSw p).packetFirst 0 = some p) ∧
    (sRem.translate0 1 .r (2 ^ 30)).1 = .bad { code := 7, page := 2 ^ 30 } ∧
    ({ sRem with mem := writeLE mem1 0x12000 8 0x19B }.translate0 1 .r 0).1 = .bad { code := 8, page := 0 } := by decide +kernel

/-! ### Collectives -/

/-- Group 5 of context 1: the engines 0 and 1 contribute, with root 0. -/
def con (e : Nat) : Contrib := { eng := e, kind := 1, fmt := 15, rop := 0, len := 4, dst := 0, bar := 0, data := [1, 0, 0, 0] }
def run5 (ps : List Contrib) : CollRun := { group := 5, seq := 0, parts := ps }
def sCo (r : CollRun) : State := { sMg with
  groups := [(5, { state := .registered, ctx := 1, mask := 3, tmo := 1000 })], collRuns := [r], ctxs := [(1, { state := .live })]
  engines := [(0, { ctx := some 1 }), (1, { ctx := some 2 })]
  mem := writeLE [] 0x40000 8 3 }

theorem witness_GroupsAreRegistered :
    Claims.fromHolder (sCo (run5 [])) 0 ∧ 63 < 64 ∧ 1 < 256 ∧ ((sCo (run5 [])).group 5).state ≠ .free ∧ ((sCo (run5 [])).ctx 2).state ≠ .live ∧
    ((sCo (run5 [])).group 63).state = .free ∧ ((sCo (run5 [])).ctx 1).state = .live ∧ (sCo (run5 [])).groupRecord 1 0x50000 = none ∧
    ((sCo (run5 [])).groupRecord 1 0x40000).isSome = true :=
  ⟨⟨by decide +kernel, rfl⟩, by decide +kernel⟩

/-- A result chunk for an engine. -/
def chunk (e : Nat) : Chunk := { tag := 1, group := 5, ctx := 1, seq := 0, kind := 1, eng := e, addr := 0, bar := 0, data := [1, 0, 0, 0] }

theorem witness_ResultsLandInChunks :
    (sCo (run5 [con 0])).collRuns[0]? = some (run5 [con 0]) ∧
    { sCo (run5 [con 0]) with shaper := [⟨3, 1, 1⟩] }.sentParts (run5 [con 0, { con 1 with ticket := 3 }]) = [con 0] ∧
    ((sCo (run5 [])).group 5).late [con 0, { con 1 with since := 1001 }] = some (0, 0) ∧ ((sCo (run5 [])).group 5).late [con 0] = none ∧
    (sCo (run5 [])).unshaped (chunk 0).ticket = true ∧
    (∀ e ∈ ((sCo (run5 [])).group 5).descent 0, ((sCo (run5 [])).port e.1 false e.2).state = .up) ∧
    ({ sCo (run5 []) with ports := [(portKey 0 false 0, { state := .down })] }.port 0 false 0).state ≠ .up ∧
    ((sCo (run5 [])).group 5).clash [con 0, { con 1 with fmt := 16 }] = some (0, 0) ∧ ((sCo (run5 [])).group 5).clash [con 0] = none ∧
    ((sCo (run5 [])).group 5).switches.length = 4 ∧
    (members ((sCo (run5 [con 0])).group 5).mask).any (fun g => !(run5 [con 0]).parts.any (fun p => p.eng == g)) = true ∧
    Claims.complete (sCo (run5 [con 0, con 1])) (run5 [con 0, con 1]) ∧ [chunk 0][0]? = some (chunk 0) ∧
    ((sCo (run5 [])).eng (chunk 0).eng).ctx = some (chunk 0).ctx ∧ ((sCo (run5 [])).eng (chunk 1).eng).ctx ≠ some (chunk 1).ctx ∧
    (∀ d ∈ dropAt [chunk 1] 0, d.tag ≠ (chunk 1).tag) ∧ (∃ d ∈ dropAt [chunk 1, chunk 1] 0, d.tag = (chunk 1).tag) ∧
    (sCo (run5 [])).drops = [] :=
  ⟨rfl, by decide +kernel, by decide +kernel, by decide +kernel, by decide +kernel, by decide +kernel, by decide +kernel, by decide +kernel, by decide +kernel,
    by decide +kernel, by decide +kernel, ⟨by decide +kernel, by decide +kernel, by decide +kernel, by decide +kernel⟩, rfl,
    by decide +kernel, by decide +kernel, by decide, by decide, rfl⟩

/-- R482: engine 0 has contributed at 0, and switch 0 misses its port 1. -/
theorem witness_InstancesTimeOut :
    ((sCo (run5 [])).group 5).waits [con 0] = some (0, 0, 2) ∧ ((sCo (run5 [])).group 5).waits [con 0, con 1] = none ∧
    ((sCo (run5 [])).group 5).tmo ≠ 0 ∧ 0 + ((sCo (run5 [])).group 5).tmo ≤ (sCo (run5 [])).hubTime ∧
    ((sCo (run5 [])).group 6).tmo = 0 ∧ 999 < 0 + ((sCo (run5 [])).group 5).tmo := by decide +kernel

theorem witness_IntegerSumsCombine :
    [con 0, con 16383] ≠ [] ∧ (∀ p ∈ [con 0, con 16383], p.eng < 16384 ∧ p.data.length = 4) ∧ 0 < 4 / 4 := by decide

theorem test_integer_sum_combines : (combineAll 15 0 4 4 [con 0, con 1]).getD 0 0 = 2 := by decide +kernel


/-! ### Decoding: every constructor from a word written out from R82 to R85, R106 to R109 and R308 -/

/-- Operand fields of each form, bit by bit in the order of R85, and the values that they hold. -/
def bX : BitVec 44 := 0b100001#6 ++ 0b010010#6 ++ 0b001001#6 ++ 0b100100#6 ++ 0b10101#5 ++ 0b101#3 ++ 0b1#1 ++ 0b01010100101#11
def fX : XForm := { d := 33, a := 18, b := 9, c := 36, fmt := 21, rm := 5, sat := true, fn := 677 }
def bI : BitVec 44 := 0b100001#6 ++ 0b010010#6 ++ 0x80000005#32
def fI : IForm := { d := 33, a := 18, imm := 0x80000005 }
def bL : BitVec 44 := 0b100001#6 ++ 0x2000000005#38
def fL : LForm := { d := 33, imm := 0x2000000005 }
def bB : BitVec 44 := 0b10010#5 ++ 0b1#1 ++ 0b010010#6 ++ 0x80000005#32
def fB : BForm := { cond := 18, hint := true, a := 18, imm := 0x80000005 }
def bM (mode : BitVec 5) : BitVec 44 := 0b000001#6 ++ 0b010010#6 ++ 0b001001#6 ++ 0b10101#5 ++ mode ++ 0x8005#16
def fM (mode : BitVec 5) : MForm := { d := 1, a := 18, b := 9, fmt := 21, mode := mode, ofs := 0x8005 }
def bV : BitVec 44 := 0b1000#4 ++ 0b0100#4 ++ 0b0010#4 ++ 0b0001#4 ++ 0b100001#6 ++ 0b10101#5 ++ 0b101#3 ++ 0b1#1 ++ 0b10010#5 ++ 0xA5#8
def fV : VForm := { hd := 8, ha := 4, hb := 2, hc := 1, g := 33, fmt := 21, rm := 5, sat := true, mask := 18, fn := 165 }
def bT (fn : BitVec 10) : BitVec 44 := 0b10010#5 ++ 0b1000001#7 ++ 0b1000#4 ++ 0b0100#4 ++ 0b10101#5 ++ 0b01010#5 ++ 0b101#3 ++ 0b1#1 ++ fn
def fT (fn : BitVec 10) : TForm := { acc := 18, ws := 65, ha := 8, hs := 4, fa := 21, fb := 10, rm := 5, sat := true, fn := fn }
def bY (sub : BitVec 3) : BitVec 44 := 0b100001#6 ++ 0b010010#6 ++ 0b001001#6 ++ 0b1000001#7 ++ sub ++ 0x8005#16
def fY (sub : BitVec 3) : YForm := { d := 33, a := 18, b := 9, obj := 65, sub := sub, imm := 0x8005 }
/-- A word of class C, A or S under (~p3) with STOP and no tokens, and its header. -/
def cw : BitVec 8 → BitVec 44 → BitVec 64 := Claims.talquin 0b10 1 0b0000 0b10011
def aw : BitVec 8 → BitVec 44 → BitVec 64 := Claims.talquin 0b01 1 0b0000 0b10011
def sw : BitVec 8 → BitVec 44 → BitVec 64 := Claims.talquin 0b11 1 0b0000 0b10011
def kw : BitVec 8 → BitVec 44 → BitVec 64 := Claims.talquin 0b00 1 0b0000 0b00000
def hN : Hdr := { stop := true, popu := false, popd := false, pushu := false, pushd := false, guard := 19 }

/-- R106. -/
theorem test_decode_control :
    decode (kw 0x00 bB) = .ok (.nop fB) ∧
    decode (kw 0x01 bB) = .ok (.br fB) ∧
    decode (kw 0x02 bB) = .ok (.bri fB) ∧
    decode (kw 0x03 bB) = .ok (.call fB) ∧
    decode (kw 0x04 bB) = .ok (.calli fB) ∧
    decode (kw 0x05 bB) = .ok (.ret fB) ∧
    decode (kw 0x06 bB) = .ok (.loop fB) ∧
    decode (kw 0x07 bB) = .ok (.loopi fB) ∧
    decode (kw 0x08 bB) = .ok (.brk fB) ∧
    decode (kw 0x09 bB) = .ok (.trap fB) := by
  decide +kernel

/-- R107, its rows in order. -/
theorem test_decode_c_0 :
    decode (cw 0x00 bX) = .ok (.add hN fX) ∧
    decode (cw 0x01 bI) = .ok (.addi hN fI) ∧
    decode (cw 0x02 bX) = .ok (.sub hN fX) ∧
    decode (cw 0x03 bX) = .ok (.mul hN fX) ∧
    decode (cw 0x04 bI) = .ok (.muli hN fI) ∧
    decode (cw 0x05 bX) = .ok (.mulh hN fX) ∧
    decode (cw 0x06 bX) = .ok (.mulhn hN fX) ∧
    decode (cw 0x07 bX) = .ok (.div hN fX) ∧
    decode (cw 0x08 bX) = .ok (.divn hN fX) ∧
    decode (cw 0x09 bX) = .ok (.rem hN fX) ∧
    decode (cw 0x0A bX) = .ok (.remn hN fX) ∧
    decode (cw 0x0B bX) = .ok (.and hN fX) ∧
    decode (cw 0x0C bI) = .ok (.andi hN fI) ∧
    decode (cw 0x0D bX) = .ok (.or hN fX) ∧
    decode (cw 0x0E bI) = .ok (.ori hN fI) ∧
    decode (cw 0x0F bX) = .ok (.xor hN fX) := by
  decide +kernel

/-- R107, its rows in order. -/
theorem test_decode_c_1 :
    decode (cw 0x10 bI) = .ok (.xori hN fI) ∧
    decode (cw 0x11 bX) = .ok (.shl hN fX) ∧
    decode (cw 0x12 bI) = .ok (.shli hN fI) ∧
    decode (cw 0x13 bX) = .ok (.shr hN fX) ∧
    decode (cw 0x14 bI) = .ok (.shri hN fI) ∧
    decode (cw 0x15 bX) = .ok (.sra hN fX) ∧
    decode (cw 0x16 bI) = .ok (.srai hN fI) ∧
    decode (cw 0x17 bX) = .ok (.rol hN fX) ∧
    decode (cw 0x18 bI) = .ok (.roli hN fI) ∧
    decode (cw 0x19 bX) = .ok (.clz hN fX) ∧
    decode (cw 0x1A bX) = .ok (.ctz hN fX) ∧
    decode (cw 0x1B bX) = .ok (.popc hN fX) ∧
    decode (cw 0x1C bX) = .ok (.min hN fX) ∧
    decode (cw 0x1D bX) = .ok (.max hN fX) ∧
    decode (cw 0x1E bX) = .ok (.minn hN fX) ∧
    decode (cw 0x1F bX) = .ok (.maxn hN fX) := by
  decide +kernel

/-- R107, its rows in order. -/
theorem test_decode_c_2 :
    decode (cw 0x20 bX) = .ok (.abs hN fX) ∧
    decode (cw 0x21 bX) = .ok (.sel hN fX) ∧
    decode (cw 0x22 bL) = .ok (.movi hN fL) ∧
    decode (cw 0x23 bL) = .ok (.movhi hN fL) ∧
    decode (cw 0x24 bI) = .ok (.lea hN fI) ∧
    decode (cw 0x25 bX) = .ok (.sext hN fX) ∧
    decode (cw 0x26 bX) = .ok (.zext hN fX) ∧
    decode (cw 0x27 bX) = .ok (.bfx hN fX) ∧
    decode (cw 0x28 bX) = .ok (.bfi hN fX) ∧
    decode (cw 0x29 bX) = .ok (.bswap hN fX) ∧
    decode (cw 0x2A bX) = .ok (.cmp hN fX) ∧
    decode (cw 0x2B bI) = .ok (.cmpi hN fI) ∧
    decode (cw 0x2C bX) = .ok (.pand hN fX) ∧
    decode (cw 0x2D bX) = .ok (.por hN fX) ∧
    decode (cw 0x2E bX) = .ok (.pxor hN fX) ∧
    decode (cw 0x2F bX) = .ok (.pnot hN fX) := by
  decide +kernel

/-- R107, its rows in order. -/
theorem test_decode_c_3 :
    decode (cw 0x30 bX) = .ok (.pset hN fX) ∧
    decode (cw 0x31 bX) = .ok (.pget hN fX) ∧
    decode (cw 0x32 bX) = .ok (.fadd hN fX) ∧
    decode (cw 0x33 bX) = .ok (.fsub hN fX) ∧
    decode (cw 0x34 bX) = .ok (.fmul hN fX) ∧
    decode (cw 0x35 bX) = .ok (.ffma hN fX) ∧
    decode (cw 0x36 bX) = .ok (.fdiv hN fX) ∧
    decode (cw 0x37 bX) = .ok (.fsqrt hN fX) ∧
    decode (cw 0x38 bX) = .ok (.fmin hN fX) ∧
    decode (cw 0x39 bX) = .ok (.fmax hN fX) ∧
    decode (cw 0x3A bX) = .ok (.fcmp hN fX) ∧
    decode (cw 0x3B bX) = .ok (.fcvt hN fX) ∧
    decode (cw 0x3C bX) = .ok (.fclass hN fX) ∧
    decode (cw 0x3D bX) = .ok (.fmt hN fX) ∧
    decode (cw 0x3E bX) = .ok (.rnd hN fX) ∧
    decode (cw 0x3F bX) = .ok (.rndf hN fX) := by
  decide +kernel

/-- R107, its rows in order. -/
theorem test_decode_c_4 :
    decode (cw 0x40 (bM 1)) = .ok (.shld hN (fM 1)) ∧
    decode (cw 0x41 (bM 1)) = .ok (.shst hN (fM 1)) ∧
    decode (cw 0x42 bV) = .ok (.shset hN fV) ∧
    decode (cw 0x43 bV) = .ok (.shofs hN fV) ∧
    decode (cw 0x44 bV) = .ok (.vmov hN fV) ∧
    decode (cw 0x45 bV) = .ok (.vfill hN fV) ∧
    decode (cw 0x46 bV) = .ok (.vadd hN fV) ∧
    decode (cw 0x47 bV) = .ok (.vsub hN fV) ∧
    decode (cw 0x48 bV) = .ok (.vmul hN fV) ∧
    decode (cw 0x49 bV) = .ok (.vfma hN fV) ∧
    decode (cw 0x4A bV) = .ok (.vmin hN fV) ∧
    decode (cw 0x4B bV) = .ok (.vmax hN fV) ∧
    decode (cw 0x4C bV) = .ok (.vabs hN fV) ∧
    decode (cw 0x4D bV) = .ok (.vneg hN fV) ∧
    decode (cw 0x4E bV) = .ok (.vand hN fV) ∧
    decode (cw 0x4F bV) = .ok (.vor hN fV) := by
  decide +kernel

/-- R107, its rows in order. -/
theorem test_decode_c_5 :
    decode (cw 0x50 bV) = .ok (.vxor hN fV) ∧
    decode (cw 0x51 bV) = .ok (.vshl hN fV) ∧
    decode (cw 0x52 bV) = .ok (.vshr hN fV) ∧
    decode (cw 0x53 bV) = .ok (.vcmp hN fV) ∧
    decode (cw 0x54 bV) = .ok (.vsel hN fV) ∧
    decode (cw 0x55 bV) = .ok (.vcvt hN fV) ∧
    decode (cw 0x56 bV) = .ok (.vquant hN fV) ∧
    decode (cw 0x57 bV) = .ok (.vred hN fV) ∧
    decode (cw 0x58 bV) = .ok (.vscan hN fV) ∧
    decode (cw 0x59 bV) = .ok (.vexp hN fV) ∧
    decode (cw 0x5A bV) = .ok (.vlog hN fV) ∧
    decode (cw 0x5B bV) = .ok (.vrcp hN fV) ∧
    decode (cw 0x5C bV) = .ok (.vrsq hN fV) ∧
    decode (cw 0x5D bV) = .ok (.vtanh hN fV) ∧
    decode (cw 0x5E bV) = .ok (.verf hN fV) ∧
    decode (cw 0x5F bV) = .ok (.vcmul hN fV) := by
  decide +kernel

/-- R107, its rows in order. -/
theorem test_decode_c_6 :
    decode (cw 0x60 bV) = .ok (.vcmac hN fV) ∧
    decode (cw 0x61 bV) = .ok (.vgath hN fV) ∧
    decode (cw 0x62 bV) = .ok (.vscat hN fV) ∧
    decode (cw 0x63 bV) = .ok (.vtrans hN fV) ∧
    decode (cw 0x64 bV) = .ok (.vrnd hN fV) ∧
    decode (cw 0x70 (bT 0x2A5)) = .ok (.mldb hN (fT 0x2A5)) ∧
    decode (cw 0x71 (bT 0x2A5)) = .ok (.mma hN (fT 0x2A5)) ∧
    decode (cw 0x72 (bT 0x2A5)) = .ok (.mmac hN (fT 0x2A5)) ∧
    decode (cw 0x73 (bT 0x2A5)) = .ok (.mzero hN (fT 0x2A5)) ∧
    decode (cw 0x74 (bT 0x2A5)) = .ok (.mst hN (fT 0x2A5)) ∧
    decode (cw 0x75 (bT 0x2A5)) = .ok (.mbar hN (fT 0x2A5)) ∧
    decode (cw 0x76 (bT 0x005)) = .ok (.mcfgWeight hN (fT 0x005)) ∧
    decode (cw 0x76 (bT 0x047)) = .ok (.mcfgGate hN (fT 0x047)) ∧
    decode (cw 0x76 (bT 0x140)) = .ok (.mcfgClrsat hN (fT 0x140)) := by
  decide +kernel

/-- R108. -/
theorem test_decode_a :
    decode (aw 0x00 (bM 1)) = .ok (.ld hN (fM 1)) ∧
    decode (aw 0x01 (bM 1)) = .ok (.st hN (fM 1) Cvt.none) ∧
    decode (aw 0x02 (bM 1)) = .ok (.ldg hN (fM 1)) ∧
    decode (aw 0x03 (bM 1)) = .ok (.stg hN (fM 1) Cvt.none) ∧
    decode (aw 0x04 (bM 1)) = .ok (.ldc hN (fM 1)) ∧
    decode (aw 0x05 (bM 0)) = .ok (.cinvLine hN (fM 0)) ∧
    decode (aw 0x05 (bM 1)) = .ok (.cinvAll hN (fM 1)) ∧
    decode (aw 0x05 (bM 2)) = .ok (.cinvI hN (fM 2)) ∧
    decode (aw 0x06 (bM 1)) = .ok (.atom hN (fM 1)) ∧
    decode (aw 0x07 (bY 5)) = .ok (.cpy hN (fY 5)) ∧
    decode (aw 0x08 (bY 5)) = .ok (.cpym hN (fY 5)) ∧
    decode (aw 0x09 (bY 5)) = .ok (.cpyq hN (fY 5)) ∧
    decode (aw 0x0A (bM 1)) = .ok (.pref hN (fM 1)) ∧
    decode (aw 0x10 (bM 1)) = .ok (.atomg hN (fM 1)) ∧
    decode (aw 0x11 (bM 1)) = .ok (.red hN (fM 1)) ∧
    decode (aw 0x12 (bM 1)) = .ok (.lrw hN (fM 1)) ∧
    decode (aw 0x13 (bM 0)) = .ok (.sch hN (fM 0)) ∧
    decode (aw 0x13 (bM 1)) = .ok (.schRel hN (fM 1)) := by
  decide +kernel

/-- R109. -/
theorem test_decode_s_0 :
    decode (sw 0x00 (bY 5)) = .ok (.commit hN (fY 5)) ∧
    decode (sw 0x01 (bY 5)) = .ok (.yield hN (fY 5)) ∧
    decode (sw 0x02 (bY 5)) = .ok (.exit hN (fY 5)) ∧
    decode (sw 0x03 (bY 5)) = .ok (.send hN (fY 5)) ∧
    decode (sw 0x04 (bY 5)) = .ok (.sendi hN (fY 5)) ∧
    decode (sw 0x05 (bY 5)) = .ok (.spawn hN (fY 5)) ∧
    decode (sw 0x06 (bY 5)) = .ok (.migrate hN (fY 5)) ∧
    decode (sw 0x08 (bY 5)) = .ok (.fnew hN (fY 5)) ∧
    decode (sw 0x09 (bY 5)) = .ok (.fres hN (fY 5)) ∧
    decode (sw 0x0A (bY 5)) = .ok (.fdec hN (fY 5)) ∧
    decode (sw 0x0B (bY 0)) = .ok (.ftest hN (fY 0)) ∧
    decode (sw 0x0B (bY 1)) = .ok (.ftestV hN (fY 1)) ∧
    decode (sw 0x0B (bY 2)) = .ok (.ftestC hN (fY 2)) ∧
    decode (sw 0x0B (bY 3)) = .ok (.ftestF hN (fY 3)) ∧
    decode (sw 0x0C (bY 5)) = .ok (.await hN (fY 5)) ∧
    decode (sw 0x0D (bY 5)) = .ok (.fcall hN (fY 5)) ∧
    decode (sw 0x0E (bY 5)) = .ok (.ffree hN (fY 5)) ∧
    decode (sw 0x0F (bY 5)) = .ok (.rtmk hN (fY 5)) := by
  decide +kernel

/-- R109. -/
theorem test_decode_s_1 :
    decode (sw 0x10 (bY 5)) = .ok (.binit hN (fY 5)) ∧
    decode (sw 0x11 (bY 5)) = .ok (.barr hN (fY 5)) ∧
    decode (sw 0x12 (bY 5)) = .ok (.barrx hN (fY 5)) ∧
    decode (sw 0x13 (bY 5)) = .ok (.bexp hN (fY 5)) ∧
    decode (sw 0x14 (bY 5)) = .ok (.bwait hN (fY 5)) ∧
    decode (sw 0x15 (bY 0)) = .ok (.btest hN (fY 0)) ∧
    decode (sw 0x15 (bY 1)) = .ok (.btestS hN (fY 1)) ∧
    decode (sw 0x15 (bY 2)) = .ok (.btestP hN (fY 2)) ∧
    decode (sw 0x18 (bY 5)) = .ok (.tdef hN (fY 5)) ∧
    decode (sw 0x19 (bY 5)) = .ok (.tfree hN (fY 5)) ∧
    decode (sw 0x1A (bY 5)) = .ok (.tacq hN (fY 5)) ∧
    decode (sw 0x1B (bY 5)) = .ok (.trel hN (fY 5)) ∧
    decode (sw 0x1C (bY 5)) = .ok (.tqry hN (fY 5)) ∧
    decode (sw 0x1D (bY 5)) = .ok (.fence hN (fY 5)) ∧
    decode (sw 0x1E (bY 0)) = .ok (.scopeRd hN (fY 0)) ∧
    decode (sw 0x1E (bY 1)) = .ok (.scopeWr hN (fY 1)) ∧
    decode (sw 0x20 (bY 5)) = .ok (.srr hN (fY 5)) ∧
    decode (sw 0x21 (bY 5)) = .ok (.srw hN (fY 5)) ∧
    decode (sw 0x28 (bY 0)) = .ok (.collBcast hN (fY 0)) ∧
    decode (sw 0x28 (bY 1)) = .ok (.collReduce hN (fY 1)) ∧
    decode (sw 0x28 (bY 2)) = .ok (.collAllred hN (fY 2)) := by
  decide +kernel

/-- R308: every row of its table, `funct7 ++ rs2 ++ rs1 ++ funct3 ++ rd ++ opcode`; and words that match no row. -/
theorem test_decode_sedge :
    let f : HForm := { d := 10, a := 11, b := 12 }
    let w := fun (f7 : BitVec 7) (f3 : BitVec 3) (op : BitVec 7) => f7 ++ 0b01100#5 ++ 0b01011#5 ++ f3 ++ 0b01010#5 ++ op
    decodeSedge (w 0 0 0b0001011) = some (.xsend f) ∧ decodeSedge (w 0 1 0b0001011) = some (.xfres f) ∧
    decodeSedge (w 0 2 0b0001011) = some (.xfrestok f) ∧ decodeSedge (w 0 3 0b0001011) = some (.xfdec f) ∧
    decodeSedge (w 0b0000011 4 0b0001011) = some (.xftest f 3) ∧ decodeSedge (w 0b0000001 5 0b0001011) = some (.xfwait f 1) ∧
    decodeSedge (w 0 6 0b0001011) = some (.xcqpop f) ∧ decodeSedge (w 0b0000010 7 0b0001011) = some (.xfence f 2) ∧
    decodeSedge (w 0b0001111 0 0b0101011) = some (.xcapset f 15) ∧ decodeSedge (w 0 1 0b0101011) = some (.xcapclr f) ∧
    decodeSedge (w 0 2 0b0101011) = some (.xcpyr f) ∧ decodeSedge (w 0 3 0b0101011) = some (.xvreg f) ∧
    decodeSedge (w 0 4 0b0101011) = none ∧ decodeSedge (w 1 0 0b0001011) = none ∧ decodeSedge (w 4 4 0b0001011) = none ∧
    decodeSedge (w 2 5 0b0001011) = none ∧ decodeSedge (w 4 7 0b0001011) = none ∧ decodeSedge (w 16 0 0b0101011) = none ∧
    0x00C5A50B#32 = w 0 2 0b0001011 ∧ 0x06C5852B#32 = w 3 0 0b0101011 := by
  decide +kernel

/-- R112: the words of its examples. -/
theorem test_decode_examples :
    decode 0xB03001C224000000 = .ok (.add { hN with popu := true, guard := 3 } { d := 7, a := 2, b := 9, c := 0, fmt := 0, rm := 0, sat := false, fn := 0 }) ∧
    decode 0x20002940FFFFFFF8 = .ok (.bri { cond := 0b10010, hint := true, a := 0, imm := 0xFFFFFFF8 }) ∧
    decode 0x6000000000000000 = .ok (.ld { hN with guard := 0 } { d := 0, a := 0, b := 0, fmt := 0, mode := 0, ofs := 0 }) ∧
    decode 0x60FF000000000000 = .ok (.hintWord 1 0 { hN with guard := 15 } 0) ∧
    decode 0x7F00000000000000 = .ok (.ld { stop := true, popu := true, popd := true, pushu := true, pushd := true, guard := 16 }
      { d := 0, a := 0, b := 0, fmt := 0, mode := 0, ofs := 0 }) ∧
    decode 0x7000000000000000 = .ok (.ld { hN with popu := true, guard := 0 } { d := 0, a := 0, b := 0, fmt := 0, mode := 0, ofs := 0 }) := by
  decide +kernel

/-- R111: an opcode of no row is rejected, the hint region is not; R98, R101: FMT and COMMIT carry no token. -/
theorem test_decode_rejects :
    decode (kw 0x0A 0) = .illegalInstr ∧ decode (cw 0x65 0) = .illegalInstr ∧ decode (cw 0x77 0) = .illegalInstr ∧
    decode (aw 0x0B 0) = .illegalInstr ∧ decode (aw 0x14 0) = .illegalInstr ∧ decode (sw 0x07 0) = .illegalInstr ∧
    decode (sw 0x22 0) = .illegalInstr ∧ decode (cw 0xF7 5) = .ok (.hintWord 2 7 hN 5) ∧
    decode (Claims.talquin 0b10 0 0b1000 15 0x3D 0) = .illegalInstr ∧ decode (Claims.talquin 0b11 1 0b1000 15 0x00 0) = .illegalInstr ∧
    decode (Claims.talquin 0b00 1 0b1000 0 0x00 0) = .illegalInstr ∧ decode (Claims.talquin 0b00 0 0 0 0xF0 0) = .illegalGroup := by
  decide +kernel
/-! ### The encoder, well-formed instructions, and the step -/

theorem witness_EncodedInstructionsDecodeBack :
    (∀ i ∈ ([.add hT fX, .addi hN fI, .movi hN fL, .bri fB, .ld hN (fM 1), .vadd hN fV, .mma hN (fT 3), .collReduce hN (fY 1),
      .hintWord 1 3 hT 9] : List Instr), i.encodable = true ∧ i.word.isSome = true) ∧
    (∀ i ∈ ([.xsend f0, .xftest f0 3, .xcapset f0 15, .xvreg f0, .xvregUnregister f0, .xvregRetry f0] : List Instr),
      i.encodable = true ∧ i.sedge.isSome = true) := by
  decide +kernel

theorem witness_DecodedWordsEncodeBack :
    decode (aw 0x00 (bM 1)) = .ok (.ld hN (fM 1)) ∧ (aw 0x00 (bM 1)).extractLsb' 62 2 ≠ 0 ∧
    decode (kw 0x02 bB) = .ok (.bri fB) ∧ (kw 0x02 bB).extractLsb' 62 2 = 0 ∧ decodeSedge 0x00C5A50B = some (.xfrestok ⟨10, 11, 12⟩) := by
  decide +kernel

/-- R83, R84, R98, R101, R111: guards and conditions from 12 to 14 and tokens where none may stand are ill-formed. -/
theorem test_ill_formed_encodings :
    (∀ g ∈ [12, 13, 14, 28, 29, 30], (Instr.add { h0 with guard := g } x0).encodable = false) ∧
    (Instr.add { h0 with guard := 31 } x0).encodable = true ∧ (Instr.bri { b0 with cond := 12 }).encodable = false ∧
    (Instr.nop { b0 with cond := 12 }).encodable = true ∧ (Instr.fmt hT x0).encodable = false ∧ (Instr.commit hT y0).encodable = false ∧
    (Instr.yield hT y0).encodable = false ∧ (Instr.exit hT y0).encodable = false ∧ (Instr.migrate hT y0).encodable = false ∧
    (Instr.await hT y0).encodable = false ∧ (Instr.lrw hT m0).encodable = false ∧ (Instr.tacq hT y0).encodable = false ∧
    (Instr.hintWord 0 0 h0 0).encodable = false ∧ (Instr.hintWord 0 0 { hT with stop := true } 0).encodable = false ∧
    (Instr.hintWord 2 0 { h0 with guard := 13 } 0).encodable = false := by
  decide +kernel

/-- The selector field of a row that shares its opcode must be the row's. -/
theorem test_ill_formed_selectors :
    (∀ i ∈ ([.cinvLine h0 (fM 1), .cinvAll h0 (fM 2), .cinvI h0 (fM 1), .sch h0 (fM 1), .schRel h0 (fM 0), .ftest h0 (fY 1),
      .ftestV h0 (fY 0), .ftestC h0 (fY 3), .ftestF h0 (fY 2), .btest h0 (fY 1), .btestS h0 (fY 2), .btestP h0 (fY 1), .scopeRd h0 (fY 1),
      .scopeWr h0 (fY 0), .collBcast h0 (fY 1), .collReduce h0 (fY 2), .collAllred h0 (fY 0), .mcfgWeight h0 (fT 64),
      .mcfgGate h0 (fT 320), .mcfgClrsat h0 (fT 64)] : List Instr), i.encodable = false) ∧
    (Instr.st h0 m0 { Cvt.none with rm := 3 }).encodable = false := by
  decide +kernel

/-- R86, R110: a feature that is not accepted, and static operands out of range, are ill-formed. -/
theorem test_ill_formed_operands :
    (Instr.lrw h0 m0).wellFormed 1 = false ∧ (Instr.tacq h0 y0).wellFormed 1 = false ∧ (Instr.loop { b0 with imm := 0x10000 }).wellFormed 1 = false ∧
    (Instr.shli h0 { i0 with imm := 64 }).wellFormed 1 = false ∧ (Instr.shli h0 { i0 with imm := 63 }).wellFormed 1 = true ∧
    (Instr.sext h0 { x0 with fmt := 17 }).wellFormed 1 = false ∧ (Instr.cmp h0 { x0 with d := 12 }).wellFormed 1 = false ∧
    (Instr.pnot h0 { x0 with a := 15 }).wellFormed 1 = false ∧ (Instr.shld h0 { m0 with d := 16 }).wellFormed 1 = false := by
  decide +kernel

/-- The agenda's turns that run an instruction: an event, a word at the head of queue C, a control word at the front end, an extension
word at the PC of hart 0, and none. -/
def eAdd : QEntry := { pc := 0, n := 0, word := cw 0x00 0, last := false }
def sFr : State := { on { a0 with front := some { eAdd with word := kw 0x00 0 } } with agenda := [] }
def sHd : State := { on (a0.setQueue 1 [eAdd]) with agenda := [] }
def sXF : State := { sH { hart0 with pc := 0x400 } with mem := writeLE memH 0x400 4 0x00C5A50B, agenda := [] }

theorem witness_AStepRunsTheDecodedInstruction :
    ({ base with agenda := [.event (.steal 0)] }.agenda = .event (.steal 0) :: [] ∧
      { base with agenda := [.badUse 1 1 0] }.agenda = .badUse 1 1 0 :: [] ∧ { base with agenda := [.collAbort 0] }.agenda = .collAbort 0 :: []) ∧
    Claims.AtHead sHd 0 0 1 (a0.setQueue 1 [eAdd]) eAdd ∧ (∃ i, decodeEntry eAdd.word eAdd.pfx = .ok i) ∧
    sFr.act 0 0 = some { a0 with front := some { eAdd with word := kw 0x00 0 } } ∧
    sFr.mustLeave 0 { a0 with front := some { eAdd with word := kw 0x00 0 } } = false ∧
    sFr.frontCan 0 0 { a0 with front := some { eAdd with word := kw 0x00 0 } } = true ∧ (∃ i, decode (kw 0x00 0) = .ok i) ∧
    (sXF.hart 0).run = .run ∧ (sXF.cluster 0).gated = false ∧ sXF.rd 0x400 4 = 0x00C5A50B ∧
    (match sXF.fetchHalf 0 (sXF.hart 0).pc with
      | .ok lo t => match t.fetchHalf 0 0x402 with
        | .ok hi _ => lo % 4 = 3 && decodeSedge (BitVec.ofNat 32 (lo + 65536 * hi)) == some (.xfrestok ⟨10, 11, 12⟩)
        | _ => false
      | _ => false) = true ∧ base.agenda = [] ∧ (base.modHub (fun h => { h with lateClaim := some 0 })).hub.lateClaim = some 0 ∧ State.reset.hub.holder = 2 := by
  refine ⟨⟨rfl, rfl, rfl⟩, ⟨rfl, ?_, rfl, ⟨[], rfl⟩, ?_, ?_, ?_, ?_⟩, ⟨_, rfl⟩, rfl, ?_, ?_, ⟨_, rfl⟩, ?_, ?_, ?_, ?_, ?_, ?_, ?_⟩ <;> decide +kernel

/-- A group whose rest is an ADD and a BRI, and one whose rest is an FMT before a BRI. -/
theorem witness_TheRestOfTheGroupEnters :
    (let e : QEntry := { eAdd with word := kw 0x02 bB }
     let x : QEntry := { eAdd with word := cw 0x00 bX }
     e.isFront = true ∧ x.isFront = false ∧ [x, e] = [x] ++ e :: [] ∧ (∀ y, [x].getLast? = some y → y.isFront = false) ∧
       (∀ y, [e, x].getLast? = some y → y.isFront = false)) ∧
    (let f : QEntry := { eAdd with word := cw 0x3D bX }
     let e : QEntry := { eAdd with word := kw 0x02 bB }
     f.isFront = true ∧ (match decode f.word with
       | .ok (.fmt _ _) => true
       | _ => false) = true ∧ (∃ y, y ∈ [e] ∧ y.isFront = false) = False ∧
       ∃ y ∈ ([{ eAdd with word := cw 0x00 bX }] : List QEntry), y.isFront = false) ∧
    a0.pfx = none ∧ ({ a0 with pfx := some (fmtPrefix fX) } : Act).pfx = some (fmtPrefix fX) := by
  refine ⟨⟨?_, ?_, rfl, ?_, ?_⟩, ⟨?_, ?_, ?_, _, .head _, ?_⟩, rfl, rfl⟩
  iterate 2 decide +kernel
  · intro y h
    cases h
    decide +kernel
  · intro y h
    cases h
    decide +kernel
  iterate 2 decide +kernel
  · simp only [List.mem_singleton, exists_eq_left, eq_iff_iff, iff_false]
    decide +kernel
  · decide +kernel

theorem witness_MemoryReadsWhatWasWritten : Memory.wf mem1 = true := by decide +kernel

theorem witness_RegistersReadWhatWasWritten :
    Sparse.canonical 0 aD.g = true ∧ (63 : Nat) ≠ 0 ∧ 11 < 12 ∧ Sparse.canonical 0 hart0.x = true ∧ (31 : Nat) ≠ 0 := by decide +kernel

theorem witness_EveryStepKeepsMemoryCanonical : Memory.wf State.reset.mem = true ∧ ∃ t, step State.reset = .next t :=
  ⟨rfl, _, rfl⟩

/-- R397: what stands where a word is placed runs: ADD at reset writes g1 of the activation in slot 0 of engine 0. -/
theorem test_withFetchWord :
    (match step (State.reset.withFetchWord 64 (cw 0x01 (1#6 ++ 0#6 ++ 7#32)).toNat) with
      | .next t => (t.act 0 0).map (fun a => (a.ug 1, a.queue 1)) | _ => none) = some (7, []) ∧
    (match step (State.reset.withFetchWord 32 0x0010102B) with
      | .next t => some ((t.hart 0).pc, (t.hart 0).xst) | _ => none).isSome = true := by
  decide +kernel
end Sys2Proof.Tests
end

namespace Sys2Proof.Machine

/-! ### Registers and memory read back (R2, R6, R297) -/

theorem Sparse.sorted_of_canonical {α : Type} [DecidableEq α] {d : α} {m : Sparse α} (h : m.canonical d = true) :
    m.sorted = true := by
  simp only [Sparse.canonical, Bool.and_eq_true] at h
  exact h.1

/-! #### General registers: g0 is no entry of the map (R6) -/

@[simp] theorem Act.rg_zero (a : Act) : a.rg 0 = 0 := rfl

@[simp] theorem Act.wg_zero (a : Act) (v : BitVec 64) : a.wg 0 v = a := rfl

theorem Act.wg_g_of_ne_zero (a : Act) {d : Nat} (hd : d ≠ 0) (v : BitVec 64) : (a.wg d v).g = a.g.put 0 d v := by
  simp [Act.wg, hd]

theorem Act.rg_wg_same {a : Act} (h : a.g.canonical 0 = true) {d : Nat} (hd : d ≠ 0) (v : BitVec 64) :
    (a.wg d v).rg d = v := by
  simp [Act.rg, a.wg_g_of_ne_zero hd, hd, Sparse.get_put_same (Sparse.sorted_of_canonical h)]

theorem Act.rg_wg_other {a : Act} (h : a.g.canonical 0 = true) {d j : Nat} (hj : j ≠ d) (v : BitVec 64) :
    (a.wg d v).rg j = a.rg j := by
  by_cases hd : d = 0
  · simp [hd]
  · simp [Act.rg, a.wg_g_of_ne_zero hd, Sparse.get_put_other (Sparse.sorted_of_canonical h) v hj]

theorem Act.canonical_wg {a : Act} (h : a.g.canonical 0 = true) (d : Nat) (v : BitVec 64) :
    (a.wg d v).g.canonical 0 = true := by
  by_cases hd : d = 0
  · simpa [hd] using h
  · simpa [a.wg_g_of_ne_zero hd] using Sparse.canonical_put h d v

/-! #### Predicates: one bit of a word of twelve (R6) -/

theorem Act.wp_true_p (a : Act) (n : Nat) : (a.wp n true).p = a.p ||| BitVec.twoPow 12 n := rfl

theorem Act.wp_false_p (a : Act) (n : Nat) : (a.wp n false).p = a.p &&& ~~~BitVec.twoPow 12 n := rfl

theorem Act.rp_wp_same (a : Act) {n : Nat} (hn : n < 12) (b : Bool) : (a.wp n b).rp n = b := by
  cases b with
  | true => simp [Act.rp, Act.wp_true_p, hn]
  | false => simp [Act.rp, Act.wp_false_p, hn]

theorem Act.rp_wp_other (a : Act) {n m : Nat} (hm : m ≠ n) (b : Bool) : (a.wp n b).rp m = a.rp m := by
  cases b with
  | true => simp [Act.rp, Act.wp_true_p, hm.symm]
  | false =>
    have inside : a.p.getLsbD m = true → m < 12 := BitVec.lt_of_getLsbD
    simpa [Act.rp, Act.wp_false_p, hm.symm] using inside

/-! #### Registers of a hart: x0 is no entry of the map (R297) -/

@[simp] theorem Hart.xr_zero (H : Hart) : H.xr 0 = 0 := rfl

@[simp] theorem Hart.setX_zero (H : Hart) (v : Nat) : H.setX 0 v = H := rfl

theorem Hart.setX_x_of_ne_zero (H : Hart) {d : Nat} (hd : d ≠ 0) (v : Nat) :
    (H.setX d v).x = H.x.put 0 d (BitVec.ofNat 64 v) := by
  simp [Hart.setX, hd]

theorem Hart.xr_setX_same {H : Hart} (h : H.x.canonical 0 = true) {d : Nat} (hd : d ≠ 0) (v : Nat) :
    (H.setX d v).xr d = v % 2 ^ 64 := by
  simp [Hart.xr, H.setX_x_of_ne_zero hd, hd, Sparse.get_put_same (Sparse.sorted_of_canonical h)]

theorem Hart.xr_setX_other {H : Hart} (h : H.x.canonical 0 = true) {d j : Nat} (hj : j ≠ d) (v : Nat) :
    (H.setX d v).xr j = H.xr j := by
  by_cases hd : d = 0
  · simp [hd]
  · simp [Hart.xr, H.setX_x_of_ne_zero hd, Sparse.get_put_other (Sparse.sorted_of_canonical h) _ hj]

theorem Hart.canonical_setX {H : Hart} (h : H.x.canonical 0 = true) (d v : Nat) : (H.setX d v).x.canonical 0 = true := by
  by_cases hd : d = 0
  · simpa [hd] using h
  · simpa [H.setX_x_of_ne_zero hd] using Sparse.canonical_put h d (BitVec.ofNat 64 v)

theorem registersReadWhatWasWritten : Claims.RegistersReadWhatWasWritten := by
  refine ⟨fun a v => ⟨a.rg_zero, a.wg_zero v⟩, ?general, ?predicate, fun H v => ⟨H.xr_zero, H.setX_zero v⟩, ?hart⟩
  case general =>
    intro a d v hd h
    exact ⟨Act.rg_wg_same h hd v, fun _ hj => Act.rg_wg_other h hj v, Act.canonical_wg h d v⟩
  case predicate =>
    intro a n b hn
    exact ⟨a.rp_wp_same hn b, fun _ hm => a.rp_wp_other hm b⟩
  case hart =>
    intro H d v hd h
    exact ⟨Hart.xr_setX_same h hd v, fun _ hj => Hart.xr_setX_other h hj v, Hart.canonical_setX h d v⟩

/-! #### Memory: the bytes of a number, least significant first (R2) -/

theorem readLE_writeLE {m : Sparse Byte} (h : m.sorted = true) (a n v : Nat) :
    readLE (writeLE m a n v) a n = v % 2 ^ (8 * n) := by
  have bytes : bytesAt (writeLE m a n v) a n = toLE n v := by
    simpa [writeLE] using bytesAt_putBytes h a (toLE n v)
  rw [readLE, bytes, ofLE_toLE, Nat.pow_mul]

theorem get_writeLE_other {m : Sparse Byte} (h : m.sorted = true) (a n v : Nat) {b : Nat} (hb : b < a ∨ a + n ≤ b) :
    (writeLE m a n v).get 0 b = m.get 0 b :=
  get_putBytes_other h a (toLE n v) (by simpa using hb)

theorem memoryReadsWhatWasWritten : Claims.MemoryReadsWhatWasWritten := by
  intro m a n v h
  have rising : Sparse.sorted m = true := Sparse.sorted_of_canonical h
  exact ⟨canonical_writeLE h a n v, readLE_writeLE rising a n v, fun _ hb => get_writeLE_other rising a n v hb⟩

/-- Settles O59: a register file and memory are maps whose writes are seen at the key written and at no other. -/
theorem registersAndMemoryReadBack : Obligations.RegistersAndMemoryReadBack :=
  ⟨registersReadWhatWasWritten, memoryReadsWhatWasWritten⟩

end Sys2Proof.Machine

namespace Sys2Proof.Machine

open Host (Outcome)

/-! ### Control and status registers, interrupts, exceptions (R301, R302, R307, R320) -/

/-! #### Bits as remainders (R5) -/

theorem bitOf_eq_testBit (n k : Nat) : bitOf n k = n.testBit k :=
  (Nat.testBit_eq_decide_div_mod_eq).symm

/-! #### A hart and its registers -/

@[simp] theorem hart_modHart_same (s : State) (h : Nat) (f : Hart → Hart) : (s.modHart h f).hart h = f (s.hart h) := by
  simp [State.hart, State.modHart, State.setHart]

@[simp] theorem Hart.setX_run (H : Hart) (d v : Nat) : (H.setX d v).run = H.run := by
  unfold Hart.setX
  split <;> rfl

@[simp] theorem Hart.setX_xst (H : Hart) (d v : Nat) : (H.setX d v).xst = H.xst := by
  unfold Hart.setX
  split <;> rfl

@[simp] theorem Hart.setX_pc (H : Hart) (d v : Nat) : (H.setX d v).pc = H.pc := by
  unfold Hart.setX
  split <;> rfl

/-- A register that is written with a number other than 0 is listed, whatever the form of the map. -/
theorem Hart.xr_setX_of_pos (H : Hart) {d v : Nat} (hd : d ≠ 0) (hv : 0 < v) (hw : v < 2 ^ 64) : (H.setX d v).xr d = v := by
  have listed : BitVec.ofNat 64 v ≠ 0 := by
    intro h
    have := congrArg BitVec.toNat h
    simp at this
    omega
  rw [Hart.xr, if_neg hd, H.setX_x_of_ne_zero hd, Sparse.put, if_neg listed, Sparse.get_set_same, BitVec.toNat_ofNat,
    Nat.mod_eq_of_lt hw]

/-! #### The trap entry (log 7) -/

@[simp] theorem Hart.trapTo_run (H : Hart) (sup irq : Bool) (cause tval : Nat) : (H.trapTo sup irq cause tval).run = H.run := by
  cases sup <;> rfl

@[simp] theorem Hart.trapTo_xst (H : Hart) (sup irq : Bool) (cause tval : Nat) : (H.trapTo sup irq cause tval).xst = H.xst := by
  cases sup <;> rfl

@[simp] theorem Hart.trapTo_xr (H : Hart) (sup irq : Bool) (cause tval r : Nat) : (H.trapTo sup irq cause tval).xr r = H.xr r := by
  cases sup <;> rfl

/-- The trap saves the PC in the register of the mode that it goes to. -/
theorem Hart.trapTo_savedPc (H : Hart) (sup irq : Bool) (cause tval : Nat) :
    if sup then (H.trapTo sup irq cause tval).csr.sepc = H.pc else (H.trapTo sup irq cause tval).csr.mepc = H.pc := by
  cases sup <;> rfl

theorem Hart.trap_of_not_delegated {H : Hart} {cause : Nat} (h : H.mode = .m ∨ H.csr.medeleg.testBit cause = false) (tval : Nat) :
    H.trap cause tval = H.trapTo false false cause tval := by
  rw [← bitOf_eq_testBit] at h
  obtain h | h := h <;> simp [Hart.trap, h]

theorem Hart.trap_of_delegated {H : Hart} {cause : Nat} (hm : H.mode ≠ .m) (hd : H.csr.medeleg.testBit cause = true) (tval : Nat) :
    H.trap cause tval = H.trapTo true false cause tval := by
  rw [← bitOf_eq_testBit] at hd
  have below : (H.mode != .m) = true := by simpa using hm
  simp [Hart.trap, below, hd]

/-! #### Accesses to control and status registers (R301, R302) -/

/-- What an access to register `csr` that reads `old` leaves in it: `op` 1 writes, 2 sets and 3 clears the bits of `v`. -/
def csrNew (op old v : Nat) : Nat :=
  match op with
  | 1 => v % 2 ^ 64
  | 2 => old ||| v % 2 ^ 64
  | _ => old &&& (2 ^ 64 - 1 - v % 2 ^ 64)

theorem csrNew_eq_ite (op old v : Nat) : csrNew op old v =
    if op = 1 then v % 2 ^ 64 else if op = 2 then old ||| v % 2 ^ 64 else old &&& (2 ^ 64 - 1 - v % 2 ^ 64) :=
  match op with
  | 0 => rfl
  | 1 => rfl
  | 2 => rfl
  | _ + 3 => by simp [csrNew]

/-- A hart that runs traps at an access that its mode or the register refuses, and else reads, writes and goes on. -/
theorem exec_sedgeCsrWrite {h csr op old : Nat} {s : State} (v rd : Nat) (hh : h < 4096) (hrun : (s.hart h).run = .run)
    (hop : op < 4) (hread : s.readCsr h csr = some old) :
    exec (.sedgeCsrWrite h csr op v rd) s = .next (
      if modeCode (s.hart h).mode < csr / 256 % 4 ∨ (op ≠ 0 ∧ csrReadOnly csr = true) then s.modHart h (fun H => H.trap 2 0)
      else s.modHart h (fun H =>
        ((if op = 0 then H else H.writeCsr (s.feat 5) (s.feat 13) csr (csrNew op old v)).setX rd old).nextPc 4)) := by
  have here : ((s.hart h).run != .run || decide (4096 ≤ h)) = false := by simp [hrun, hh]
  have refused : (decide ((s.hart h).mode.level < fieldOf csr 9 8) || (op != 0 && csrReadOnly csr)) = true ↔
      modeCode (s.hart h).mode < csr / 256 % 4 ∨ (op ≠ 0 ∧ csrReadOnly csr = true) := by
    simp only [Bool.or_eq_true, decide_eq_true_eq, Bool.and_eq_true, bne_iff_ne]
    rfl
  change execSedgeCsrWrite h csr op v rd s = _
  simp only [execSedgeCsrWrite, Nat.mod_eq_of_lt hop, here, hread, refused, apply_ite Outcome.next]
  rfl

theorem csrAccessesComplete : Claims.CsrAccessesComplete := by
  intro h csr op v rd old s hh hrun hop hread ev new
  have run := exec_sedgeCsrWrite v rd hh hrun hop hread
  refine ⟨fun bad => by rw [run, if_pos bad], fun reach free => ⟨?done, ?ctx, ?uctl⟩⟩
  case done =>
    have legal : ¬ (modeCode (s.hart h).mode < csr / 256 % 4 ∨ (op ≠ 0 ∧ csrReadOnly csr = true)) := by
      rintro (low | ⟨hne, ro⟩)
      · omega
      · simp [hne, ro] at free
    rw [run, if_neg legal, csrNew_eq_ite]
  case ctx =>
    rintro rfl - callq enc
    exact ⟨rfl, rfl⟩
  case uctl =>
    rintro rfl - callq enc
    rfl

/-! #### The interrupt that ends a wait (R320) -/

theorem harts_setFut (s : State) (hd : Nat) (f : Fut) : (s.setFut hd f).harts = s.harts := by
  unfold State.setFut
  dsimp only
  split <;> rfl

@[simp] theorem hart_withdraw (s : State) (h hd j : Nat) : (s.withdraw h hd).hart j = s.hart j := by
  simp [State.hart, State.withdraw, harts_setFut]

/-- A spilled entry keeps its waiters, which its 64 bytes do not hold (R273). -/
theorem waiters_fut_setFut (s : State) (hd : Nat) (f : Fut) : ((s.setFut hd f).fut hd).waiters = f.waiters := by
  have listed : ((s.setFut hd f).cluster (hCluster hd)).futs.get {} (hIndex hd) = f := by
    unfold State.setFut
    dsimp only
    split <;> simp [State.modCluster, State.setCluster, State.cluster]
  unfold State.fut State.futAt
  rw [listed]
  dsimp only
  split <;> rfl

theorem waiters_withdraw (s : State) (h hd : Nat) :
    ((s.withdraw h hd).fut hd).waiters = (s.fut hd).waiters.filter (fun w => w.hart != some h) :=
  waiters_fut_setFut s hd _

/-- A hart that waited in XFWAIT completes it with INTERRUPTED and enters the trap. -/
def Hart.interrupted (H : Hart) (rd cause : Nat) (sup : Bool) : Hart :=
  ({ H with run := .run, xst := 7 }.setX rd 7).trapTo sup true cause 0

theorem exec_xfwaitInterrupted_waiting {h cause hd rd : Nat} {sup : Bool} {s : State} (hrun : (s.hart h).run = .wait hd rd)
    (htakes : (s.hart h).takes cause = some sup) :
    exec (.xfwaitInterrupted h cause) s = .next ((s.withdraw h hd).modHart h (fun H => H.interrupted rd cause sup)) := by
  change execXfwaitInterrupted h cause s = _
  simp only [execXfwaitInterrupted, hrun, htakes]
  rfl

theorem Hart.interrupted_savedPc (H : Hart) (rd cause : Nat) (sup : Bool) :
    if sup then (H.interrupted rd cause sup).csr.sepc = H.pc else (H.interrupted rd cause sup).csr.mepc = H.pc := by
  have saved := Hart.trapTo_savedPc ({ H with run := .run, xst := 7 }.setX rd 7) sup true cause 0
  rwa [Hart.setX_pc] at saved

theorem interruptEndsTheWait : Claims.InterruptEndsTheWait := by
  refine ⟨fun h cause hd rd sup s hrun htakes => ?waits, fun h cause sup s hrun htakes => ?runs⟩
  case waits =>
    refine ⟨_, exec_xfwaitInterrupted_waiting hrun htakes, ?_, ?_, fun hrd => ?_, ?_, waiters_withdraw s h hd⟩
    · simp [Hart.interrupted]
    · simp [Hart.interrupted]
    · simpa [Hart.interrupted] using Hart.xr_setX_of_pos _ hrd (by decide) (by decide)
    · simpa using Hart.interrupted_savedPc (s.hart h) rd cause sup
  case runs =>
    change execXfwaitInterrupted h cause s = _
    simp only [execXfwaitInterrupted, hrun, htakes]

/-! #### Exceptions (R298, R301, R307) -/

theorem hartsTakeExceptions : Claims.HartsTakeExceptions := by
  refine ⟨fun H cause tval => ⟨fun h => ?machine, fun hm hd => ?supervisor⟩, fun s h va pa n _ => ⟨rfl, ?access, ?other⟩⟩
  case machine =>
    rw [Hart.trap_of_not_delegated h]
    cases hm : H.mode <;> simp [Hart.trapTo, hm, fieldOf, modeCode]
  case supervisor =>
    rw [Hart.trap_of_delegated hm hd]
    simp [Hart.trapTo, fieldOf, bit]
  case access => simp [State.hartFault, HNeed.accessFault]
  case other =>
    intro x hx
    have none : x ≠ n.accessFault := hx
    simp [State.hartFault, none]

/-- Settles O46: each access, interrupt or exception follows its branch, with what the trap entry saves. -/
theorem csrAndInterrupts : Obligations.CsrAndInterrupts :=
  ⟨csrAccessesComplete, interruptEndsTheWait, hartsTakeExceptions⟩

end Sys2Proof.Machine

namespace Sys2Proof.Machine

open Host (Outcome)

/-! ### The lease, the hub's registers, the endpoint (R421 to R442) -/

theorem bitOf_zero_eq_true {n : Nat} : bitOf n 0 = true ↔ n % 2 = 1 := by
  simp [bitOf]

theorem bitOf_zero_eq_false {n : Nat} : bitOf n 0 = false ↔ n % 2 = 0 := by
  simp [bitOf]

/-! #### What updates leave of the hub and of the accesses on their way -/

@[simp] theorem modHub_hub (s : State) (f : Hub → Hub) : (s.modHub f).hub = f s.hub := rfl

@[simp] theorem bumpGen_hub (s : State) (l : List (Nat × Nat)) : (s.bumpGen l).hub = s.hub := by
  induction l generalizing s with
  | nil => rfl
  | cons e r ih => exact ih _

@[simp] theorem advance_hub (s : State) (grans : List Nat) : (s.advance grans).hub = s.hub :=
  bumpGen_hub _ _

@[simp] theorem drainBridge_hub (s : State) (p gr : Nat) : (s.drainBridge p gr).hub = s.hub := by
  unfold State.drainBridge
  split
  · exact advance_hub _ _
  · rfl

theorem foldl_drainBridge_hub (l : List (Nat × Nat)) (s : State) :
    (l.foldl (fun t x => t.drainBridge x.1 x.2) s).hub = s.hub := by
  induction l generalizing s with
  | nil => rfl
  | cons x l ih => rw [List.foldl_cons, ih, drainBridge_hub]

@[simp] theorem dropLines_hub (s : State) (p : Nat) : (s.dropLines p).hub = s.hub :=
  foldl_drainBridge_hub _ _

@[simp] theorem setLink_holder (s : State) (p : Nat) (b : Bool) : (s.setLink p b).hub.holder = s.hub.holder := by
  unfold State.setLink
  rw [modHub_hub]
  split <;> rfl

/-- An access on its way stays with the bridge that it has reached; one of window 1 that has reached none may have reached the
holder's (R425). -/
theorem atBridge_inflight {s : State} {i : Nat} {f : InFlight} (hf : s.inflight[i]? = some f) :
    ∃ o, s.atBridge.inflight[i]? = some { f with port := o } ∧
      (o = f.port ∨ (f.port = none ∧ f.va / 2 ^ 48 = 1 ∧ o = some s.hub.holder)) := by
  refine ⟨if f.va / 2 ^ 48 = 1 && f.port.isNone && bitOf s.draw.1 (3 * i + 1) then some s.hub.holder else f.port, ?_, ?_⟩
  · simp [State.atBridge, List.getElem?_zipIdx, hf]
  · split
    · next reached =>
      simp only [Bool.and_eq_true, decide_eq_true_eq, Option.isNone_iff_eq_none] at reached
      obtain ⟨⟨window, unported⟩, -⟩ := reached
      exact .inr ⟨unported, window, rfl⟩
    · exact .inl rfl

theorem resetConnections_injects {s : State} {i : Nat} {j : Inject} (hj : s.injects[i]? = some j) :
    s.resetConnections.injects[i]? = some j ∨ (j.conn ≠ none ∧ s.resetConnections.injects[i]? = some { j with reset := true }) := by
  have entry : s.resetConnections.injects[i]? = some (if j.conn.any (bitOf s.draw.1) then { j with reset := true } else j) := by
    simp [State.resetConnections, hj]
  rw [entry]
  split
  · next former =>
    refine .inr ⟨fun unconnected => ?_, rfl⟩
    simp [unconnected] at former
  · exact .inl rfl

/-! #### The lease (R423 to R426) -/

section
variable {s : State} {p : Nat} (v : Nat)

theorem exec_leaseClaim (hopen : s.hostOpen p = true) (free : s.hub.holder = 2) (first : p = 0 ∨ s.sameCycle = false) :
    exec (.leaseClaim p v) s = .next (s.claim p v) := by
  have now : (decide (p = 1) && s.sameCycle) = false := by
    obtain rfl | closed := first
    · rfl
    · simp [closed]
  change execLeaseClaim p v s = _
  simp [execLeaseClaim, hopen, free, now]

theorem exec_leaseClaim_late (hopen : s.hostOpen 1 = true) (free : s.hub.holder = 2) (cycle : s.sameCycle = true) :
    exec (.leaseClaim 1 v) s = .next (s.modHub (fun h => { h with lateClaim := some v })) := by
  change execLeaseClaim 1 v s = _
  simp [execLeaseClaim, hopen, free, cycle]

theorem exec_leaseRenew (hopen : s.hostOpen p = true) (holds : s.hub.holder = p) :
    exec (.leaseRenew p v) s = .next (s.modHub (fun h => h.lease p v)) := by
  change execLeaseRenew p v s = _
  simp [execLeaseRenew, hopen, holds]

theorem exec_leaseArm (hopen : s.hostOpen p = true) (held : s.hub.holder ≠ 2) (other : s.hub.holder ≠ p) :
    exec (.leaseArm p v) s = .next (s.modHub (fun h => h.writeArm p v)) := by
  change execLeaseArm p v s = _
  simp [execLeaseArm, hopen, held, other]

end

theorem exec_leaseExpiry {s : State} (held : s.hub.holder < 2) (ended : s.hub.remain = 0) :
    exec .leaseExpiry s = .next s.expire := by
  change execLeaseExpiry s = _
  simp [execLeaseExpiry, held, ended]

theorem exec_leaseExpiry_early {s : State} (running : s.hub.remain ≠ 0) : exec .leaseExpiry s = .next s := by
  change execLeaseExpiry s = _
  simp [execLeaseExpiry, running]

/-- The other port is armed and its host is there, where DUAL_HOST is accepted (R425). -/
def State.standby (s : State) : Prop :=
  s.feat 11 = true ∧ s.hub.arm (1 - s.hub.holder) = true ∧ s.linkUp (1 - s.hub.holder) = true

theorem standby_iff (s : State) : s.standby ↔
    (s.atBridge.feat 11 && s.hub.arm (1 - s.hub.holder) && s.atBridge.linkUp (1 - s.hub.holder)) = true := by
  simp only [Bool.and_eq_true, and_assoc]
  rfl

theorem expire_of_standby {s : State} (h : s.standby) :
    s.expire = (s.atBridge.modHub (fun h => { h.setArm (1 - s.hub.holder) false with
      holder := 1 - s.hub.holder, remain := h.period, epoch := (h.epoch + 1) % 256 })).sysIrq :=
  if_pos ((standby_iff s).mp h)

theorem expire_of_no_standby {s : State} (h : ¬ s.standby) :
    s.expire = (s.atBridge.holdAll.resetConnections.modHub (fun h =>
      { h with holder := 2, remain := 0, orphan := some s.hubTime })).sysIrq :=
  if_neg (fun ready => h ((standby_iff s).mpr ready))

/-- A restart may come with a link loss (log 57). -/
theorem exec_hostWarmRestart (s : State) {p : Nat} (hp : p < 2) :
    ∃ t, (t = ({ s with free := s.free + 1 } : State) ∨ t = ({ s with free := s.free + 1 } : State).setLink p false) ∧
      exec (.hostWarmRestart p) s = .next (
        if s.hub.holder = p then (t.dropLines p).expire else (t.dropLines p).modHub (fun h => h.setArm p false)) := by
  refine ⟨if s.draw.1 % 2 = 0 then s.draw.2.setLink p false else s.draw.2, ?_, ?_⟩
  · split
    · exact .inr rfl
    · exact .inl rfl
  · have holder : ((if s.draw.1 % 2 = 0 then s.draw.2.setLink p false else s.draw.2).dropLines p).hub.holder = s.hub.holder := by
      rw [dropLines_hub]
      split <;> simp
    change execHostWarmRestart p s = _
    simp only [execHostWarmRestart, if_neg (Nat.not_le.mpr hp), holder]

theorem exec_hostLinkUp (s : State) {p : Nat} (hp : p < 2) : exec (.hostLinkUp p) s = .next (s.setLink p true) := by
  change execHostLinkUp p s = _
  rw [execHostLinkUp, if_pos hp]

theorem exec_graceExpiry {s : State} {n : Nat} (free : s.hub.holder = 2) (left : s.hub.orphan = some n)
    (late : n + s.hub.grace * 1000 < s.hubTime) :
    exec .graceExpiry s = .next ((s.heldCtxs.foldl State.teardown s).modHub (fun h => { h with orphan := none })) := by
  have ended : s.graceOver = true := by simp [State.graceOver, free, left, late]
  change execGraceExpiry s = _
  rw [execGraceExpiry, if_pos ended]

theorem theLeaseChangesHands : Claims.TheLeaseChangesHands := by
  intro s p v lease armed standby
  refine ⟨fun hopen => ⟨?claim, ?late, ?renew, ?arm⟩, fun held ended => ⟨?takeover, ?orphan⟩,
    fun i f hf => atBridge_inflight hf, fun i j hj => resetConnections_injects hj, fun _ running => exec_leaseExpiry_early running,
    fun hp => ?restart, fun hp => exec_hostLinkUp s hp, fun n free left late => exec_graceExpiry free left late⟩
  case claim => exact fun free first => exec_leaseClaim v hopen free first
  case late =>
    rintro free rfl cycle
    exact exec_leaseClaim_late v hopen free cycle
  case renew => exact fun holds => exec_leaseRenew v hopen holds
  case arm => exact fun held other => exec_leaseArm v hopen held other
  case takeover =>
    intro ready
    rw [exec_leaseExpiry held ended, expire_of_standby ready]
  case orphan =>
    intro alone
    rw [exec_leaseExpiry held ended, expire_of_no_standby alone]
  case restart =>
    obtain ⟨t, ht, run⟩ := exec_hostWarmRestart s hp
    exact ⟨t, ht, fun other => by rw [run, if_neg other], fun holds => by rw [run, if_pos holds]⟩

/-! #### Writes of the holder (R421, R427 to R432) -/

theorem fromHolder_of_holder {s : State} {p : Nat} (h : Claims.fromHolder s p) (f : State → State) : s.fromHolder p f = f s := by
  obtain ⟨hopen, holds⟩ := h
  simp [State.fromHolder, hopen, holds]

theorem exec_featureAcceptWrite {s : State} {p : Nat} (h : Claims.fromHolder s p) (v : Nat) (free : s.hub.locked = false) :
    exec (.featureAcceptWrite p 0 v) s = .next (s.modHub (fun h => { h with
      featAcc := (v &&& 0x3FFFF) ||| 1, featWas := if s.sameCycle then some (h.featWas.getD h.featAcc) else none })) := by
  change execFeatureAcceptWrite p 0 v s = _
  simp [execFeatureAcceptWrite, fromHolder_of_holder h, free, advertised]

theorem exec_featureAcceptWrite_locked {s : State} {p i : Nat} (h : Claims.fromHolder s p) (v : Nat) (hi : i < 4)
    (locked : s.hub.locked = true) : exec (.featureAcceptWrite p i v) s = .next (s.hubErr 0) := by
  change execFeatureAcceptWrite p i v s = _
  simp [execFeatureAcceptWrite, Nat.not_le.mpr hi, fromHolder_of_holder h, locked]

section
variable {s : State} {p q : Nat} (v : Nat)

/-- What a write of `v` makes of the configuration of a disabled launch queue, which it does not yet enable (R429). -/
def LaunchQ.configured (l : LaunchQ) (v : Nat) : LaunchQ := { l with cfg := v / 2 ^ 8 % 2 ^ 53 * 2 ^ 8 }

theorem exec_launchQueueEnable (h : Claims.fromHolder s p) (hq : q < 64) (off : (s.lq q).cfg % 2 = 0) (on : v % 2 = 1) :
    exec (.launchQueueEnable p q v) s = .next (
      let w := (s.lq q).configured v
      if w.formed then s.setLq q { w with cfg := w.cfg + 1, head := (s.lq q).tail, stat := 0 } else (s.setLq q w).hubErr 5) := by
  have disabled : (s.lq q).en = false := bitOf_zero_eq_false.mpr off
  have enables : bitOf v 0 = true := bitOf_zero_eq_true.mpr on
  change execLaunchQueueEnable p q v s = _
  simp only [execLaunchQueueEnable, if_neg (Nat.not_le.mpr hq), fromHolder_of_holder h, disabled, enables, Bool.not_true,
    Bool.false_eq_true, if_false, Bool.not_eq_true', ← Bool.not_eq_true, ite_not]
  rfl

/-- A tail that runs past the ring of an enabled queue disables it (R430). -/
theorem exec_launchQueueTailWrite (h : Claims.fromHolder s p) (hq : q < 64) :
    exec (.launchQueueTailWrite p q v) s = .next (
      let l : LaunchQ := { s.lq q with tail := v % 2 ^ 32 }
      if l.en = true ∧ 2 ^ l.log < (v % 2 ^ 32 + 2 ^ 32 - l.head) % 2 ^ 32 then
        (s.setLq q { l with cfg := setField l.cfg 0 0 0 }).hubErr 2
      else s.setLq q l) := by
  change execLaunchQueueTailWrite p q v s = _
  simp only [execLaunchQueueTailWrite, if_neg (Nat.not_le.mpr hq), fromHolder_of_holder h, Bool.and_eq_true, decide_eq_true_eq]

end

/-- The ring entry at HEAD of a launch queue (R430). -/
def LaunchQ.entryAt (l : LaunchQ) : Nat := l.ring + 256 * (l.head % 2 ^ l.log)

/-- What an injection at an enabled queue does once its entry can be read. -/
theorem exec_launchInject {s t : State} {q : Nat} (hq : q < 64) (held : s.hub.holder < 2) (on : (s.lq q).cfg % 2 = 1)
    (filled : (s.lq q).head ≠ (s.lq q).tail)
    (hread : (s.recall hubParty 256 (s.lq q).entryAt 128 false false).bind
      (fun t => t.recall hubParty 256 ((s.lq q).entryAt + 128) 128 false false) = some t) :
    exec (.launchInject q) s = .next (
      let l := s.lq q
      let e := launchEntry l.ctx (bytesAt t.mem l.entryAt 256)
      let u := t.setLq q { l with head := (l.head + 1) % 2 ^ 32 }
      if (t.ctx l.ctx).state ≠ .live then u.setLq q { u.lq q with stat := min (l.stat + 1) (2 ^ 32 - 1) }
      else if e.1.kind = 1 then u.deadLetter l.ctx l.ctx (3 + e.1.target * 2 ^ 40)
      else u.inject .hub l.ctx e.2 0 tcMsg 4 e.1.target (.msg e.1)) := by
  have enabled : (s.lq q).en = true := bitOf_zero_eq_true.mpr on
  have ready : (decide (64 ≤ q) || !(s.lq q).en || decide (2 ≤ s.hub.holder) || decide ((s.lq q).head = (s.lq q).tail)) = false := by
    simp [hq, enabled, held, filled]
  change execLaunchInject q s = _
  simp only [LaunchQ.entryAt] at hread
  simp only [execLaunchInject, ready, Bool.false_eq_true, if_false, hread, apply_ite Outcome.next]
  rfl

/-- A pending vector is sent once no earlier write into the holder's memory is on its way (R432). -/
theorem exec_msixSend {s : State} {i vec cover : Nat} (pending : s.hub.pendIrq[i]? = some (vec, cover)) (held : s.hub.holder < 2)
    (up : s.linkUp s.hub.holder = true)
    (accepted : ∀ f ∈ s.inflight, f.id < cover → ∀ a key, s.rePort f.va f.tgt f.port = .dpa a key →
      a / 2 ^ 46 ≠ 2 + s.hub.holder) :
    exec (.msixSend i) s = .next (s.modHub (fun h => { h with
      pendIrq := dropAt h.pendIrq i, sentIrq := h.sentIrq ++ [(s.hub.holder, vec)] })) := by
  change execMsixSend i s = _
  simp only [execMsixSend, pending]
  rw [if_neg]
  simp only [Bool.or_eq_true, not_or, List.any_eq_true, not_exists, not_and, Bool.and_eq_true, decide_eq_true_eq]
  refine ⟨⟨Nat.not_le.mpr held, by simp [up]⟩, fun f hf earlier => ?_⟩
  have away := accepted f hf earlier
  split
  · next a key there => simpa using away a key there
  · simp

/-! #### Registers of the window (R421, R422) -/

/-- HUB_LEASE and HUB_ERR are written by either port. -/
theorem ne_of_holderReg {ofs : Nat} (own : holderReg ofs = true) : ofs ≠ 0x08 ∧ ofs ≠ 0x18 := by
  constructor
  · rintro rfl
    exact absurd own (by decide)
  · rintro rfl
    exact absurd own (by decide)

section
variable {s : State} {p : Nat} (v : Nat)

theorem exec_registerWrite_misshapen {ofs n : Nat} (hopen : s.hostOpen p = true) (h : n ≠ 8 ∨ ofs % 8 ≠ 0) :
    exec (.registerWrite p ofs n v) s = .next (s.hubErr 4) := by
  have misshapen : (decide (n ≠ 8) || decide (ofs % 8 ≠ 0)) = true := by
    obtain h | h := h <;> simp [h]
  change execRegisterWrite p ofs n v s = _
  simp only [execRegisterWrite, hopen, misshapen, Bool.not_true, Bool.false_eq_true, if_false, if_true]

theorem exec_registerWrite_hubErr (hopen : s.hostOpen p = true) :
    exec (.registerWrite p 0x18 8 v) s = .next (s.modHub (fun h => { h with err := h.err &&& (2 ^ 6 - 1 - v % 2 ^ 6) })) := by
  change execRegisterWrite p 0x18 8 v s = _
  simp [execRegisterWrite, hopen]

theorem exec_registerWrite_holder {ofs : Nat} (h : Claims.fromHolder s p) (aligned : ofs % 8 = 0) (own : holderReg ofs = true) :
    exec (.registerWrite p ofs 8 v) s = .next ((s.modHub (fun h => h.plain s.anyCtx ofs v)).showDevid ofs) := by
  obtain ⟨hopen, holds⟩ := h
  obtain ⟨notStatus, notErr⟩ := ne_of_holderReg own
  change execRegisterWrite p ofs 8 v s = _
  simp [execRegisterWrite, hopen, holds, aligned, own, notStatus, notErr]

theorem exec_registerWrite_other {ofs : Nat} (hopen : s.hostOpen p = true) (other : s.hub.holder ≠ p) (aligned : ofs % 8 = 0)
    (own : holderReg ofs = true) : exec (.registerWrite p ofs 8 v) s = .next (s.hubErr 1) := by
  obtain ⟨notStatus, notErr⟩ := ne_of_holderReg own
  change execRegisterWrite p ofs 8 v s = _
  simp [execRegisterWrite, hopen, other, aligned, own, notStatus, notErr]

end

theorem showDevid_of_ne (s : State) {ofs : Nat} (h : ofs ≠ 0x208) : s.showDevid ofs = s := by
  simp [State.showDevid, h]

theorem plain_irqCtx (h : Hub) (ctxs : Bool) {q : Nat} (v : Nat) (hq : q < 256) :
    h.plain ctxs (0x800 + 8 * q) v = { h with irqCtx := h.irqCtx.set q (v % 2 ^ 24) } := by
  have entry : (0x800 + 8 * q) / 8 % 256 = q := by omega
  have inside : (decide (0x800 ≤ 0x800 + 8 * q) && decide (0x800 + 8 * q < 0x1000)) = true := by
    simp
    omega
  unfold Hub.plain
  rw [if_neg (by omega), if_neg (by omega), if_neg (by omega), if_neg (by omega), if_neg (by omega), if_pos inside, entry]

theorem holderReg_irqCtx {q : Nat} (hq : q < 256) : holderReg (0x800 + 8 * q) = true := by
  have inside : (decide (0x800 ≤ 0x800 + 8 * q) && decide (0x800 + 8 * q < 0x1800)) = true := by
    simp
    omega
  simp only [holderReg, inside, Bool.or_true, Bool.true_or]

theorem registersAct {s : State} {p q : Nat} (v : Nat) (h : Claims.fromHolder s p) :
    exec (.registerWrite p 0x10 8 v) s = .next (s.modHub (fun h => { h with grace := v % 2 ^ 32 })) ∧
    (s.anyCtx = false → exec (.registerWrite p 0x208 8 v) s =
      .next ((s.modHub (fun h => { h with devid := v % 2 ^ 16 })).showDevid 0x208)) ∧
    (q < 256 → exec (.registerWrite p (0x800 + 8 * q) 8 v) s =
      .next (s.modHub (fun h => { h with irqCtx := h.irqCtx.set q (v % 2 ^ 24) }))) := by
  refine ⟨?grace, fun unused => ?devid, fun hq => ?irqCtx⟩
  case grace =>
    rw [exec_registerWrite_holder v h (by decide) (by decide), showDevid_of_ne _ (by decide)]
    rfl
  case devid =>
    rw [exec_registerWrite_holder v h (by decide) (by decide), unused]
    rfl
  case irqCtx =>
    rw [exec_registerWrite_holder v h (by omega) (holderReg_irqCtx hq), showDevid_of_ne _ (by omega)]
    simp only [plain_irqCtx _ _ v hq]

theorem hubWritesAct : Claims.HubWritesAct := by
  intro s p i q ofs n v
  refine ⟨fun h => ⟨?accept, fun hi locked => exec_featureAcceptWrite_locked h v hi locked, fun hq => ?queue⟩, ?inject,
    fun vec cover pending held up accepted => exec_msixSend pending held up accepted,
    fun hopen => ⟨fun shape => exec_registerWrite_misshapen v hopen shape, exec_registerWrite_hubErr v hopen,
      fun holds => registersAct v ⟨hopen, holds⟩, fun other => exec_registerWrite_other v hopen other (by decide) (by decide)⟩⟩
  case accept =>
    rintro rfl free
    exact exec_featureAcceptWrite h v free
  case queue =>
    have tail := exec_launchQueueTailWrite v h hq
    refine ⟨fun off on formed => ?_, fun off on misplaced => ?_, fun off => ?_, fun on fits => ?_, fun on beyond => ?_⟩
    · rw [exec_launchQueueEnable v h hq off on]
      exact congrArg Outcome.next (if_pos formed)
    · rw [exec_launchQueueEnable v h hq off on]
      exact congrArg Outcome.next (if_neg (Bool.eq_false_iff.mp misplaced))
    · have disabled : (s.lq q).en = false := bitOf_zero_eq_false.mpr off
      rw [tail]
      exact congrArg Outcome.next (if_neg (fun bad => Bool.false_ne_true (disabled.symm.trans bad.1)))
    · rw [tail]
      exact congrArg Outcome.next (if_neg (fun bad => absurd bad.2 (Nat.not_lt.mpr fits)))
    · rw [tail]
      exact congrArg Outcome.next (if_pos ⟨bitOf_zero_eq_true.mpr on, beyond⟩)
  case inject =>
    intro hq held on filled t l a hread m u
    have run := exec_launchInject hq held on filled hread
    refine ⟨fun live message => ?_, fun gone => ?_, fun live command => ?_⟩
    · rw [run]
      exact congrArg Outcome.next ((if_neg (not_not.mpr live)).trans (if_neg message))
    · rw [run]
      exact congrArg Outcome.next (if_pos gone)
    · rw [run]
      exact congrArg Outcome.next ((if_neg (not_not.mpr live)).trans (if_pos command))

/-! #### The endpoint (R435 to R437) -/

theorem exec_endpointMessageInject (s : State) {msg route : List Byte} (hm : msg.length = 128) (hr : route.length = 16) :
    exec (.endpointMessageInject msg route) s = .next (
      let m := ({ words := Claims.wordsOf 16 msg } : Msg).withSrc 3
      s.draw.2.inject (.endpoint s.draw.1) m.ctx (ofLE route) 0 tcMsg 4 m.target (.msg m)) := by
  change execEndpointMessageInject msg route s = _
  simp only [execEndpointMessageInject, hm, hr]
  rfl

/-- A route is walked by the states of the ports, which a free choice leaves alone. -/
theorem walkRoute_draw (s : State) (route fuel ptr sw port : Nat) :
    s.draw.2.walkRoute route fuel ptr sw port = s.walkRoute route fuel ptr sw port := by
  induction fuel generalizing ptr sw port with
  | zero => rfl
  | succ fuel ih =>
    have hop : s.draw.2.checkHop route ptr sw port false = s.checkHop route ptr sw port false := rfl
    simp only [State.walkRoute, hop, ih]

theorem futRoute_draw (s : State) (src : Source) (c : Nat) : s.draw.2.futRoute src c = s.futRoute src c := by
  simp only [State.futRoute, walkRoute_draw]

/-- The `n`-byte field at byte `o` of the payload of a remote resolution; its handle and its context (R436). -/
def payloadField (payload : List Byte) (o n : Nat) : Nat := ofLE ((payload.drop o).take n)
def payloadHandle (payload : List Byte) : Nat := payloadField payload 0 4
def payloadCtx (payload : List Byte) : Nat := payloadField payload 5 1

/-- A resolution of operation 0 that is the first on its connection and has the key of its context (R436, R437). -/
structure ResolvesWithKey (s : State) (payload : List Byte) : Prop where
  len : payload.length = 32
  first : ∀ j ∈ s.injects, j.conn ≠ some s.draw.1
  op : payloadField payload 4 1 = 0
  keyed : s.rkey (payloadCtx payload) ≠ 0
  key : payloadField payload 8 8 = s.rkey (payloadCtx payload)

/-- What the endpoint makes of the effect at the future's agent of a resolution of handle `hd` (R437). -/
def State.answered (s : State) (hd : Nat) : XOut → Outcome State Fault Refusal
  | .done t st _ => .next (t.reply hd st)
  | .held t => .next t
  | .wait t => .next t
  | .trap _ => .next s

/-- The tests of a payload in their order: it waits or is cut short; it is refused; its tokens are cut short. -/
def State.payloadWaits (s : State) (payload : List Byte) : Bool :=
  decide (payload.length < 32) || s.injects.any (fun j => j.conn = some s.draw.1)
def State.payloadRefused (s : State) (payload : List Byte) : Bool :=
  decide (3 ≤ payloadField payload 4 1) || decide (s.rkey (payloadCtx payload) = 0) ||
    decide (payloadField payload 8 8 ≠ s.rkey (payloadCtx payload)) ||
    (decide (payloadField payload 4 1 = 1) && (decide (4096 < payloadField payload 24 2) || !s.feat 5))
def payloadShort (payload : List Byte) : Bool :=
  decide (payloadField payload 4 1 = 1) && decide (payload.length < 32 + 4 * payloadField payload 24 2)

section
variable {s : State} {payload : List Byte}

theorem exec_remoteResolution (s : State) (payload : List Byte) : exec (.remoteResolution payload) s =
    if s.payloadWaits payload = true then .next s.draw.2
    else if s.payloadRefused payload = true then .next (s.draw.2.reply (payloadHandle payload) 9)
    else if payloadShort payload = true then .next s.draw.2
    else if (!(s.ctx (payloadCtx payload)).exists) = true then .next (s.draw.2.reply (payloadHandle payload) 11)
    else s.draw.2.answered (payloadHandle payload) (s.draw.2.resolution s.draw.1 (payloadField payload 4 1) (payloadCtx payload)
      (payloadHandle payload) (payloadField payload 16 8) ((payload.drop 32).take (4 * payloadField payload 24 2))) := rfl

/-- A resolution that follows an unfinished one of its connection waits. -/
theorem exec_remoteResolution_waits {j : Inject} (hj : j ∈ s.injects) (conn : j.conn = some s.draw.1) :
    exec (.remoteResolution payload) s = .next s.draw.2 := by
  have waits : s.payloadWaits payload = true := by
    simp only [State.payloadWaits, Bool.or_eq_true, List.any_eq_true, decide_eq_true_eq]
    exact .inr ⟨j, hj, conn⟩
  rw [exec_remoteResolution, if_pos waits]

theorem not_payloadWaits_of_first (len : payload.length = 32) (first : ∀ j ∈ s.injects, j.conn ≠ some s.draw.1) :
    ¬ s.payloadWaits payload = true := by
  simpa [State.payloadWaits, len] using first

theorem exec_remoteResolution_badKey (len : payload.length = 32) (first : ∀ j ∈ s.injects, j.conn ≠ some s.draw.1)
    (bad : payloadField payload 8 8 ≠ s.rkey (payloadCtx payload) ∨ s.rkey (payloadCtx payload) = 0) :
    exec (.remoteResolution payload) s = .next (s.draw.2.reply (payloadHandle payload) 9) := by
  have refused : s.payloadRefused payload = true := by
    obtain other | unkeyed := bad
    · simp [State.payloadRefused, other]
    · simp [State.payloadRefused, unkeyed]
  rw [exec_remoteResolution, if_neg (not_payloadWaits_of_first len first), if_pos refused]

/-- With the context's key, what is answered turns on the context and, where that exists, on the future's agent. -/
theorem exec_remoteResolution_keyed (h : ResolvesWithKey s payload) : exec (.remoteResolution payload) s =
    if (!(s.ctx (payloadCtx payload)).exists) = true then .next (s.draw.2.reply (payloadHandle payload) 11)
    else s.draw.2.answered (payloadHandle payload) (s.draw.2.resolution s.draw.1 0 (payloadCtx payload) (payloadHandle payload)
      (payloadField payload 16 8) ((payload.drop 32).take (4 * payloadField payload 24 2))) := by
  have admitted : ¬ s.payloadRefused payload = true := by simp [State.payloadRefused, h.op, h.keyed, h.key]
  have whole : ¬ payloadShort payload = true := by simp [payloadShort, h.op]
  rw [exec_remoteResolution, if_neg (not_payloadWaits_of_first h.len h.first), if_neg admitted, if_neg whole, h.op]

theorem exec_remoteResolution_noContext (h : ResolvesWithKey s payload) (gone : (s.ctx (payloadCtx payload)).exists = false) :
    exec (.remoteResolution payload) s = .next (s.draw.2.reply (payloadHandle payload) 11) := by
  rw [exec_remoteResolution_keyed h, if_pos (by rw [gone]; rfl)]

/-- The agent of a live future resolves it for a connection. -/
theorem resolution_of_live {conn ctx hd : Nat} {x : Fut} (value : Nat) (toks : List Byte) (gen : hGen hd ≠ 0)
    (awake : (s.cluster (hCluster hd)).gated = false) (route : s.futRoute (.endpoint conn) (hCluster hd) = none)
    (found : s.findFut hd ctx = some x) (live : x.state = .live) :
    s.resolution conn 0 ctx hd value toks = .done (s.resolveFut hd (some value)) 0 none := by
  simp [State.resolution, gen, awake, route, found, State.resolveAt, live]

theorem exec_remoteResolution_resolves {x : Fut} (h : ResolvesWithKey s payload)
    (there : (s.ctx (payloadCtx payload)).exists = true) (gen : hGen (payloadHandle payload) ≠ 0)
    (awake : (s.cluster (hCluster (payloadHandle payload))).gated = false)
    (reached : s.futRoute (.endpoint s.draw.1) (hCluster (payloadHandle payload)) = none)
    (found : s.findFut (payloadHandle payload) (payloadCtx payload) = some x) (live : x.state = .live) :
    exec (.remoteResolution payload) s = .next
      ((s.draw.2.resolveFut (payloadHandle payload) (some (payloadField payload 16 8))).reply (payloadHandle payload) 0) := by
  rw [exec_remoteResolution_keyed h, if_neg (by rw [there]; decide),
    resolution_of_live (s := s.draw.2) _ _ gen awake ((futRoute_draw s _ _).trans reached) found live]
  rfl

end

/-! #### Ingest streams (R438 to R440) -/

/-- What a write of `v` makes of the configuration of a disabled stream, which it does not yet enable (R438). -/
def Ingest.configured (x : Ingest) (v : Nat) : Ingest := { x with cfg := v / 2 % 2 ^ 57 * 2 }

theorem exec_ingestEnable {s : State} {p i v : Nat} (h : Claims.fromHolder s p) (hi : i < 64) (accepted : s.feat 8 = true)
    (off : (s.stream i).cfg % 2 = 0) (on : v % 2 = 1) :
    exec (.ingestEnable p i v) s = .next (
      let w := (s.stream i).configured v
      if w.formed then s.draw.2.setStream i { w with cfg := w.cfg + 1, count := s.draw.1 % 2 ^ 32, paused := false }
      else (s.setStream i w).hubErr 5) := by
  have disabled : (s.stream i).en = false := bitOf_zero_eq_false.mpr off
  have enables : bitOf v 0 = true := bitOf_zero_eq_true.mpr on
  change execIngestEnable p i v s = _
  simp only [execIngestEnable, if_neg (Nat.not_le.mpr hi), fromHolder_of_holder h, accepted, disabled, enables, Bool.not_true,
    Bool.false_eq_true, if_false, Bool.not_eq_true', ← Bool.not_eq_true, ite_not]
  rfl

/-- The address of slot TAIL of a stream (R439). -/
def State.slotAt (s : State) (x : Ingest) : Nat := x.ring + s.ingTail x % 2 ^ x.log * 2 ^ x.slotLog

theorem exec_ingestDatagram {s t : State} {port dst k : Nat} (payload : List Byte) (hport : port < 8) (accepted : s.feat 8 = true)
    (matched : s.streamFor port dst = some k)
    (allowed : (s.allowRange (s.stream k).state 64).bind
      (fun t => t.allowRange (s.slotAt (s.stream k)) (2 ^ (s.stream k).slotLog)) = some t) :
    exec (.ingestDatagram port dst payload) s = .next (
      let x := { s.stream k with count := ((s.stream k).count + 1) % 2 ^ 32 }
      let u := t.setStream k x
      (if 2 ^ x.slotLog - 16 < payload.length then u.bump x 24
        else if 2 ^ x.log ≤ u.ingUsed x then u.bump x 16 else u.landDatagram x port payload).evalPause k) := by
  simp only [State.slotAt] at allowed
  have open8 : ¬ (decide (8 ≤ port) || !s.feat 8) = true := by simp [hport, accepted]
  change execIngestDatagram port dst payload s = _
  simp only [execIngestDatagram, if_neg open8, matched, allowed]

theorem exec_ingestPfcTick {s t : State} {i : Nat} (enabled : (s.stream i).en = true)
    (allowed : s.allowRange (s.stream i).state 64 = some t) : exec (.ingestPfcTick i) s = .next (t.evalPause i) := by
  change execIngestPfcTick i s = _
  simp [execIngestPfcTick, State.pfcTick, enabled, allowed]

theorem exec_pfcPauseRepeat {s : State} {i : Nat} (enabled : (s.stream i).en = true) (paused : (s.stream i).paused = true)
    (above : (s.stream i).low < s.ingUsed (s.stream i)) (old : (s.stream i).pausedAt + 20 ≤ s.hubTime) :
    exec (.pfcPauseRepeat i) s = .next ((s.pfcFrame (s.stream i).portMask (s.stream i).prio 0xFFFF).setStream i
      { s.stream i with pausedAt := s.hubTime }) := by
  change execPfcPauseRepeat i s = _
  simp [execPfcPauseRepeat, State.pfcRepeat, enabled, paused, above, old]

theorem theEndpointActs : Claims.TheEndpointActs := by
  intro s msg route payload p i v port dst
  refine ⟨fun hm hr => ⟨_, exec_endpointMessageInject s hm hr⟩, fun len first => ⟨?resolves, ?noContext, ?badKey⟩,
    fun _ j hj conn => exec_remoteResolution_waits hj conn, fun h hi accepted off on => ?enable,
    fun k t hport accepted matched allowed => exec_ingestDatagram payload hport accepted matched allowed,
    fun t enabled allowed => exec_ingestPfcTick enabled allowed,
    fun enabled paused above old => exec_pfcPauseRepeat enabled paused above old⟩
  case resolves =>
    exact fun op keyed key there gen awake reached x found live =>
      exec_remoteResolution_resolves ⟨len, first, op, keyed, key⟩ there gen awake reached found live
  case noContext => exact fun op keyed key gone => exec_remoteResolution_noContext ⟨len, first, op, keyed, key⟩ gone
  case badKey => exact fun bad => exec_remoteResolution_badKey len first bad
  case enable =>
    rw [exec_ingestEnable h hi accepted off on]
    exact ⟨fun misplaced => congrArg Outcome.next (if_neg (Bool.eq_false_iff.mp misplaced)),
      fun formed => ⟨_, congrArg Outcome.next (if_pos formed)⟩⟩

/-- Settles O54: each event of the lease, the hub and the endpoint takes the branch of its rule. -/
theorem hostsAndEndpointsAct : Obligations.HostsAndEndpointsAct :=
  ⟨theLeaseChangesHands, hubWritesAct, theEndpointActs⟩

end Sys2Proof.Machine

namespace Sys2Proof.Machine

/-! ### Float formats: codes and values (R54 to R57) -/

/-! #### Powers of two as fractions -/

theorem pow2_of_nonneg {e : Int} (h : 0 ≤ e) : pow2 e = (2 ^ e.toNat, 1) := if_pos h

theorem pow2_of_neg {e : Int} (h : e < 0) : pow2 e = (1, 2 ^ (-e).toNat) := if_neg (by omega)

theorem pow2_fst_pos (e : Int) : 0 < (pow2 e).1 := by
  unfold pow2
  split <;> positivity

theorem pow2_snd_pos (e : Int) : 0 < (pow2 e).2 := by
  unfold pow2
  split <;> positivity

/-- `2^k * 2^e = 2^(k+e)`, without the quotients. -/
theorem two_pow_mul_pow2 (k : Nat) (e : Int) :
    2 ^ k * (pow2 e).1 * (pow2 (k + e)).2 = (pow2 (k + e)).1 * (pow2 e).2 := by
  by_cases he : 0 ≤ e
  · have total : ((k : Int) + e).toNat = k + e.toNat := by omega
    simp only [pow2_of_nonneg he, pow2_of_nonneg (show 0 ≤ (k : Int) + e by omega), total, Nat.pow_add, Nat.mul_one]
  · rw [pow2_of_neg (by omega)]
    by_cases hk : 0 ≤ (k : Int) + e
    · have total : k = ((k : Int) + e).toNat + (-e).toNat := by omega
      simp only [pow2_of_nonneg hk, Nat.mul_one, ← Nat.pow_add, ← total]
    · have total : k + (-((k : Int) + e)).toNat = (-e).toNat := by omega
      simp only [pow2_of_neg (Int.not_le.mp hk), Nat.mul_one, Nat.one_mul, ← Nat.pow_add, total]

theorem log2_mul_two_pow {n : Nat} (h : n ≠ 0) (k : Nat) : (n * 2 ^ k).log2 = n.log2 + k := by
  obtain ⟨low, high⟩ := (Nat.log2_eq_iff h).mp rfl
  rw [Nat.log2_eq_iff (by positivity), Nat.pow_add, Nat.add_right_comm, Nat.pow_add]
  exact ⟨Nat.mul_le_mul_right _ low, Nat.mul_lt_mul_of_pos_right high (by positivity)⟩

theorem log2_mul_pow2_sub {n : Nat} (h : n ≠ 0) (e : Int) :
    ((n * (pow2 e).1).log2 : Int) - (pow2 e).2.log2 = n.log2 + e := by
  by_cases he : 0 ≤ e
  · rw [pow2_of_nonneg he]
    have unit : Nat.log2 1 = 0 := Nat.log2_two_pow (n := 0)
    simp only [log2_mul_two_pow h, unit]
    omega
  · rw [pow2_of_neg (by omega)]
    simp only [Nat.mul_one, Nat.log2_two_pow]
    omega

/-- The exponent of a natural number times a power of two. -/
theorem floorLog2_mul_pow2 {n : Nat} (h : n ≠ 0) (e : Int) :
    floorLog2 (n * (pow2 e).1) (pow2 e).2 = n.log2 + e := by
  have reached : ¬ n * (pow2 e).1 * (pow2 (n.log2 + e)).2 < (pow2 (n.log2 + e)).1 * (pow2 e).2 := by
    rw [← two_pow_mul_pow2, Nat.not_lt]
    gcongr
    exact Nat.log2_self_le h
  simp only [floorLog2, log2_mul_pow2_sub h, if_neg reached]

/-- Scaling back by the same power of two gives the natural number. -/
theorem mul_pow2_div_pow2 (n : Nat) (e : Int) : n * (pow2 e).1 * (pow2 e).2 / ((pow2 e).2 * (pow2 e).1) = n := by
  rw [Nat.mul_assoc, Nat.mul_comm (pow2 e).1]
  exact Nat.mul_div_cancel _ (Nat.mul_pos (pow2_snd_pos e) (pow2_fst_pos e))

/-! #### The fields of a code -/

theorem scale_fin_one (s : Bool) (n : Nat) (e : Int) :
    Val.scale (.fin s n 1) e = .fin s (n * (pow2 e).1) (pow2 e).2 := by
  simp only [Val.scale, Nat.one_mul]

/-- The sign field of a code of format `f`. -/
def signCode (f : Nat) (s : Bool) : Nat := if s then 2 ^ (mantBits f + expBits f) else 0

theorem floatCode_inf (f : Nat) (s : Bool) :
    floatCode f (.inf s) = signCode f s + (2 ^ expBits f - 1) * 2 ^ mantBits f := rfl

/-- A value below the least normal one has exponent field 0 (R55). -/
theorem floatCode_subnormal (f : Nat) (s : Bool) {m : Nat} (h : m < 2 ^ mantBits f) :
    floatCode f (Val.scale (.fin s m 1) (1 - (biasOf f : Int) - mantBits f)) = signCode f s + m := by
  rw [scale_fin_one]
  by_cases hm : m = 0
  · subst hm
    simp [floatCode, signCode]
  · have nonzero : ¬ m * (pow2 (1 - (biasOf f : Int) - mantBits f)).1 = 0 :=
      Nat.mul_ne_zero hm (pow2_fst_pos _).ne'
    have small : m.log2 < mantBits f := (Nat.log2_lt hm).mpr h
    have below : (m.log2 : Int) + (1 - (biasOf f : Int) - mantBits f) < 1 - (biasOf f : Int) := by omega
    simp only [floatCode, if_neg nonzero, floorLog2_mul_pow2 hm, if_pos below, mul_pow2_div_pow2]
    rfl

/-- A normal value has its exponent with the bias, and the mantissa without its leading one (R55). -/
theorem floatCode_normal (f : Nat) (s : Bool) {E m : Nat} (hE : E ≠ 0) (h : m < 2 ^ mantBits f) :
    floatCode f (Val.scale (.fin s (2 ^ mantBits f + m) 1) ((E : Int) - biasOf f - mantBits f)) =
      signCode f s + E * 2 ^ mantBits f + m := by
  have hm : 2 ^ mantBits f + m ≠ 0 := by positivity
  have nonzero : ¬ (2 ^ mantBits f + m) * (pow2 ((E : Int) - biasOf f - mantBits f)).1 = 0 :=
    Nat.mul_ne_zero hm (pow2_fst_pos _).ne'
  have leading : (2 ^ mantBits f + m).log2 = mantBits f :=
    (Nat.log2_eq_iff hm).mpr ⟨by omega, by rw [Nat.pow_succ]; omega⟩
  have exponent : (mantBits f : Int) + ((E : Int) - biasOf f - mantBits f) = E - biasOf f := by omega
  have normal : ¬ (E : Int) - biasOf f < 1 - (biasOf f : Int) := by omega
  have field : ((E : Int) - biasOf f + biasOf f).toNat = E := by omega
  rw [scale_fin_one]
  simp only [floatCode, if_neg nonzero, floorLog2_mul_pow2 hm, leading, exponent, if_neg normal, mul_pow2_div_pow2, field,
    Nat.add_sub_cancel_left]
  rfl

theorem fmtWidth_of_float {f : Nat} (h : f ≤ 5) : fmtWidth f = mantBits f + expBits f + 1 := by
  interval_cases f <;> rfl

theorem signCode_bitOf {f c : Nat} (h : c / 2 ^ (mantBits f + expBits f) < 2) :
    signCode f (bitOf c (mantBits f + expBits f)) = 2 ^ (mantBits f + expBits f) * (c / 2 ^ (mantBits f + expBits f)) := by
  unfold signCode bitOf
  obtain bit | bit := Nat.le_one_iff_eq_zero_or_eq_one.mp (Nat.le_of_lt_succ h)
  all_goals simp [bit]

/-- A code is its sign, exponent and mantissa fields (R55). -/
theorem code_eq_fields {f c : Nat} (hf : f ≤ 5) (hc : c < 2 ^ fmtWidth f) :
    signCode f (bitOf c (mantBits f + expBits f)) + c / 2 ^ mantBits f % 2 ^ expBits f * 2 ^ mantBits f +
      c % 2 ^ mantBits f = c := by
  rw [fmtWidth_of_float hf, Nat.pow_succ] at hc
  rw [signCode_bitOf (Nat.div_lt_of_lt_mul hc), Nat.pow_add, ← Nat.div_div_eq_div_mul, Nat.mul_assoc,
    Nat.mul_comm _ (2 ^ mantBits f), ← Nat.mul_add, Nat.div_add_mod, Nat.div_add_mod]

/-- What a code stands for: NaN, an infinity, a subnormal or zero, or a normal value (R56, R57). -/
theorem floatVal_cases (f c : Nat) :
    let M := mantBits f
    let m := c % 2 ^ M
    let E := c / 2 ^ M % 2 ^ expBits f
    let s := bitOf c (M + expBits f)
    floatVal f c = .nan ∨ (E = 2 ^ expBits f - 1 ∧ m = 0 ∧ floatVal f c = .inf s) ∨
      (E = 0 ∧ floatVal f c = Val.scale (.fin s m 1) (1 - (biasOf f : Int) - M)) ∨
      (E ≠ 0 ∧ floatVal f c = Val.scale (.fin s (2 ^ M + m) 1) ((E : Int) - biasOf f - M)) := by
  intro M m E s
  by_cases top : (E = 2 ^ expBits f - 1 && f != 3 && f != 5) = true
  · by_cases zero : m = 0
    · refine .inr (.inl ⟨?_, zero, (if_pos top).trans (if_pos zero)⟩)
      simp only [Bool.and_eq_true, decide_eq_true_eq] at top
      exact top.1.1
    · exact .inl ((if_pos top).trans (if_neg zero))
  by_cases nan : (f = 3 && E = 15 && m = 7) = true
  · exact .inl ((if_neg top).trans (if_pos nan))
  by_cases sub : E = 0
  · exact .inr (.inr (.inl ⟨sub, (if_neg top).trans ((if_neg nan).trans (if_pos sub))⟩))
  · exact .inr (.inr (.inr ⟨sub, (if_neg top).trans ((if_neg nan).trans (if_neg sub))⟩))

/-- R54 to R57: a code that is no NaN is the code of its value. -/
theorem floatCode_floatVal {f c : Nat} (hf : f ≤ 5) (hc : c < 2 ^ fmtWidth f) (hn : (floatVal f c).isNan = false) :
    floatCode f (floatVal f c) = c := by
  have fields := code_eq_fields hf hc
  have mantissa : c % 2 ^ mantBits f < 2 ^ mantBits f := Nat.mod_lt _ (by positivity)
  obtain nan | ⟨top, zero, value⟩ | ⟨sub, value⟩ | ⟨normal, value⟩ := floatVal_cases f c
  · simp [nan, Val.isNan] at hn
  · rwa [top, zero, Nat.add_zero, ← floatCode_inf, ← value] at fields
  · rwa [sub, Nat.zero_mul, Nat.add_zero, ← floatCode_subnormal f _ mantissa, ← value] at fields
  · rwa [← floatCode_normal f _ normal mantissa, ← value] at fields

theorem floatCodesAreTheCodesOfTheirValues : Claims.FloatCodesAreTheCodesOfTheirValues :=
  fun _ _ => floatCode_floatVal

/-! ### Float arithmetic (R66, R135, R136) -/

@[simp] theorem Act.setGen_gen (a : Act) : a.setGen a.gen = a := rfl

theorem Gen.bits_of_ne_sr (g : Gen) {mode : Nat} (h : mode ≠ 5) : g.bits mode = (0, g) := if_neg h

/-- The exact result `t` of a word `i` is a function of the activation, and `exec` rounds it. -/
theorem exec_of_exactFloat {i : Instr} {a : Act} {h : Hdr} {f : XForm} {t : Val} (hi : Claims.exactFloat a i = some (h, f, t))
    (s : State) : ∃ T : Bool → Act → Val, exec i s = floatOp h f s T ∧ T (f.rm == 3) a = t := by
  unfold Claims.exactFloat at hi
  split at hi <;> cases hi
  case h_1 => exact ⟨fun dn a => (a.fg f.a.toNat).add dn (a.fg f.b.toNat), rfl, rfl⟩
  case h_2 => exact ⟨fun dn a => (a.fg f.a.toNat).sub dn (a.fg f.b.toNat), rfl, rfl⟩
  case h_3 => exact ⟨fun _ a => (a.fg f.a.toNat).mul (a.fg f.b.toNat), rfl, rfl⟩
  case h_4 => exact ⟨fun dn a => ((a.fg f.a.toNat).mul (a.fg f.b.toNat)).add dn (a.fg f.c.toNat), rfl, rfl⟩
  case h_5 => exact ⟨fun _ a => (a.fg f.a.toNat).div (a.fg f.b.toNat), rfl, rfl⟩
  case h_6 => exact ⟨fun _ a => (a.fg f.a.toNat).sqrt, rfl, rfl⟩
  case h_7 => exact ⟨fun _ a => (a.fg f.a.toNat).min2 (a.fg f.b.toNat), rfl, rfl⟩
  case h_8 => exact ⟨fun _ a => (a.fg f.a.toNat).max2 (a.fg f.b.toNat), rfl, rfl⟩

section
variable {h : Hdr} {f : XForm} {s : State} {a : Act} (T : Bool → Act → Val) (r : Ready 1 h s a)
include r

theorem floatOp_waits (sr : f.rm = 5) (hr : a.rngReady = false) : floatOp h f s T = .next (s.noteWait 1) :=
  issue_waits r (by simp [srWaits, sr, hr])

theorem floatOp_rounds (go : srWaits f.rm.toNat a = false) : floatOp h f s T = .next (s.setCur
    (((a.setGen (a.gen.bits f.rm.toNat).2).wn f.d.toNat
      (f32Bits (roundTo f.fmt.toNat f.rm.toNat f.sat (a.gen.bits f.rm.toNat).1 (T (f.rm == 3) a)))).done 1 h s.focus.n)) :=
  issue_onAct r (by rw [if_neg (by simp [go])]; rfl) (by simp) (by simp) (by simp) (by simp)

end

/-- R136: one course for the eight words, by the mode of the rounding. -/
theorem floatArithmeticRoundsOnce : Claims.FloatArithmeticRoundsOnce := by
  intro i s a h f t hi _ r
  obtain ⟨T, run, rfl⟩ := exec_of_exactFloat hi s
  rw [run]
  refine ⟨fun plain => ?plain, fun sr ready => ?drawn, fun sr => floatOp_waits T r sr⟩
  case plain =>
    have mode : f.rm.toNat ≠ 5 := fun h5 => plain (BitVec.eq_of_toNat_eq h5)
    rw [floatOp_rounds T r (by simp [srWaits, mode]), Gen.bits_of_ne_sr _ mode, Act.setGen_gen]
  case drawn =>
    rw [floatOp_rounds T r (by simp [srWaits, ready]), sr]
    rfl

/-- Settles O28: a code is put together again from the fields of its value, and each of the eight words rounds its exact result once. -/
theorem floatArithmeticIsRoundedOnce : Obligations.FloatArithmeticIsRoundedOnce :=
  ⟨floatArithmeticRoundsOnce, floatCodesAreTheCodesOfTheirValues⟩

end Sys2Proof.Machine

namespace Sys2Proof.Machine

/-! ### Integer accumulation (R80, R234, R238) -/

/-! #### Sums modulo 2^32 -/

theorem signed_modEq (w n : Nat) : signed w n ≡ n [ZMOD 2 ^ w] := by
  have low : (n : Int) % 2 ^ w ≡ n [ZMOD 2 ^ w] := Int.mod_modEq _ _
  unfold signed
  push_cast
  split
  · exact low
  · exact (Int.modEq_sub_modulus_iff.mpr low.symm).symm

theorem wrapTo_modEq (w : Nat) (v : Int) : (wrapTo w v : Int) ≡ v [ZMOD 2 ^ w] := by
  rw [wrapTo, Int.toNat_of_nonneg (Int.emod_nonneg _ (by positivity))]
  exact_mod_cast Int.mod_modEq v _

/-- R80: an accumulation that wraps adds its sums modulo 2^32. -/
theorem accInt_modEq (c : Int) (xs : List Int) : (accInt false c xs).1 ≡ c + xs.sum [ZMOD 2 ^ 32] := by
  induction xs generalizing c with
  | nil => simp [accInt]
  | cons x xs ih =>
    have wrapped : signed 32 (wrapTo 32 (c + x)) ≡ c + x [ZMOD 2 ^ 32] := (signed_modEq _ _).trans (wrapTo_modEq _ _)
    calc (accInt false c (x :: xs)).1
      _ = (accInt false (signed 32 (wrapTo 32 (c + x))) xs).1 := rfl
      _ ≡ signed 32 (wrapTo 32 (c + x)) + xs.sum [ZMOD 2 ^ 32] := ih _
      _ ≡ c + x + xs.sum [ZMOD 2 ^ 32] := wrapped.add_right _
      _ = c + (x :: xs).sum := by rw [List.sum_cons, Int.add_assoc]

/-- The sums of the groups of 16 terms are together the sum of all terms. -/
theorem sum_groupInts (n : Nat) (term : Nat → Int) :
    (groupInts (16 * n) term).sum = ((List.range (16 * n)).map term).sum := by
  rw [groupInts, Nat.mul_div_cancel_left _ (by decide)]
  induction n with
  | zero => rfl
  | succ n ih =>
    rw [List.sum_range_succ, ih, Nat.mul_succ, List.range_add, List.map_append, List.sum_append, List.map_map]
    rfl

theorem toInt_modEq_toNat (b : BitVec 32) : b.toInt ≡ b.toNat [ZMOD 2 ^ 32] := by
  rw [BitVec.toInt_eq_toNat_bmod]
  exact Int.bmod_emod

theorem toNat_ofInt_32 (v : Int) : ((BitVec.ofInt 32 v).toNat : Int) = v % 2 ^ 32 := by
  rw [BitVec.toNat_ofInt, Int.toNat_of_nonneg (Int.emod_nonneg _ (by positivity))]
  rfl

/-! #### The elements of a tile -/

/-- Element `i` of a tile replaced, one round of `Mx.eachElem`. -/
def Mx.setElem (x : Mx) (tile : Nat) (f : Nat → Nat → BitVec 32 → BitVec 32 × Bool) (i : Nat) : Mx :=
  let key := accKey tile (i / 16) (i % 16)
  let (v, clamp) := f (i / 16) (i % 16) (x.acc.get 0 key)
  { x with acc := x.acc.put 0 key v, satm := if clamp then x.satm ||| (1#32 <<< tile) else x.satm }

/-- The first `n` elements of a tile replaced. -/
def Mx.firstElems (x : Mx) (tile : Nat) (f : Nat → Nat → BitVec 32 → BitVec 32 × Bool) (n : Nat) : Mx :=
  (List.range n).foldl (fun x i => x.setElem tile f i) x

section
variable (x : Mx) (tile : Nat) (f : Nat → Nat → BitVec 32 → BitVec 32 × Bool)

theorem Mx.eachElem_eq_firstElems : x.eachElem tile f = x.firstElems tile f 256 := rfl

theorem Mx.firstElems_succ (n : Nat) : x.firstElems tile f (n + 1) = (x.firstElems tile f n).setElem tile f n := by
  rw [firstElems, List.range_succ, List.foldl_append]
  rfl

theorem Mx.setElem_acc (i : Nat) : (x.setElem tile f i).acc =
    x.acc.put 0 (accKey tile (i / 16) (i % 16)) (f (i / 16) (i % 16) (x.acc.get 0 (accKey tile (i / 16) (i % 16)))).1 := rfl

theorem accKey_div_mod (i : Nat) : accKey tile (i / 16) (i % 16) = 256 * tile + i := by
  unfold accKey
  omega

variable {x} (hx : x.acc.sorted = true)
include hx

theorem Mx.sorted_firstElems (n : Nat) : (x.firstElems tile f n).acc.sorted = true := by
  induction n with
  | zero => exact hx
  | succ n ih =>
    rw [firstElems_succ, setElem_acc]
    exact Sparse.sorted_put ih _ _

/-- Elements that are not replaced yet, and those of other tiles, keep what they hold. -/
theorem Mx.get_firstElems_other {n k : Nat} (hk : k < 256 * tile ∨ 256 * tile + n ≤ k) :
    (x.firstElems tile f n).acc.get 0 k = x.acc.get 0 k := by
  induction n with
  | zero => rfl
  | succ n ih =>
    rw [firstElems_succ, setElem_acc, accKey_div_mod,
      Sparse.get_put_other (sorted_firstElems tile f hx n) _ (by omega), ih (by omega)]

/-- An element is replaced once, by the function of what it held. -/
theorem Mx.get_firstElems_same {n i : Nat} (hi : i < n) :
    (x.firstElems tile f n).acc.get 0 (256 * tile + i) = (f (i / 16) (i % 16) (x.acc.get 0 (256 * tile + i))).1 := by
  induction n with
  | zero => omega
  | succ n ih =>
    rw [firstElems_succ, setElem_acc, accKey_div_mod]
    by_cases last : i = n
    · subst last
      rw [Sparse.get_put_same (sorted_firstElems tile f hx i), get_firstElems_other tile f hx (by omega)]
    · rw [Sparse.get_put_other (sorted_firstElems tile f hx n) _ (by omega), ih (by omega)]

theorem Mx.get_eachElem_other {k : Nat} (hk : k < 256 * tile ∨ 256 * tile + 256 ≤ k) :
    (x.eachElem tile f).acc.get 0 k = x.acc.get 0 k := by
  rw [eachElem_eq_firstElems]
  exact get_firstElems_other tile f hx hk

theorem Mx.get_eachElem_same {row col : Nat} (hr : row < 16) (hc : col < 16) :
    (x.eachElem tile f).acc.get 0 (256 * tile + 16 * row + col) =
      (f row col (x.acc.get 0 (256 * tile + 16 * row + col))).1 := by
  have replaced := get_firstElems_same tile f hx (n := 256) (i := 16 * row + col) (by omega)
  rwa [show (16 * row + col) / 16 = row by omega, show (16 * row + col) % 16 = col by omega, ← Nat.add_assoc,
    ← eachElem_eq_firstElems] at replaced

end

/-! #### MMA of I8 (R238) -/

/-- Product `k` of element (`row`, `col`) of an MMA of I8. -/
def mmaProduct (m : Nat → Sparse Byte) (w : WSlot) (ha row col k : Nat) : Int :=
  (readVal (m (readOfA row k)) ha [k, row, 0, 0]).toInt * (w.val [] 96 k col).toInt

/-- The element that an MMA of I8 without SAT leaves where `old` stood, and whether it was clamped. -/
def mmaElem (m : Nat → Sparse Byte) (w : WSlot) (ha : Nat) (z : Bool) (row col : Nat) (old : BitVec 32) : BitVec 32 × Bool :=
  let sum := accInt false (if z then 0 else old.toInt) (groupInts 96 (mmaProduct m w ha row col))
  (BitVec.ofInt 32 sum.1, sum.2)

theorem Mx.mma_of_i8 (x : Mx) (m : Nat → Sparse Byte) {w : WSlot} (acc ha hs rm : Nat) (z : Bool) (hw : w.fmt = 13) :
    x.mma m w acc ha hs 13 rm false z = x.eachElem acc (mmaElem m w ha z) := by
  have raw : ¬ w.fmt = 10 := by omega
  simp only [Mx.mma, if_neg raw]
  rfl

theorem mmaElem_toNat (m : Nat → Sparse Byte) (w : WSlot) (ha : Nat) (z : Bool) (row col : Nat) (old : BitVec 32) :
    ((mmaElem m w ha z row col old).1.toNat : Int) =
      ((if z then 0 else (old.toNat : Int)) + ((List.range 96).map (mmaProduct m w ha row col)).sum) % 2 ^ 32 := by
  have start : (if z then 0 else old.toInt) ≡ (if z then 0 else (old.toNat : Int)) [ZMOD 2 ^ 32] := by
    cases z with
    | true => rfl
    | false => exact toInt_modEq_toNat old
  rw [mmaElem, toNat_ofInt_32]
  exact (accInt_modEq _ _).trans ((sum_groupInts 6 (mmaProduct m w ha row col)) ▸ start.add_right _)

/-- Settles O18: each element of the tile is replaced once, by an accumulation of six group sums that is one sum modulo 2^32. -/
theorem matrixMultiplyOfIntegers : Obligations.MatrixMultiplyOfIntegers := by
  intro x m w acc ha hs rm z tile row col hx hw hr hc old new
  have elements : new = (x.eachElem acc (mmaElem m w ha z)).acc.get 0 (256 * tile + 16 * row + col) := by
    rw [← Mx.mma_of_i8 x m acc ha hs rm z hw]
  rw [elements]
  refine ⟨fun other => Mx.get_eachElem_other acc _ hx (by omega), ?same⟩
  rintro rfl
  rw [Mx.get_eachElem_same tile _ hx hr hc]
  exact mmaElem_toNat m w ha z row col old

end Sys2Proof.Machine

namespace Sys2Proof

/-! ### Decoding and encoding (R82 to R112, R308) -/

/-! #### Fields of bit strings put together -/

section
variable {n m s l : Nat} (x : BitVec n) (y : BitVec m)

theorem extractLsb'_append_high (h : m ≤ s) : (x.append y).extractLsb' s l = x.extractLsb' (s - m) l :=
  BitVec.extractLsb'_append_eq_of_le h

theorem extractLsb'_append_low (h : s + l ≤ m) : (x.append y).extractLsb' s l = y.extractLsb' s l :=
  BitVec.extractLsb'_append_eq_of_add_le h

theorem getLsbD_append_fields (k : Nat) : (x.append y).getLsbD k = if k < m then y.getLsbD k else x.getLsbD (k - m) :=
  BitVec.getLsbD_append

end

theorem append_adjacent_fields {n s t l k : Nat} (w : BitVec n) (h : t = s + l) :
    (w.extractLsb' t k).append (w.extractLsb' s l) = w.extractLsb' s (k + l) :=
  BitVec.extractLsb'_append_extractLsb'_eq_extractLsb' h

theorem boolBit_getLsbD {n : Nat} (w : BitVec n) (k : Nat) : boolBit (w.getLsbD k) = w.extractLsb' k 1 := by
  ext i hi
  obtain rfl : i = 0 := by omega
  simp [boolBit]

/-! #### The header and the operand forms (R82, R85) -/

section
variable (cls : BitVec 2) (h : Hdr) (op : BitVec 8) (ops : BitVec 44)

@[simp] theorem cls_wordOf : (wordOf cls h op ops).extractLsb' 62 2 = cls := by
  simp only [wordOf, HAppend.hAppend, extractLsb'_append_high, Nat.reduceLeDiff, Nat.reduceSub, BitVec.extractLsb'_eq_self]

@[simp] theorem op_wordOf : (wordOf cls h op ops).extractLsb' 44 8 = op := by
  simp only [wordOf, HAppend.hAppend, extractLsb'_append_high, extractLsb'_append_low, Nat.reduceLeDiff, Nat.reduceSub, Nat.reduceAdd,
    BitVec.extractLsb'_eq_self]

@[simp] theorem operands_wordOf : (wordOf cls h op ops).extractLsb' 0 44 = ops := by
  simp only [wordOf, HAppend.hAppend, extractLsb'_append_low, Nat.reduceLeDiff, Nat.reduceAdd, BitVec.extractLsb'_eq_self]

@[simp] theorem hdrOf_wordOf : hdrOf (wordOf cls h op ops) = h := by
  simp only [wordOf, hdrOf, boolBit, HAppend.hAppend, extractLsb'_append_high, extractLsb'_append_low, getLsbD_append_fields,
    Nat.reduceLeDiff, Nat.reduceSub, Nat.reduceAdd]
  simp

@[simp] theorem xForm_wordOf (f : XForm) : xForm (wordOf cls h op f.bits) = f := by
  simp only [wordOf, xForm, XForm.bits, boolBit, HAppend.hAppend, extractLsb'_append_high, extractLsb'_append_low, getLsbD_append_fields,
    Nat.reduceLeDiff, Nat.reduceSub, Nat.reduceAdd, Nat.reduceLT]
  simp

@[simp] theorem iForm_wordOf (f : IForm) : iForm (wordOf cls h op f.bits) = f := by
  simp only [wordOf, iForm, IForm.bits, HAppend.hAppend, extractLsb'_append_high, extractLsb'_append_low,
    Nat.reduceLeDiff, Nat.reduceSub, Nat.reduceAdd]
  simp

@[simp] theorem lForm_wordOf (f : LForm) : lForm (wordOf cls h op f.bits) = f := by
  simp only [wordOf, lForm, LForm.bits, HAppend.hAppend, extractLsb'_append_high, extractLsb'_append_low,
    Nat.reduceLeDiff, Nat.reduceSub, Nat.reduceAdd]
  simp

@[simp] theorem mForm_wordOf (f : MForm) : mForm (wordOf cls h op f.bits) = f := by
  simp only [wordOf, mForm, MForm.bits, HAppend.hAppend, extractLsb'_append_high, extractLsb'_append_low,
    Nat.reduceLeDiff, Nat.reduceSub, Nat.reduceAdd]
  simp

@[simp] theorem vForm_wordOf (f : VForm) : vForm (wordOf cls h op f.bits) = f := by
  simp only [wordOf, vForm, VForm.bits, boolBit, HAppend.hAppend, extractLsb'_append_high, extractLsb'_append_low, getLsbD_append_fields,
    Nat.reduceLeDiff, Nat.reduceSub, Nat.reduceAdd, Nat.reduceLT]
  simp

@[simp] theorem tForm_wordOf (f : TForm) : tForm (wordOf cls h op f.bits) = f := by
  simp only [wordOf, tForm, TForm.bits, boolBit, HAppend.hAppend, extractLsb'_append_high, extractLsb'_append_low, getLsbD_append_fields,
    Nat.reduceLeDiff, Nat.reduceSub, Nat.reduceAdd, Nat.reduceLT]
  simp

@[simp] theorem yForm_wordOf (f : YForm) : yForm (wordOf cls h op f.bits) = f := by
  simp only [wordOf, yForm, YForm.bits, HAppend.hAppend, extractLsb'_append_high, extractLsb'_append_low,
    Nat.reduceLeDiff, Nat.reduceSub, Nat.reduceAdd]
  simp

/-- A control word is a word with a header of its own: STOP, and nothing else (R84). -/
theorem controlWord_eq (f : BForm) : controlWord op f =
    wordOf 0 { stop := true, popu := false, popd := false, pushu := false, pushd := false, guard := 0 } op f.bits := rfl

@[simp] theorem bForm_controlWord (f : BForm) : bForm (controlWord op f) = f := by
  simp only [controlWord, bForm, BForm.bits, boolBit, HAppend.hAppend, extractLsb'_append_high, extractLsb'_append_low,
    getLsbD_append_fields, Nat.reduceLeDiff, Nat.reduceSub, Nat.reduceAdd, Nat.reduceLT]
  simp

end

section
variable (w : BitVec 64)

/-- A word is its class, its header, its opcode and its operands. -/
theorem wordOf_fields : wordOf (w.extractLsb' 62 2) (hdrOf w) (w.extractLsb' 44 8) (w.extractLsb' 0 44) = w := by
  simp only [wordOf, hdrOf, boolBit_getLsbD, HAppend.hAppend, append_adjacent_fields, Nat.reduceAdd, BitVec.extractLsb'_eq_self]

@[simp] theorem bits_xForm : (xForm w).bits = w.extractLsb' 0 44 := by
  simp only [XForm.bits, xForm, boolBit_getLsbD, HAppend.hAppend, append_adjacent_fields, Nat.reduceAdd]

@[simp] theorem bits_iForm : (iForm w).bits = w.extractLsb' 0 44 := by
  simp only [IForm.bits, iForm, HAppend.hAppend, append_adjacent_fields, Nat.reduceAdd]

@[simp] theorem bits_lForm : (lForm w).bits = w.extractLsb' 0 44 := by
  simp only [LForm.bits, lForm, HAppend.hAppend, append_adjacent_fields, Nat.reduceAdd]

@[simp] theorem bits_bForm : (bForm w).bits = w.extractLsb' 0 44 := by
  simp only [BForm.bits, bForm, boolBit_getLsbD, HAppend.hAppend, append_adjacent_fields, Nat.reduceAdd]

@[simp] theorem bits_mForm : (mForm w).bits = w.extractLsb' 0 44 := by
  simp only [MForm.bits, mForm, HAppend.hAppend, append_adjacent_fields, Nat.reduceAdd]

@[simp] theorem bits_vForm : (vForm w).bits = w.extractLsb' 0 44 := by
  simp only [VForm.bits, vForm, boolBit_getLsbD, HAppend.hAppend, append_adjacent_fields, Nat.reduceAdd]

@[simp] theorem bits_tForm : (tForm w).bits = w.extractLsb' 0 44 := by
  simp only [TForm.bits, tForm, boolBit_getLsbD, HAppend.hAppend, append_adjacent_fields, Nat.reduceAdd]

@[simp] theorem bits_yForm : (yForm w).bits = w.extractLsb' 0 44 := by
  simp only [YForm.bits, yForm, HAppend.hAppend, append_adjacent_fields, Nat.reduceAdd]

end

end Sys2Proof

namespace Sys2Proof

/-! #### The opcode map, from the row to the word (R106 to R109) -/

/-- The four token bits of a word are bits [60:57] (R82). -/
theorem noTokens_hdrOf (w : BitVec 64) : (hdrOf w).noTokens = decide (w.extractLsb' 57 4 = 0) := by
  have bits : w.extractLsb' 57 4 =
      boolBit (w.getLsbD 60) ++ boolBit (w.getLsbD 59) ++ boolBit (w.getLsbD 58) ++ boolBit (w.getLsbD 57) := by
    simp only [boolBit_getLsbD, HAppend.hAppend, append_adjacent_fields, Nat.reduceAdd]
  rw [bits]
  simp only [Hdr.noTokens, hdrOf]
  generalize w.getLsbD 60 = popu, w.getLsbD 59 = popd, w.getLsbD 58 = pushu, w.getLsbD 57 = pushd
  revert popu popd pushu pushd
  decide

theorem stop_hdrOf (w : BitVec 64) : (hdrOf w).stop = w.getLsbD 61 := rfl

/-- What the decoder asks of bits [61:57] (R84, R143): a control word has STOP and no other. -/
def ControlBits (w : BitVec 64) : Prop := w.extractLsb' 62 2 = 0 → w.extractLsb' 57 4 = 0 ∧ w.getLsbD 61 = true

theorem controlBits_controlWord (op : BitVec 8) (f : BForm) : ControlBits (controlWord op f) := by
  intro _
  rw [controlWord_eq]
  exact ⟨of_decide_eq_true (by rw [← noTokens_hdrOf, hdrOf_wordOf]; rfl), by rw [← stop_hdrOf, hdrOf_wordOf]⟩

/-- Bits [63:57] of every control word are the same (R84). -/
theorem high_bits_of_controlBits {w : BitVec 64} (hc : w.extractLsb' 62 2 = 0) (bits : ControlBits w) :
    w.extractLsb' 57 7 = 0b0010000#7 := by
  have high : w.extractLsb' 57 7 = ((w.extractLsb' 62 2).append (boolBit (w.getLsbD 61))).append (w.extractLsb' 57 4) := by
    simp only [boolBit_getLsbD, append_adjacent_fields, Nat.reduceAdd]
  obtain ⟨tokens, stop⟩ := bits hc
  rw [high, hc, tokens, stop]
  rfl

/-- The word names row `i` of the opcode map, below the hint region. -/
structure Names (w : BitVec 64) (i : Instr) : Prop where
  row : named (w.extractLsb' 62 2).toNat (w.extractLsb' 44 8).toNat w Cvt.none = some i
  low : (w.extractLsb' 44 8).toNat < 0xF0
  bits : ControlBits w

/-- A row of class A, C or S: the word of class `cls` and opcode `op` that carries header `h` and operands `f`. -/
theorem names_row {F : Type} {form : BitVec 64 → F} {mk : Hdr → F → Instr} {cls : BitVec 2} {h : Hdr} {op : BitVec 8}
    {ops : BitVec 44} {f : F} {w : BitVec 64} (hw : some (wordOf cls h op ops) = some w) (hf : form (wordOf cls h op ops) = f)
    (row : ∀ w, named cls.toNat op.toNat w Cvt.none = some (mk (hdrOf w) (form w)))
    (low : op.toNat < 0xF0 := by decide) (hc : cls ≠ 0 := by decide) : Names w (mk h f) := by
  obtain rfl := Option.some.inj hw
  exact ⟨by rw [cls_wordOf, op_wordOf, row, hdrOf_wordOf, hf], by rwa [op_wordOf], fun hz => absurd hz (by rwa [cls_wordOf])⟩

/-- A row of the control class. -/
theorem names_controlRow {mk : BForm → Instr} {op : BitVec 8} {f : BForm} {w : BitVec 64} (hw : some (controlWord op f) = some w)
    (row : ∀ w, named 0 op.toNat w Cvt.none = some (mk (bForm w))) (low : op.toNat < 0xF0 := by decide) : Names w (mk f) := by
  obtain rfl := Option.some.inj hw
  refine ⟨?_, by rwa [controlWord_eq, op_wordOf], controlBits_controlWord op f⟩
  rw [controlWord_eq, cls_wordOf, op_wordOf, ← controlWord_eq, show (0 : BitVec 2).toNat = 0 from rfl, row, bForm_controlWord]

theorem Names.of_eq {w : BitVec 64} {i j : Instr} (n : Names w j) (e : j = i) : Names w i := e ▸ n

/-- The word of a row of class A, C or S names that row, and its operands and header are those that the row carries. -/
theorem names_of_word {i : Instr} {w : BitVec 64} (hw : i.word = some w) (sel : i.selectorOk = true)
    (hint : ∀ c o h x, i ≠ .hintWord c o h x) : Names w i := by
  cases i
  case nop | br | bri | call | calli | ret | loop | loopi | brk | trap => exact names_controlRow hw fun _ => rfl
  case hintWord => exact absurd rfl (hint _ _ _ _)
  case add | sub | mul | mulh | mulhn | div | divn | rem | remn | and | or | xor | shl | shr | sra | rol | clz | ctz | popc | min | max
      | minn | maxn | abs | sel | sext | zext | bfx | bfi | bswap | cmp | pand | por | pxor | pnot | pset | pget | fadd | fsub | fmul | ffma
      | fdiv | fsqrt | fmin | fmax | fcmp | fcvt | fclass | fmt | rnd | rndf => exact names_row hw (xForm_wordOf ..) fun _ => rfl
  case addi | muli | andi | ori | xori | shli | shri | srai | roli | lea | cmpi => exact names_row hw (iForm_wordOf ..) fun _ => rfl
  case movi | movhi => exact names_row hw (lForm_wordOf ..) fun _ => rfl
  case shset | shofs | vmov | vfill | vadd | vsub | vmul | vfma | vmin | vmax | vabs | vneg | vand | vor | vxor | vshl | vshr | vcmp | vsel
      | vcvt | vquant | vred | vscan | vexp | vlog | vrcp | vrsq | vtanh | verf | vcmul | vcmac | vgath | vscat | vtrans | vrnd =>
    exact names_row hw (vForm_wordOf ..) fun _ => rfl
  case mldb | mma | mmac | mzero | mst | mbar => exact names_row hw (tForm_wordOf ..) fun _ => rfl
  case shld | shst | ld | ldg | ldc | atom | pref | atomg | red | lrw => exact names_row hw (mForm_wordOf ..) fun _ => rfl
  case cpy | cpym | cpyq | commit | yield | exit | send | sendi | spawn | migrate | fnew | fres | fdec | await | fcall | ffree | rtmk
      | binit | barr | barrx | bexp | bwait | tdef | tfree | tacq | trel | tqry | fence | srr | srw =>
    exact names_row hw (yForm_wordOf ..) fun _ => rfl
  case st h f o =>
    obtain rfl : o = Cvt.none := of_decide_eq_true sel
    exact names_row (mk := fun h f => .st h f Cvt.none) hw (mForm_wordOf ..) fun _ => rfl
  case stg h f o =>
    obtain rfl : o = Cvt.none := of_decide_eq_true sel
    exact names_row (mk := fun h f => .stg h f Cvt.none) hw (mForm_wordOf ..) fun _ => rfl
  case cinvLine | cinvAll | cinvI =>
    refine (names_row (mk := pickCinv) hw (mForm_wordOf ..) fun _ => rfl).of_eq ?_
    simp_all [Instr.selectorOk, pickCinv]
  case sch | schRel =>
    refine (names_row (mk := pickSch) hw (mForm_wordOf ..) fun _ => rfl).of_eq ?_
    simp_all [Instr.selectorOk, pickSch]
  case mcfgWeight | mcfgGate | mcfgClrsat =>
    refine (names_row (mk := pickMcfg) hw (tForm_wordOf ..) fun _ => rfl).of_eq ?_
    grind [Instr.selectorOk, pickMcfg]
  case ftest | ftestV | ftestC | ftestF =>
    refine (names_row (mk := pickFtest) hw (yForm_wordOf ..) fun _ => rfl).of_eq ?_
    simp_all [Instr.selectorOk, pickFtest]
  case btest | btestS | btestP =>
    refine (names_row (mk := pickBtest) hw (yForm_wordOf ..) fun _ => rfl).of_eq ?_
    simp_all [Instr.selectorOk, pickBtest]
  case scopeRd | scopeWr =>
    refine (names_row (mk := pickScope) hw (yForm_wordOf ..) fun _ => rfl).of_eq ?_
    simp_all [Instr.selectorOk, pickScope]
  case collBcast | collReduce | collAllred =>
    refine (names_row (mk := pickColl) hw (yForm_wordOf ..) fun _ => rfl).of_eq ?_
    simp_all [Instr.selectorOk, pickColl]
  all_goals exact absurd hw nofun

/-! #### The opcode map, from the word to the row -/

/-- The instruction is a row whose word is `x`, with the selector field that is its own. -/
structure Instr.IsRow (i : Instr) (x : BitVec 64) : Prop where
  word : i.word = some x
  selector : i.selectorOk = true

theorem isRow_of_bits {cls : BitVec 2} {h : Hdr} {op : BitVec 8} {bits ops : BitVec 44} {i : Instr}
    (word : i.word = some (wordOf cls h op bits)) (selector : i.selectorOk = true) (hb : bits = ops) : i.IsRow (wordOf cls h op ops) :=
  hb ▸ ⟨word, selector⟩

/-- One row of a class: either the opcode is this row's, or another row of the class is meant. -/
theorem isRow_of_opcode {cls : BitVec 2} {h : Hdr} {ops : BitVec 44} {op n : Nat} {i j : Instr} {rest : Option Instr}
    (row : j.IsRow (wordOf cls h (BitVec.ofNat 8 n) ops)) (others : rest = some i → i.IsRow (wordOf cls h (BitVec.ofNat 8 op) ops)) :
    (if op = n then some j else rest) = some i → i.IsRow (wordOf cls h (BitVec.ofNat 8 op) ops) := by
  intro e
  split_ifs at e with hop
  · obtain rfl := Option.some.inj e
    exact hop ▸ row
  · exact others e

section
variable (h : Hdr) (w : BitVec 64)

theorem isRow_pickCinv : (pickCinv h (mForm w)).IsRow (wordOf 1 h 0x05#8 (w.extractLsb' 0 44)) := by
  refine isRow_of_bits (bits := (mForm w).bits) ?_ ?_ (bits_mForm w) <;> unfold pickCinv
  · split_ifs <;> rfl
  · split_ifs <;> simp_all [Instr.selectorOk]

theorem isRow_pickSch : (pickSch h (mForm w)).IsRow (wordOf 1 h 0x13#8 (w.extractLsb' 0 44)) := by
  refine isRow_of_bits (bits := (mForm w).bits) ?_ ?_ (bits_mForm w) <;> unfold pickSch
  · split_ifs <;> rfl
  · split_ifs <;> simp_all [Instr.selectorOk]

theorem isRow_pickMcfg : (pickMcfg h (tForm w)).IsRow (wordOf 2 h 0x76#8 (w.extractLsb' 0 44)) := by
  refine isRow_of_bits (bits := (tForm w).bits) ?_ ?_ (bits_tForm w) <;> simp only [pickMcfg]
  · split_ifs <;> rfl
  · grind [Instr.selectorOk]

theorem isRow_pickFtest : (pickFtest h (yForm w)).IsRow (wordOf 3 h 0x0B#8 (w.extractLsb' 0 44)) := by
  refine isRow_of_bits (bits := (yForm w).bits) ?_ ?_ (bits_yForm w) <;> unfold pickFtest
  · split_ifs <;> rfl
  · split_ifs <;> simp_all [Instr.selectorOk]

theorem isRow_pickBtest : (pickBtest h (yForm w)).IsRow (wordOf 3 h 0x15#8 (w.extractLsb' 0 44)) := by
  refine isRow_of_bits (bits := (yForm w).bits) ?_ ?_ (bits_yForm w) <;> unfold pickBtest
  · split_ifs <;> rfl
  · split_ifs <;> simp_all [Instr.selectorOk]

theorem isRow_pickScope : (pickScope h (yForm w)).IsRow (wordOf 3 h 0x1E#8 (w.extractLsb' 0 44)) := by
  refine isRow_of_bits (bits := (yForm w).bits) ?_ ?_ (bits_yForm w) <;> unfold pickScope
  · split_ifs <;> rfl
  · split_ifs <;> simp_all [Instr.selectorOk]

theorem isRow_pickColl : (pickColl h (yForm w)).IsRow (wordOf 3 h 0x28#8 (w.extractLsb' 0 44)) := by
  refine isRow_of_bits (bits := (yForm w).bits) ?_ ?_ (bits_yForm w) <;> unfold pickColl
  · split_ifs <;> rfl
  · split_ifs <;> simp_all [Instr.selectorOk]

variable {h w} {op : Nat} {i : Instr}

theorem isRow_of_decodeB : decodeB op w = some i → i.IsRow (controlWord (BitVec.ofNat 8 op) (bForm w)) := by
  unfold decodeB
  rw [controlWord_eq]
  iterate 10 refine isRow_of_opcode ⟨rfl, rfl⟩ ?_
  exact nofun

theorem isRow_of_decodeC0 : decodeC0 op h w = some i → i.IsRow (wordOf 2 h (BitVec.ofNat 8 op) (w.extractLsb' 0 44)) := by
  unfold decodeC0
  iterate 16 refine isRow_of_opcode (isRow_of_bits rfl rfl (by simp)) ?_
  exact nofun

theorem isRow_of_decodeC1 : decodeC1 op h w = some i → i.IsRow (wordOf 2 h (BitVec.ofNat 8 op) (w.extractLsb' 0 44)) := by
  unfold decodeC1
  iterate 16 refine isRow_of_opcode (isRow_of_bits rfl rfl (by simp)) ?_
  exact nofun

theorem isRow_of_decodeC2 : decodeC2 op h w = some i → i.IsRow (wordOf 2 h (BitVec.ofNat 8 op) (w.extractLsb' 0 44)) := by
  unfold decodeC2
  iterate 16 refine isRow_of_opcode (isRow_of_bits rfl rfl (by simp)) ?_
  exact nofun

theorem isRow_of_decodeC3 : decodeC3 op h w = some i → i.IsRow (wordOf 2 h (BitVec.ofNat 8 op) (w.extractLsb' 0 44)) := by
  unfold decodeC3
  iterate 16 refine isRow_of_opcode (isRow_of_bits rfl rfl (by simp)) ?_
  exact nofun

theorem isRow_of_decodeC4 : decodeC4 op h w = some i → i.IsRow (wordOf 2 h (BitVec.ofNat 8 op) (w.extractLsb' 0 44)) := by
  unfold decodeC4
  iterate 16 refine isRow_of_opcode (isRow_of_bits rfl rfl (by simp)) ?_
  exact nofun

theorem isRow_of_decodeC5 : decodeC5 op h w = some i → i.IsRow (wordOf 2 h (BitVec.ofNat 8 op) (w.extractLsb' 0 44)) := by
  unfold decodeC5
  iterate 16 refine isRow_of_opcode (isRow_of_bits rfl rfl (by simp)) ?_
  exact nofun

theorem isRow_of_decodeC6 : decodeC6 op h w = some i → i.IsRow (wordOf 2 h (BitVec.ofNat 8 op) (w.extractLsb' 0 44)) := by
  unfold decodeC6
  iterate 5 refine isRow_of_opcode (isRow_of_bits rfl rfl (by simp)) ?_
  exact nofun

theorem isRow_of_decodeC7 : decodeC7 op h w = some i → i.IsRow (wordOf 2 h (BitVec.ofNat 8 op) (w.extractLsb' 0 44)) := by
  unfold decodeC7
  iterate 6 refine isRow_of_opcode (isRow_of_bits rfl rfl (by simp)) ?_
  refine isRow_of_opcode (isRow_pickMcfg h w) ?_
  exact nofun

theorem isRow_of_decodeC (e : decodeC op h w = some i) : i.IsRow (wordOf 2 h (BitVec.ofNat 8 op) (w.extractLsb' 0 44)) := by
  unfold decodeC at e
  split_ifs at e
  · exact isRow_of_decodeC0 e
  · exact isRow_of_decodeC1 e
  · exact isRow_of_decodeC2 e
  · exact isRow_of_decodeC3 e
  · exact isRow_of_decodeC4 e
  · exact isRow_of_decodeC5 e
  · exact isRow_of_decodeC6 e
  · exact isRow_of_decodeC7 e

theorem isRow_of_decodeA : decodeA op h w Cvt.none = some i → i.IsRow (wordOf 1 h (BitVec.ofNat 8 op) (w.extractLsb' 0 44)) := by
  unfold decodeA
  iterate 5 refine isRow_of_opcode (isRow_of_bits rfl rfl (by simp)) ?_
  refine isRow_of_opcode (isRow_pickCinv h w) ?_
  iterate 8 refine isRow_of_opcode (isRow_of_bits rfl rfl (by simp)) ?_
  refine isRow_of_opcode (isRow_pickSch h w) ?_
  exact nofun

theorem isRow_of_decodeS : decodeS op h w = some i → i.IsRow (wordOf 3 h (BitVec.ofNat 8 op) (w.extractLsb' 0 44)) := by
  unfold decodeS
  iterate 10 refine isRow_of_opcode (isRow_of_bits rfl rfl (by simp)) ?_
  refine isRow_of_opcode (isRow_pickFtest h w) ?_
  iterate 9 refine isRow_of_opcode (isRow_of_bits rfl rfl (by simp)) ?_
  refine isRow_of_opcode (isRow_pickBtest h w) ?_
  iterate 6 refine isRow_of_opcode (isRow_of_bits rfl rfl (by simp)) ?_
  refine isRow_of_opcode (isRow_pickScope h w) ?_
  iterate 2 refine isRow_of_opcode (isRow_of_bits rfl rfl (by simp)) ?_
  refine isRow_of_opcode (isRow_pickColl h w) ?_
  exact nofun

end

theorem class_cases : ∀ c : BitVec 2, c = 0 ∨ c = 1 ∨ c = 2 ∨ c = 3 := by decide

/-- R106 to R109: what the opcode map names for a word is a row whose word it is; of a control word the guard is not in use. -/
theorem isRow_of_named {w : BitVec 64} {i : Instr}
    (e : named (w.extractLsb' 62 2).toNat (w.extractLsb' 44 8).toNat w Cvt.none = some i) :
    i.IsRow (if w.extractLsb' 62 2 = 0 then controlWord (w.extractLsb' 44 8) (bForm w) else w) := by
  have op : BitVec.ofNat 8 (w.extractLsb' 44 8).toNat = w.extractLsb' 44 8 := by rw [BitVec.ofNat_toNat, BitVec.setWidth_eq]
  have fields := wordOf_fields w
  obtain hc | hc | hc | hc := class_cases (w.extractLsb' 62 2) <;> rw [hc] at e fields ⊢
  · exact op ▸ isRow_of_decodeB e
  · exact fields ▸ op ▸ isRow_of_decodeA e
  · exact fields ▸ op ▸ isRow_of_decodeC e
  · exact fields ▸ op ▸ isRow_of_decodeS e

/-! #### The fate of a word (R84, R111) -/

section
variable {w : BitVec 64} {i : Instr}

theorem controlBits_iff : ControlBits w ↔ ((w.extractLsb' 62 2).toNat = 0 && w.extractLsb' 57 4 ≠ 0) = false ∧
    ((w.extractLsb' 62 2).toNat = 0 && !w.getLsbD 61) = false := by
  unfold ControlBits
  simp only [show ∀ c : BitVec 2, c.toNat = 0 ↔ c = 0 by decide]
  by_cases hc : w.extractLsb' 62 2 = 0#2 <;> simp [hc]

/-- A word that names a row is accepted where the row's fields are ones that the opcode map allows. -/
theorem decode_of_names (n : Names w i) (ok : i.encodingOk = true) : decode w = .ok i := by
  obtain ⟨row, low, bits⟩ := n
  obtain ⟨tokens, stop⟩ := controlBits_iff.mp bits
  simp only [decode, decodeWith, tokens, stop, row, ok, Bool.false_eq_true, if_false, if_true, if_neg (Nat.not_le.mpr low)]

/-- What a word of the hint region decodes to (R112). -/
def hintOf (w : BitVec 64) : Instr := .hintWord (w.extractLsb' 62 2) (w.extractLsb' 44 4) (hdrOf w) (w.extractLsb' 0 44)

theorem encodingOk_hintOf (bits : ControlBits w) : (hintOf w).encodingOk =
    !((w.extractLsb' 62 2).toNat ≠ 0 && !guardOk (w.extractLsb' 52 5)) := by
  simp only [hintOf, Instr.encodingOk, noTokens_hdrOf, stop_hdrOf, ne_eq, show ∀ c : BitVec 2, c.toNat = 0 ↔ c = 0 by decide]
  by_cases hc : w.extractLsb' 62 2 = 0#2
  · simp [hc, bits hc]
  · simp [hc, hdrOf]

theorem decode_of_hint (hop : 0xF0 ≤ (w.extractLsb' 44 8).toNat) (bits : ControlBits w) (ok : (hintOf w).encodingOk = true) :
    decode w = .ok (hintOf w) := by
  rw [encodingOk_hintOf bits, Bool.not_eq_true'] at ok
  obtain ⟨tokens, stop⟩ := controlBits_iff.mp bits
  simp only [decode, decodeWith, tokens, stop, ok, hop, Bool.false_eq_true, if_false, if_true, hintOf]

/-- R111: an accepted word lies in the hint region, or names a row of the opcode map. -/
theorem accepted_cases (e : decode w = .ok i) : ControlBits w ∧ i.encodingOk = true ∧
    ((0xF0 ≤ (w.extractLsb' 44 8).toNat ∧ i = hintOf w) ∨
      named (w.extractLsb' 62 2).toNat (w.extractLsb' 44 8).toNat w Cvt.none = some i) := by
  simp only [decode, decodeWith] at e
  split_ifs at e with tokens stop hop guard
  all_goals have bits : ControlBits w := controlBits_iff.mpr ⟨by simpa using tokens, by simpa using stop⟩
  · obtain rfl : hintOf w = i := Decoded.ok.inj e
    exact ⟨bits, by rw [encodingOk_hintOf bits, Bool.not_eq_true']; exact Bool.eq_false_iff.mpr guard, .inl ⟨hop, rfl⟩⟩
  · split at e
    · exact nomatch e
    · next j row =>
      split_ifs at e with ok
      obtain rfl := Decoded.ok.inj e
      exact ⟨bits, ok, .inr row⟩

end

/-! #### Words of the hint region (R112) -/

theorem hintOpcode_low (opc : BitVec 4) : 0xF0 ≤ (0xF#4 ++ opc).toNat ∧ (0xF#4 ++ opc).extractLsb' 0 4 = opc := by
  revert opc
  decide

theorem hintOpcode_eq (op : BitVec 8) (h : 0xF0 ≤ op.toNat) : 0xF#4 ++ op.extractLsb' 0 4 = op := by
  revert op
  decide

theorem opcode_low_bits (w : BitVec 64) : (w.extractLsb' 44 8).extractLsb' 0 4 = w.extractLsb' 44 4 := by
  ext i hi
  simp
  omega

section
variable (cls : BitVec 2) (opc : BitVec 4) (h : Hdr) (ops : BitVec 44)

theorem hintOf_wordOf : hintOf (wordOf cls h (0xF#4 ++ opc) ops) = .hintWord cls opc h ops := by
  rw [hintOf, cls_wordOf, ← opcode_low_bits, op_wordOf, (hintOpcode_low opc).2, hdrOf_wordOf, operands_wordOf]

theorem decode_hintWord (ok : (Instr.hintWord cls opc h ops).encodingOk = true) :
    decode (wordOf cls h (0xF#4 ++ opc) ops) = .ok (.hintWord cls opc h ops) := by
  rw [← hintOf_wordOf] at ok ⊢
  refine decode_of_hint (by rw [op_wordOf]; exact (hintOpcode_low opc).1) (fun hc => ?_) ok
  rw [cls_wordOf] at hc
  simp only [hintOf, Instr.encodingOk, cls_wordOf, hdrOf_wordOf, hc, if_true, Bool.and_eq_true] at ok
  exact ⟨of_decide_eq_true (by rw [← noTokens_hdrOf, hdrOf_wordOf]; exact ok.2), by rw [← stop_hdrOf, hdrOf_wordOf]; exact ok.1⟩

end

/-- A word of the hint region is the word of what it decodes to. -/
theorem isRow_hintOf {w : BitVec 64} (hop : 0xF0 ≤ (w.extractLsb' 44 8).toNat) : (hintOf w).IsRow w := by
  refine ⟨?_, rfl⟩
  have fields := wordOf_fields w
  rw [← hintOpcode_eq _ hop, opcode_low_bits] at fields
  exact congrArg some fields

/-! #### Sedge words (R308) -/

section
variable (f7 : BitVec 7) (f3 : BitVec 3) (op : BitVec 7) (f : HForm)

@[simp] theorem op_sedgeWord : (sedgeWord f7 f3 op f).extractLsb' 0 7 = op := by
  simp only [sedgeWord, HAppend.hAppend, extractLsb'_append_low, Nat.reduceLeDiff, Nat.reduceAdd, BitVec.extractLsb'_eq_self]

@[simp] theorem funct3_sedgeWord : (sedgeWord f7 f3 op f).extractLsb' 12 3 = f3 := by
  simp only [sedgeWord, HAppend.hAppend, extractLsb'_append_high, extractLsb'_append_low, Nat.reduceLeDiff, Nat.reduceSub, Nat.reduceAdd,
    BitVec.extractLsb'_eq_self]

theorem funct7_sedgeWord (l : Nat) : (sedgeWord f7 f3 op f).extractLsb' 25 l = f7.extractLsb' 0 l := by
  simp only [sedgeWord, HAppend.hAppend, extractLsb'_append_high, Nat.reduceLeDiff, Nat.reduceSub]

@[simp] theorem hForm_sedgeWord : hForm (sedgeWord f7 f3 op f) = f := by
  simp only [sedgeWord, hForm, HAppend.hAppend, extractLsb'_append_high, extractLsb'_append_low, Nat.reduceLeDiff, Nat.reduceSub,
    Nat.reduceAdd, BitVec.extractLsb'_eq_self]

end

/-- A Sedge word is its function fields, its opcode and its registers. -/
theorem sedgeWord_fields (w : BitVec 32) : sedgeWord (w.extractLsb' 25 7) (w.extractLsb' 12 3) (w.extractLsb' 0 7) (hForm w) = w := by
  simp only [sedgeWord, hForm, HAppend.hAppend, append_adjacent_fields, Nat.reduceAdd, BitVec.extractLsb'_eq_self]

/-- A funct7 of which only the low `l` bits are used (XFTEST, XFWAIT, XFENCE, XCAPSET). -/
theorem toNat_low_funct7 {w : BitVec 32} {k l : Nat} (h : (w.extractLsb' 25 7).toNat < 2 ^ l) (hl : l ≤ 7) :
    (w.extractLsb' 25 7).toNat = ((0#k) ++ w.extractLsb' 25 l).toNat := by
  have low : (w.extractLsb' 25 7).toNat % 2 ^ l = (w.extractLsb' 25 l).toNat := by
    simp only [BitVec.extractLsb'_toNat, Nat.mod_mod_of_dvd _ (Nat.pow_dvd_pow 2 hl)]
  rw [BitVec.toNat_append, ← low, Nat.mod_eq_of_lt h]
  simp

theorem sedgeWord_eq {w : BitVec 32} {f7 op : BitVec 7} {f3 : BitVec 3} (h7 : (w.extractLsb' 25 7).toNat = f7.toNat)
    (h3 : (w.extractLsb' 12 3).toNat = f3.toNat) (hop : (w.extractLsb' 0 7).toNat = op.toNat) : sedgeWord f7 f3 op (hForm w) = w := by
  rw [← BitVec.eq_of_toNat_eq h7, ← BitVec.eq_of_toNat_eq h3, ← BitVec.eq_of_toNat_eq hop, sedgeWord_fields]

/-- R308: an extension word decodes to its instruction; the three rows of XVREG are one word (R408). -/
theorem decodeSedge_of_sedge {i : Instr} {w : BitVec 32} (hw : i.sedge = some w) : decodeSedge w = some i ∨
    ∃ f, (i = .xvregUnregister f ∨ i = .xvregRetry f) ∧ decodeSedge w = some (.xvreg f) := by
  cases i
  case xsend | xfres | xfrestok | xfdec | xcqpop | xcapclr | xcpyr | xvreg =>
    obtain rfl := Option.some.inj hw
    left
    simp [decodeSedge, funct7_sedgeWord]
  case xftest f m | xfence f m | xfwait f m | xcapset f m =>
    obtain rfl := Option.some.inj hw
    left
    simp [decodeSedge, funct7_sedgeWord]
    clear hw
    revert m
    decide
  case xvregUnregister f =>
    obtain rfl := Option.some.inj hw
    exact .inr ⟨f, .inl rfl, by simp [decodeSedge, funct7_sedgeWord]⟩
  case xvregRetry f =>
    obtain rfl := Option.some.inj hw
    exact .inr ⟨f, .inr rfl, by simp [decodeSedge, funct7_sedgeWord]⟩
  all_goals exact absurd hw nofun

theorem sedge_of_decodeSedge {i : Instr} {w : BitVec 32} (e : decodeSedge w = some i) : i.sedge = some w := by
  simp only [decodeSedge, Bool.and_eq_true, decide_eq_true_eq] at e
  split_ifs at e with hop h0 h1 h2 h3 h4 h5 h6 h7 hop' h0 h1 h2 h3
  all_goals obtain rfl := Option.some.inj e
  · exact congrArg some (sedgeWord_eq h0.2 h0.1 hop)
  · exact congrArg some (sedgeWord_eq h1.2 h1.1 hop)
  · exact congrArg some (sedgeWord_eq h2.2 h2.1 hop)
  · exact congrArg some (sedgeWord_eq h3.2 h3.1 hop)
  · exact congrArg some (sedgeWord_eq (toNat_low_funct7 (l := 2) h4.2 (by decide)) h4.1 hop)
  · exact congrArg some (sedgeWord_eq (toNat_low_funct7 (l := 1) h5.2 (by decide)) h5.1 hop)
  · exact congrArg some (sedgeWord_eq h6.2 h6.1 hop)
  · exact congrArg some (sedgeWord_eq (toNat_low_funct7 (l := 2) h7.2 (by decide)) h7.1 hop)
  · exact congrArg some (sedgeWord_eq (toNat_low_funct7 (l := 4) h0.2 (by decide)) h0.1 hop')
  · exact congrArg some (sedgeWord_eq h1.2 h1.1 hop')
  · exact congrArg some (sedgeWord_eq h2.2 h2.1 hop')
  · exact congrArg some (sedgeWord_eq h3.2 h3.1 hop')

/-! #### Both ways -/

theorem encodedInstructionsDecodeBack : Claims.EncodedInstructionsDecodeBack := by
  intro i enc
  obtain ⟨ok, sel⟩ := Bool.and_eq_true_iff.mp enc
  refine ⟨fun w hw => ?_, fun w hw => decodeSedge_of_sedge hw⟩
  by_cases hint : ∃ c o h x, i = .hintWord c o h x
  · obtain ⟨c, o, h, x, rfl⟩ := hint
    obtain rfl := Option.some.inj hw
    exact decode_hintWord c o h x ok
  · exact decode_of_names (names_of_word hw sel (by simpa using hint)) ok

/-- A control word keeps bits [51:0], the opcode and the operands. -/
theorem low_bits_controlWord (w : BitVec 64) :
    (controlWord (w.extractLsb' 44 8) (bForm w)).extractLsb' 0 52 = w.extractLsb' 0 52 := by
  have low : ∀ x : BitVec 64, x.extractLsb' 0 52 = (x.extractLsb' 44 8).append (x.extractLsb' 0 44) :=
    fun x => (append_adjacent_fields (s := 0) (l := 44) (k := 8) x rfl).symm
  rw [low, low w, controlWord_eq, op_wordOf, operands_wordOf, bits_bForm]

theorem decodedWordsEncodeBack : Claims.DecodedWordsEncodeBack := by
  refine ⟨fun w i e => ?_, fun w i e => sedge_of_decodeSedge e⟩
  obtain ⟨bits, ok, ⟨hop, rfl⟩ | row⟩ := accepted_cases e
  · obtain ⟨word, sel⟩ := isRow_hintOf hop
    exact ⟨by rw [Instr.encodable, ok, sel]; rfl, w, word, fun _ => rfl, fun _ => ⟨rfl, rfl⟩⟩
  · obtain ⟨word, sel⟩ := isRow_of_named row
    refine ⟨by rw [Instr.encodable, ok, sel]; rfl, _, word, fun hc => if_neg hc, fun hc => ?_⟩
    rw [if_pos hc]
    refine ⟨low_bits_controlWord w, ?_⟩
    rw [high_bits_of_controlBits hc bits, high_bits_of_controlBits (by rw [controlWord_eq, cls_wordOf]) (controlBits_controlWord _ _)]

/-- Settles O60: each row's word names the row and its fields, and what a word names is a row whose word it is. -/
theorem encodingsRoundTrip : Obligations.EncodingsRoundTrip :=
  ⟨encodedInstructionsDecodeBack, decodedWordsEncodeBack⟩

end Sys2Proof

namespace Sys2Proof.Machine

/-! ### The course of the words (R83, R92 to R96, R100, R101) -/

/-! #### FMT (R100, R101) -/

theorem fmtPrefix_eq (f : XForm) : fmtPrefix f = {
    f1 := if f.fn.getLsbD 3 then some f.fmt.toNat else none, f2 := if f.fn.getLsbD 2 then some (f.fn.toNat / 64) else none,
    rm := if f.fn.getLsbD 1 then some f.rm.toNat else none, sat := if f.fn.getLsbD 0 then some f.sat else none } := by
  have field : fieldOf f.fn.toNat 10 6 = f.fn.toNat / 64 := Nat.mod_eq_of_lt (by have := f.fn.isLt; omega)
  simp only [fmtPrefix, field, bitOf_eq_testBit, BitVec.testBit_toNat]

/-- Settles O4: FMT is executed by the front end, and what it leaves pending is made of its fields, by its guard. -/
theorem fmtRecordsThePrefix : Obligations.FmtRecordsThePrefix := by
  intro h f s a hc
  have course : exec (.fmt h f) s = execFmt h f s := rfl
  simp only [course, execFmt, hc]
  refine ⟨fun free guard => ?_, fun free guard => ?_, fun pending => ?_⟩
  · simp [free, Act.prefixed, guard, fmtPrefix_eq]
  · simp [free, Act.prefixed, guard]
  · rw [if_pos (Option.isSome_iff_ne_none.mpr pending)]

/-! #### Every issuing word (R83, R92, R94, R96) -/

/-- The class of an issuing word gives its queue. -/
theorem queue_of_issues {i : Instr} {cls : BitVec 2} {h h' : Hdr} {op : BitVec 8} {ops : BitVec 44} {q : Nat}
    (hi : Claims.issues i = some (q, h')) (word : i.word = some (wordOf cls h op ops)) (hdr : i.hdr? = some h) :
    cls ≠ 0 ∧ cls.toNat - 1 = q ∧ h = h' := by
  unfold Claims.issues at hi
  split at hi
  · exact nomatch hi
  · next w h'' hw hh =>
    obtain rfl := Option.some.inj (word.symm.trans hw)
    obtain rfl := Option.some.inj (hdr.symm.trans hh)
    rw [cls_wordOf] at hi
    split_ifs at hi with hc
    exact ⟨hc, Prod.mk.inj (Option.some.inj hi)⟩
  · exact nomatch hi

theorem course_of_row {i : Instr} {cls : BitVec 2} {h h' : Hdr} {op : BitVec 8} {ops : BitVec 44} {q : Nat} {s : State}
    (hi : Claims.issues i = some (q, h')) (word : i.word = some (wordOf cls h op ops)) (hdr : i.hdr? = some h)
    (course : ∃ body, exec i s = issue (cls.toNat - 1) h body s) : ∃ body, exec i s = issue q h' body s := by
  obtain ⟨-, rfl, rfl⟩ := queue_of_issues hi word hdr
  exact course

/-! Each shared course is that of R91 to R96, with an effect of its own. -/

section
variable (h : Hdr) (s : State)

theorem alu_course (f : Act → Act) : ∃ body, alu h s f = issue 1 h body s := ⟨_, rfl⟩

theorem floatOp_course (f : XForm) (t : Bool → Act → Val) : ∃ body, floatOp h f s t = issue 1 h body s := ⟨_, rfl⟩

theorem vector_course (opc : Nat) (wants : Act → List Want) (waits : Act → Bool) (rows : Reads → Act → Sparse Byte → Gen × List Put) :
    ∃ body, vector h opc wants waits rows s = issue 1 h body s := ⟨_, rfl⟩

theorem codewise_course (opc : Nat) (f : VForm) (wants : Act → List Want) (srcs : List Nat) (op : Act → Nat → List Nat → Nat) :
    ∃ body, codewise h opc f wants srcs op s = issue 1 h body s := vector_course ..

theorem elementwise_course (opc : Nat) (f : VForm) (srcs : List Nat) (cplx : Bool) (op : Bool → List Val → Val)
    (cop : List (Int × Int) → Int × Int) : ∃ body, elementwise h opc f srcs cplx op cop s = issue 1 h body s := by
  unfold elementwise
  exact vector_course ..

theorem bitwise_course (opc : Nat) (f : VForm) (op : Nat → Nat → Nat) : ∃ body, bitwise h opc f op s = issue 1 h body s :=
  codewise_course ..

theorem shift_course (opc : Nat) (f : VForm) (op : Nat → Int → Nat → Nat) : ∃ body, shift h opc f op s = issue 1 h body s := by
  unfold shift
  exact codewise_course ..

theorem specialWise_course (opc fn : Nat) (f : VForm) : ∃ body, specialWise h opc fn f s = issue 1 h body s := vector_course ..

theorem cplxWise_course (opc : Nat) (f : VForm) (pair acc : Bool) : ∃ body, cplxWise h opc f pair acc s = issue 1 h body s :=
  vector_course ..

theorem mxIssue_course (opc : Nat) (gate : Option Nat) (wants : List Want) (op : Act → Except Nat MxOp) :
    ∃ body, mxIssue h opc gate wants op s = issue 1 h body s := ⟨_, rfl⟩

theorem execMcfg_course (f : TForm) (limit : Nat → Bool) (op : Nat → MxOp) : ∃ body, execMcfg h f limit op s = issue 1 h body s := by
  unfold execMcfg
  exact mxIssue_course ..

theorem startLoad_course (f : MForm) (const : Bool) : ∃ body, startLoad h f const s = issue 0 h body s := ⟨_, rfl⟩

theorem startCopy_course (mcast : Bool) (f : YForm) : ∃ body, startCopy mcast h f s = issue 0 h body s := ⟨_, rfl⟩

theorem startSch_course (rel : Bool) (f : MForm) : ∃ body, startSch rel h f s = issue 0 h body s := ⟨_, rfl⟩

theorem commitWord_course (q : Nat) (inline : Bool) (check : State → Act → Except Res (List Nat × State)) (ready : State → Act → Bool)
    (done : State → Act → List Nat → State) : ∃ body, commitWord q h inline check ready done s = issue q h body s := ⟨_, rfl⟩

theorem futTest_course (f : YForm) (k : Fut → Act → Act) : ∃ body, futTest h f k s = issue 2 h body s := ⟨_, rfl⟩

theorem withTile_course (f : YForm) (k : Nat → State → Act → Res) : ∃ body, withTile h f k s = issue 2 h body s := ⟨_, rfl⟩

theorem startColl_course (kind : Nat) (f : YForm) : ∃ body, startColl kind h f s = issue 2 h body s := ⟨_, rfl⟩

end

/-- Every word that issues from a queue has the course of R91 to R96, with an effect of its own. -/
theorem exec_eq_issue {i : Instr} {q : Nat} {h : Hdr} (hi : Claims.issues i = some (q, h)) (s : State) :
    ∃ body, exec i s = issue q h body s := by
  cases i
  case hintWord => exact course_of_row hi rfl rfl ⟨onAct id, if_neg (queue_of_issues hi rfl rfl).1⟩
  case add | addi | sub | mul | muli | mulh | mulhn | div | divn | rem | remn | and | andi | or | ori | xor | xori | shl | shli | shr | shri
      | sra | srai | rol | roli | clz | ctz | popc | min | max | minn | maxn | abs | sel | movi | movhi | lea | sext | zext | bfx | bfi
      | bswap | cmp | cmpi | pand | por | pxor | pnot | pset | pget => exact course_of_row hi rfl rfl (by unfold exec; exact alu_course ..)
  case fadd | fsub | fmul | ffma | fdiv | fsqrt | fmin | fmax => exact course_of_row hi rfl rfl (by unfold exec; exact floatOp_course ..)
  case vmov | vgath | vscat | vrnd => exact course_of_row hi rfl rfl (by unfold exec; exact vector_course ..)
  case vfill | vcmp | vsel | vcvt | vquant | vred | vscan | vtrans =>
    refine course_of_row hi rfl rfl ?_
    unfold exec
    simp only [execVfill, execVcmp, execVsel, execVcvt, execVquant, execVred, execVscan, execVtrans]
    exact vector_course ..
  case vadd | vsub | vmul | vfma | vmin | vmax | vabs | vneg =>
    exact course_of_row hi rfl rfl (by unfold exec; exact elementwise_course ..)
  case vand | vor | vxor => exact course_of_row hi rfl rfl (by unfold exec; exact bitwise_course ..)
  case vshl | vshr => exact course_of_row hi rfl rfl (by unfold exec; exact shift_course ..)
  case vexp | vlog | vrcp | vrsq | vtanh | verf => exact course_of_row hi rfl rfl (by unfold exec; exact specialWise_course ..)
  case vcmul | vcmac => exact course_of_row hi rfl rfl (by unfold exec; exact cplxWise_course ..)
  case mzero | mbar => exact course_of_row hi rfl rfl (by unfold exec; exact mxIssue_course ..)
  case mldb | mma | mmac | mst =>
    refine course_of_row hi rfl rfl ?_
    unfold exec
    simp only [execMldb, execMma, execMmac, execMst]
    exact mxIssue_course ..
  case mcfgWeight | mcfgGate | mcfgClrsat => exact course_of_row hi rfl rfl (by unfold exec; exact execMcfg_course ..)
  case ldg | ldc => exact course_of_row hi rfl rfl (by unfold exec; exact startLoad_course ..)
  case cpy | cpym => exact course_of_row hi rfl rfl (by unfold exec; exact startCopy_course ..)
  case sch | schRel => exact course_of_row hi rfl rfl (by unfold exec; exact startSch_course ..)
  case commit | yield | exit | migrate | await | tacq | lrw => exact course_of_row hi rfl rfl (by unfold exec; exact commitWord_course ..)
  case ftest | ftestV | ftestC | ftestF => exact course_of_row hi rfl rfl (by unfold exec; exact futTest_course ..)
  case tfree | trel | tqry => exact course_of_row hi rfl rfl (by unfold exec; exact withTile_course ..)
  case collBcast | collReduce | collAllred => exact course_of_row hi rfl rfl (by unfold exec; exact startColl_course ..)
  case fcmp | fcvt | fclass | rnd | rndf | shld | shst | shset | shofs | ld | st | stg | cinvLine | cinvAll | cinvI | atom | cpyq | pref
      | atomg | red | send | sendi | spawn | fnew | fres | fdec | fcall | ffree | rtmk | binit | barr | barrx | bexp | bwait | btest
      | btestS | btestP | tdef | fence | scopeRd | scopeWr | srr | srw => exact course_of_row hi rfl rfl (by unfold exec; exact ⟨_, rfl⟩)
  all_goals exact absurd hi nofun

theorem retire_setCur_self {s : State} {a : Act} (hc : s.cur = some a) (q : Nat) (h : Hdr) : (s.setCur a).retire q h = s.retire q h := by
  simp only [State.retire, hc, cur_setCur, State.finish, State.complete]
  simp [State.setCur]

/-- With a false guard a word only moves its tokens. -/
theorem issue_guard_false {q : Nat} {h : Hdr} {s : State} {a : Act} {body : State → Act → Res} (r : Issues q h s a)
    (hg : condTrue h.guard a = false) : issue q h body s = .next (s.setCur (a.done q h s.focus.n)) := by
  rw [issue_skipped r.runs r.tokens hg, ← retire_setCur_self r.runs, retire_calm r.calm r.fits r.now]

/-- Settles O5: the three branches of the one course that all issuing words have. -/
theorem everyIssuingWordFollowsTheCourse : Obligations.EveryIssuingWordFollowsTheCourse := by
  intro i q h s hi
  obtain ⟨body, course⟩ := exec_eq_issue hi s
  rw [course]
  exact ⟨issue_noActivation, fun a hc => issue_blocked hc, fun a r => issue_guard_false r⟩

end Sys2Proof.Machine

namespace Sys2Proof.Machine

/-! ### Tokens (R93, R95, R96, R105) -/

/-! #### The three counters of the ring -/

theorem tok_setTok {q j : Nat} (hq : q < 3) (hj : j < 3) (a : Act) (v : Nat) : (a.setTok q v).tok j = if j = q then v else a.tok j := by
  interval_cases q <;> interval_cases j <;> rfl

theorem downOf_lt (q : Nat) : downOf q < 3 := Nat.mod_lt _ (by decide)

/-- One pop, where the word makes it (R93). -/
def Act.pop1 (a : Act) (q : Nat) (b : Bool) : Act := if b then a.setTok q (a.tok q - 1) else a

theorem tok_pop1 {q j : Nat} (hq : q < 3) (hj : j < 3) (a : Act) (b : Bool) :
    (a.pop1 q b).tok j = a.tok j - (if j = q then bit b else 0) := by
  cases b
  · simp [Act.pop1, bit]
  · simp only [Act.pop1, if_true, tok_setTok hq hj, bit]
    split <;> simp_all

theorem pops_eq_pop1 (a : Act) (q : Nat) (h : Hdr) : ∃ began, a.pops q h =
    { (a.pop1 q h.popu).pop1 (downOf q) h.popd with began := began } := by
  unfold Act.pops
  dsimp only
  split
  · exact ⟨_, rfl⟩
  · exact ⟨_, rfl⟩

/-- The pops of a word, counter by counter. -/
theorem tok_pops {q j : Nat} (hq : q < 3) (hj : j < 3) (a : Act) (h : Hdr) : (a.pops q h).tok j =
    a.tok j - (if j = q then bit h.popu else 0) - (if j = downOf q then bit h.popd else 0) := by
  obtain ⟨began, pops⟩ := pops_eq_pop1 a q h
  calc (a.pops q h).tok j
    _ = ((a.pop1 q h.popu).pop1 (downOf q) h.popd).tok j := by rw [pops]; interval_cases j <;> rfl
    _ = _ := by rw [tok_pop1 (downOf_lt q) hj, tok_pop1 hq hj]

theorem tok_push1 {q j : Nat} (hq : q < 3) (hj : j < 3) {a : Act} {b : Bool} (fits : (a.push1 q b).2 = true) :
    (a.push1 q b).1.tok j = a.tok j + (if j = q then bit b else 0) := by
  cases b with
  | false => simp [Act.push1, bit]
  | true =>
    by_cases full : 15 ≤ a.tok q
    · simp [Act.push1, full] at fits
    · simp only [Act.push1, Bool.not_true, Bool.false_eq_true, if_false, if_neg full, tok_setTok hq hj, bit, if_true]
      split <;> simp_all

/-- The pushes of a word that fit, counter by counter. -/
theorem tok_pushes {q j : Nat} (hq : q < 3) (hj : j < 3) {a : Act} {u d : Bool} (fits : (a.pushes q u d).2 = true) :
    (a.pushes q u d).1.tok j = a.tok j + (if j = q then bit u else 0) + (if j = downOf q then bit d else 0) := by
  obtain ⟨own, down⟩ : (a.push1 q u).2 = true ∧ ((a.push1 q u).1.push1 (downOf q) d).2 = true := Bool.and_eq_true_iff.mp fits
  calc (a.pushes q u d).1.tok j
    _ = ((a.push1 q u).1.push1 (downOf q) d).1.tok j := rfl
    _ = _ := by rw [tok_push1 (downOf_lt q) hj down, tok_push1 hq hj own]

/-- What a word that completes leaves in each counter. -/
theorem tok_done {q j n : Nat} (hq : q < 3) (hj : j < 3) {a : Act} {h : Hdr} (fits : a.fits q h n = true) : (a.done q h n).tok j =
    a.tok j - (if j = q then bit h.popu else 0) - (if j = downOf q then bit h.popd else 0) +
      (if j = q then bit h.pushu else 0) + (if j = downOf q then bit h.pushd else 0) := by
  rw [Act.done, tok_pushes hq hj fits, tok_leave, tok_pops hq hj]

/-- The tokens that a word pops are there. -/
theorem bit_le_tok_of_canPop {a : Act} {q : Nat} {h : Hdr} (pops : a.canPop q h = true) :
    bit h.popu ≤ a.tok q ∧ bit h.popd ≤ a.tok (downOf q) := by
  simp only [Act.canPop, Bool.and_eq_true, Bool.or_eq_true, Bool.not_eq_true', decide_eq_true_eq] at pops
  unfold bit
  obtain ⟨own, down⟩ := pops
  constructor
  · split <;> simp_all
  · split <;> simp_all

/-- R93: the counters on the ring after a word that completes. -/
theorem tokens_move_on_the_ring {a : Act} {q n : Nat} {h : Hdr} (hq : q < 3) (pops : a.canPop q h = true) (fits : a.fits q h n = true) :
    ((a.done q h n).tok q : Int) = a.tok q - bit h.popu + bit h.pushu ∧
    ((a.done q h n).tok ((q + 1) % 3) : Int) = a.tok ((q + 1) % 3) - bit h.popd + bit h.pushd ∧
    (a.done q h n).tok ((q + 2) % 3) = a.tok ((q + 2) % 3) := by
  obtain ⟨own, down⟩ := bit_le_tok_of_canPop pops
  have next : downOf q ≠ q := by unfold downOf; omega
  have last : (q + 2) % 3 ≠ q ∧ (q + 2) % 3 ≠ downOf q := by unfold downOf; omega
  rw [show (q + 1) % 3 = downOf q from rfl, tok_done hq hq fits, tok_done hq (downOf_lt q) fits,
    tok_done hq (Nat.mod_lt _ (by decide)) fits]
  simp only [if_true, if_neg next, if_neg next.symm, if_neg last.1, if_neg last.2]
  omega

/-! #### The course of a word without an effect -/

/-- R112: a word of the hint region only moves its tokens, whatever its guard says. -/
theorem exec_hintWord {cls : BitVec 2} (hcls : cls ≠ 0) {h : Hdr} {s : State} {a : Act} (hc : s.cur = some a)
    (pops : a.canPop (cls.toNat - 1) h = true) (opc : BitVec 4) (ops : BitVec 44) :
    exec (.hintWord cls opc h ops) s = .next (s.retire (cls.toNat - 1) h) := by
  have course : exec (.hintWord cls opc h ops) s = issue (cls.toNat - 1) h (onAct id) s := if_neg hcls
  rw [course]
  cases guard : condTrue h.guard a
  · exact issue_skipped hc pops guard
  · simp [issue, hc, pops, guard, onAct, retire_setCur_self hc]

theorem tokensMoveOnTheRing : Claims.TokensMoveOnTheRing := by
  refine ⟨fun opc cls h ops s a hcls hc pops cycle pushes => ?_, fun a q h n hq pops fits => ?_⟩
  · have owes : (s.sameCycle && (h.pushu || h.pushd)) = true := by simpa [cycle] using pushes
    rw [exec_hintWord hcls hc pops]
    simp only [State.retire, hc, State.finish, owes, if_true, Act.pops_owed]
    rfl
  · obtain ⟨own, down, last⟩ := tokens_move_on_the_ring hq pops fits
    exact ⟨own, down, last, by simp, by simp, by simp, by simp, by simp, by simp [Act.gen], by simp⟩

theorem tokenOverflowIsRaised : Claims.TokenOverflowIsRaised := by
  intro opc cls h ops s a hcls hc pops full now
  have atOnce : (s.sameCycle && (h.pushu || h.pushd)) = false := by
    rw [pushesNow, ← Bool.not_and, Bool.not_eq_true'] at now
    exact now
  have left : (((a.pops (cls.toNat - 1) h).leave (cls.toNat - 1) s.focus.n).pushes (cls.toNat - 1) h.pushu h.pushd) =
      (a.done (cls.toNat - 1) h s.focus.n, false) := Prod.ext rfl full
  rw [exec_hintWord hcls hc pops]
  simp only [State.retire, hc, State.finish, atOnce, State.complete, left]
  rfl

/-- Settles O32: one word's pops and pushes, counter by counter, and the push that does not fit. -/
theorem tokensMoveAndOverflow : Obligations.TokensMoveAndOverflow := ⟨tokensMoveOnTheRing, tokenOverflowIsRaised⟩

end Sys2Proof.Machine

namespace Sys2Proof.Machine

/-! ### What the operations of the device leave standing

Translations, recalls, writes at a home, fault records, futures and the ends of segments change neither the word in focus, nor the hub
clock, nor the cycle in progress, nor who holds the lease. One equation per operation says so. -/

/-- The word in focus, the hub clock, the cycle in progress and the lease, as a state has them. -/
structure Standing where
  focus : Focus
  time  : Nat
  cycle : Bool
  holder : Nat
  epoch : Nat
  late  : Option Nat

def State.standing (s : State) : Standing :=
  { focus := s.focus, time := s.hubTime, cycle := s.sameCycle, holder := s.hub.holder, epoch := s.hub.epoch, late := s.hub.lateClaim }

theorem focus_of_standing {s t : State} (h : t.standing = s.standing) : t.focus = s.focus := congrArg Standing.focus h
theorem hubTime_of_standing {s t : State} (h : t.standing = s.standing) : t.hubTime = s.hubTime := congrArg Standing.time h
theorem sameCycle_of_standing {s t : State} (h : t.standing = s.standing) : t.sameCycle = s.sameCycle := congrArg Standing.cycle h
theorem holder_of_standing {s t : State} (h : t.standing = s.standing) : t.hub.holder = s.hub.holder := congrArg Standing.holder h
theorem epoch_of_standing {s t : State} (h : t.standing = s.standing) : t.hub.epoch = s.hub.epoch := congrArg Standing.epoch h
theorem lateClaim_of_standing {s t : State} (h : t.standing = s.standing) : t.hub.lateClaim = s.hub.lateClaim :=
  congrArg Standing.late h

theorem ite_standing {c : Prop} [Decidable c] {s t u : State} (ht : t.standing = s.standing) (hu : u.standing = s.standing) :
    (if c then t else u).standing = s.standing := by
  split <;> assumption

/-- A fold whose every step leaves them leaves them. -/
theorem foldl_standing {α : Type} {f : State → α → State} (step : ∀ s x, (f s x).standing = s.standing) (l : List α) (s : State) :
    (l.foldl f s).standing = s.standing := by
  induction l generalizing s with
  | nil => rfl
  | cons x l ih => exact (ih (f s x)).trans (step s x)

/-! #### Parts of the state -/

section
variable (s : State)

@[simp] theorem setEng_standing (g : Nat) (E : Engine) : (s.setEng g E).standing = s.standing := rfl
@[simp] theorem modEng_standing (g : Nat) (f : Engine → Engine) : (s.modEng g f).standing = s.standing := rfl
@[simp] theorem setAct_standing (g k : Nat) (a : Act) : (s.setAct g k a).standing = s.standing := rfl
@[simp] theorem setCur_standing (a : Act) : (s.setCur a).standing = s.standing := rfl
@[simp] theorem modCluster_standing (c : Nat) (f : Cluster → Cluster) : (s.modCluster c f).standing = s.standing := rfl
@[simp] theorem modCtx_standing (c : Nat) (f : Ctx → Ctx) : (s.modCtx c f).standing = s.standing := rfl
@[simp] theorem setHart_standing (h : Nat) (H : Hart) : (s.setHart h H).standing = s.standing := rfl
@[simp] theorem modBittern_standing (f : Bittern → Bittern) : (s.modBittern f).standing = s.standing := rfl
@[simp] theorem modBlock_standing (i b : Nat) (f : VBlock → VBlock) : (s.modBlock i b f).standing = s.standing := rfl
@[simp] theorem setStream_standing (n : Nat) (x : Ingest) : (s.setStream n x).standing = s.standing := rfl
@[simp] theorem draw_standing : s.draw.2.standing = s.standing := rfl
@[simp] theorem wr_standing (a n v : Nat) : (s.wr a n v).standing = s.standing := rfl
@[simp] theorem wrBytes_standing (a : Nat) (bs : List Byte) : (s.wrBytes a bs).standing = s.standing := rfl
@[simp] theorem raiseVec_standing (v : Nat) : (s.raiseVec v).standing = s.standing := rfl
@[simp] theorem fillBuckets_standing : s.fillBuckets.standing = s.standing := rfl
@[simp] theorem noteIdle_standing : s.noteIdle.standing = s.standing := rfl
@[simp] theorem dropCopies_standing (cl : Nat) (l : List Span) : (s.dropCopies cl l).standing = s.standing := rfl

@[simp] theorem modAct_standing (g k : Nat) (f : Act → Act) : (s.modAct g k f).standing = s.standing := by
  unfold State.modAct
  split <;> simp

@[simp] theorem modCur_standing (f : Act → Act) : (s.modCur f).standing = s.standing := modAct_standing s _ _ f

@[simp] theorem pfcFrame_standing (mask prio quanta : Nat) : (s.pfcFrame mask prio quanta).standing = s.standing := by
  unfold State.pfcFrame
  split <;> rfl

@[simp] theorem wantPt_standing (gr : Nat) : (s.wantPt gr).standing = s.standing := by
  unfold State.wantPt
  split <;> rfl

/-! #### Keys and views -/

@[simp] theorem granuleAs_standing (g key : Nat) : (s.granuleAs g key).2.standing = s.standing := by
  simp only [State.granuleAs]
  split
  · split <;> rfl
  · rfl

@[simp] theorem readKeyed_standing (a n key : Nat) : (s.readKeyed a n key).2.standing = s.standing := by
  simp only [State.readKeyed]
  split
  · exact granuleAs_standing s _ key
  · rfl

@[simp] theorem repair_standing (gr : Nat) : (s.repair gr).standing = s.standing := by
  unfold State.repair
  split <;> rfl

@[simp] theorem writeKeyed_standing (a key : Nat) (bs : List Byte) : (s.writeKeyed a key bs).standing = s.standing := by
  simp only [State.writeKeyed]
  split
  · exact (granuleAs_standing _ _ key).trans (repair_standing s _)
  · exact repair_standing s _

@[simp] theorem bumpGen_standing (l : List (Nat × Nat)) : (s.bumpGen l).standing = s.standing := by
  induction l generalizing s with
  | nil => rfl
  | cons e l ih => exact ih _

@[simp] theorem advance_standing (l : List Nat) : (s.advance l).standing = s.standing := bumpGen_standing _ _

/-! #### Recalls and writes of homes (R337, R343, R345) -/

@[simp] theorem recallFrom_standing (sg : Nat) (l : List (Bool × Tenure)) : (s.recallFrom sg l).standing = s.standing := by
  induction l with
  | nil => rfl
  | cons e l ih =>
    obtain ⟨hit, t⟩ := e
    simp only [State.recallFrom]
    split
    · exact (advance_standing _ _).trans ih
    · exact ih

@[simp] theorem coverRecall_standing (sg : Nat) (l : List Tenure) : (s.coverRecall sg l).standing = s.standing := by
  simp only [State.coverRecall]
  split <;> rfl

@[simp] theorem acquire_standing (cl ctx gr : Nat) (w : Bool) : (s.acquire cl ctx gr w).standing = s.standing := by
  simp only [State.acquire]
  split
  · rfl
  · split
    · split <;> rfl
    · rfl

@[simp] theorem drainBridge_standing (p gr : Nat) : (s.drainBridge p gr).standing = s.standing := by
  unfold State.drainBridge
  split
  · exact advance_standing _ _
  · rfl

@[simp] theorem snoop_standing (a n : Nat) (w : Bool) : (s.snoop a n w).standing = s.standing := by
  simp only [State.snoop]
  split
  · exact (drainBridge_standing _ _ _).trans (drainBridge_standing _ _ _)
  · rfl

@[simp] theorem takeBack_standing (a n : Nat) (w : Bool) : (s.takeBack a n w).standing = s.standing := by
  simp only [State.takeBack]
  split <;> simp

@[simp] theorem killResv_standing (a n : Nat) : (s.killResv a n).standing = s.standing := by
  simp only [State.killResv]
  split <;> rfl

@[simp] theorem wrHome_standing (a n v : Nat) : (s.wrHome a n v).standing = s.standing := by simp [State.wrHome]

@[simp] theorem keepBack_standing (gr : Nat) : (s.keepBack gr).standing = s.standing := by
  unfold State.keepBack
  split <;> rfl

@[simp] theorem dirtyOwn_standing (cl ctx gr : Nat) : (s.dirtyOwn cl ctx gr).2.standing = s.standing := by
  simp only [State.dirtyOwn]
  split <;> rfl

theorem recall_standing {s t : State} {cl ctx a n : Nat} {write all acq : Bool} {by_ : Option InFlight}
    (h : s.recall cl ctx a n write all acq by_ = some t) : t.standing = s.standing := by
  simp only [State.recall] at h
  split at h
  · cases h
  · split at h
    · cases h
    · cases h
      refine ite_standing ((acquire_standing _ _ _ _ _).trans ?_) ?_ <;>
        exact ite_standing (ite_standing (by simp) rfl) (ite_standing (by simp) rfl)

/-! #### Translation and the fabric (R388, R389, R467, R470) -/

@[simp] theorem writeHeader_standing (sw : Nat) : (s.writeHeader sw).standing = s.standing := wrBytes_standing s _ _

@[simp] theorem showSwitch_standing (sw : Nat) : (s.showSwitch sw).standing = s.standing := by
  unfold State.showSwitch
  split <;> simp

@[simp] theorem countFault_standing (sw : Nat) : (s.countFault sw).standing = s.standing := showSwitch_standing _ sw
@[simp] theorem hopFault_standing (info : Nat) : (s.hopFault info).standing = s.standing := countFault_standing s _

@[simp] theorem shape_standing (src : Source) (ctx : Nat) (cls : Nat → Nat) (flits : Nat) :
    (s.shape src ctx cls flits).2.standing = s.standing := by
  simp only [State.shape]
  split <;> rfl

@[simp] theorem shapeMem_standing (g ctx n : Nat) : (s.shapeMem g ctx n).2.standing = s.standing := shape_standing s _ _ _ _

@[simp] theorem inject_standing (src : Source) (ctx route kind : Nat) (cls : Nat → Nat) (len spec : Nat) (body : Payload) :
    (s.inject src ctx route kind cls len spec body).standing = s.standing := shape_standing s _ _ _ _

@[simp] theorem sendFut_standing (src : Source) (ctx h : Nat) (op : FutOp) : (s.sendFut src ctx h op).standing = s.standing :=
  inject_standing s _ _ _ _ _ _ _ _

@[simp] theorem walk_standing (via : Option (Nat × Nat)) (o fuel lvl t : Nat) (u : List Nat) :
    (s.walk via o fuel lvl t u).2.standing = s.standing := by
  induction fuel generalizing s lvl t u with
  | zero => rfl
  | succ fuel ih =>
    simp only [State.walk]
    split
    · exact hopFault_standing s _
    · split
      · exact takeBack_standing s _ _ _
      · split
        · exact takeBack_standing s _ _ _
        · split
          · exact takeBack_standing s _ _ _
          · exact (ih _ _ _ _).trans (takeBack_standing s _ _ _)

@[simp] theorem setAD_standing (a e : Nat) (need : Need) : (s.setAD a e need).standing = s.standing := by
  unfold State.setAD
  split <;> simp

@[simp] theorem translate0_standing (ctx : Nat) (need : Need) (o : Nat) (via : Option (Nat × Nat)) :
    (s.translate0 ctx need o via).2.standing = s.standing := by
  have walked := walk_standing s via o 4 0 (s.ctx ctx).ptRoot []
  simp only [State.translate0]
  split
  · rfl
  · split
    · next h => simpa [h] using walked
    · next h => simpa [h] using walked
    · next h =>
      rw [h] at walked
      repeat' split
      all_goals simpa using walked

@[simp] theorem translate_standing (ctx : Nat) (need : Need) (va n : Nat) (via : Option (Nat × Nat)) :
    (s.translate ctx need va n via).2.standing = s.standing := by
  simp only [State.translate]
  split
  · exact translate0_standing s _ _ _ _
  · repeat' split
    all_goals rfl

/-! #### Fault records and inboxes (R263, R398, R401) -/

@[simp] theorem append_standing (ctx : Nat) (r : Rec) : (s.append ctx r).standing = s.standing := by
  simp only [State.append]
  split
  · rfl
  · split
    · split <;> split <;> simp
    · simp

@[simp] theorem deadLetter_standing (sender owner info : Nat) : (s.deadLetter sender owner info).standing = s.standing :=
  append_standing s _ _

@[simp] theorem joinFault_standing (src : Source) (ctx join : Nat) : (s.joinFault src ctx join).standing = s.standing := by
  unfold State.joinFault
  split <;> simp

@[simp] theorem active_standing (c : Nat) : (s.active c).standing = s.standing := by
  unfold State.active
  split <;> simp

@[simp] theorem enqueue_standing (g : Nat) (m : Msg) : (s.enqueue g m).standing = s.standing := by
  simp only [State.enqueue]
  split
  · simp
  · split <;> simp

@[simp] theorem refill_standing (g : Nat) : (s.refill g).standing = s.standing := by
  simp only [State.refill]
  split
  · split
    · split <;> simp
    · rfl
  · rfl

@[simp] theorem freeEntry_standing (g k : Nat) : (s.freeEntry g k).standing = s.standing := by simp [State.freeEntry]
@[simp] theorem endAct_standing (g k : Nat) : (s.endAct g k).standing = s.standing := by simp [State.endAct]

/-! #### Futures and tiles (R271 to R277, R334) -/

@[simp] theorem setFut_standing (h : Nat) (f : Fut) : (s.setFut h f).standing = s.standing := by
  simp only [State.setFut]
  split <;> simp

@[simp] theorem dropFut_standing (h : Nat) : (s.dropFut h).standing = s.standing := setFut_standing s _ _

@[simp] theorem allocFut_standing (c ctx : Nat) (count : Int) : (s.allocFut c ctx count).2.standing = s.standing := by
  simp only [State.allocFut]
  split <;> simp

theorem fileWaiter_standing {s t : State} {h : Nat} {w : Waiter} (filed : s.fileWaiter h w = some t) : t.standing = s.standing := by
  simp only [State.fileWaiter] at filed
  split at filed
  · cases filed
  · cases filed
    split <;> simp

@[simp] theorem deliver_standing (c ctx : Nat) (w : Waiter) (status value : Nat) :
    (s.deliver c ctx w status value).standing = s.standing := by
  simp only [State.deliver]
  split
  · split <;> split <;> simp
  · split
    · split <;> simp
    · simp

@[simp] theorem deliverAll_standing (c ctx status value : Nat) (l : List Waiter) :
    (s.deliverAll c ctx status value l).standing = s.standing := by
  induction l generalizing s with
  | nil => rfl
  | cons w l ih => exact (ih _).trans (deliver_standing s _ _ _ _ _)

@[simp] theorem freeFut_standing (h : Nat) : (s.freeFut h).standing = s.standing := by simp [State.freeFut]
@[simp] theorem setTile_standing (ctx i : Nat) (t : Tile) : (s.setTile ctx i t).standing = s.standing := rfl
@[simp] theorem dropTile_standing (ctx h : Nat) : (s.dropTile ctx h).standing = s.standing := rfl

@[simp] theorem undo_standing (ctx : Nat) (l : List Alloc) : (s.undo ctx l).standing = s.standing := by
  induction l generalizing s with
  | nil => rfl
  | cons x l ih =>
    refine (ih _).trans (ite_standing ?_ rfl)
    cases x <;> simp

/-! #### Ends of segments and of words (R40, R48, R96, R105) -/

@[simp] theorem segmentFault_standing (g k : Nat) (a : Act) (f : Raised) : (s.segmentFault g k a f).standing = s.standing := by
  simp only [State.segmentFault]
  split
  · split
    · simp
    · split
      · simp
      · next filed => simp [fileWaiter_standing filed]
  · simp

@[simp] theorem settle_standing (g k : Nat) : (s.settle g k).standing = s.standing := by
  unfold State.settle
  split
  · rfl
  · split
    · rfl
    · split <;> simp

@[simp] theorem raiseAt_standing (g k : Nat) (f : Raised) : (s.raiseAt g k f).standing = s.standing := by simp [State.raiseAt]

@[simp] theorem complete_standing (g k : Nat) (a : Act) (o : Owed) : (s.complete g k a o).standing = s.standing := by
  unfold State.complete
  split <;> simp

@[simp] theorem payAll_standing (g k : Nat) (l : List Owed) : (s.payAll g k l).standing = s.standing := by
  induction l generalizing s with
  | nil => rfl
  | cons o l ih =>
    unfold State.payAll
    split
    · rfl
    · exact (ih _).trans (complete_standing s _ _ _ _)

@[simp] theorem payOwed_standing : s.payOwed.standing = s.standing := by
  refine foldl_standing (fun t e => foldl_standing (fun t k => ?_) _ t) _ s
  split <;> simp

/-! #### Writes of the hub and the ingest streams (R411, R440) -/

@[simp] theorem store1_standing (w : Writer) (x : Chunk1) : (s.store1 w x).2.standing = s.standing := by
  have written : ∀ c : Bool, (((if c then s.keepBack (x.a / 128) else s).writeKeyed x.a x.key x.bs).killResv x.a x.bs.length).standing =
      s.standing := fun c => by cases c <;> simp
  simp only [State.store1]
  split
  · exact written _
  · split
    · split
      all_goals
        next h => exact ((congrArg (fun r => r.2.standing) h).symm.trans (dirtyOwn_standing _ _ _ _)).trans (written _)
    · exact written _

@[simp] theorem storeAll_standing (w : Writer) (l : List Chunk1) : (s.storeAll w l).2.standing = s.standing := by
  induction l generalizing s with
  | nil => rfl
  | cons x l ih => exact (ih _).trans (store1_standing s w x)

@[simp] theorem writeAll_standing (w : Writer) (l : List Chunk1) : (s.writeAll w l).standing = s.standing := by
  unfold State.writeAll
  split
  · split <;> simp
  · exact (advance_standing _ _).trans (storeAll_standing s w l)

@[simp] theorem unitWrite_standing (ctx a : Nat) (bs : List Byte) : (s.unitWrite ctx a bs).standing = s.standing := writeAll_standing s _ _
@[simp] theorem bump_standing (x : Ingest) (o : Nat) : (s.bump x o).standing = s.standing := unitWrite_standing s _ _ _

theorem allowWrite_standing {s t : State} {cl ctx a n : Nat} {all acq : Bool} {by_ : Option InFlight}
    (h : s.allowWrite cl ctx a n all acq by_ = some t) : t.standing = s.standing := by
  unfold State.allowWrite at h
  split at h
  · cases h
  · exact recall_standing h

theorem foldl_allowWrite_standing (l : List (Nat × Nat)) {o : Option State} {s t : State} (ho : ∀ u, o = some u → u.standing = s.standing)
    (h : l.foldl (fun o p => o.bind (fun u => u.allowWrite hubParty 256 p.1 p.2 false)) o = some t) : t.standing = s.standing := by
  induction l generalizing o with
  | nil => exact ho t h
  | cons p l ih =>
    refine ih (fun v hv => ?_) h
    obtain ⟨u, hu, allowed⟩ := Option.bind_eq_some_iff.1 hv
    exact (allowWrite_standing allowed).trans (ho u hu)

theorem allowRange_standing {s t : State} {a n : Nat} (h : s.allowRange a n = some t) : t.standing = s.standing :=
  foldl_allowWrite_standing _ (fun u hu => by cases hu; rfl) h

@[simp] theorem wantRange_standing (a n : Nat) : (s.wantRange a n).standing = s.standing :=
  foldl_standing (fun t _ => wantPt_standing t _) _ s

@[simp] theorem endPause_standing (n : Nat) : (s.endPause n).standing = s.standing := by
  simp only [State.endPause]
  split <;> simp

@[simp] theorem evalPause_standing (n : Nat) : (s.evalPause n).standing = s.standing := by
  simp only [State.evalPause]
  split
  · rfl
  · split
    · split <;> simp
    · split
      · split <;> simp
      · rfl

@[simp] theorem pfcTick_standing (i : Nat) : (s.pfcTick i).standing = s.standing := by
  unfold State.pfcTick
  split
  · rfl
  · cases allowed : s.allowRange (s.stream i).state 64 with
    | none => simp
    | some t => simpa using allowRange_standing allowed

@[simp] theorem pfcRepeat_standing (i : Nat) : (s.pfcRepeat i).standing = s.standing := by
  simp only [State.pfcRepeat]
  split <;> simp

@[simp] theorem tickStreams_standing : s.tickStreams.standing = s.standing :=
  foldl_standing (fun t _ => (pfcRepeat_standing _ _).trans (pfcTick_standing t _)) _ s

end
end Sys2Proof.Machine

namespace Sys2Proof.Machine

/-! ### Sample words (R82 to R85, R106 to R109, R308) -/

/-- Settles O23: each word is closed, and the decoder computes what it stands for. -/
theorem sampleWordsDecode : Obligations.SampleWordsDecode := by
  unfold Obligations.SampleWordsDecode
  refine ⟨?_, ?_, ?_, ?_, ?_, ?_, ?_, ?_, ?_, ?_, ?_, ?_⟩ <;> decide

/-! ### The end of a cycle and a tick (R17, R424) -/

@[simp] theorem endCycle_standing (s : State) : s.endCycle.standing = { s.standing with cycle := false } := by
  unfold State.endCycle
  split
  · exact payOwed_standing _
  · next closed => simp [State.standing, Bool.not_eq_true _ ▸ closed]

@[simp] theorem sysIrq_standing (s : State) : s.sysIrq.standing = s.standing := by
  unfold State.sysIrq
  split <;> simp

theorem writeArm_lateClaim (h : Hub) (p v : Nat) : (h.writeArm p v).lateClaim = h.lateClaim := by
  unfold Hub.writeArm Hub.setArm
  split
  · split <;> rfl
  · rfl

@[simp] theorem lease_lateClaim (h : Hub) (p v : Nat) : (h.lease p v).lateClaim = h.lateClaim := writeArm_lateClaim _ p v

theorem claim_standing (s : State) (p v : Nat) :
    (s.claim p v).standing = { s.standing with holder := p, epoch := (s.hub.epoch + 1) % 256 } := by
  refine (sysIrq_standing _).trans ?_
  simp [State.standing, State.modHub, State.moveCtxs]

/-- Port 1's claim that waited for the end of the cycle, where no one holds the lease by then. -/
theorem closeCycle_standing {s : State} {v : Nat} (late : s.hub.lateClaim = some v) (free : s.hub.holder = 2) :
    s.closeCycle.standing = { s.standing with cycle := false, holder := 1, epoch := (s.hub.epoch + 1) % 256, late := none } := by
  have ended := endCycle_standing s
  have late' : s.endCycle.hub.lateClaim = some v := (congrArg Standing.late ended).trans late
  have free' : s.endCycle.hub.holder = 2 := (congrArg Standing.holder ended).trans free
  simp only [State.closeCycle, late', State.modHub, free', if_true, claim_standing]
  injection ended with focus time cycle _ epoch _
  simp [State.standing, focus, time, cycle, epoch]

theorem tick_hubTime (s : State) : s.tick.hubTime = s.hubTime + 1 := by
  have passed : ∀ t : State, t.fillBuckets.noteIdle.tickStreams.standing = t.standing := fun t => by simp
  exact hubTime_of_standing (passed _)

/-! ### The turns of the agents (R91, R92, R102, R308) -/

section
variable {s : State} {i : Instr} {g k : Nat} {a : Act} {e : QEntry}

theorem issueTurn_of_atHead {q : Nat} (h : Claims.AtHead s g k q a e) (decodes : decodeEntry e.word e.pfx = .ok i) :
    issueTurn g k q s = exec i (s.focusOn g k e) := by
  obtain ⟨here, stays, loaded, ⟨r, head⟩, calm, fresh, ahead, free⟩ := h
  simp [issueTurn, here, stays, loaded, head, calm, fresh, ahead, free, decodes]

theorem frontTurn_of_holds (here : s.act g k = some a) (stays : s.mustLeave g a = false) (front : a.front = some e)
    (can : s.frontCan g k a = true) (decodes : decode e.word = .ok i) : frontTurn g k s = exec i (s.focusOn g k e) := by
  simp [frontTurn, here, stays, front, can, decodes]

theorem hartTurn_of_fetches {h lo hi : Nat} {t v : State} (runs : (s.hart h).run = .run) (awake : (s.cluster (h / 4)).gated = false)
    (low : s.fetchHalf h (s.hart h).pc = .ok lo t) (wide : lo % 4 = 3)
    (high : t.fetchHalf h (((s.hart h).pc + 2) % 2 ^ 64) = .ok hi v)
    (decodes : decodeSedge (BitVec.ofNat 32 (lo + 65536 * hi)) = some i) :
    hartTurn h s = exec i { v with focus := { v.focus with hart := h } } := by
  simp only [hartTurn, runs, awake, low, wide, high, decodes]
  simp

theorem step_of_agenda {u : Turn} {r : List Turn} (next : s.agenda = u :: r) : step s = turn u { s with agenda := r } := by
  simp [step, State.advanceOne, next]

theorem step_of_no_turn (none : s.agenda = []) : step s = .next s.tick := by
  simp [step, State.advanceOne, none]

end

/-- Settles O24: each turn of the agenda, through the equation of its agent's turn. -/
theorem aStepRunsTheDecodedInstruction : Obligations.AStepRunsTheDecodedInstruction := by
  intro s i r
  refine ⟨fun next => ?event, fun g k q a e next head decodes => ?issue, fun g k a e next here stays front can decodes => ?front,
    fun h lo hi t v next runs awake low wide high decodes => ?hart, fun row x a next => ?badUse, fun j next => ?abort,
    fun next => ?opens, fun v next late free => ?closes, fun next => ?tick⟩
  case event => exact step_of_agenda next
  case issue => exact (step_of_agenda next).trans (issueTurn_of_atHead head decodes)
  case front => exact (step_of_agenda next).trans (frontTurn_of_holds here stays front can decodes)
  case hart => exact (step_of_agenda next).trans (hartTurn_of_fetches runs awake low wide high decodes)
  case badUse => exact step_of_agenda next
  case abort => exact step_of_agenda next
  case opens => exact step_of_agenda next
  case closes =>
    have ended := closeCycle_standing (s := { s with agenda := r }) late free
    exact ⟨_, step_of_agenda next, congrArg Standing.cycle ended, congrArg Standing.holder ended, congrArg Standing.epoch ended⟩
  case tick => exact ⟨_, step_of_no_turn next, tick_hubTime s⟩

end Sys2Proof.Machine

namespace Sys2Proof.Machine

/-! ### Global loads set out (R95, R188, R191) -/

theorem alignOk_iff (f a : Nat) : alignOk f a = true ↔ a % fmtAlign f = 0 := by
  unfold alignOk fmtAlign
  split
  · next narrow => simp [narrow, Nat.mod_one]
  · next wide => simp [wide]

theorem loadTicket_standing (s : State) (f : MForm) (a : Act) (const : Bool) (tg : Target) :
    (Claims.loadTicket s f a const tg).2.standing = s.standing := by
  unfold Claims.loadTicket
  split <;> simp

/-- A word that is not done yet: its pops are made, and it stays at the head of its queue. -/
theorem issue_later {q : Nat} {h : Hdr} {s t : State} {a b : Act} {body : State → Act → Res} (r : Ready q h s a)
    (hb : body s a = .later (t.setCur b)) : issue q h body s = .next (t.setCur ((b.pops q h).progress)) := by
  rw [issue_ready r, hb]
  simp only [modCur_eq _ (cur_setCur t b), setCur_setCur]

/-- The policy of a load (R191), as the field of MOD that it is. -/
theorem policy_eq {w : Nat} (m : BitVec w) : fieldOf m.toNat 3 2 = (m.extractLsb' 2 2).toNat := by
  simp [fieldOf, BitVec.extractLsb'_toNat, Nat.shiftRight_eq_div_pow]

section
variable {h : Hdr} {f : MForm} {const : Bool} {s t : State} {a : Act}

theorem exec_load : exec (if const then .ldc h f else .ldg h f) s = startLoad h f const s := by
  cases const <;> rfl

theorem startLoad_misaligned (r : Ready 0 h s a) (odd : memAddr f a % fmtAlign f.fmt.toNat ≠ 0) :
    startLoad h f const s = .next (s.raiseCur 10 (memAddr f a) (memAddr f a) 0 0) := by
  have fails : alignOk f.fmt.toNat (memAddr f a) = false := Bool.eq_false_iff.2 (mt (alignOk_iff _ _).1 odd)
  refine issue_raises r ?_
  simp only [fails]
  rfl

theorem startLoad_untranslated {x : XFault} (r : Ready 0 h s a) (even : memAddr f a % fmtAlign f.fmt.toNat = 0)
    (bad : s.translate a.ctx .r (memAddr f a) (fmtBytes f.fmt.toNat) s.via = (.bad x, t)) :
    startLoad h f const s = .next (t.raiseCur x.code (if x.code = 15 then x.info else memAddr f a) (memAddr f a) x.reason x.share) := by
  refine issue_raises r ?_
  simp only [(alignOk_iff _ _).2 even, bad]
  rfl

theorem startLoad_sets_out {tg : Target} {u : List Nat} (r : Ready 0 h s a) (even : memAddr f a % fmtAlign f.fmt.toNat = 0)
    (ok : s.translate a.ctx .r (memAddr f a) (fmtBytes f.fmt.toNat) s.via = (.ok tg u, t)) :
    startLoad h f const s = .next ((Claims.loadTicket t f a const tg).2.setCur
      (({ a with uses := u ++ a.uses, loads := a.loads ++ [Claims.loadOf s a h f const tg (Claims.loadTicket t f a const tg).1] }.pops
        0 h).progress)) := by
  have translated : t.standing = s.standing := by simpa [ok] using translate_standing s a.ctx .r (memAddr f a) (fmtBytes f.fmt.toNat) s.via
  have now : (Claims.loadTicket t f a const tg).2.hubTime = s.hubTime :=
    hubTime_of_standing ((loadTicket_standing t f a const tg).trans translated)
  have load : Claims.loadOf s a h f const tg (Claims.loadTicket t f a const tg).1 =
      { pc := s.focus.pc, n := s.focus.n, reg := f.d.toNat, fmt := f.fmt.toNat, hi := memHi f, va := memAddr f a, tgt := tg,
        const := const, policy := if const then 0 else fieldOf f.mode.toNat 3 2, pushu := h.pushu, pushd := h.pushd,
        alloc := !const && !bitOf f.mode.toNat 4, since := (Claims.loadTicket t f a const tg).2.hubTime,
        ticket := (Claims.loadTicket t f a const tg).1 } := by
    simp only [Claims.loadOf, memHi, policy_eq, now, bitOf_eq_testBit, BitVec.testBit_toNat]
  refine issue_later r ?_
  simp only [(alignOk_iff _ _).2 even, ok, load]
  rfl

end

/-- Settles O9: LDG and LDC are one course, by its check of the address and its translation. -/
theorem globalLoadsSetOut : Obligations.GlobalLoadsSetOut := by
  intro h f s a const r
  simp only [exec_load]
  exact ⟨startLoad_misaligned r, fun even _ _ _ ok => startLoad_sets_out r even ok, fun even _ _ bad => startLoad_untranslated r even bad⟩

end Sys2Proof.Machine

namespace Sys2Proof.Machine

/-! ### Scratchpad words (R97, R186, R187 to R192) -/

/-! #### What a read sees of the writes that cross it (R163, R186) -/

theorem Sparse.find_of_mem {α : Type} {lo k : Nat} {v : α} {m : Sparse α} (h : Sparse.sortedFrom lo m = true) (hm : (k, v) ∈ m) :
    lo ≤ k ∧ m.find k = some v := by
  induction m generalizing lo with
  | nil => cases hm
  | cons e m ih =>
    obtain ⟨j, u⟩ := e
    simp only [Sparse.sortedFrom, Bool.and_eq_true, decide_eq_true_eq] at h
    obtain ⟨hj, hs⟩ := h
    obtain first | later := List.mem_cons.1 hm
    · cases first
      exact ⟨hj, by simp [Sparse.find]⟩
    · obtain ⟨hk, found⟩ := ih hs later
      refine ⟨by omega, ?_⟩
      rw [Sparse.find, if_neg (by omega), if_neg (by omega), found]

theorem get_of_mem {m : Sparse Byte} (h : m.sorted = true) {e : Nat × Byte} (he : e ∈ m) : m.get 0 e.1 = e.2 := by
  simp [Sparse.get, (Sparse.find_of_mem h he).2]

/-- A scratchpad does not differ from itself. -/
theorem spadDiff_self {m : Sparse Byte} (h : m.canonical 0 = true) : spadDiff m m = [] := by
  obtain ⟨sorted, listed⟩ := Bool.and_eq_true_iff.1 h
  have same : ∀ e ∈ m, m.get 0 e.1 = e.2 := fun e he => get_of_mem sorted he
  have nonzero : ∀ e ∈ m, e.2 ≠ 0 := fun e he => of_decide_eq_true (List.all_eq_true.1 listed e he)
  have kept : m.filter (fun e => m.get 0 e.1 != e.2) = [] := List.filter_eq_nil_iff.2 fun e he => by
    rw [same e he]; simp
  have fresh : m.filter (fun e => m.get 0 e.1 == 0) = [] := List.filter_eq_nil_iff.2 fun e he => by
    rw [same e he]; simpa using nonzero e he
  rw [spadDiff, kept, fresh, List.map_nil, List.append_nil]

/-- Each byte of the scratchpad `m'` is one that a read may see over `m`. -/
structure Reads.Shows (R : Reads) (m m' : Sparse Byte) : Prop where
  sorted : m'.sorted = true
  seen : ∀ x, Claims.seenAt R m x (m'.get 0 x)

section
variable {R : Reads} {m m' : Sparse Byte}

theorem Reads.shows_self (h : m.sorted = true) : R.Shows m m := ⟨h, fun _ => .inl rfl⟩

/-- The bytes from before or after a crossing write come in its place. -/
theorem Reads.Shows.putBytes (h : R.Shows m m') {c : Cell × Bool} (hc : c ∈ R.cross) {bs : List Byte} (hb : bs = c.1.old ∨ bs = c.1.new) :
    R.Shows m (putBytes m' c.1.at_ bs) := by
  refine ⟨sorted_putBytes h.sorted _ _, fun x => ?_⟩
  by_cases inside : c.1.at_ ≤ x ∧ x < c.1.at_ + bs.length
  · obtain ⟨j, rfl⟩ := Nat.exists_eq_add_of_le inside.1
    have short : j < bs.length := by omega
    rw [get_putBytes_same h.sorted _ _ short]
    exact .inr ⟨c, j, hc, rfl, hb.imp (fun e => by simp [← e, short]) (fun e => by simp [← e, short])⟩
  · rw [get_putBytes_other h.sorted _ _ (by omega)]
    exact h.seen x

theorem Reads.shows_without (h : m.sorted = true) (d : Nat) : R.Shows m (R.without d m) := by
  have before : ∀ (l : List (Cell × Bool)) (m' : Sparse Byte), (∀ c ∈ l, c ∈ R.cross) → R.Shows m m' →
      R.Shows m (l.foldl (fun m e => Machine.putBytes m e.1.at_ e.1.old) m') := by
    intro l
    induction l with
    | nil => exact fun m' _ shown => shown
    | cons c l ih =>
      intro m' hl shown
      exact ih _ (fun c' hc' => hl c' (List.mem_cons_of_mem _ hc')) (shown.putBytes (hl c List.mem_cons_self) (.inl rfl))
  have after : ∀ (l : List ((Cell × Bool) × Nat)) (m' : Sparse Byte), (∀ e ∈ l, e.1 ∈ R.cross) → R.Shows m m' →
      R.Shows m (l.foldr (fun e m => if e.1.2 && bitOf d e.2 then m else Machine.putBytes m e.1.1.at_ e.1.1.new) m') := by
    intro l
    induction l with
    | nil => exact fun m' _ shown => shown
    | cons e l ih =>
      intro m' hl shown
      have rest := ih m' (fun e' he' => hl e' (List.mem_cons_of_mem _ he')) shown
      rw [List.foldr_cons]
      split
      · exact rest
      · exact rest.putBytes (hl e List.mem_cons_self) (.inr rfl)
  exact after _ _ (fun e he => (List.mem_zipIdx' he).2 ▸ List.getElem_mem _) (before _ _ (fun _ hc => hc) (Reads.shows_self h))

/-- An access that has written nothing sees the scratchpad, or it before some of the crossing writes. -/
theorem Reads.see_self (h : m.canonical 0 = true) (k : Nat) :
    R.see m m k = m ∨ R.cross ≠ [] ∧ ∃ d, R.see m m k = R.without d m := by
  simp only [Reads.see, spadDiff_self h, List.foldl_nil, ite_self]
  split
  · exact .inl rfl
  · next crossed => exact .inr ⟨by simpa using crossed, _, rfl⟩

theorem Reads.shows_see (h : m.canonical 0 = true) (k : Nat) : R.Shows m (R.see m m k) := by
  have sorted : m.sorted = true := (Bool.and_eq_true_iff.1 h).1
  obtain same | ⟨-, d, without⟩ := Reads.see_self (R := R) h k
  · rw [same]; exact Reads.shows_self sorted
  · rw [without]; exact Reads.shows_without sorted d

theorem Reads.see_uncrossed (h : m.canonical 0 = true) (none : R.cross = []) (k : Nat) : R.see m m k = m := by
  obtain same | ⟨crossed, -⟩ := Reads.see_self (R := R) h k
  · exact same
  · exact absurd none crossed

end

theorem bytesAt_getD {n i : Nat} (m : Sparse Byte) (a : Nat) (hi : i < n) : (bytesAt m a n).getD i 0 = m.get 0 (a + i) := by
  induction n generalizing a i with
  | zero => omega
  | succ n ih =>
    cases i with
    | zero => rfl
    | succ i => simpa [bytesAt, Nat.add_assoc, Nat.add_comm 1 i] using ih (a + 1) (Nat.lt_of_succ_lt_succ hi)
/-! #### The checks of an address (R187, R188, R220) -/

section
variable {h : Hdr} {f : MForm} {o : Cvt} {s : State} {a : Act}

theorem exec_ld : exec (.ld h f) s = execLd h f s := rfl
theorem exec_st : exec (.st h f o) s = execSt h f o s := rfl

theorem checkSpad_misaligned {ad n align : Nat} {k : Res} (odd : ad % align ≠ 0) : checkSpad s ad n align k = .fail s 10 ad := if_pos odd

theorem checkSpad_outside {ad n align : Nat} {k : Res} (even : ad % align = 0) (past : 0x18000 < ad + n) :
    checkSpad s ad n align k = .fail s 11 ad := (if_neg (not_not.2 even)).trans (if_pos past)

theorem checkSpad_passes {ad n align : Nat} {k : Res} (ok : Claims.spadOk ad n align = true) : checkSpad s ad n align k = k := by
  obtain ⟨even, inside⟩ := Bool.and_eq_true_iff.1 ok
  exact (if_neg (not_not.2 (eq_of_beq even))).trans (if_neg (Nat.not_lt.2 (of_decide_eq_true inside)))

theorem scratchpadChecksRaise : Claims.ScratchpadChecksRaise := by
  intro h f o s a r
  simp only [exec_ld, exec_st, execLd, execSt]
  refine ⟨fun odd => ⟨?_, ?_⟩, fun even past => ⟨?_, ?_⟩⟩
  · exact issue_raises r (checkSpad_misaligned odd)
  · exact issue_raises r (checkSpad_misaligned odd)
  · exact issue_raises r (checkSpad_outside even past)
  · exact issue_raises r (checkSpad_outside even past)

/-! #### LD and ST (R190 to R192) -/

theorem memHi_eq : memHi f = f.mode.getLsbD 0 := by
  rw [memHi, bitOf_eq_testBit, BitVec.testBit_toNat]

theorem scratchpadLoadReadsItsElement : Claims.ScratchpadLoadReadsItsElement := by
  intro h f s a r canonical n ad ok
  refine ⟨bytesAt ((s.reads a 0).1.see s.spad s.spad 0) ad n, bytesAt_length _ _ _, ?_, fun uncrossed => ?_, fun i hi => ?_⟩
  · simp only [exec_ld, execLd, ← memHi_eq]
    exact issue_put (t := Claims.drawn s) r (checkSpad_passes ok) rfl rfl (Act.wn_faults ..) (Act.wn_tc ..) (Act.wn_ts ..) (Act.wn_ta ..)
  · rw [Reads.see_uncrossed canonical uncrossed]
  · rw [bytesAt_getD _ _ hi]
    exact (Reads.shows_see canonical 0).seen _

/-- One element that no write crosses. -/
theorem setSpad_spad (s : State) (p : Put) : (s.setSpad [p]).spad = p.act s.spad := by
  simp [State.setSpad, State.putSpad, State.spad, State.modEng, Put.under]

theorem setSpad_cur (s : State) (l : List Put) : (s.setSpad l).cur = s.cur := by
  simp [State.setSpad, State.putSpad, State.cur, State.act, State.modEng, Engine.act, Engine.slot]

section
variable {m : Sparse Byte} (hm : m.canonical 0 = true) (F : Nat) (hi : Bool) (x code : Nat)

theorem spadStore_nibble (nibble : fmtWidth F = 4) :
    spadStore m F hi x code = m.put 0 x (setNibble (m.get 0 x) (BitVec.ofNat 8 code) hi) := if_pos nibble

theorem spadStore_bytes (whole : fmtWidth F ≠ 4) : spadStore m F hi x code = putBytes m x (codeBytes F code) := if_neg whole

@[simp] theorem codeBytes_length : (codeBytes F code).length = fmtBytes F := toLE_length _ _

theorem fmtBytes_pos : 0 < fmtBytes F := Nat.le_max_left _ _

include hm

theorem canonical_spadStore : (spadStore m F hi x code).canonical 0 = true := by
  by_cases nibble : fmtWidth F = 4
  · exact spadStore_nibble F hi x code nibble ▸ Sparse.canonical_put hm _ _
  · exact spadStore_bytes F hi x code nibble ▸ canonical_putBytes hm _ _

theorem get_spadStore_other {y : Nat} (hy : y < x ∨ x + fmtBytes F ≤ y) : (spadStore m F hi x code).get 0 y = m.get 0 y := by
  have sorted : m.sorted = true := (Bool.and_eq_true_iff.1 hm).1
  have wide := fmtBytes_pos F
  by_cases nibble : fmtWidth F = 4
  · rw [spadStore_nibble F hi x code nibble]
    exact Sparse.get_put_other sorted _ (by omega)
  · rw [spadStore_bytes F hi x code nibble]
    exact get_putBytes_other sorted _ _ (by simpa using hy)

theorem bytesAt_spadStore (whole : fmtWidth F ≠ 4) : bytesAt (spadStore m F hi x code) x (fmtBytes F) = codeBytes F code := by
  rw [spadStore_bytes F hi x code whole]
  simpa using bytesAt_putBytes (Bool.and_eq_true_iff.1 hm).1 x (codeBytes F code)

theorem get_spadStore_nibble (nibble : fmtWidth F = 4) :
    (spadStore m F hi x code).get 0 x = setNibble (m.get 0 x) (BitVec.ofNat 8 code) hi := by
  rw [spadStore_nibble F hi x code nibble]
  exact Sparse.get_put_same (Bool.and_eq_true_iff.1 hm).1 x _

end

theorem scratchpadStoreWritesItsElement : Claims.ScratchpadStoreWritesItsElement := by
  intro h f o s a r canonical ok
  refine ⟨[spadPut f.fmt.toNat (f.mode.getLsbD 0) (memAddr f a) (storeCode f.fmt.toNat o.rm.toNat o.sat (a.ug f.d.toNat))], ?_, ?_⟩
  · simp only [exec_st, execSt, memHi_eq]
    exact issue_keep r (checkSpad_passes ok) ((setSpad_cur _ _).trans r.runs) rfl rfl
  · simp only [setSpad_spad]
    exact ⟨fun _ outside => get_spadStore_other canonical _ _ _ _ outside, bytesAt_spadStore canonical _ _ _ _,
      get_spadStore_nibble canonical _ _ _ _, canonical_spadStore canonical _ _ _ _⟩

end

/-- Settles O33: the checks of an address, then the load and the store of an element. -/
theorem scratchpadWordsCheckLoadAndStore : Obligations.ScratchpadWordsCheckLoadAndStore :=
  ⟨scratchpadChecksRaise, scratchpadLoadReadsItsElement, scratchpadStoreWritesItsElement⟩

end Sys2Proof.Machine

namespace Sys2Proof.Machine

/-! ### Loads return (R95, R191, R193, R194, R365, R386) -/

/-! #### What a recall leaves: the effects on their way, and every activation -/

/-- The effects on their way, and the activations. -/
def State.works (s : State) : List InFlight × (Nat → Nat → Option Act) := (s.inflight, s.act)

theorem inflight_of_works {s t : State} (h : t.works = s.works) : t.inflight = s.inflight := congrArg Prod.fst h
theorem act_of_works {s t : State} (h : t.works = s.works) (g k : Nat) : t.act g k = s.act g k :=
  congrFun (congrFun (congrArg Prod.snd h) g) k

theorem ite_works {c : Prop} [Decidable c] {s t u : State} (ht : t.works = s.works) (hu : u.works = s.works) :
    (if c then t else u).works = s.works := by
  split <;> assumption

theorem Sparse.find_map {α : Type} {f : Nat × α → Nat × α} (key : ∀ e, (f e).1 = e.1) (m : Sparse α) (k : Nat) :
    Sparse.find (m.map f) k = (m.find k).map (fun v => (f (k, v)).2) := by
  induction m with
  | nil => rfl
  | cons e m ih =>
    obtain ⟨j, v⟩ := e
    have split : f (j, v) = (j, (f (j, v)).2) := Prod.ext (key _) rfl
    rw [List.map_cons, split]
    simp only [Sparse.find, ih]
    split_ifs with same
    · subst same; rfl
    · rfl
    · rfl

/-- Engines that change, each by itself, but for their slots. -/
theorem act_of_map {s t : State} {f : Nat × Engine → Nat × Engine} (key : ∀ e, (f e).1 = e.1) (slots : ∀ e, (f e).2.slots = e.2.slots)
    (h : t.engines = s.engines.map f) (g k : Nat) : t.act g k = s.act g k := by
  have found : (t.eng g).slots = (s.eng g).slots := by
    rw [State.eng, State.eng, Sparse.get, Sparse.get, h, Sparse.find_map key]
    cases s.engines.find g with
    | none => rfl
    | some E => exact slots (g, E)
  simp only [State.act, Engine.act, Engine.slot, found]

theorem dropCopies_works (s : State) (cl : Nat) (l : List Span) : (s.dropCopies cl l).works = s.works := by
  have act : (s.dropCopies cl l).act = s.act := by
    funext g k
    exact act_of_map (fun e => by split <;> rfl) (fun e => by split <;> rfl) rfl g k
  exact congrArg (Prod.mk s.inflight) act

theorem bumpGen_works (s : State) (l : List (Nat × Nat)) : (s.bumpGen l).works = s.works := by
  induction l generalizing s with
  | nil => rfl
  | cons e l ih => exact ih _

theorem advance_works (s : State) (l : List Nat) : (s.advance l).works = s.works := bumpGen_works _ _

theorem recallFrom_works (s : State) (sg : Nat) (l : List (Bool × Tenure)) : (s.recallFrom sg l).works = s.works := by
  induction l with
  | nil => rfl
  | cons e l ih =>
    obtain ⟨hit, t⟩ := e
    simp only [State.recallFrom]
    split
    · exact ((dropCopies_works _ _ _).trans (advance_works _ _)).trans ih
    · exact ih

theorem coverRecall_works (s : State) (sg : Nat) (l : List Tenure) : (s.coverRecall sg l).works = s.works := by
  simp only [State.coverRecall]
  split <;> rfl

theorem acquire_works (s : State) (cl ctx gr : Nat) (w : Bool) : (s.acquire cl ctx gr w).works = s.works := by
  simp only [State.acquire]
  split
  · rfl
  · split
    · split <;> rfl
    · rfl

theorem recall_works {s t : State} {cl ctx a n : Nat} {write all acq : Bool} {by_ : Option InFlight}
    (h : s.recall cl ctx a n write all acq by_ = some t) : t.works = s.works := by
  simp only [State.recall] at h
  split at h
  · cases h
  · split at h
    · cases h
    · cases h
      have recalled : ∀ sg l m, ((s.recallFrom sg l).coverRecall sg m).works = s.works :=
        fun sg l m => (coverRecall_works _ _ _).trans (recallFrom_works _ _ _)
      refine ite_works ((acquire_works _ _ _ _ _).trans ?_) ?_ <;>
        exact ite_works (ite_works (recalled _ _ _) rfl) (ite_works (recalled _ _ _) rfl)

/-! #### The register and the queue of a load (R95) -/

/-- A load that returns outside a cycle in progress, whose pushes do not overflow. -/
theorem finishLoad_calm {s : State} {g k i : Nat} {a b : Act} {l : Load} {bs : List Byte} (here : s.act g k = some a)
    (apart : s.sameCycle = false) (calm : a.faults = [])
    (hb : b = (({ a with loads := dropAt a.loads i }).wn l.reg (toRegister l.fmt (elemCode l.fmt l.hi bs))).leave 0 l.n)
    (fits : (b.pushes 0 l.pushu l.pushd).2 = true) : s.finishLoad g k i l bs = s.setAct g k (b.pushes 0 l.pushu l.pushd).1 := by
  have pushed : b.pushes 0 l.pushu l.pushd = ((b.pushes 0 l.pushu l.pushd).1, true) := Prod.ext rfl fits
  simp only [State.finishLoad, here, State.finish, apart, Bool.false_and, Bool.false_eq_true, if_false, State.complete, ← hb]
  rw [pushed]
  exact settle_calm _ (state_act_setAct s g k _) (by simp [hb, calm])

/-! #### LOAD_RETURN, by its cases -/

section
variable {s : State} {g k i : Nat} {a : Act} {l : Load} {party : Bool} {code data : Nat}

theorem exec_loadReturn : exec (.loadReturn g k i party code data) s = execLoadReturn g k i party code data s := rfl

/-- No cached line answers. -/
theorem constRead_uncached (uncached : l.const = false ∨ ∀ x, (s.eng g).ccache.find (l.va / 128) ≠ some x) :
    (if l.const then s.constRead g (l.va / 128) else (none, s)) = (none, s) := by
  obtain data | missing := uncached
  · rw [data]; rfl
  · have none : (s.eng g).ccache.find (l.va / 128) = none := Option.eq_none_iff_forall_ne_some.2 missing
    simp [State.constRead, none]

variable (here : s.act g k = some a) (sent : s.sentLoad a i = some l) (plain : s.viewLoad l = false)
include here sent plain

theorem loadReturn_cached {line : List Byte} {t : State} (const : l.const = true)
    (found : s.constRead g (l.va / 128) = (some line, t)) :
    exec (.loadReturn g k i party code data) s = .next (t.finishLoad g k i l ((line.drop (l.va % 128)).take l.size)) := by
  simp only [exec_loadReturn, execLoadReturn, here, sent, plain, const, found, Bool.false_eq_true, if_false, if_true]

variable (uncached : l.const = false ∨ ∀ x, (s.eng g).ccache.find (l.va / 128) ≠ some x)
include uncached

theorem loadReturn_unrouted {info : Nat} (route : s.routeFault a.ctx (g / 16) (g % 16) l.tgt = some info) :
    exec (.loadReturn g k i party code data) s = .next ((s.hopFault info).failLoad g k i l 15 info l.va 0) := by
  simp only [exec_loadReturn, execLoadReturn, here, sent, plain, constRead_uncached uncached, route, Bool.false_eq_true, if_false]

variable (route : s.routeFault a.ctx (g / 16) (g % 16) l.tgt = none)
include route

theorem loadReturn_answered {d o : Nat} (port : s.rePort l.va l.tgt l.port = .remote d o) (done : remoteCode (code % 32) = 0) :
    exec (.loadReturn g k i party code data) s = .next (s.finishLoad g k i l (toLE l.size data)) := by
  simp only [exec_loadReturn, execLoadReturn, here, sent, plain, constRead_uncached uncached, route, port, done, Bool.false_eq_true,
    if_false, if_true]

theorem loadReturn_refused {d o : Nat} (port : s.rePort l.va l.tgt l.port = .remote d o) (fails : remoteCode (code % 32) ≠ 0) :
    exec (.loadReturn g k i party code data) s = .next (s.failLoad g k i l (remoteCode (code % 32)) (s.remoteInfo a.ctx l.tgt code l.va)
      l.va (remoteReason code) (remoteShare code)) := by
  simp only [exec_loadReturn, execLoadReturn, here, sent, plain, constRead_uncached uncached, route, port, fails, Bool.false_eq_true,
    if_false]

variable {p key : Nat} (port : s.rePort l.va l.tgt l.port = .dpa p key)
include port

theorem loadReturn_hostGone (gone : s.hostGone p = true) :
    exec (.loadReturn g k i party code data) s = .next (s.failLoad g k i l 18 l.va l.va 0) := by
  simp only [exec_loadReturn, execLoadReturn, here, sent, plain, constRead_uncached uncached, route, port, gone, Bool.false_eq_true,
    if_false, if_true]

variable (there : s.hostGone p = false) {v : State} (hv : (if party then s.seenNow (engineSeer g a.ctx) p l.size else s) = v)
  {lo n : Nat} (run : (if l.const then (p / 128 * 128, 128) else (p, l.size)) = (lo, n))
include there hv run

theorem loadReturn_held (held : v.heldFrom (engineSeer g a.ctx) lo n = true) :
    exec (.loadReturn g k i party code data) s = .next v := by
  simp only [exec_loadReturn, execLoadReturn, here, sent, plain, constRead_uncached uncached, route, port, there, hv, run, held,
    Bool.false_eq_true, if_false, if_true]

variable (free : v.heldFrom (engineSeer g a.ctx) lo n = false)
include free

theorem loadReturn_findsBad {t : State} (bad : v.findsBad lo n 1 a.ctx = some t) :
    exec (.loadReturn g k i party code data) s = .next t := by
  simp only [exec_loadReturn, execLoadReturn, here, sent, plain, constRead_uncached uncached, route, port, there, hv, run, free, bad,
    Bool.false_eq_true, if_false]

variable (good : v.findsBad lo n 1 a.ctx = none)
include good

theorem loadReturn_waits (waits : v.recall (g / 16) a.ctx lo n false false = none) :
    exec (.loadReturn g k i party code data) s = .next v := by
  simp only [exec_loadReturn, execLoadReturn, here, sent, plain, constRead_uncached uncached, route, port, there, hv, run, free, good,
    waits, Bool.false_eq_true, if_false]

variable {t : State} (recalled : v.recall (g / 16) a.ctx lo n false false = some t)
include recalled

theorem loadReturn_reads : let r := t.observe (engineSeer g a.ctx) lo n key
    exec (.loadReturn g k i party code data) s =
      if l.const then .next ((r.2.cacheConst g (l.va / 128) r.1).finishLoad g k i l ((r.1.drop (l.va % 128)).take l.size))
      else .next ((if l.alloc then r.2.cacheData g (p / 128) else r.2).finishLoad g k i l r.1) := by
  simp only [exec_loadReturn, execLoadReturn, here, sent, plain, constRead_uncached uncached, route, port, there, hv, run, free, good,
    recalled, Bool.false_eq_true, if_false]

end

theorem loadsReturn : Claims.LoadsReturn := by
  intro s g k i a l party code data here sent plain
  refine ⟨fun line t const found => loadReturn_cached here sent plain const found, fun uncached => ⟨fun info route => ?unrouted,
    fun route => ⟨fun d o port => ⟨fun done => ?answered, fun fails => ?refused⟩, fun p key port => ⟨fun gone => ?gone, fun there =>
      ⟨fun held => ?held, fun t free bad => ?bad, fun free good => ⟨fun waits => ?waits, fun t recalled => ⟨fun const => ?const,
        fun const => ?data⟩⟩⟩⟩⟩⟩, fun bs apart calm b hb fits => ?finishes⟩
  case unrouted => exact loadReturn_unrouted here sent plain uncached route
  case answered => exact loadReturn_answered here sent plain uncached route port done
  case refused => exact loadReturn_refused here sent plain uncached route port fails
  case gone => exact loadReturn_hostGone here sent plain uncached route port gone
  case finishes => exact finishLoad_calm here apart calm hb fits
  all_goals
    have run : (if l.const then (p / 128 * 128, 128) else (p, l.size)) =
        (if l.const then p / 128 * 128 else p, if l.const then 128 else l.size) := by
      split <;> rfl
  case held => exact loadReturn_held here sent plain uncached route port there rfl run held
  case bad => exact loadReturn_findsBad here sent plain uncached route port there rfl run free bad
  case waits => exact loadReturn_waits here sent plain uncached route port there rfl run free good waits
  case const => exact (loadReturn_reads here sent plain uncached route port there rfl run free good recalled).trans (if_pos const)
  case data =>
    exact (loadReturn_reads here sent plain uncached route port there rfl run free good recalled).trans
      (if_neg (Bool.not_eq_true _ ▸ const))

theorem pushes_none (b : Act) (q : Nat) : b.pushes q false false = (b, true) := rfl

theorem completeFor_of_quiet {s : State} (quiet : s.inflight = []) (p : InFlight → Bool) (mask : Nat) : s.completeFor p mask = s := by
  cases s
  cases quiet
  rfl

theorem rePort_of_window0 {s : State} {va : Nat} (window : va / 2 ^ 48 = 0) (t : Target) (port : Option Nat) :
    s.rePort va t port = t := by
  cases t with
  | dpa a key => exact if_neg (by omega)
  | remote d o => rfl

theorem plainLoadsReadTheirBytes : Claims.PlainLoadsReadTheirBytes := by
  intro s g k i p a l party code data here sent plain bits const alloc tgt va low route quiet t recalled read apart calm up down
  have works := recall_works recalled
  have port : s.rePort l.va l.tgt l.port = .dpa p 0 := (rePort_of_window0 va _ _).trans tgt
  have there : s.hostGone p = false := by simp [State.hostGone]; omega
  have alone : (if party then s.seenNow (engineSeer g a.ctx) p l.size else s) = s := by
    split
    · exact completeFor_of_quiet quiet _ _
    · rfl
  have run : (if l.const then (p / 128 * 128, 128) else (p, l.size)) = (p, l.size) := by simp [const]
  have free : s.heldFrom (engineSeer g a.ctx) p l.size = false := by simp [State.heldFrom, quiet]
  have good : s.findsBad p l.size 1 a.ctx = none := by simp [State.findsBad, bits]
  have observed : t.observe (engineSeer g a.ctx) p l.size 0 = (bytesAt s.mem p l.size, t) := by
    simp [State.observe, read, inflight_of_works works, quiet]
  have finished := finishLoad_calm (l := l) (i := i) (bs := bytesAt s.mem p l.size) ((act_of_works works g k).trans here)
    ((sameCycle_of_standing (recall_standing recalled)).trans apart) calm rfl (by rw [up, down, pushes_none])
  rw [up, down, pushes_none] at finished
  refine (loadReturn_reads here sent plain (.inl const) route port there alone run free good recalled).trans ?_
  rw [if_neg (by simp [const]), observed, alloc]
  exact congrArg Host.Outcome.next finished

/-! ### View reads (R415, R416, R467) -/

theorem viewLoadsAreServed : Claims.ViewLoadsAreServed := by
  intro s g k i p key a l here sent tgt view
  have course : exec (.viewRead g k i) s = execViewRead g k i s := rfl
  have blocks : (s.viewBlocks p l.size).isEmpty = false := by simpa using view
  simp only [course, execViewRead, here, sent, tgt, blocks, Bool.false_eq_true, if_false]
  refine ⟨fun info route => ?_, fun route => ⟨fun pins t served => ?_, fun t served => ?_, fun t served may => ?_, fun t served may => ?_,
    fun info t served => ?_⟩⟩
  · simp only [route]
  · simp only [route, served]
    rfl
  · simp only [route, served]
  · simp only [route, served, may, Bool.false_eq_true, if_false]
  · simp only [route, served, may, if_true]
  · simp only [route, served]

/-- Settles O48: the loads that return, the plain ones among them, and those of views. -/
theorem loadsReturnAndViewsAreServed : Obligations.LoadsReturnAndViewsAreServed :=
  ⟨loadsReturn, plainLoadsReadTheirBytes, viewLoadsAreServed⟩

end Sys2Proof.Machine

namespace Sys2Proof.Machine

/-! ### Integer arithmetic (R127) -/

/-- A scalar word whose effect is to write `v` to register `d` completes with it there. -/
theorem alu_writes {h : Hdr} {s : State} {a : Act} {d : Nat} {v : BitVec 64} {f : Act → Act} (r : Ready 1 h s a)
    (writes : f a = a.wg d v) : alu h s f = .next (s.setCur ((a.wg d v).done 1 h s.focus.n)) := by
  rw [alu_ready r, writes]
  all_goals simp [writes]

/-! #### Saturation -/

theorem satI_64 (v : Int) : satI 64 v = Claims.clampI v := by
  simp [satI, Claims.clampI]

theorem satN_64 (v : Int) : satN 64 v = Claims.clampN v := by
  simp [satN, Claims.clampN]

/-- ADD and SUB: the wrapped result, or the clamped one of the unsigned or of the signed operands. -/
theorem ofInt_addSub {f : XForm} {op : Int → Int → Int} {a : Act} {wrapped : BitVec 64}
    (wraps : BitVec.ofInt 64 (op (a.sg f.a.toNat) (a.sg f.b.toNat)) = wrapped) :
    BitVec.ofInt 64 (addSub f op a) = if !f.sat then wrapped
      else if f.fn.getLsbD 0 then BitVec.ofInt 64 (Claims.clampN (op (a.ug f.a.toNat) (a.ug f.b.toNat)))
      else BitVec.ofInt 64 (Claims.clampI (op (a.sg f.a.toNat) (a.sg f.b.toNat))) := by
  simp only [addSub, bitOf_eq_testBit, BitVec.testBit_toNat, satI_64, satN_64]
  cases f.sat
  · exact wraps
  · cases f.fn.getLsbD 0 <;> rfl

theorem ofInt_satIf {sat : Bool} {v : Int} {wrapped : BitVec 64} (wraps : BitVec.ofInt 64 v = wrapped) :
    BitVec.ofInt 64 (satIf sat v) = if !sat then wrapped else BitVec.ofInt 64 (Claims.clampI v) := by
  cases sat
  · exact wraps
  · exact congrArg _ (satI_64 v)

/-! #### Results of whole words, from the numbers that the words hold -/

section
variable (x y : BitVec 64)

theorem ofInt_toInt_add : BitVec.ofInt 64 (x.toInt + y.toInt) = x + y := by
  rw [BitVec.ofInt_add, BitVec.ofInt_toInt, BitVec.ofInt_toInt]

theorem ofInt_toInt_sub : BitVec.ofInt 64 (x.toInt - y.toInt) = x - y := by
  rw [Int.sub_eq_add_neg, BitVec.ofInt_add, BitVec.ofInt_neg, BitVec.ofInt_toInt, BitVec.ofInt_toInt, BitVec.sub_eq_add_neg]

theorem ofInt_toInt_mul : BitVec.ofInt 64 (x.toInt * y.toInt) = x * y := by
  rw [BitVec.ofInt_mul, BitVec.ofInt_toInt, BitVec.ofInt_toInt]

theorem toInt_signExtend_32 (imm : BitVec 32) : (imm.signExtend 64).toInt = imm.toInt :=
  BitVec.toInt_signExtend_of_le (by decide)

/-- The high word of a product, of a 128-bit word that holds it. -/
theorem extractLsb'_high_ofInt (v : Int) : (BitVec.ofInt 128 v).extractLsb' 64 64 = BitVec.ofInt 64 (v / 2 ^ 64) := by
  apply BitVec.eq_of_toNat_eq
  simp only [BitVec.extractLsb'_toNat, BitVec.toNat_ofInt, Nat.shiftRight_eq_div_pow]
  omega

theorem ofInt_toInt_mul_high :
    BitVec.ofInt 64 (x.toInt * y.toInt / 2 ^ 64) = (x.signExtend 128 * y.signExtend 128).extractLsb' 64 64 := by
  have product : BitVec.ofInt 128 (x.toInt * y.toInt) = x.signExtend 128 * y.signExtend 128 := by
    rw [BitVec.ofInt_mul, ← BitVec.toInt_signExtend_of_le (v := 128) (by decide), BitVec.ofInt_toInt,
      ← BitVec.toInt_signExtend_of_le (v := 128) (by decide), BitVec.ofInt_toInt]
  rw [← product, extractLsb'_high_ofInt]

theorem ofNat_toNat_mul_high :
    BitVec.ofNat 64 (x.toNat * y.toNat / 2 ^ 64) = (x.setWidth 128 * y.setWidth 128).extractLsb' 64 64 := by
  have product : BitVec.ofInt 128 (x.toNat * y.toNat : Nat) = x.setWidth 128 * y.setWidth 128 := by
    rw [BitVec.ofInt_natCast, BitVec.ofNat_mul, BitVec.ofNat_toNat, BitVec.ofNat_toNat]
  rw [← product, extractLsb'_high_ofInt, ← BitVec.ofInt_natCast]
  rfl

theorem toInt_eq_zero_iff : x.toInt = 0 ↔ x = 0 := BitVec.toInt_inj (y := 0)

theorem toNat_eq_zero_iff : x.toNat = 0 ↔ x = 0 := BitVec.toNat_inj (y := 0)

theorem ofInt_toInt_div :
    BitVec.ofInt 64 (if y.toInt = 0 then -1 else x.toInt.tdiv y.toInt) = if y = 0 then BitVec.allOnes 64 else x.sdiv y := by
  simp only [toInt_eq_zero_iff]
  split
  · rfl
  · exact BitVec.eq_of_toInt_eq (by rw [BitVec.toInt_ofInt, BitVec.toInt_sdiv])

theorem ofNat_toNat_div :
    BitVec.ofNat 64 (if y.toNat = 0 then 2 ^ 64 - 1 else x.toNat / y.toNat) = if y = 0 then BitVec.allOnes 64 else x / y := by
  simp only [toNat_eq_zero_iff]
  split
  · rfl
  · rw [← BitVec.toNat_udiv, BitVec.ofNat_toNat, BitVec.setWidth_eq]

theorem ofInt_toInt_rem : BitVec.ofInt 64 (if y.toInt = 0 then x.toInt else x.toInt - y.toInt * x.toInt.tdiv y.toInt) = x.srem y := by
  have remainder : (if y.toInt = 0 then x.toInt else x.toInt - y.toInt * x.toInt.tdiv y.toInt) = (x.srem y).toInt := by
    rw [BitVec.toInt_srem, Int.tmod_def]
    split
    · next zero => rw [zero, Int.zero_mul, Int.sub_zero]
    · rfl
  rw [remainder, BitVec.ofInt_toInt]

theorem ofNat_toNat_rem : BitVec.ofNat 64 (if y.toNat = 0 then x.toNat else x.toNat % y.toNat) = x % y := by
  have remainder : (if y.toNat = 0 then x.toNat else x.toNat % y.toNat) = (x % y).toNat := by
    rw [BitVec.toNat_umod]
    split
    · next zero => rw [zero, Nat.mod_zero]
    · rfl
  rw [remainder, BitVec.ofNat_toNat, BitVec.setWidth_eq]

theorem ofInt_toInt_min : BitVec.ofInt 64 (min x.toInt y.toInt) = if x.slt y then x else y := by
  simp only [BitVec.slt_iff_toInt_lt]
  split
  · next less => rw [Int.min_eq_left less.le, BitVec.ofInt_toInt]
  · next notLess => rw [Int.min_eq_right (Int.not_lt.1 notLess), BitVec.ofInt_toInt]

theorem ofInt_toInt_max : BitVec.ofInt 64 (max x.toInt y.toInt) = if x.slt y then y else x := by
  simp only [BitVec.slt_iff_toInt_lt]
  split
  · next less => rw [Int.max_eq_right less.le, BitVec.ofInt_toInt]
  · next notLess => rw [Int.max_eq_left (Int.not_lt.1 notLess), BitVec.ofInt_toInt]

theorem ofNat_toNat_min : BitVec.ofNat 64 (min x.toNat y.toNat) = if x.ult y then x else y := by
  simp only [BitVec.ult_iff_lt, BitVec.lt_def]
  split
  · next less => rw [Nat.min_eq_left less.le, BitVec.ofNat_toNat, BitVec.setWidth_eq]
  · next notLess => rw [Nat.min_eq_right (Nat.not_lt.1 notLess), BitVec.ofNat_toNat, BitVec.setWidth_eq]

theorem ofNat_toNat_max : BitVec.ofNat 64 (max x.toNat y.toNat) = if x.ult y then y else x := by
  simp only [BitVec.ult_iff_lt, BitVec.lt_def]
  split
  · next less => rw [Nat.max_eq_right less.le, BitVec.ofNat_toNat, BitVec.setWidth_eq]
  · next notLess => rw [Nat.max_eq_left (Nat.not_lt.1 notLess), BitVec.ofNat_toNat, BitVec.setWidth_eq]

theorem ofInt_natAbs : BitVec.ofInt 64 (x.toInt.natAbs : Int) = if x.msb then -x else x := by
  simp only [BitVec.msb_eq_toInt, decide_eq_true_eq]
  split
  · next negative => rw [Int.ofNat_natAbs_of_nonpos negative.le, BitVec.ofInt_neg, BitVec.ofInt_toInt]
  · next positive => rw [Int.natAbs_of_nonneg (Int.not_lt.1 positive), BitVec.ofInt_toInt]

end

/-- Settles O1: each word writes one number to D, and the value of R127 is that number modulo 2^64. -/
theorem integerArithmeticWritesItsResult : Obligations.IntegerArithmeticWritesItsResult := by
  intro i s a h d v hi r
  unfold Claims.arithmetic at hi
  split at hi <;> cases hi
  case h_1 => exact alu_writes r (congrArg (a.wg _) (ofInt_addSub (ofInt_toInt_add _ _)))
  case h_2 => exact alu_writes r (congrArg (a.wg _) (ofInt_addSub (ofInt_toInt_sub _ _)))
  case h_3 f => exact alu_writes r (congrArg (a.wg _) (toInt_signExtend_32 f.imm ▸ ofInt_toInt_add _ _))
  case h_4 => exact alu_writes r (congrArg (a.wg _) (ofInt_satIf (ofInt_toInt_mul _ _)))
  case h_5 f => exact alu_writes r (congrArg (a.wg _) (toInt_signExtend_32 f.imm ▸ ofInt_toInt_mul _ _))
  case h_6 => exact alu_writes r (congrArg (a.wg _) (ofInt_toInt_mul_high _ _))
  case h_7 => exact alu_writes r (congrArg (a.wg _) (ofNat_toNat_mul_high _ _))
  case h_8 => exact alu_writes r (congrArg (a.wg _) (ofInt_toInt_div _ _))
  case h_9 => exact alu_writes r (congrArg (a.wg _) (ofNat_toNat_div _ _))
  case h_10 => exact alu_writes r (congrArg (a.wg _) (ofInt_toInt_rem _ _))
  case h_11 => exact alu_writes r (congrArg (a.wg _) (ofNat_toNat_rem _ _))
  case h_12 => exact alu_writes r (congrArg (a.wg _) (ofInt_toInt_min _ _))
  case h_13 => exact alu_writes r (congrArg (a.wg _) (ofInt_toInt_max _ _))
  case h_14 => exact alu_writes r (congrArg (a.wg _) (ofNat_toNat_min _ _))
  case h_15 => exact alu_writes r (congrArg (a.wg _) (ofNat_toNat_max _ _))
  case h_16 => exact alu_writes r (congrArg (a.wg _) (by rw [← Int.natCast_natAbs]; exact ofInt_satIf (ofInt_natAbs _)))

end Sys2Proof.Machine

namespace Sys2Proof.Machine

/-! ### Comparisons and predicate words (R132 to R134) -/

/-- A condition of R133 is a comparison of the numbers that the operands hold. -/
theorem cmpTrue_of_condition {cc : Nat} {x y : BitVec 64} {b : Bool} (hb : Claims.condition cc x y = some b) : cmpTrue cc x y = b := by
  unfold Claims.condition at hb
  split at hb <;> cases hb
  case h_1 | h_2 | h_11 | h_12 => rfl
  case h_3 | h_6 => exact BitVec.slt_eq_decide.symm
  case h_4 | h_5 => exact BitVec.sle_eq_decide.symm
  case h_7 | h_10 => exact (BitVec.ult_eq_decide ..).symm
  case h_8 | h_9 => exact BitVec.ule_eq_decide.symm

/-- The value of R133 is the one that the word writes to its predicate. -/
theorem exec_of_predicate {i : Instr} {a : Act} {h : Hdr} {d : Nat} {b : Bool} (hi : Claims.predicate a i = some (h, d, b)) (s : State) :
    ∃ value : Act → Bool, exec i s = alu h s (fun a => a.wp d (value a)) ∧ value a = b := by
  unfold Claims.predicate at hi
  split at hi
  case h_1 =>
    obtain ⟨b, cond, fields⟩ := Option.map_eq_some_iff.1 hi
    cases fields
    exact ⟨_, rfl, cmpTrue_of_condition cond⟩
  case h_2 =>
    obtain ⟨b, cond, fields⟩ := Option.map_eq_some_iff.1 hi
    cases fields
    exact ⟨_, rfl, cmpTrue_of_condition cond⟩
  all_goals cases hi
  case h_3 | h_4 | h_6 | h_8 => exact ⟨_, rfl, rfl⟩
  case h_5 f => exact ⟨_, rfl, by cases a.rp f.a.toNat <;> rfl⟩
  case h_7 => exact ⟨_, rfl, by rw [bitOf_eq_testBit, BitVec.testBit_toNat]⟩

/-- Settles O2: the predicate word is written at one bit. -/
theorem comparisonsWriteTheirPredicate : Obligations.ComparisonsWriteTheirPredicate := by
  intro i s a h d b hi hd r
  obtain ⟨value, run, rfl⟩ := exec_of_predicate hi s
  refine ⟨(a.wp d (value a)).p, fun n _ => ?_, run.trans (alu_ready r rfl rfl rfl rfl)⟩
  split
  · next same => exact same ▸ a.rp_wp_same hd _
  · next other => exact a.rp_wp_other other _

end Sys2Proof.Machine

namespace Sys2Proof.Machine

/-! ### Logic, shift and count words (R128, R129) -/

/-! #### Shifts as products and quotients -/

section
variable (x : BitVec 64) (n : Nat)

theorem shiftLeft_eq_mul : x <<< n = Claims.shiftLeft x n := by
  apply BitVec.eq_of_toNat_eq
  simp [Claims.shiftLeft, Nat.shiftLeft_eq]

theorem ushiftRight_eq_div : x >>> n = Claims.shiftRight x n := by
  have small : x.toNat / 2 ^ n < 2 ^ 64 := (Nat.div_le_self _ _).trans_lt x.isLt
  apply BitVec.eq_of_toNat_eq
  rw [BitVec.toNat_ushiftRight, Nat.shiftRight_eq_div_pow, Claims.shiftRight, BitVec.toNat_ofNat, Nat.mod_eq_of_lt small]

theorem sshiftRight_eq_div : x.sshiftRight n = Claims.shiftArith x n := by
  rw [BitVec.sshiftRight_eq, Int.shiftRight_eq_div_pow, Claims.shiftArith]

variable {n}

/-- The bits that leave at the top come in below the others, so their sum is their union. -/
theorem rotateLeft_eq_add (hn : n < 64) : x.rotateLeft n = Claims.rotate x n := by
  have width : 2 ^ 64 = 2 ^ n * 2 ^ (64 - n) := by rw [← Nat.pow_add, Nat.add_sub_cancel' hn.le]
  have top : x.toNat / 2 ^ (64 - n) < 2 ^ n := Nat.div_lt_of_lt_mul (by rw [Nat.mul_comm, ← width]; exact x.isLt)
  have union : x.toNat % 2 ^ (64 - n) * 2 ^ n + x.toNat / 2 ^ (64 - n) = (x.rotateLeft n).toNat := by
    rw [BitVec.toNat_rotateLeft, Nat.mod_eq_of_lt hn, Nat.shiftLeft_eq, Nat.shiftRight_eq_div_pow, Nat.mul_comm x.toNat, width,
      Nat.mul_mod_mul_left, Nat.mul_comm, Nat.two_pow_add_eq_or_of_lt top]
  rw [Claims.rotate, union, BitVec.ofNat_toNat, BitVec.setWidth_eq]

end

theorem amount_lt (n : Nat) : n % 64 < 64 := Nat.mod_lt _ (by decide)

/-! #### Counts of bits -/

theorem leadZeros_le (x : BitVec 64) (n : Nat) : leadZeros x n ≤ n := by
  induction n with
  | zero => exact Nat.le_refl 0
  | succ n ih =>
    unfold leadZeros
    split
    · exact Nat.zero_le _
    · exact Nat.succ_le_succ ih

theorem getLsbD_leadZeros (x : BitVec 64) {n j : Nat} (top : n - leadZeros x n ≤ j) (hj : j < n) : x.getLsbD j = false := by
  induction n with
  | zero => exact absurd hj (Nat.not_lt_zero j)
  | succ n ih =>
    unfold leadZeros at top
    split at top
    · omega
    · next clear =>
      by_cases last : j = n
      · exact last ▸ Bool.eq_false_iff.2 clear
      · exact ih (by omega) (by omega)

theorem getLsbD_below_leadZeros (x : BitVec 64) {n : Nat} (found : leadZeros x n < n) :
    x.getLsbD (n - 1 - leadZeros x n) = true := by
  induction n with
  | zero => exact absurd found (Nat.not_lt_zero _)
  | succ n ih =>
    unfold leadZeros at found ⊢
    split
    · next one => exact one
    · next clear =>
      rw [if_neg clear] at found
      rw [show n + 1 - 1 - (leadZeros x n + 1) = n - 1 - leadZeros x n by omega]
      exact ih (Nat.lt_of_succ_lt_succ found)

theorem leading_leadZeros (x : BitVec 64) : Claims.leading x (leadZeros x 64) := by
  refine ⟨leadZeros_le x 64, fun j top => ?_, getLsbD_below_leadZeros x⟩
  by_cases hj : j < 64
  · exact getLsbD_leadZeros x top hj
  · exact BitVec.getLsbD_of_ge x j (Nat.not_lt.1 hj)

theorem trailZeros_le (x : BitVec 64) (i n : Nat) : trailZeros x i n ≤ n := by
  induction n generalizing i with
  | zero => exact Nat.le_refl 0
  | succ n ih =>
    unfold trailZeros
    split
    · exact Nat.zero_le _
    · exact Nat.succ_le_succ (ih (i + 1))

theorem getLsbD_trailZeros (x : BitVec 64) {i n j : Nat} (hi : i ≤ j) (hj : j < i + trailZeros x i n) : x.getLsbD j = false := by
  induction n generalizing i with
  | zero => exact absurd hj (Nat.not_lt.2 hi)
  | succ n ih =>
    unfold trailZeros at hj
    split at hj
    · omega
    · next clear =>
      by_cases first : j = i
      · exact first ▸ Bool.eq_false_iff.2 clear
      · exact ih (i := i + 1) (by omega) (by omega)

theorem getLsbD_above_trailZeros (x : BitVec 64) {i n : Nat} (found : trailZeros x i n < n) :
    x.getLsbD (i + trailZeros x i n) = true := by
  induction n generalizing i with
  | zero => exact absurd found (Nat.not_lt_zero _)
  | succ n ih =>
    unfold trailZeros at found ⊢
    split
    · next one => exact one
    · next clear =>
      rw [if_neg clear] at found
      rw [Nat.add_comm (trailZeros x (i + 1) n), ← Nat.add_assoc]
      exact ih (Nat.lt_of_succ_lt_succ found)

theorem trailing_trailZeros (x : BitVec 64) : Claims.trailing x (trailZeros x 0 64) := by
  refine ⟨trailZeros_le x 0 64, fun j hj => getLsbD_trailZeros x (i := 0) (n := 64) (Nat.zero_le j) (by omega), fun found => ?_⟩
  simpa using getLsbD_above_trailZeros x found

theorem setBits_eq_length (x : BitVec 64) (n : Nat) : setBits x n = ((List.range n).filter (fun j => x.getLsbD j)).length := by
  induction n with
  | zero => rfl
  | succ n ih =>
    rw [setBits, ih, List.range_succ, List.filter_append, List.length_append]
    cases top : x.getLsbD n <;> simp [top, bit]

/-! #### The words -/

theorem exec_of_logic {i : Instr} {s : State} {a : Act} {h : Hdr} {d : Nat} {v : BitVec 64} (hi : Claims.logic a i = some (h, d, v))
    (r : Ready 1 h s a) : exec i s = .next (s.setCur ((a.wg d v).done 1 h s.focus.n)) := by
  unfold Claims.logic at hi
  split at hi
  case h_1 | h_2 | h_3 | h_4 | h_5 | h_6 => cases hi; exact alu_writes r rfl
  case h_7 => cases hi; exact alu_writes r (congrArg (a.wg _) (shiftLeft_eq_mul _ _))
  case h_8 => split at hi <;> cases hi; exact alu_writes r (congrArg (a.wg _) (shiftLeft_eq_mul _ _))
  case h_9 => cases hi; exact alu_writes r (congrArg (a.wg _) (ushiftRight_eq_div _ _))
  case h_10 => split at hi <;> cases hi; exact alu_writes r (congrArg (a.wg _) (ushiftRight_eq_div _ _))
  case h_11 => cases hi; exact alu_writes r (congrArg (a.wg _) (sshiftRight_eq_div _ _))
  case h_12 => split at hi <;> cases hi; exact alu_writes r (congrArg (a.wg _) (sshiftRight_eq_div _ _))
  case h_13 => cases hi; exact alu_writes r (congrArg (a.wg _) (rotateLeft_eq_add _ (amount_lt _)))
  case h_14 =>
    split at hi <;> cases hi
    next small => exact alu_writes r (congrArg (a.wg _) (rotateLeft_eq_add _ small))
  case h_15 => cases hi

theorem logicShiftAndCountWriteTheirResult : Claims.LogicShiftAndCountWriteTheirResult := by
  refine fun s a => ⟨fun i h d v => exec_of_logic, fun h f r => ⟨?clz, ?ctz, ?popc⟩⟩
  case clz => exact ⟨_, leading_leadZeros _, alu_writes r rfl⟩
  case ctz => exact ⟨_, trailing_trailZeros _, alu_writes r rfl⟩
  case popc => exact alu_writes r (congrArg (a.wn _) (setBits_eq_length _ 64))

end Sys2Proof.Machine

namespace Sys2Proof.Machine

/-! ### Selection, move and field words (R131) -/

/-! #### Fields of numbers, bit by bit -/

theorem testBit_fieldOf (n hi lo j : Nat) : (fieldOf n hi lo).testBit j = (decide (j < hi + 1 - lo) && n.testBit (lo + j)) := by
  rw [fieldOf, Nat.testBit_mod_two_pow, Nat.testBit_div_two_pow, Nat.add_comm j]

/-- BFI in three parts: what lies below the field, the bits put in, and what lies above it. -/
theorem insertBits_eq (old v pos L : Nat) {hi : Nat} (end_eq : hi + 1 = pos + L) : insertBits old v pos hi =
    2 ^ pos * (2 ^ L * (old / 2 ^ pos / 2 ^ L) + v % 2 ^ L) + old % 2 ^ pos := by
  have length : hi + 1 - pos = L := by omega
  have high : 2 ^ pos * (2 ^ L * (old / 2 ^ pos / 2 ^ L)) + fieldOf old hi pos * 2 ^ pos + old % 2 ^ pos = old := by
    rw [fieldOf, length, Nat.mul_comm _ (2 ^ pos), ← Nat.mul_add, Nat.div_add_mod, Nat.div_add_mod]
  have cleared : old - fieldOf old hi pos * 2 ^ pos = 2 ^ pos * (2 ^ L * (old / 2 ^ pos / 2 ^ L)) + old % 2 ^ pos := by omega
  rw [insertBits, length, cleared, Nat.mul_add, Nat.mul_comm (v % 2 ^ L), Nat.add_right_comm]

theorem testBit_insertBits (old v pos L : Nat) {hi : Nat} (end_eq : hi + 1 = pos + L) (j : Nat) : (insertBits old v pos hi).testBit j =
    if pos ≤ j ∧ j < pos + L then v.testBit (j - pos) else old.testBit j := by
  have low : old % 2 ^ pos < 2 ^ pos := Nat.mod_lt _ (by positivity)
  have put : v % 2 ^ L < 2 ^ L := Nat.mod_lt _ (by positivity)
  rw [insertBits_eq old v pos L end_eq, Nat.testBit_two_pow_mul_add _ low, Nat.testBit_two_pow_mul_add _ put, Nat.testBit_mod_two_pow,
    Nat.testBit_mod_two_pow, Nat.testBit_div_two_pow, Nat.testBit_div_two_pow]
  by_cases below : j < pos
  · rw [if_pos below, if_neg (by omega), decide_eq_true below, Bool.true_and]
  · rw [if_neg below]
    by_cases inside : j - pos < L
    · rw [if_pos inside, if_pos (by omega), decide_eq_true inside, Bool.true_and]
    · rw [if_neg inside, if_neg (by omega), show j - pos - L + L + pos = j by omega]

/-! #### The field descriptor -/

section
variable (y : BitVec 64)

theorem fieldPos_toNat : fieldPos y.toNat = Claims.pos y := by
  simp [fieldPos, Claims.pos, BitVec.extractLsb'_toNat]

theorem pos_lt : Claims.pos y < 64 := (y.extractLsb' 0 6).isLt

theorem fieldEnd_toNat : fieldEnd y.toNat = min (Claims.pos y + Claims.len y) 64 - 1 := by
  have number : fieldOf y.toNat 13 8 = (y.extractLsb' 8 6).toNat := by
    simp [fieldOf, BitVec.extractLsb'_toNat, Nat.shiftRight_eq_div_pow]
  have zero : (y.extractLsb' 8 6).toNat = 0 ↔ y.extractLsb' 8 6 = 0 := BitVec.toNat_inj (y := 0)
  rw [fieldEnd, number, ← fieldPos, fieldPos_toNat, Claims.len]
  simp only [zero]

theorem len_pos : 0 < Claims.len y := by
  unfold Claims.len
  split
  · decide
  · next nonzero => exact Nat.pos_of_ne_zero (fun zero => nonzero (BitVec.toNat_inj.1 zero))

/-- The bits of the field that lie in a register end at bit 63. -/
theorem fieldEnd_succ : fieldEnd y.toNat + 1 = Claims.pos y + min (Claims.len y) (64 - Claims.pos y) := by
  have := len_pos y
  have := pos_lt y
  rw [fieldEnd_toNat]
  omega

theorem inField_iff (j : Nat) : Claims.inField y j = true ↔ Claims.pos y ≤ j ∧ j < Claims.pos y + Claims.len y := by
  simp [Claims.inField]

end

/-! #### The values of the words, bit by bit -/

section
variable (x : BitVec 64)

theorem getLsbD_movhi (imm : BitVec 38) {j : Nat} (hj : j < 64) :
    (imm.extractLsb' 0 26 ++ x.extractLsb' 0 38 : BitVec 64).getLsbD j = if j < 38 then x.getLsbD j else imm.getLsbD (j - 38) := by
  have high : j - 38 < 26 := by omega
  rw [BitVec.getLsbD_append]
  split
  · next low => simp [low]
  · simp [high]

theorem ofInt_lea (pc : Nat) (imm : BitVec 32) :
    BitVec.ofInt 64 (pc + x.toNat + imm.toInt) = BitVec.ofNat 64 pc + x + imm.signExtend 64 := by
  rw [BitVec.ofInt_add, BitVec.ofInt_add, BitVec.ofInt_natCast, BitVec.ofInt_natCast, BitVec.ofNat_toNat, BitVec.setWidth_eq]
  rfl

/-- SInt of the low bits of a word (R5). -/
theorem signed_toNat {n w : Nat} (x : BitVec n) (hw : 0 < w) : signed w x.toNat = (x.setWidth w).toInt := by
  have half : 2 ^ w = 2 * 2 ^ (w - 1) := by rw [← Nat.pow_succ', Nat.succ_eq_add_one, Nat.sub_add_cancel hw]
  rw [signed, BitVec.toInt_eq_toNat_cond, BitVec.toNat_setWidth]
  simp only [half, Nat.mul_lt_mul_left (show 0 < 2 by decide)]

theorem getLsbD_sext {w j : Nat} (hw : 0 < w) (hj : j < 64) :
    (BitVec.ofInt 64 (signed w x.toNat)).getLsbD j = x.getLsbD (min j (w - 1)) := by
  have value : BitVec.ofInt 64 (signed w x.toNat) = (x.setWidth w).signExtend 64 := by rw [signed_toNat x hw]; rfl
  rw [value, BitVec.getLsbD_signExtend, decide_eq_true hj, Bool.true_and]
  split
  · next low => rw [BitVec.getLsbD_setWidth, decide_eq_true low, Bool.true_and, Nat.min_eq_left (by omega)]
  · next high =>
    rw [BitVec.msb_eq_getLsbD_last, BitVec.getLsbD_setWidth, decide_eq_true (by omega), Bool.true_and, Nat.min_eq_right (by omega)]

theorem getLsbD_zext (w : Nat) {j : Nat} (hj : j < 64) :
    (BitVec.ofNat 64 (x.toNat % 2 ^ w)).getLsbD j = (decide (j < w) && x.getLsbD j) := by
  rw [BitVec.getLsbD_ofNat, decide_eq_true hj, Bool.true_and, Nat.testBit_mod_two_pow, BitVec.testBit_toNat]

theorem testBit_ofLE (l : List Byte) (k : Nat) {j : Nat} (hj : j < 8) : (ofLE l).testBit (8 * k + j) = (l.getD k 0).getLsbD j := by
  induction l generalizing k with
  | nil => simp [ofLE]
  | cons b l ih =>
    rw [ofLE, Nat.add_comm, Nat.testBit_two_pow_mul_add (i := 8) _ b.isLt]
    cases k with
    | zero =>
      rw [if_pos (by omega), Nat.mul_zero, Nat.zero_add]
      exact BitVec.testBit_toNat b
    | succ k =>
      rw [if_neg (by omega), show 8 * (k + 1) + j - 8 = 8 * k + j by omega, ih]
      rfl

theorem getLsbD_toLE (n v : Nat) {k j : Nat} (hk : k < n) (hj : j < 8) : ((toLE n v).getD k 0).getLsbD j = v.testBit (8 * k + j) := by
  have byte := testBit_ofLE (toLE n v) k hj
  rw [ofLE_toLE, show 256 ^ n = 2 ^ (8 * n) by rw [Nat.pow_mul], Nat.testBit_mod_two_pow, decide_eq_true (by omega), Bool.true_and] at byte
  exact byte.symm

theorem getLsbD_bswap {n k j : Nat} (hn : n ≤ 8) (hj : j < 8) : (BitVec.ofNat 64 (ofLE (toLE n x.toNat).reverse)).getLsbD (8 * k + j) =
    (decide (k < n) && x.getLsbD (8 * (n - 1 - k) + j)) := by
  rw [BitVec.getLsbD_ofNat, testBit_ofLE _ _ hj]
  by_cases hk : k < n
  · rw [List.getD_reverse k (by simpa using hk), toLE_length, getLsbD_toLE _ _ (by omega) hj, BitVec.testBit_toNat,
      decide_eq_true (by omega), decide_eq_true hk]
  · rw [List.getD_eq_default _ _ (by simpa using hk), decide_eq_false hk]
    simp

variable (y : BitVec 64) {j : Nat} (hj : j < 64)
include hj

theorem getLsbD_bfx : (BitVec.ofNat 64 (fieldOf x.toNat (fieldEnd y.toNat) (fieldPos y.toNat))).getLsbD j =
    (Claims.inField y (Claims.pos y + j) && x.getLsbD (Claims.pos y + j)) := by
  rw [BitVec.getLsbD_ofNat, decide_eq_true hj, Bool.true_and, testBit_fieldOf, fieldPos_toNat, fieldEnd_succ, BitVec.testBit_toNat,
    Nat.add_sub_cancel_left]
  by_cases inside : Claims.pos y + j < 64
  · congr 1
    rw [Bool.eq_iff_iff, inField_iff, decide_eq_true_eq]
    omega
  · simp [BitVec.getLsbD_of_ge x _ (Nat.not_lt.1 inside)]

theorem getLsbD_bfi (old : BitVec 64) :
    (BitVec.ofNat 64 (insertBits old.toNat x.toNat (fieldPos y.toNat) (fieldEnd y.toNat))).getLsbD j =
      if Claims.inField y j then x.getLsbD (j - Claims.pos y) else old.getLsbD j := by
  have inside : (Claims.pos y ≤ j ∧ j < Claims.pos y + min (Claims.len y) (64 - Claims.pos y)) ↔ Claims.inField y j = true := by
    rw [inField_iff]
    omega
  rw [BitVec.getLsbD_ofNat, decide_eq_true hj, Bool.true_and, fieldPos_toNat, testBit_insertBits _ _ _ _ (fieldEnd_succ y)]
  simp only [inside, BitVec.testBit_toNat]

end

/-! #### The words -/

theorem fmtWidth_of_int {f : Nat} (lo : 12 ≤ f) (hi : f ≤ 21) : 0 < fmtWidth f ∧ fmtWidth f ≤ 64 := by
  interval_cases f <;> decide

theorem selectMoveAndFieldWordsWriteTheirBits : Claims.SelectMoveAndFieldWordsWriteTheirBits := by
  intro i s a h d P hi r
  unfold Claims.moved at hi
  split at hi
  case h_1 | h_2 => cases hi; exact ⟨_, rfl, alu_writes r rfl⟩
  case h_3 => cases hi; exact ⟨_, fun _ => getLsbD_movhi _ _, alu_writes r rfl⟩
  case h_4 => cases hi; exact ⟨_, rfl, alu_writes r (congrArg (a.wg _) (ofInt_lea _ _ _))⟩
  case h_5 =>
    split at hi <;> cases hi
    next int =>
      obtain ⟨lo, hi⟩ := int
      exact ⟨_, fun _ => getLsbD_sext _ (fmtWidth_of_int lo (by omega)).1, alu_writes r rfl⟩
  case h_6 => split at hi <;> cases hi; exact ⟨_, fun _ => getLsbD_zext _ _, alu_writes r rfl⟩
  case h_7 =>
    split at hi <;> cases hi
    next int =>
      obtain ⟨lo, hi⟩ := int
      have bytes := (fmtWidth_of_int (by omega) hi).2
      exact ⟨_, fun _ _ => getLsbD_bswap _ (by omega), alu_writes r rfl⟩
  case h_8 => cases hi; exact ⟨_, fun _ hj => getLsbD_bfx _ _ hj, alu_writes r rfl⟩
  case h_9 => cases hi; exact ⟨_, fun _ hj => getLsbD_bfi _ _ hj _, alu_writes r rfl⟩
  case h_10 => cases hi

/-- Settles O27: the logic and shift words by their values, the counts by their bits, and the moves and fields bit by bit. -/
theorem logicAndFieldWordsWriteTheirResult : Obligations.LogicAndFieldWordsWriteTheirResult :=
  ⟨logicShiftAndCountWriteTheirResult, selectMoveAndFieldWordsWriteTheirBits⟩

end Sys2Proof.Machine

namespace Sys2Proof.Machine

/-! ### Classes, conversions and random numbers of the scalar words (R137 to R139, R142) -/

/-! #### The class of an F32 value (R138) -/

/-- What a code of F32 stands for, by its fields (R55 to R57). -/
theorem floatVal_f32 (c : Nat) : floatVal 0 c =
    if fieldOf c 30 23 = 255 then (if fieldOf c 22 0 = 0 then .inf (bitOf c 31) else .nan)
    else if fieldOf c 30 23 = 0 then Val.scale (.fin (bitOf c 31) (fieldOf c 22 0) 1) (-149)
    else Val.scale (.fin (bitOf c 31) (2 ^ 23 + fieldOf c 22 0) 1) ((fieldOf c 30 23 : Int) - 150) := by
  simp [floatVal, mantBits, expBits, biasOf, fieldOf, Int.sub_sub]

theorem pow2_snd_le {e : Int} {k : Nat} (he : -(k : Int) ≤ e) : (pow2 e).2 ≤ 2 ^ k := by
  unfold pow2
  split
  · exact Nat.one_le_two_pow
  · exact Nat.pow_le_pow_right (by decide) (by omega)

theorem classBit_subnormal (s : Bool) {m : Nat} (h : m < 2 ^ 23) : Claims.classBit (Val.scale (.fin s m 1) (-149)) =
    if m = 0 then (if s then 3 else 4) else (if s then 2 else 5) := by
  have grid : pow2 (-149) = (1, 2 ^ 149) := pow2_of_neg (by decide)
  have below : m * 2 ^ 126 < 2 ^ 149 := by omega
  simp only [scale_fin_one, Claims.classBit, grid, Nat.mul_one, if_pos below]

theorem classBit_normal (s : Bool) (m : Nat) {e : Int} (he : -149 ≤ e) :
    Claims.classBit (Val.scale (.fin s (2 ^ 23 + m) 1) e) = if s then 1 else 6 := by
  have unit : 1 ≤ (pow2 e).1 := pow2_fst_pos e
  have grid : (pow2 e).2 ≤ 2 ^ 149 := pow2_snd_le he
  have least : 2 ^ 23 ≤ (2 ^ 23 + m) * (pow2 e).1 := (Nat.le_add_right _ m).trans (Nat.le_mul_of_pos_right _ unit)
  have nonzero : (2 ^ 23 + m) * (pow2 e).1 ≠ 0 := by omega
  have normal : ¬ (2 ^ 23 + m) * (pow2 e).1 * 2 ^ 126 < (pow2 e).2 := by omega
  simp only [scale_fin_one, Claims.classBit, if_neg nonzero, if_neg normal]

/-- R138: the class mask of a code has the one bit of the class of its value. -/
theorem classMask_eq (c : Nat) : classMask c = 2 ^ Claims.classBit (floatVal 0 c) := by
  rw [classMask, floatVal_f32]
  by_cases top : fieldOf c 30 23 = 255
  · simp only [if_pos top]
    by_cases zero : fieldOf c 22 0 = 0
    · simp only [if_pos zero]
      cases bitOf c 31 <;> rfl
    · simp only [if_neg zero]
      rfl
  · simp only [if_neg top]
    by_cases sub : fieldOf c 30 23 = 0
    · simp only [if_pos sub, classBit_subnormal _ (show fieldOf c 22 0 < 2 ^ 23 from Nat.mod_lt _ (by decide))]
      split <;> cases bitOf c 31 <;> rfl
    · simp only [if_neg sub, classBit_normal _ _ (show -149 ≤ (fieldOf c 30 23 : Int) - 150 by omega)]
      cases bitOf c 31 <;> rfl

/-! #### Conversions between numbers (R69 to R71, R139) -/

/-- An integer format takes a float rounded and clamped (R70), and an integer clamped where SAT says so. -/
def cvtInt (dst rm : Nat) (sat : Bool) (bits : Nat) : Val ⊕ Int → Int
  | .inl v => roundToInt rm bits (intLo dst) (intHi dst) v
  | .inr n => if sat then satTo dst n else n

section
variable {dst : Nat}

theorem ofNat_wrapTo (v : Int) : BitVec.ofNat 64 (wrapTo 64 v) = BitVec.ofInt 64 v := by
  apply BitVec.eq_of_toNat_eq
  rw [BitVec.toNat_ofNat, BitVec.toNat_ofInt, wrapTo]
  omega

theorem wrapTo_eq_toNat (w : Nat) (v : Int) : wrapTo w v = (BitVec.ofInt w v).toNat := (BitVec.toNat_ofInt v).symm

theorem not_isFloat_of_int (lo : 12 ≤ dst) : isFloat dst = false := by
  simp only [isFloat, decide_eq_false_iff_not]
  omega

theorem isInt_of_range (lo : 12 ≤ dst) (hi : dst ≤ 21) : isInt dst = true := by
  simp [isInt, lo, hi]

theorem isSInt_iff (lo : 12 ≤ dst) : isSInt dst = true ↔ dst ≤ 16 := by
  simp [isSInt, lo]

/-- An integer stands in a register extended by its signedness (R63). -/
theorem toRegister_int (lo : 12 ≤ dst) (hi : dst ≤ 21) (n : Int) : BitVec.ofNat 64 (toRegister dst (wrapTo (fmtWidth dst) n)) =
    if dst ≤ 16 then (BitVec.ofInt (fmtWidth dst) n).signExtend 64 else (BitVec.ofInt (fmtWidth dst) n).setWidth 64 := by
  have noFloat : ¬ (isFloat dst || decide (dst = 6)) = true := by
    rw [not_isFloat_of_int lo, Bool.false_or, decide_eq_true_eq]
    omega
  rw [toRegister, if_neg noFloat]
  simp only [isSInt_iff lo]
  by_cases signedFormat : dst ≤ 16
  · rw [if_pos signedFormat, if_pos signedFormat, ofNat_wrapTo, wrapTo_eq_toNat, signed_toNat _ (fmtWidth_of_int lo hi).1,
      BitVec.setWidth_eq]
    rfl
  · have unsignedFormat : isNInt dst = true := by
      simp only [isNInt, Bool.and_eq_true, decide_eq_true_eq]
      omega
    rw [if_neg signedFormat, if_neg signedFormat, if_pos unsignedFormat, wrapTo_eq_toNat, Nat.mod_eq_of_lt (BitVec.isLt _),
      BitVec.ofNat_toNat]

/-- An E8M0 code is one byte (R58). -/
theorem toE8M0_lt (mode : Nat) (sat : Bool) (bits : Nat) (v : Val) : toE8M0 mode sat bits v < 256 := by
  cases v with
  | nan => exact (by decide : 255 < 256)
  | inf s =>
    simp only [toE8M0]
    split_ifs <;> omega
  | fin s n d =>
    simp only [toE8M0]
    split_ifs <;> omega

variable (g : Gen) (src rm : Nat) (sat : Bool) (code : Nat)

/-! What the conversion of an element gives, by the kind of its format (R69). -/

theorem convert_to_float (hd : dst ≤ 5) : (g.convert src dst rm sat code).1 =
    floatCode dst (roundTo dst rm (sat && !(isFloat src && exactFloat src dst)) (g.bits rm).1 (elemVal src code)) := by
  have float : isFloat dst = true := decide_eq_true hd
  have noInt : isInt dst = false := by
    simp only [isInt, Bool.and_eq_false_iff, decide_eq_false_iff_not]
    omega
  simp only [Gen.convert, noInt, Bool.and_false, Bool.false_eq_true, if_false, if_neg (show dst ≠ 6 by omega), float, if_true]

theorem convert_to_e8m0 (hs : src ≠ 6) : (g.convert src 6 rm sat code).1 = toE8M0 rm sat (g.bits rm).1 (elemVal src code) := by
  have noInt : isInt 6 = false := by decide
  simp only [Gen.convert, noInt, Bool.and_false, Bool.false_eq_true, if_false, if_true, if_neg hs]

theorem convert_float_to_int (hs : isInt src = false) (lo : 12 ≤ dst) : (g.convert src dst rm sat code).1 =
    wrapTo (fmtWidth dst) (roundToInt rm (g.bits rm).1 (intLo dst) (intHi dst) (elemVal src code)) := by
  simp only [Gen.convert, hs, Bool.false_and, Bool.false_eq_true, if_false, if_neg (show dst ≠ 6 by omega), not_isFloat_of_int lo]

theorem convert_int_to_int (hs : isInt src = true) (hd : isInt dst = true) : (g.convert src dst rm sat code).1 =
    wrapTo (fmtWidth dst) (cvtInt dst rm sat 0
      (.inr (if isSInt src then signed (fmtWidth src) code else (code % 2 ^ fmtWidth src : Nat)))) := by
  simp only [Gen.convert, hs, hd, Bool.and_self, if_true, cvtInt]

/-- A conversion takes the bits of one rounding, whatever its formats (R66, R139). -/
theorem cvtCode_snd (v : Nat) : (cvtCode g src dst rm sat v).2 = (g.bits rm).2 := by
  unfold cvtCode
  cases ints : isInt src && isInt dst
  · simp only [Gen.convert, ints, Bool.false_eq_true, if_false]
    split_ifs <;> rfl
  · rfl

end

/-! #### FCVT (R139) -/

section
variable {src dst : Nat} (hs : src ∈ [0, 16, 21]) (g : Gen) (rm : Nat) (sat : Bool) (x : BitVec 64)

/-- The operand of FCVT as the conversion takes it. -/
def cvtOperand (src : Nat) (x : BitVec 64) : Nat := if src = 0 then x.toNat % 2 ^ 32 else x.toNat

theorem cvtCode_fst : (cvtCode g src dst rm sat x.toNat).1 = toRegister dst (g.convert src dst rm sat (cvtOperand src x)).1 := rfl

/-- The number that FCVT converts, as a real (R139). -/
def cvtReal : Val ⊕ Int → Val
  | .inl v => v
  | .inr n => .ofInt n

/-! The three branches of what R139 says FCVT writes. -/

theorem cvtResult_float (hd : dst ≤ 5) (bits : Nat) (n : Val ⊕ Int) : Claims.cvtResult dst rm sat bits n =
    BitVec.ofNat 64 (f32Bits (floatVal dst (floatCode dst (roundTo dst rm (sat && !(n.isLeft && dst == 0)) bits (cvtReal n))))) := by
  cases n <;> exact if_pos hd

theorem cvtResult_e8m0 (bits : Nat) (n : Val ⊕ Int) : Claims.cvtResult 6 rm sat bits n =
    BitVec.ofNat 64 (f32Bits (elemVal 6 (toE8M0 rm sat bits (cvtReal n)))) := by
  have value (e : Nat) : elemVal 6 e = if e % 256 = 255 then .nan else Val.scale (.fin false 1 1) ((e % 256 : Nat) - 127) := rfl
  rw [value, Nat.mod_eq_of_lt (toE8M0_lt _ _ _ _)]
  cases n <;> rfl

theorem cvtResult_int (lo : 12 ≤ dst) (hi : dst ≤ 21) (bits : Nat) (n : Val ⊕ Int) : Claims.cvtResult dst rm sat bits n =
    BitVec.ofNat 64 (toRegister dst (wrapTo (fmtWidth dst) (cvtInt dst rm sat bits n))) := by
  have low : intLo dst = if dst ≤ 16 then -(2 ^ (fmtWidth dst - 1)) else 0 := by
    simp [intLo, isSInt_iff lo]
  have high : intHi dst = if dst ≤ 16 then 2 ^ (fmtWidth dst - 1) - 1 else 2 ^ fmtWidth dst - 1 := by
    simp [intHi, isSInt_iff lo]
  rw [toRegister_int lo hi]
  have noFloat : ¬ dst ≤ 5 := by omega
  have noE8M0 : dst ≠ 6 := by omega
  cases n <;> simp only [Claims.cvtResult, if_neg noFloat, if_neg noE8M0, cvtInt, satTo, low, high]

/-! The three sources of R139. -/

theorem cvtSource_float : Claims.cvtSource 0 x = .inl (floatVal 0 (x.toNat % 2 ^ 32)) := if_pos rfl

theorem cvtSource_signed : Claims.cvtSource 16 x = .inr x.toInt := rfl

theorem cvtSource_unsigned : Claims.cvtSource 21 x = .inr (x.toNat : Int) := rfl

theorem signed_64 : signed 64 x.toNat = x.toInt := by
  rw [signed_toNat x (by decide), BitVec.setWidth_eq]

include hs

theorem elemVal_cvtOperand : elemVal src (cvtOperand src x) = cvtReal (Claims.cvtSource src x) := by
  simp only [List.mem_cons, List.not_mem_nil, or_false] at hs
  obtain rfl | rfl | rfl := hs
  · rfl
  · exact congrArg Val.ofInt (signed_64 x)
  · exact congrArg (fun n : Nat => Val.ofInt n) (Nat.mod_eq_of_lt x.isLt)

/-- Only the conversion of F32 to itself is exact (R69). -/
theorem exactFloat_src : (isFloat src && exactFloat src dst) = ((Claims.cvtSource src x).isLeft && dst == 0) := by
  simp only [List.mem_cons, List.not_mem_nil, or_false] at hs
  obtain rfl | rfl | rfl := hs
  · cases dst <;> simp [isFloat, exactFloat, Claims.cvtSource]
  · rfl
  · rfl

theorem cvtCode_to_float (hd : dst ≤ 5) : BitVec.ofNat 64 (cvtCode g src dst rm sat x.toNat).1 =
    Claims.cvtResult dst rm sat (g.bits rm).1 (Claims.cvtSource src x) := by
  have float : isFloat dst = true := decide_eq_true hd
  rw [cvtCode_fst, convert_to_float g src rm sat _ hd, exactFloat_src hs x, elemVal_cvtOperand hs, cvtResult_float rm sat hd]
  simp only [toRegister, elemVal, float, Bool.true_or, if_true]

theorem cvtCode_to_e8m0 : BitVec.ofNat 64 (cvtCode g src 6 rm sat x.toNat).1 =
    Claims.cvtResult 6 rm sat (g.bits rm).1 (Claims.cvtSource src x) := by
  have noE8M0 : src ≠ 6 := by
    rintro rfl
    exact absurd hs (by decide)
  rw [cvtCode_fst, convert_to_e8m0 g src rm sat _ noE8M0, elemVal_cvtOperand hs, cvtResult_e8m0]
  rfl

theorem convert_to_int (lo : 12 ≤ dst) (hi : dst ≤ 21) : (g.convert src dst rm sat (cvtOperand src x)).1 =
    wrapTo (fmtWidth dst) (cvtInt dst rm sat (g.bits rm).1 (Claims.cvtSource src x)) := by
  have int := isInt_of_range lo hi
  simp only [List.mem_cons, List.not_mem_nil, or_false] at hs
  obtain rfl | rfl | rfl := hs
  · rw [convert_float_to_int g 0 rm sat _ (by decide) lo, elemVal_cvtOperand (by decide), cvtSource_float]
    rfl
  · have number : signed (fmtWidth 16) (cvtOperand 16 x) = x.toInt := signed_64 x
    rw [convert_int_to_int g 16 rm sat _ (by decide) int, if_pos (by decide), number, cvtSource_signed]
    rfl
  · have number : cvtOperand 21 x % 2 ^ fmtWidth 21 = x.toNat := Nat.mod_eq_of_lt x.isLt
    rw [convert_int_to_int g 21 rm sat _ (by decide) int, if_neg (by decide), number, cvtSource_unsigned]
    rfl

theorem cvtCode_to_int (lo : 12 ≤ dst) (hi : dst ≤ 21) : BitVec.ofNat 64 (cvtCode g src dst rm sat x.toNat).1 =
    Claims.cvtResult dst rm sat (g.bits rm).1 (Claims.cvtSource src x) := by
  rw [cvtCode_fst, convert_to_int hs g rm sat x lo hi, cvtResult_int rm sat lo hi]

/-- R139: the register that FCVT writes. -/
theorem cvtCode_eq (hd : dst ≤ 6 ∨ (12 ≤ dst ∧ dst ≤ 21)) : BitVec.ofNat 64 (cvtCode g src dst rm sat x.toNat).1 =
    Claims.cvtResult dst rm sat (g.bits rm).1 (Claims.cvtSource src x) := by
  obtain small | ⟨lo, hi⟩ := hd
  · obtain float | rfl := Nat.le_or_eq_of_le_succ small
    · exact cvtCode_to_float hs g rm sat x float
    · exact cvtCode_to_e8m0 hs g rm sat x
  · exact cvtCode_to_int hs g rm sat x lo hi

end

/-! #### The words -/

section
variable {h : Hdr} {f : XForm} {s : State} {a : Act} (r : Ready 1 h s a)
include r

theorem execFcvt_waits (sr : f.rm = 5) (away : a.rngReady = false) : execFcvt h f s = .next (s.noteWait 1) :=
  issue_waits r (by simp [srWaits, sr, away])

theorem execFcvt_converts (go : srWaits f.rm.toNat a = false) (hs : f.fn.toNat % 32 ∈ [0, 16, 21])
    (hd : f.fmt.toNat ≤ 6 ∨ (12 ≤ f.fmt.toNat ∧ f.fmt.toNat ≤ 21)) : execFcvt h f s = .next (s.setCur
      (((a.setGen (a.gen.bits f.rm.toNat).2).wg f.d.toNat (Claims.cvtResult f.fmt.toNat f.rm.toNat f.sat (a.gen.bits f.rm.toNat).1
        (Claims.cvtSource (f.fn.toNat % 32) (a.rg f.a.toNat)))).done 1 h s.focus.n)) := by
  rw [← cvtCode_eq hs a.gen f.rm.toNat f.sat _ hd, ← cvtCode_snd a.gen (f.fn.toNat % 32) f.rm.toNat f.sat (a.rg f.a.toNat).toNat]
  exact issue_onAct r (by rw [if_neg (by simp [go])]; rfl) (by simp) (by simp) (by simp) (by simp)

theorem execRnd_draws (there : a.rngReady = true) :
    execRnd h f s = .next (s.setCur (((a.setGen a.gen.draw.2).wg f.d.toNat a.gen.draw.1).done 1 h s.focus.n)) :=
  issue_onAct r (by rw [if_neg (by simp [there])]; rfl) (by simp) (by simp) (by simp) (by simp)

theorem execRnd_waits (away : a.rngReady = false) : execRnd h f s = .next (s.noteWait 1) :=
  issue_waits r (by simp [away])

theorem execRndf_waits (away : a.rngReady = false) : execRndf h f s = .next (s.noteWait 1) :=
  issue_waits r (by simp [away])

theorem execRndf_draws (there : a.rngReady = true) {m : Nat} (hm : [24, 8, 11][f.fmt.toNat]? = some m) :
    execRndf h f s = .next (s.setCur (((a.setGen a.gen.draw.2).wn f.d.toNat
      (f32Bits (.fin false (a.gen.draw.1.toNat / 2 ^ (64 - m)) (2 ^ m)))).done 1 h s.focus.n)) := by
  refine issue_onAct r ?_ (by simp) (by simp) (by simp) (by simp)
  rw [if_neg (by simp [there])]
  generalize f.fmt.toNat = format at hm
  match format, hm with
  | 0, rfl => rfl
  | 1, rfl => rfl
  | 2, rfl => rfl

end

/-- Settles O3: the masks by the order and the class of the values, FCVT by the kinds of its formats, RND and RNDF by one draw. -/
theorem floatCompareClassConvertAndRandomComplete : Obligations.FloatCompareClassConvertAndRandomComplete := by
  intro h f s a r
  refine ⟨alu_writes r rfl, alu_writes r (congrArg (a.wn _) (classMask_eq _)),
    fun hs hd _ => ⟨fun plain => ?plain, fun sr there => ?drawn, execFcvt_waits r⟩,
    fun there => ⟨execRnd_draws r there, fun m => execRndf_draws r there⟩, fun away => ⟨execRnd_waits r away, execRndf_waits r away⟩⟩
  case plain =>
    have mode : f.rm.toNat ≠ 5 := fun h5 => plain (BitVec.eq_of_toNat_eq h5)
    have run := execFcvt_converts r (by simp [srWaits, mode]) hs hd
    rwa [Gen.bits_of_ne_sr _ mode, Act.setGen_gen] at run
  case drawn =>
    have run := execFcvt_converts r (by simp [srWaits, there]) hs hd
    rw [sr] at run
    rwa [sr]

end Sys2Proof.Machine

namespace Sys2Proof.Machine

/-! ### Control transfers (R144, R148, R150) -/

section
variable {s : State} {f : BForm} {a : Act} {taken : Act → CtlRes}

theorem branch_untaken (hc : s.cur = some a) (skip : condTrue f.cond a = false) :
    branch s f taken = .next (s.setCur (Claims.goesOn a ((s.focus.pc + 8) % 2 ^ 48) a.loops)) :=
  frontEnd_go hc (if_neg (by simp [skip]))

theorem branch_taken_go {b : Act} (hc : s.cur = some a) (take : condTrue f.cond a = true) (go : taken a = .go b) :
    branch s f taken = .next (s.setCur b.frontDone) :=
  frontEnd_go hc ((if_pos take).trans go)

theorem branch_taken_fail {code info : Nat} (hc : s.cur = some a) (take : condTrue f.cond a = true) (fails : taken a = .fail code info) :
    branch s f taken = .next (s.raiseCur code info 0 0 0) :=
  frontEnd_fail hc ((if_pos take).trans fails)

end

section
variable {s : State} {t : Nat} {call : Bool} {link : Act → Act} {a : Act}

theorem jumpReg_wide {ncode : Nat} (wide : 2 ^ 48 ≤ t) : jumpReg ncode call t link a = .fail 3 t :=
  if_pos (Nat.div_pos wide (by decide)).ne'

theorem jumpReg_narrow {ncode : Nat} (narrow : t < 2 ^ 48) : jumpReg ncode call t link a = jump ncode call t link a :=
  if_neg (not_not.2 (Nat.div_eq_of_lt narrow))

theorem jumpReg_misaligned {ncode : Nat} (narrow : t < 2 ^ 48) (odd : t % 8 ≠ 0) : jumpReg ncode call t link a = .fail 10 t :=
  (jumpReg_narrow narrow).trans (if_pos odd)

/-- What a transfer does behind the checks of its target (R144, R148). -/
def land (call : Bool) (t : Nat) (link : Act → Act) (a : Act) : CtlRes :=
  if call then
    match a.loops with
    | l :: _ => if l.holds t then .go (link { a with pc := t }) else .fail 4 3
    | [] => .go (link { a with pc := t })
  else .go (link { a with pc := t, loops := a.loops.dropWhile (fun l => !l.holds t) })

theorem jumpReg_good (good : Claims.goodTarget s t) : jumpReg s.ncode call t link a = land call t link a := by
  obtain ⟨narrow, even, coded⟩ := good
  rw [jumpReg_narrow narrow, jump, if_neg (not_not.2 even), if_neg (Bool.eq_false_iff.1 coded)]
  rfl

theorem land_within (within : ∀ l r, a.loops = l :: r → l.holds t = true) : land true t link a = .go (link { a with pc := t }) := by
  rw [land, if_pos rfl]
  cases levels : a.loops with
  | nil => rfl
  | cons l r => exact if_pos (within l r levels)

theorem land_outside {l : Loop} {r : List Loop} (levels : a.loops = l :: r) (outside : l.holds t = false) :
    land true t link a = .fail 4 3 := by
  rw [land, if_pos rfl, levels]
  exact if_neg (Bool.eq_false_iff.1 outside)

end

/-- What a CALL or CALLI does to the link register, and nothing of another transfer (R144). -/
def linkOf (s : State) (i : Instr) : Act → Act := if Claims.links i then linkTo s else id

theorem relTarget_lt (s : State) (f : BForm) : relTarget s f < 2 ^ 48 := by
  unfold relTarget
  omega

theorem relTarget_eq (s : State) (f : BForm) : relTarget s f = (((s.focus.pc : Int) + 8 * f.imm.toInt) % 2 ^ 48).toNat := by
  simp [relTarget]

/-- The five transfers are one conditional transfer to the target of R144. -/
theorem exec_of_target {s : State} {a : Act} {i : Instr} {f : BForm} {t : Nat} (hi : Claims.target s a i = some (f, t)) :
    ∃ taken, exec i s = branch s f taken ∧ taken a = jumpReg s.ncode (Claims.leavesNoLoop i) t (linkOf s i) a := by
  unfold Claims.target at hi
  split at hi <;> cases hi
  case h_1 => exact ⟨_, rfl, rfl⟩
  case h_2 => exact ⟨_, rfl, rfl⟩
  case h_3 => exact ⟨_, rfl, rfl⟩
  case h_4 => exact ⟨_, rfl, by rw [← relTarget_eq, jumpReg_narrow (relTarget_lt s f)]; rfl⟩
  case h_5 => exact ⟨_, rfl, by rw [← relTarget_eq, jumpReg_narrow (relTarget_lt s f)]; rfl⟩

theorem linkOf_branch {i : Instr} (stays : Claims.leavesNoLoop i = false) (s : State) : linkOf s i = id := by
  unfold Claims.leavesNoLoop at stays
  split at stays
  case h_4 noCall noCalli _ =>
    refine if_neg ?_
    unfold Claims.links
    split
    · exact absurd rfl (noCall _)
    · exact absurd rfl (noCalli _)
    · decide
  all_goals exact absurd stays (by decide)

theorem frontDone_linkOf (s : State) (i : Instr) (a : Act) (t : Nat) : (linkOf s i { a with pc := t }).frontDone =
    Claims.goesOn (if Claims.links i then a.wg 63 (BitVec.ofNat 64 ((s.focus.pc + 8) % 2 ^ 48)) else a) t a.loops := by
  unfold linkOf
  split <;> rfl

theorem transfersGoToTheirTarget : Claims.TransfersGoToTheirTarget := by
  intro i s a f t hc hi
  obtain ⟨taken, run, jumps⟩ := exec_of_target hi
  rw [run]
  refine ⟨branch_untaken hc, fun take good =>
    ⟨fun stays => ?branch, fun call within => ?call, fun call l r levels outside => ?fault⟩⟩
  case branch =>
    rw [stays, jumpReg_good good, linkOf_branch stays] at jumps
    exact branch_taken_go hc take jumps
  case call =>
    rw [call, jumpReg_good good, land_within within] at jumps
    rw [branch_taken_go hc take jumps, frontDone_linkOf]
  case fault =>
    rw [call, jumpReg_good good, land_outside levels outside] at jumps
    exact branch_taken_fail hc take jumps

theorem badTargetsFault : Claims.BadTargetsFault := by
  intro i s a f t hc hi take
  obtain ⟨taken, run, jumps⟩ := exec_of_target hi
  rw [run]
  exact ⟨fun wide => branch_taken_fail hc take (jumps.trans (jumpReg_wide wide)),
    fun narrow odd => branch_taken_fail hc take (jumps.trans (jumpReg_misaligned narrow odd))⟩

/-- Settles O30: the five transfers are one conditional transfer, by the checks of its target and the loop levels. -/
theorem transfersReachTheirTargetOrFault : Obligations.TransfersReachTheirTargetOrFault :=
  ⟨transfersGoToTheirTarget, badTargetsFault⟩

end Sys2Proof.Machine

namespace Sys2Proof.Machine

/-! ### Hardware loops (R145, R146) -/

/-! #### LOOP_BACK (R146) -/

section
variable (l : Loop) (r : List Loop)

theorem loopBack_again (more : 0 < l.remain) :
    loopBack l.stop (l :: r) = (l.start, { l with remain := l.remain - 1 } :: r) :=
  (if_pos rfl).trans (if_pos more)

theorem loopBack_pops (last : l.remain = 0) : loopBack l.stop (l :: r) = loopBack l.stop r :=
  (if_pos rfl).trans (if_neg (by omega))

theorem loopBack_inside {pc : Nat} (inside : pc ≠ l.stop) : loopBack pc (l :: r) = (pc, l :: r) := if_neg inside

/-- Every arrival at the end of a level takes one of its remaining iterations. -/
theorem iterate_loopBack {k : Nat} (hk : k ≤ l.remain) : (fun x : Nat × List Loop => loopBack l.stop x.2)^[k] (l.start, l :: r) =
    (l.start, { l with remain := l.remain - k } :: r) := by
  induction k with
  | zero => rfl
  | succ k ih =>
    rw [Function.iterate_succ_apply', ih (by omega)]
    exact loopBack_again { l with remain := l.remain - k } r (Nat.sub_pos_of_lt hk)

end

theorem loopBackFollowsTheRule : Claims.LoopBackFollowsTheRule := by
  refine ⟨?again, ?pops, fun pc l r => loopBack_inside l r, fun pc => rfl, ?count⟩
  case again =>
    rintro pc l r rfl
    exact loopBack_again l r
  case pops =>
    rintro pc l r rfl
    exact loopBack_pops l r
  case count =>
    rintro l r c rfl k hk
    rw [iterate_loopBack l r hk]
    split
    · next first => rw [first]; rfl
    · rfl

/-! #### LOOP and LOOPI (R145) -/

section
variable {s : State} {f : BForm} {a : Act} {count : Act → Nat} {n : Nat}

theorem loopLength_eq (f : BForm) : f.imm.toNat % 65536 = (f.imm.extractLsb' 0 16).toNat := by
  simp [BitVec.extractLsb'_toNat]

/-- LOOP and LOOPI differ in where their count comes from. -/
theorem exec_of_loopCount {i : Instr} (hi : Claims.loopCount a i = some (f, n)) (s : State) :
    ∃ count, exec i s = openLoop s f count ∧ (if condTrue f.cond a then count a else 0) = n := by
  unfold Claims.loopCount at hi
  split at hi <;> cases hi
  case h_1 => exact ⟨_, rfl, by simp [BitVec.extractLsb'_toNat, Act.ug]⟩
  case h_2 =>
    have high : f.imm.toNat / 65536 < 65536 := by omega
    exact ⟨_, rfl, by simp [BitVec.extractLsb'_toNat, Nat.shiftRight_eq_div_pow, Nat.mod_eq_of_lt high]⟩

variable (hc : s.cur = some a) (hn : (if condTrue f.cond a then count a else 0) = n)
include hc hn

theorem openLoop_skips (zero : n = 0) : openLoop s f count = .next (s.setCur (Claims.goesOn a
    (loopBack ((s.seqPc + 8 * (f.imm.extractLsb' 0 16).toNat) % 2 ^ 48) a.loops).1
    (loopBack ((s.seqPc + 8 * (f.imm.extractLsb' 0 16).toNat) % 2 ^ 48) a.loops).2)) :=
  frontEnd_go hc (by simp only [hn, zero, loopLength_eq, if_true])

theorem openLoop_too_deep (positive : 0 < n) (deep : 3 ≤ a.loops.length) : openLoop s f count = .next (s.raiseCur 4 1 0 0 0) :=
  frontEnd_fail hc (by simp only [hn, if_neg positive.ne', if_pos deep])

variable (positive : 0 < n) (room : a.loops.length < 3) (coded : badInline s.ncode s.seqPc = false)
include positive room coded

theorem openLoop_opens
    (within : ∀ l r, a.loops = l :: r → s.seqPc + 8 * (f.imm.extractLsb' 0 16).toNat ≤ l.start + 8 * l.len) :
    openLoop s f count = .next (s.setCur (Claims.goesOn a s.seqPc
      ({ start := s.seqPc, len := (f.imm.extractLsb' 0 16).toNat, remain := n - 1 } :: a.loops))) := by
  refine frontEnd_go hc ?_
  simp only [hn, if_neg positive.ne', if_neg (Nat.not_le.2 room), coded, loopLength_eq]
  cases levels : a.loops with
  | nil => rfl
  | cons l r => exact if_neg (Nat.not_lt.2 (within l r levels))

theorem openLoop_beyond {l : Loop} {r : List Loop} (levels : a.loops = l :: r)
    (beyond : l.start + 8 * l.len < s.seqPc + 8 * (f.imm.extractLsb' 0 16).toNat) :
    openLoop s f count = .next (s.raiseCur 4 2 0 0 0) := by
  refine frontEnd_fail hc ?_
  simp only [hn, if_neg positive.ne', if_neg (Nat.not_le.2 room), coded, loopLength_eq]
  rw [levels]
  exact if_pos beyond

end

theorem loopsOpenOrSkip : Claims.LoopsOpenOrSkip := by
  intro i s a f n hc hi
  obtain ⟨count, run, hn⟩ := exec_of_loopCount hi s
  rw [run]
  exact ⟨openLoop_skips hc hn, openLoop_too_deep hc hn, fun positive room coded => openLoop_opens hc hn positive room coded,
    fun positive room coded _ _ => openLoop_beyond hc hn positive room coded⟩

/-- Settles O31: LOOP and LOOPI by their count and the open levels, and LOOP_BACK by the iterations that remain. -/
theorem loopsFollowTheirCounts : Obligations.LoopsFollowTheirCounts := ⟨loopsOpenOrSkip, loopBackFollowsTheRule⟩

end Sys2Proof.Machine

namespace Sys2Proof.Machine

/-! ### Vector words (R156 to R182) -/

/-! #### The common course (R156, R157) -/

section
variable {h : Hdr} {opc : Nat} {wants : Act → List Want} {waits : Act → Bool} {body : Reads → Act → Sparse Byte → Gen × List Put}
  {s : State} {a : Act} (r : Ready 1 h s a)
include r

theorem vector_fails {reg c : Nat} (bad : checkAll s.hub.featAcc a (wants a) = some (reg, c)) :
    vector h opc wants waits body s = .next (s.raiseCur (checkCode c) (opc + reg * 256 + c * 4096) 0 0 0) :=
  issue_raises r (by rw [bad]; rfl)

variable (passes : checkAll s.hub.featAcc a (wants a) = none)
include passes

theorem vector_waits (away : waits a = true) : vector h opc wants waits body s = .next (s.noteWait 1) :=
  issue_waits r (by rw [passes]; exact if_pos away)

theorem vector_completes (there : waits a = false) :
    let x := body (s.reads a 1).1 a s.spad
    vector h opc wants waits body s = .next (((Claims.drawn s).putSpad s.focus.g .word (s.reads a 1).1.cross
      (s.reads a 1).1.place x.2).setCur ((a.setGen x.1).done 1 h s.focus.n)) := by
  intro x
  refine issue_put (t := (Claims.drawn s).putSpad s.focus.g .word (s.reads a 1).1.cross (s.reads a 1).1.place x.2) (b := a.setGen x.1)
    r ?_ rfl rfl rfl rfl rfl rfl
  rw [passes]
  exact if_neg (by simp [there])

end

/-! #### What the entry of a word says of its effect (R157 to R159, R161) -/

/-- The generator after an elementwise word, and what it writes: at every active index of the space the element of the entry. -/
def elementBody (f : VForm) (e : Claims.Elementwise) (R : Reads) (a : Act) (m : Sparse Byte) : Gen × List Put :=
  let x := e.draws a (sizeOf' (e.space a))
  (x.2, R.walk (sizeOf' (e.space a)) m (fun i src =>
    let ds := digitsOf (e.space a) i
    if f.mask.getLsbD 4 = true ∧ readCode (src maskRead) (a.sh (f.mask.extractLsb' 0 4).toNat)
        (bcast (a.sh (f.mask.extractLsb' 0 4).toNat) ds) = 0 then []
    else e.store a src ds (x.1.getD i 0)))

/-- The generator after a word over rows, and what it writes. -/
def rowBody (e : Claims.Rowwise) (R : Reads) (a : Act) (m : Sparse Byte) : Gen × List Put :=
  R.rows (e.rows a) m a.gen (e.item a R m)

/-- Once the checks have passed, the effect `body` of the word `i` is the one of its entry. -/
structure Follows (i : Instr) (f : VForm) (wants : Act → List Want) (body : Reads → Act → Sparse Byte → Gen × List Put) : Prop where
  element : ∀ {e acc R a m}, Claims.elementwise i = some e → checkAll acc a (wants a) = none → e.here a = true →
    body R a m = elementBody f e R a m
  row : ∀ {e acc R a m}, Claims.rowwise i = some e → checkAll acc a (wants a) = none → e.here a = true → body R a m = rowBody e R a m

/-- The word `i` takes the common course, with the effect of its entry. -/
def TakesCourse (i : Instr) (h : Hdr) (f : VForm) (opc : Nat) (wants : Act → List Want) (waits : Act → Bool) : Prop :=
  ∃ body, (∀ s, exec i s = vector h opc wants waits body s) ∧ Follows i f wants body

theorem mask_toNat (m : BitVec 5) : m.toNat % 16 = (m.extractLsb' 0 4).toNat := by
  simp [BitVec.extractLsb'_toNat]

theorem bitOf_toNat {w : Nat} (x : BitVec w) (k : Nat) : bitOf x.toNat k = x.getLsbD k := by
  rw [bitOf_eq_testBit, BitVec.testBit_toNat]

theorem maskOn_eq : maskOn = Claims.active := by
  funext f a m ds
  rw [maskOn, Claims.active, bitOf_toNat, mask_toNat]
  cases f.mask.getLsbD 4 <;> rfl

/-- Inactive is: masked, by an element that is 0 (R158). -/
theorem active_eq_false_iff {f : VForm} {a : Act} {m : Sparse Byte} {ds : List Nat} : Claims.active f a m ds = false ↔
    f.mask.getLsbD 4 = true ∧ readCode m (a.sh (f.mask.extractLsb' 0 4).toNat) (bcast (a.sh (f.mask.extractLsb' 0 4).toNat) ds) = 0 := by
  simp [Claims.active]

theorem eachElem_eq_elementBody {f : VForm} {e : Claims.Elementwise} {rounds : Act → Bool} (taken : e.draws = Claims.bits f rounds)
    (R : Reads) (a : Act) (m : Sparse Byte) : eachElem f a R (e.space a) (rounds a) m (e.store a) = elementBody f e R a m := by
  simp only [eachElem, elementBody, taken, Claims.bits, maskOn_eq, ← active_eq_false_iff]
  congr 2
  funext i src
  cases Claims.active f a (src maskRead) (digitsOf (e.space a) i) <;> rfl

/-! #### The elementwise words (R165 to R172, R176 to R182) -/

theorem srWaits_eq (rm : BitVec 3) (a : Act) : srWaits rm.toNat a = (rm == 5 && !a.rngReady) := by
  have five : (rm.toNat == 5) = (rm == 5) := by
    rw [Bool.eq_iff_iff, beq_iff_eq, beq_iff_eq, ← BitVec.toNat_inj]
    rfl
  rw [srWaits, five]

theorem elemRounds_eq (f : VForm) (a : Act) (srcs : List Nat) :
    elemRounds (shFmt (a.sh f.hd.toNat)) (srcs.map (fun r => shFmt (a.sh r))) = Claims.rounding f a srcs := by
  rw [elemRounds, List.any_map]
  rfl

section
variable {i : Instr} {h : Hdr} {f : VForm} {opc : Nat} {wants : Act → List Want} {waits : Act → Bool}
  {body : Reads → Act → Sparse Byte → Gen × List Put} {e : Claims.Elementwise}

/-- A word that is elementwise only, and whose effect is the one of its entry. -/
theorem TakesCourse.of_elementBody (run : ∀ s, exec i s = vector h opc wants waits body s) (he : Claims.elementwise i = some e)
    (hr : Claims.rowwise i = none) (effect : ∀ R a m, body R a m = elementBody f e R a m) : TakesCourse i h f opc wants waits := by
  refine ⟨body, run, ⟨fun {e'} _ R a m he' _ _ => ?_, fun hr' => by simp [hr] at hr'⟩⟩
  obtain rfl : e = e' := Option.some.inj (he.symm.trans he')
  exact effect R a m

/-- The same for a word that is done element by element. -/
theorem TakesCourse.of_eachElem {rounds : Act → Bool} {step : Act → (Nat → Sparse Byte) → List Nat → Nat → List Put}
    (run : ∀ s, exec i s = vector h opc wants waits body s) (he : Claims.elementwise i = some e) (hr : Claims.rowwise i = none)
    (effect : ∀ R a m, body R a m = eachElem f a R (e.space a) (rounds a) m (step a)) (taken : e.draws = Claims.bits f rounds)
    (stores : ∀ a src ds b, step a src ds b = e.store a src ds b) : TakesCourse i h f opc wants waits := by
  refine .of_elementBody run he hr (fun R a m => ?_)
  rw [effect, ← eachElem_eq_elementBody taken, show step a = e.store a from by funext src ds b; exact stores a src ds b]

/-- Arithmetic on real formats, or on the parts of complex ones (R166). -/
theorem TakesCourse.of_elementwise {srcs : List Nat} {cplx : Bool} {op : Bool → List Val → Val} {cop : List (Int × Int) → Int × Int}
    (run : ∀ s, exec i s = elementwise h opc f srcs cplx op cop s)
    (he : Claims.elementwise i = some (Claims.real h f srcs (op (f.rm == 3)) cop)) (hr : Claims.rowwise i = none) :
    TakesCourse i h f opc (arithWants f srcs cplx) (Claims.arithWaits f srcs) := by
  simp only [elementwise, elemRounds_eq, srWaits_eq, List.all_map] at run
  exact .of_eachElem run he hr (fun _ _ _ => rfl) rfl (fun _ _ _ _ => rfl)

/-- Codes in, code out (R168, R169). -/
theorem TakesCourse.of_codewise {srcs : List Nat} {op : Act → Nat → List Nat → Nat} {code : Act → (Nat → Sparse Byte) → List Nat → Nat}
    (run : ∀ s, exec i s = codewise h opc f wants srcs op s) (he : Claims.elementwise i = some (Claims.codes h f code))
    (hr : Claims.rowwise i = none)
    (same : ∀ a src ds, op a (Claims.cHD f a) (srcCodes src ds (srcs.map a.sh)) = code a src ds) :
    TakesCourse i h f opc wants (fun _ => false) :=
  .of_eachElem run he hr (fun _ _ _ => rfl) rfl (fun a src ds _ => congrArg (Claims.put f a ds) (same a src ds))

theorem TakesCourse.of_specialWise {fn : Nat} (run : ∀ s, exec i s = specialWise h opc fn f s)
    (he : Claims.elementwise i = some (Claims.specialWise h f fn)) (hr : Claims.rowwise i = none) :
    TakesCourse i h f opc (specialWants f) (srWaits f.rm.toNat) :=
  .of_eachElem run he hr (fun _ _ _ => rfl) rfl (fun _ _ _ _ => rfl)

theorem TakesCourse.of_cplxWise {pair acc : Bool} (run : ∀ s, exec i s = cplxWise h opc f pair acc s)
    (he : Claims.elementwise i = some (Claims.complex h f pair acc)) (hr : Claims.rowwise i = none) :
    TakesCourse i h f opc (cplxWants f pair) (fun _ => false) := by
  refine .of_eachElem run he hr (fun _ _ _ => rfl) rfl (fun a src ds _ => ?_)
  simp only [Claims.complex, cplxMul, bitOf_toNat]
  cases pair <;> cases acc <;> simp [Claims.put, Claims.cHD]

end

/-! #### Items done in a free order (R159, R161) -/

theorem dropAt_eq_eraseIdx {α : Type} (l : List α) (i : Nat) : dropAt l i = l.eraseIdx i := by
  induction l generalizing i with
  | nil => rfl
  | cons x xs ih =>
    cases i with
    | zero => rfl
    | succ i => exact congrArg (x :: ·) (ih i)

/-- A shuffled list has the same members. -/
theorem shuffle_perm (p : Nat) {n : Nat} {l : List Nat} (hl : l.length = n) : (shuffle p n l).Perm l := by
  induction n generalizing p l with
  | zero => rw [List.length_eq_zero_iff.1 hl]; rfl
  | succ n ih =>
    have inside : p % l.length < l.length := Nat.mod_lt _ (by omega)
    rw [shuffle, dropAt_eq_eraseIdx, List.getD_eq_getElem _ _ inside]
    exact ((ih _ (by rw [List.length_eraseIdx_of_lt inside]; omega)).cons _).trans (List.getElem_cons_eraseIdx_perm inside)

theorem mem_shuffle_range {p n i : Nat} : i ∈ shuffle p n (List.range n) ↔ i < n :=
  (shuffle_perm p List.length_range).mem_iff.trans List.mem_range

section
variable {item : Nat → Sparse Byte → Gen × List Put}

/-- Each item is done once, over some scratchpad. -/
theorem find_runItems {i : Nat} {l : List Nat} (hi : i ∈ l) (m : Sparse Byte) :
    ∃ m', (runItems item l m).find? (fun e => e.1 == i) = some (i, item i m') := by
  induction l generalizing m with
  | nil => cases hi
  | cons j l ih =>
    rw [runItems]
    by_cases first : j = i
    · exact ⟨m, by simp [first]⟩
    · obtain ⟨m', found⟩ := ih ((List.mem_cons.1 hi).resolve_left (Ne.symm first)) (putEach m (item j m).2)
      exact ⟨m', by simpa [first] using found⟩

theorem mem_runItems {e : Nat × Gen × List Put} {l : List Nat} {m : Sparse Byte} (he : e ∈ runItems item l m) :
    e.1 ∈ l ∧ ∃ m', e.2 = item e.1 m' := by
  induction l generalizing m with
  | nil => cases he
  | cons j l ih =>
    obtain rfl | later := List.mem_cons.1 he
    · exact ⟨List.mem_cons_self, m, rfl⟩
    · obtain ⟨old, done⟩ := ih later
      exact ⟨List.mem_cons_of_mem j old, done⟩

/-- What the items write, in ascending order, when they are done in the order of a free number. -/
def inOrder (order n : Nat) (m : Sparse Byte) (item : Nat → Sparse Byte → Gen × List Put) : List Put :=
  ((List.range n).map (fun i =>
    (((runItems item (shuffle order n (List.range n)) m).find? (fun e => e.1 == i)).map (fun e => e.2.2)).getD [])).flatten

theorem mem_inOrder {order n : Nat} {m : Sparse Byte} {p : Put} (hp : p ∈ inOrder order n m item) :
    ∃ i < n, ∃ m', p ∈ (item i m').2 := by
  simp only [inOrder, List.mem_flatten, List.mem_map, List.mem_range] at hp
  obtain ⟨_, ⟨i, hi, rfl⟩, hp⟩ := hp
  obtain ⟨m', found⟩ := find_runItems (item := item) (mem_shuffle_range (p := order).2 hi) m
  rw [found] at hp
  exact ⟨i, hi, m', hp⟩

/-- Items that do not depend on what they see write the same in every order. -/
theorem inOrder_of_blind {P : Nat → List Put} {n : Nat} (blind : ∀ i, i < n → ∀ m, (item i m).2 = P i) (order : Nat) (m : Sparse Byte) :
    inOrder order n m item = ((List.range n).map P).flatten := by
  refine congrArg List.flatten (List.map_congr_left fun i hi => ?_)
  have hi : i < n := List.mem_range.1 hi
  obtain ⟨m', found⟩ := find_runItems (item := item) (mem_shuffle_range (p := order).2 hi) m
  rw [found]
  exact blind i hi m'

/-- The writes alone decide what later items see. -/
theorem inOrder_congr {item' : Nat → Sparse Byte → Gen × List Put} (same : ∀ i m, (item i m).2 = (item' i m).2) (order n : Nat)
    (m : Sparse Byte) : inOrder order n m item = inOrder order n m item' := by
  have found : ∀ (l : List Nat) m i, ((runItems item l m).find? (fun e => e.1 == i)).map (fun e => e.2.2) =
      ((runItems item' l m).find? (fun e => e.1 == i)).map (fun e => e.2.2) := by
    intro l
    induction l with
    | nil => exact fun _ _ => rfl
    | cons j l ih =>
      intro m i
      by_cases first : j = i
      · simp [runItems, first, same]
      · simpa [runItems, first, same] using ih _ i
  simp only [inOrder, found]

end

theorem Reads.walk_eq (R : Reads) (n : Nat) (m : Sparse Byte) (item : Nat → (Nat → Sparse Byte) → List Put) :
    R.walk n m item = inOrder R.order n m (fun i now => ({ s0 := 0, s1 := 0 }, item i (fun k => R.see m now (128 * i + k)))) := rfl

theorem Reads.mem_walk {R : Reads} {n : Nat} {m : Sparse Byte} {item : Nat → (Nat → Sparse Byte) → List Put} {p : Put}
    (hp : p ∈ R.walk n m item) : ∃ i < n, ∃ src, p ∈ item i src := by
  obtain ⟨i, hi, _, hp⟩ := mem_inOrder (R.walk_eq n m item ▸ hp)
  exact ⟨i, hi, _, hp⟩

/-- R161: where no element depends on what it sees, the elements are as if done one by one. -/
theorem Reads.walk_of_blind (R : Reads) (n : Nat) (m : Sparse Byte) {item : Nat → (Nat → Sparse Byte) → List Put}
    (blind : ∀ i src src', item i src = item i src') : R.walk n m item = ((List.range n).map (fun i => item i (fun _ => m))).flatten :=
  (R.walk_eq n m item).trans (inOrder_of_blind (fun i _ _ => blind i _ _) _ _)

section
variable (item : Nat → Gen → Sparse Byte → Gen × List Put) (m : Sparse Byte) (g : Gen)

/-- The first `n` rows done in ascending order: the generator and the scratchpad after them, the generator before each, the writes. -/
def ascending (n : Nat) : Gen × Sparse Byte × List Gen × List Put :=
  (List.range n).foldl (fun st i =>
    let x := item i st.1 st.2.1
    (x.1, putEach st.2.1 x.2, st.2.2.1 ++ [st.1], st.2.2.2 ++ x.2)) (g, m, [], [])

theorem ascending_succ (n : Nat) : ascending item m g (n + 1) =
    let st := ascending item m g n
    let x := item n st.1 st.2.1
    (x.1, putEach st.2.1 x.2, st.2.2.1 ++ [st.1], st.2.2.2 ++ x.2) := by
  simp only [ascending, List.range_succ, List.foldl_append, List.foldl_cons, List.foldl_nil]

/-- The generators before the rows, and after the last. -/
def startsOf (n : Nat) : List Gen := (ascending item m g n).2.2.1 ++ [(ascending item m g n).1]

theorem length_starts (n : Nat) : (ascending item m g n).2.2.1.length = n := by
  induction n with
  | zero => rfl
  | succ n ih => simp [ascending_succ, ih]

theorem Reads.rows_eq (R : Reads) (n : Nat) : R.rows n m g item =
    let row := fun i now => item i ((startsOf item m g n).getD i g) now
    ((ascending item m g n).1,
      if (runItems row (shuffle R.order n (List.range n)) m).all (fun e => some e.2.1 == (startsOf item m g n)[e.1 + 1]?) = true then
        inOrder R.order n m row else (ascending item m g n).2.2.2) := by
  dsimp only
  split
  · next free => exact if_pos free
  · next drawn => exact if_neg drawn

theorem mem_ascending {p : Put} {n : Nat} (hp : p ∈ (ascending item m g n).2.2.2) : ∃ i < n, ∃ g' m', p ∈ (item i g' m').2 := by
  induction n with
  | zero => cases hp
  | succ n ih =>
    rw [ascending_succ] at hp
    obtain before | last := List.mem_append.1 hp
    · obtain ⟨i, hi, found⟩ := ih before
      exact ⟨i, by omega, found⟩
    · exact ⟨n, by omega, _, _, last⟩

variable {item m g}

theorem Reads.mem_rows {R : Reads} {n : Nat} {p : Put} (hp : p ∈ (R.rows n m g item).2) : ∃ i < n, ∃ g' m', p ∈ (item i g' m').2 := by
  rw [Reads.rows_eq] at hp
  dsimp only at hp
  split at hp
  · obtain ⟨i, hi, m', hp⟩ := mem_inOrder hp
    exact ⟨i, hi, _, m', hp⟩
  · exact mem_ascending item m g hp

end

section
variable {item : Nat → Gen → Sparse Byte → Gen × List Put} {m : Sparse Byte} {g : Gen}

/-- The first `n` rows in ascending order, each over the scratchpad as it stands: the generator after them, and the writes. -/
def blindRows (item : Nat → Gen → Sparse Byte → Gen × List Put) (m : Sparse Byte) (g : Gen) (n : Nat) : Gen × List Put :=
  (List.range n).foldl (fun st i => ((item i st.1 m).1, st.2 ++ (item i st.1 m).2)) (g, [])

theorem blindRows_succ (n : Nat) : blindRows item m g (n + 1) =
    ((item n (blindRows item m g n).1 m).1, (blindRows item m g n).2 ++ (item n (blindRows item m g n).1 m).2) := by
  simp only [blindRows, List.range_succ, List.foldl_append, List.foldl_cons, List.foldl_nil]

theorem blindRows_writes (n : Nat) :
    (blindRows item m g n).2 = ((List.range n).map (fun i => (item i (blindRows item m g i).1 m).2)).flatten := by
  induction n with
  | zero => rfl
  | succ n ih => simp [blindRows_succ, List.range_succ, ih]

variable (blind : ∀ i g m m', item i g m = item i g m')
include blind

theorem ascending_of_blind (n : Nat) : (ascending item m g n).1 = (blindRows item m g n).1 ∧
    (ascending item m g n).2.2.2 = (blindRows item m g n).2 ∧
    (ascending item m g n).2.2.1 = (List.range n).map (fun i => (blindRows item m g i).1) := by
  induction n with
  | zero => exact ⟨rfl, rfl, rfl⟩
  | succ n ih =>
    obtain ⟨gen, writes, starts⟩ := ih
    simp only [ascending_succ, blindRows_succ, List.range_succ, List.map_append, gen, writes, starts,
      blind n (blindRows item m g n).1 (ascending item m g n).2.1 m, List.map_cons, List.map_nil, and_self]

/-- R161: where no row depends on what it sees, the writes are those of the rows in ascending order. -/
theorem Reads.rows_of_blind (R : Reads) (n : Nat) : R.rows n m g item = blindRows item m g n := by
  obtain ⟨gen, writes, starts⟩ := ascending_of_blind (m := m) (g := g) blind n
  have start : ∀ i, i < n → (startsOf item m g n).getD i g = (blindRows item m g i).1 := fun i hi => by
    rw [startsOf, starts, List.getD_append _ _ _ _ (by simpa using hi)]
    simp [hi]
  rw [Reads.rows_eq, gen, writes]
  refine Prod.ext rfl ?_
  dsimp only
  split
  · rw [blindRows_writes]
    exact inOrder_of_blind (fun i hi m' => by rw [start i hi, blind i _ m' m]) _ _
  · rfl

end

/-- A row that takes nothing from the generator, and whose reads are numbered as those of an element. -/
def Reads.still (R : Reads) (m : Sparse Byte) (item : Nat → (Nat → Sparse Byte) → List Put) (i : Nat) (g : Gen) (now : Sparse Byte) :
    Gen × List Put :=
  (g, item i (fun k => R.see m now (128 * i + k)))

section
variable (R : Reads) (m : Sparse Byte) (g : Gen) (item : Nat → (Nat → Sparse Byte) → List Put)

theorem Reads.ascending_still (n : Nat) :
    (ascending (R.still m item) m g n).1 = g ∧ (ascending (R.still m item) m g n).2.2.1 = List.replicate n g := by
  induction n with
  | zero => exact ⟨rfl, rfl⟩
  | succ n ih => simp only [ascending_succ, Reads.still, ih, List.replicate_succ', and_self]

/-- Rows that take nothing from the generator are done in a free order. -/
theorem Reads.rows_still (n : Nat) : R.rows n m g (R.still m item) = (g, R.walk n m item) := by
  obtain ⟨gen, starts⟩ := R.ascending_still m g item n
  have all : startsOf (R.still m item) m g n = List.replicate (n + 1) g := by rw [startsOf, gen, starts, List.replicate_succ']
  have start : ∀ i, (List.replicate (n + 1) g).getD i g = g := fun i => by
    rw [List.getD_eq_getElem?_getD, List.getElem?_replicate]
    split <;> rfl
  rw [Reads.rows_eq, gen, all, Reads.walk_eq]
  refine congrArg (Prod.mk g) ((if_pos ?free).trans (inOrder_congr ?writes _ _ _))
  case writes => exact fun _ _ => rfl
  case free =>
    refine List.all_eq_true.2 fun e he => ?_
    obtain ⟨old, m', done⟩ := mem_runItems he
    have inside : e.1 < n := mem_shuffle_range.1 old
    rw [done, start, List.getElem?_replicate, if_pos (by omega)]
    exact beq_self_eq_true (some g)

end

section
variable (h : Hdr) (f : VForm)

theorem vneg_takesCourse : TakesCourse (.vneg h f) h f 0x4D (arithWants f [f.ha.toNat] true) (Claims.arithWaits f [f.ha.toNat]) := by
  have negates : (fun l : List (Int × Int) => match l with
      | x :: _ => (-x.1, -x.2)
      | [] => (0, 0)) = fun l => (-(l.headD (0, 0)).1, -(l.headD (0, 0)).2) := by
    funext l
    cases l <;> rfl
  have run : ∀ s, exec (.vneg h f) s = elementwise h 0x4D f [f.ha.toNat] true (fun _ => val1 Val.neg)
      (fun l => (-(l.headD (0, 0)).1, -(l.headD (0, 0)).2)) s := fun s => by
    rw [← negates]
    rfl
  exact .of_elementwise run rfl rfl

/-- A shift by a register's amount reads one source, one by an element's amount two (R169). -/
theorem TakesCourse.of_shift {i : Instr} {h : Hdr} {f : VForm} {opc : Nat} {op : Nat → Int → Nat → Nat}
    (run : ∀ s, exec i s = shift h opc f op s) (hr : Claims.rowwise i = none)
    (he : Claims.elementwise i = some (Claims.codes h f (fun a src ds =>
      op (Claims.cHD f a) (Claims.intAt f a src ds) (Claims.amount f a src ds)))) :
    TakesCourse i h f opc (shiftWants f) (fun _ => false) := by
  unfold shift at run
  refine .of_codewise run he hr (fun a src ds => ?_)
  simp only [bitOf_toNat, Claims.amount, Claims.intAt]
  cases f.fn.getLsbD 0 <;> rfl

theorem vshl_takesCourse : TakesCourse (.vshl h f) h f 0x51 (shiftWants f) (fun _ => false) :=
  .of_shift (op := fun c v n => intCode c f.sat (v * (2 ^ n : Nat))) (fun _ => rfl) rfl rfl

theorem vshr_takesCourse : TakesCourse (.vshr h f) h f 0x52 (shiftWants f) (fun _ => false) :=
  .of_shift (op := fun c v n => wrapTo (fmtWidth c) (v / (2 ^ n : Nat))) (fun _ => rfl) rfl rfl

theorem vcmp_takesCourse : TakesCourse (.vcmp h f) h f 0x53 (vcmpWants f) (fun _ => false) := by
  have run : ∀ s, exec (.vcmp h f) s = execVcmp h f s := fun _ => rfl
  unfold execVcmp at run
  refine .of_eachElem run rfl rfl (fun _ _ _ => rfl) rfl (fun a src ds _ => congrArg (Claims.put f a ds) ?_)
  by_cases any : f.fn.toNat % 16 = 10
  · simp [any, Claims.code]
  by_cases none : f.fn.toNat % 16 = 11
  · simp [none, Claims.code, bne]
  · simp [any, none]

theorem vsel_takesCourse : TakesCourse (.vsel h f) h f 0x54 (vselWants f) (Claims.arithWaits f [f.ha.toNat, f.hb.toNat]) := by
  have run : ∀ s, exec (.vsel h f) s = execVsel h f s := fun _ => rfl
  simp only [execVsel, srcAB, elemRounds_eq, srWaits_eq] at run
  refine .of_eachElem run rfl rfl (fun _ _ _ => rfl) rfl (fun a src ds b => congrArg (Claims.put f a ds) ?_)
  simp only [Claims.ints, List.all_cons, List.all_nil, Bool.and_true, bne_iff_ne]
  rfl

theorem fill_parts (x : BitVec 64) : (signed 32 (x.toNat % 2 ^ 32), signed 32 (x.toNat / 2 ^ 32)) =
    ((x.extractLsb' 0 32).toInt, (x.extractLsb' 32 32).toInt) := by
  have part : ∀ lo, (x.extractLsb' lo 32).toInt = signed 32 (x.toNat / 2 ^ lo) := fun lo => by
    rw [← BitVec.setWidth_eq (x.extractLsb' lo 32), ← signed_toNat _ (by decide), BitVec.extractLsb'_toNat, Nat.shiftRight_eq_div_pow]
    simp [signed]
  rw [part, part]
  simp [signed]

theorem vfill_takesCourse : TakesCourse (.vfill h f) h f 0x45 (fillWants f) (fun a => fillRounds f a && srWaits f.rm.toNat a) := by
  have run : ∀ s, exec (.vfill h f) s = execVfill h f s := fun _ => rfl
  unfold execVfill at run
  refine .of_eachElem run rfl rfl (fun _ _ _ => rfl) rfl (fun a src ds b => congrArg (Claims.put f a ds) ?_)
  simp only [Act.ug, fill_parts]
  rfl

theorem vcmul_takesCourse : TakesCourse (.vcmul h f) h f 0x5F (cplxWants f (f.fn.getLsbD 0)) (fun _ => false) := by
  have run : ∀ s, exec (.vcmul h f) s = cplxWise h 0x5F f (bitOf f.fn.toNat 0) false s := fun _ => rfl
  rw [bitOf_toNat] at run
  exact .of_cplxWise run rfl rfl

/-- An index outside the source is clamped to it, or gives 0 (R179). -/
theorem gather_index (g : Nat → Nat) (clamp : Bool) (v : Int) (n : Nat) :
    (if (decide (0 ≤ v) && decide (v < n) || clamp) = true then g (max 0 (min v ((n : Int) - 1))).toNat else 0) =
      if 0 ≤ v ∧ v < n then g v.toNat else if clamp = true then g (if v < 0 then 0 else n - 1) else 0 := by
  by_cases inside : 0 ≤ v ∧ v < n
  · simp [inside, show v ≤ (n : Int) - 1 by omega]
  · have index : (max 0 (min v ((n : Int) - 1))).toNat = if v < 0 then 0 else n - 1 := by split <;> omega
    simp [inside, index]

theorem vgath_takesCourse : TakesCourse (.vgath h f) h f 0x61 (vgathWants f) (fun _ => false) := by
  have run : ∀ s, exec (.vgath h f) s = execVgath h f s := fun _ => rfl
  unfold execVgath at run
  refine .of_eachElem run rfl rfl (fun _ _ _ => rfl) rfl (fun a src ds b => congrArg (Claims.put f a ds) ?_)
  rw [bitOf_toNat]
  exact gather_index (fun i => readCode (src 0) (a.sh f.ha.toNat) (digitsOf (shExts (a.sh f.ha.toNat)) i)) _ _ _

theorem vscat_takesCourse : TakesCourse (.vscat h f) h f 0x62 (vscatWants f) (fun _ => false) := by
  have run : ∀ s, exec (.vscat h f) s = execVscat h f s := fun _ => rfl
  unfold execVscat at run
  refine .of_eachElem run rfl rfl (fun _ _ _ => rfl) rfl (fun a src ds b => ?_)
  simp [Claims.put]

theorem vtrans_takesCourse : TakesCourse (.vtrans h f) h f 0x63 (vtransWants f) (fun _ => false) := by
  have run : ∀ s, exec (.vtrans h f) s = execVtrans h f s := fun _ => rfl
  unfold execVtrans at run
  exact .of_eachElem run rfl rfl (fun _ _ _ => rfl) rfl (fun a src ds b => rfl)

end
/-! #### What the checks give (R156) -/

/-- The checks pass: every register that the word names was written, and its record passes. -/
theorem checkAll_eq_none {acc : Nat} {a : Act} {ws : List Want} :
    checkAll acc a ws = none ↔ ∀ w ∈ ws, ∃ x, a.shape w.reg = some x ∧ shCheck acc w x = 0 := by
  induction ws with
  | nil => simp [checkAll]
  | cons w ws ih =>
    cases found : a.shape w.reg with
    | none => simp [checkAll, found]
    | some x =>
      by_cases good : shCheck acc w x = 0
      · simp [checkAll, found, good, ih]
      · simp [checkAll, found, good]

/-- A record that passes has a format that the word takes and extents that fit. -/
theorem takes_of_shCheck {acc x : Nat} {w : Want} (good : shCheck acc w x = 0) : w.fmt (shFmt x) = true ∧ w.fits x = true := by
  unfold shCheck at good
  dsimp only at good
  refine ⟨by_contra fun fmt => ?_, by_contra fun fits => ?_⟩
  · rw [if_pos (by simp [fmt])] at good
    cases good
  · split_ifs at good
    next within _ _ => exact fits (by simpa using within)

theorem sh_of_shape {a : Act} {n x : Nat} (found : a.shape n = some x) : a.sh n = x := by
  rw [Act.sh, found, Option.getD_some]

theorem takes_of_checkAll {acc : Nat} {a : Act} {ws : List Want} {w : Want} (passes : checkAll acc a ws = none) (named : w ∈ ws) :
    w.fmt (shFmt (a.sh w.reg)) = true ∧ w.fits (a.sh w.reg) = true ∧ a.shape w.reg = some (a.sh w.reg) := by
  obtain ⟨x, found, good⟩ := checkAll_eq_none.1 passes w named
  obtain rfl := sh_of_shape found
  obtain ⟨fmt, fits⟩ := takes_of_shCheck good
  exact ⟨fmt, fits, found⟩

/-! #### Words that are elementwise in some formats only (R166, R172), and random elements (R182) -/

section
variable {i : Instr} {h : Hdr} {f : VForm} {opc : Nat} {wants : Act → List Want} {waits : Act → Bool}
  {body : Reads → Act → Sparse Byte → Gen × List Put} {e : Claims.Elementwise} {x : Claims.Rowwise} {block : Act → Bool}

/-- A word that works by rows where HD holds blocks, and by elements elsewhere. -/
theorem TakesCourse.of_either (run : ∀ s, exec i s = vector h opc wants waits body s) (he : Claims.elementwise i = some e)
    (hx : Claims.rowwise i = some x) (elems : ∀ a, e.here a = !block a) (rows : ∀ a, x.here a = block a)
    (row : ∀ R a m, block a = true → body R a m = rowBody x R a m)
    (element : ∀ R a m, block a = false → body R a m = elementBody f e R a m) : TakesCourse i h f opc wants waits := by
  refine ⟨body, run, ⟨fun {e'} _ R a m he' _ here => ?_, fun {x'} _ R a m hx' _ here => ?_⟩⟩
  · obtain rfl : e = e' := Option.some.inj (he.symm.trans he')
    exact element R a m (by simpa [elems] using here)
  · obtain rfl : x = x' := Option.some.inj (hx.symm.trans hx')
    exact row R a m ((rows a).symm.trans here)

/-- A word that works by rows only. -/
theorem TakesCourse.of_rowBody (run : ∀ s, exec i s = vector h opc wants waits body s)
    (he : Claims.elementwise i = none) (hx : Claims.rowwise i = some x) (effect : ∀ R a m, body R a m = rowBody x R a m) :
    TakesCourse i h f opc wants waits := by
  refine ⟨body, run, ⟨fun he' => by simp [he] at he', fun {x'} _ R a m hx' _ _ => ?_⟩⟩
  obtain rfl : x = x' := Option.some.inj (hx.symm.trans hx')
  exact effect R a m

end

section
variable (h : Hdr) (f : VForm)

/-- The significand of a random float in each format that HD may have (R182). -/
theorem random_significand {c : Nat} (float : c ≤ 2) : [24, 8, 11].getD c 24 = if c = 0 then 24 else if c = 1 then 8 else 11 := by
  interval_cases c <;> rfl

theorem vrnd_takesCourse : TakesCourse (.vrnd h f) h f 0x64 (vrndWants f) (fun a => !a.rngReady) := by
  have run : ∀ s, exec (.vrnd h f) s = execVrnd h f s := fun _ => rfl
  unfold execVrnd at run
  refine ⟨_, run, ⟨fun {e _ R a m} he passes _ => ?_, fun hr => by cases hr⟩⟩
  cases he
  have fmt : shFmt (a.sh f.hd.toNat) ≤ 2 ∨ isInt (shFmt (a.sh f.hd.toNat)) = true := by
    simpa using (takes_of_checkAll passes List.mem_cons_self).1
  have number : ∀ (l : List (BitVec 64)) i, (l.map BitVec.toNat).getD i 0 = (l.getD i 0).toNat := fun l i =>
    l.getD_map (0 : BitVec 64) BitVec.toNat
  simp only [elementBody, maskOn_eq, ← active_eq_false_iff, Claims.put, Claims.cHD, Claims.ofHD, number]
  congr 2
  funext i src
  cases Claims.active f a (src maskRead) (digitsOf (shExts (a.sh f.hd.toNat)) i)
  · rfl
  · by_cases int : isInt (shFmt (a.sh f.hd.toNat)) = true
    · simp only [int, if_true, Bool.true_eq_false, if_false]
    · simp only [random_significand (fmt.resolve_right int), if_true, Bool.true_eq_false, if_false]
      rfl

end
section
variable (h : Hdr) (f : VForm)

theorem vmov_takesCourse : TakesCourse (.vmov h f) h f 0x44 (moveWants f) (fun _ => false) := by
  have run : ∀ s, exec (.vmov h f) s = execVmov h f s := fun _ => rfl
  simp only [execVmov, maskOn_eq] at run
  refine .of_either (block := fun a => decide (Claims.cHD f a = 10)) run rfl rfl (fun a => decide_not) (fun _ => rfl)
    (fun R a m slots => ?_) (fun R a m plain => ?_)
  · exact (if_pos (of_decide_eq_true slots)).trans (Reads.rows_still R m a.gen _ _).symm
  · rw [← eachElem_eq_elementBody (rounds := fun _ => false) rfl]
    exact if_neg (of_decide_eq_false plain)

theorem vcvt_takesCourse : TakesCourse (.vcvt h f) h f 0x55 (vcvtWants f) (fun a => vcvtRounds f a && srWaits f.rm.toNat a) := by
  have run : ∀ s, exec (.vcvt h f) s = execVcvt h f s := fun _ => rfl
  simp only [execVcvt] at run
  refine .of_either (block := fun a => isBlock (Claims.cHD f a)) run rfl rfl (fun a => rfl) (fun _ => rfl)
    (fun R a m blocks => ?_) (fun R a m plain => ?_)
  · exact if_pos blocks
  · rw [← eachElem_eq_elementBody (rounds := vcvtRounds f) rfl]
    exact if_neg (ne_true_of_eq_false plain)

end

/-! #### The words over rows (R173 to R175) -/

/-- An element counts where it is active. -/
theorem foldl_filterMap_ite {α β γ : Type} (on : α → Bool) (v : α → β) (step : γ → β → γ) (l : List α) (x : γ) :
    (l.filterMap (fun j => if on j = true then some (v j) else none)).foldl step x =
      l.foldl (fun x j => if on j = true then step x (v j) else x) x := by
  rw [List.foldl_filterMap]
  congr 1
  funext x j
  cases on j <;> rfl

/-- The bits of a rounding are taken for each value of a group, one after another. -/
theorem foldl_bits {rm : Nat} (write : Val → Nat → Nat → Put) (vs : List Val) (k : Nat) (g : Gen) (l : List Put) :
    (vs.zipIdx k).foldl (fun st e => ((st.1.bits rm).2, st.2 ++ [write e.1 e.2 (st.1.bits rm).1])) (g, l) =
      ((bitsList true rm vs.length g).2,
        l ++ (List.range vs.length).map (fun j => write (vs.getD j .nan) (k + j) ((bitsList true rm vs.length g).1.getD j 0))) := by
  induction vs generalizing k g l with
  | nil => simp [bitsList]
  | cons v vs ih =>
    rw [List.zipIdx_cons, List.foldl_cons, ih]
    simp [bitsList, List.range_succ_eq_map, Function.comp_def, Nat.add_assoc, Nat.add_comm 1]

/-- The write of an element of a group of VQUANT, at index `gd` of the scales (R173). -/
def quantPut (f : VForm) (a : Act) (gd : List Nat) (finite : Bool) (scale : Val) (v : Val) (j b : Nat) : Put :=
  putCode (a.sh f.hd.toNat) ((8 * 2 ^ (f.fn.toNat % 8) * gd.getD 0 0 + j) :: gd.tail)
    (if finite && !scale.isZero then storeVal (shFmt (a.sh f.hd.toNat)) f.rm.toNat true false b (v.div scale) else 0)

/-- A step of VSCAN at element `j`: the generator, the writes, the sum so far, and the element that waits for a later one (log 27). -/
def scanStep (f : VForm) (a : Act) (R : Reads) (m now : Sparse Byte) (x : Gen × List Put × Option Val × Option Val) (j : Nat) :
    Gen × List Put × Option Val × Option Val :=
  let r := a.sh f.ha.toNat
  let op := f.fn.toNat / 4 % 8
  let ds := digitsOf (shExts r) j
  let src := fun k => R.see m (putEach now x.2.1) (8 * j + k)
  if !Claims.active f a (src maskRead) ds then x else
  let sum := match x.2.2.2 with
    | none => (x.2.2.1, x.1)
    | some v => accStep op f.fmt.toNat f.rm.toNat f.sat (x.2.2.1, x.1) v
  let v := readVal (src 0) r ds
  let sum := if f.fn.getLsbD 5 then sum else accStep op f.fmt.toNat f.rm.toNat f.sat sum v
  let p := accStore f op f.fmt.toNat (shFmt r) (a.sh f.hd.toNat) ds sum.2 (sum.1.getD (.fin false 0 1))
  (p.1, x.2.1 ++ [p.2], sum.1, if f.fn.getLsbD 5 then some v else none)

/-- Only an exclusive scan has an element that waits. -/
theorem foldl_scanStep (f : VForm) (a : Act) (R : Reads) (m now : Sparse Byte) (js : List Nat) (g : Gen) (l : List Put)
    (acc last : Option Val) :
    let x := js.foldl (scanStep f a R m now) (g, l, acc, if f.fn.getLsbD 5 then last else none)
    (x.1, x.2.1) = Claims.scanRow f a R m now js g l acc last := by
  induction js generalizing g l acc last with
  | nil => rfl
  | cons j js ih =>
    dsimp only
    rw [List.foldl_cons, scanStep, Claims.scanRow]
    dsimp only
    by_cases off : (!Claims.active f a (R.see m (putEach now l) (8 * j + maskRead)) (digitsOf (shExts (a.sh f.ha.toNat)) j)) = true
    · rw [if_pos off, if_pos off]
      exact ih g l acc last
    · rw [if_neg off, if_neg off, ← ih]
      cases f.fn.getLsbD 5 <;> rfl

section
variable (h : Hdr) (f : VForm)

theorem vred_takesCourse : TakesCourse (.vred h f) h f 0x57 (vredWants f) (accWaits f (f.fn.toNat / 4 % 8) f.fmt.toNat) := by
  have run : ∀ s, exec (.vred h f) s = execVred h f s := fun _ => rfl
  unfold execVred at run
  rw [maskOn_eq] at run
  refine .of_rowBody run rfl rfl (fun R a m => congrArg (R.rows _ m a.gen) ?_)
  clear run
  funext o g now
  dsimp only [Claims.reduction, Claims.ofHD]
  rw [foldl_filterMap_ite]
  generalize List.foldl _ _ _ = total
  obtain ⟨_ | v, g'⟩ := total <;> rfl

theorem vquant_takesCourse : TakesCourse (.vquant h f) h f 0x56 (vquantWants f) (srWaits f.rm.toNat) := by
  have run : ∀ s, exec (.vquant h f) s = execVquant h f s := fun _ => rfl
  unfold execVquant at run
  refine .of_rowBody run rfl rfl (fun R a m => congrArg (R.rows _ m a.gen) ?_)
  clear run
  funext i g now
  rw [bitOf_toNat]
  refine (foldl_bits (quantPut f a _ _ _) _ 0 g _).trans ?_
  simp only [List.length_map, List.length_range, Nat.zero_add]
  rfl

theorem vscan_takesCourse : TakesCourse (.vscan h f) h f 0x58 (vscanWants f) (accWaits f (f.fn.toNat / 4 % 8) f.fmt.toNat) := by
  have run : ∀ s, exec (.vscan h f) s = execVscan h f s := fun _ => rfl
  unfold execVscan at run
  rw [maskOn_eq] at run
  refine .of_rowBody run rfl rfl (fun R a m => congrArg (R.rows _ m a.gen) ?_)
  clear run
  funext i g now
  have scan := foldl_scanStep f a R m now ((List.range (shExt (a.sh f.ha.toNat) 0)).map (fun k => i * shExt (a.sh f.ha.toNat) 0 + k))
    g [] none none
  rw [ite_self, List.foldl_map] at scan
  refine Eq.trans (congrArg (fun step => let x := (List.range (shExt (a.sh f.ha.toNat) 0)).foldl step (g, [], none, none)
    (x.1, x.2.1)) ?_) scan
  rw [bitOf_toNat]
  funext x k
  unfold scanStep
  cases f.fn.getLsbD 5 <;> rfl

end

/-! #### Every vector word -/

section
variable {i : Instr} {h : Hdr} {f : VForm} {opc : Nat} {wants : Act → List Want} {waits : Act → Bool}

theorem takesCourse_of_vectorWord (hi : Claims.vectorWord i = some (h, f, opc, wants, waits)) : TakesCourse i h f opc wants waits := by
  unfold Claims.vectorWord at hi
  split at hi <;> cases hi
  case h_1 => exact vmov_takesCourse h f
  case h_2 => exact vfill_takesCourse h f
  case h_3 => exact .of_elementwise (op := fun dn => val2 (Val.add dn)) (fun _ => rfl) rfl rfl
  case h_4 => exact .of_elementwise (op := fun dn => val2 (Val.sub dn)) (fun _ => rfl) rfl rfl
  case h_5 => exact .of_elementwise (op := fun _ => val2 Val.mul) (fun _ => rfl) rfl rfl
  case h_6 => exact .of_elementwise (op := fun dn => val3 (fun x y z => (x.mul y).add dn z)) (fun _ => rfl) rfl rfl
  case h_7 => exact .of_elementwise (op := fun _ => val2 Val.min2) (fun _ => rfl) rfl rfl
  case h_8 => exact .of_elementwise (op := fun _ => val2 Val.max2) (fun _ => rfl) rfl rfl
  case h_9 => exact .of_elementwise (op := fun _ => val1 Val.abs) (fun _ => rfl) rfl rfl
  case h_10 => exact vneg_takesCourse h f
  case h_11 => exact .of_codewise (op := fun _ _ => code2 (· &&& ·)) (fun _ => rfl) rfl rfl (fun _ _ _ => rfl)
  case h_12 => exact .of_codewise (op := fun _ _ => code2 (· ||| ·)) (fun _ => rfl) rfl rfl (fun _ _ _ => rfl)
  case h_13 => exact .of_codewise (op := fun _ _ => code2 (· ^^^ ·)) (fun _ => rfl) rfl rfl (fun _ _ _ => rfl)
  case h_14 => exact vshl_takesCourse h f
  case h_15 => exact vshr_takesCourse h f
  case h_16 => exact vcmp_takesCourse h f
  case h_17 => exact vsel_takesCourse h f
  case h_18 => exact vcvt_takesCourse h f
  case h_19 => exact vquant_takesCourse h f
  case h_20 => exact vred_takesCourse h f
  case h_21 => exact vscan_takesCourse h f
  case h_22 => exact .of_specialWise (fun _ => rfl) rfl rfl
  case h_23 => exact .of_specialWise (fun _ => rfl) rfl rfl
  case h_24 => exact .of_specialWise (fun _ => rfl) rfl rfl
  case h_25 => exact .of_specialWise (fun _ => rfl) rfl rfl
  case h_26 => exact .of_specialWise (fun _ => rfl) rfl rfl
  case h_27 => exact .of_specialWise (fun _ => rfl) rfl rfl
  case h_28 => exact vcmul_takesCourse h f
  case h_29 => exact .of_cplxWise (fun _ => rfl) rfl rfl
  case h_30 => exact vgath_takesCourse h f
  case h_31 => exact vscat_takesCourse h f
  case h_32 => exact vtrans_takesCourse h f
  case h_33 => exact vrnd_takesCourse h f

/-- What a word does that completes by `body`. -/
theorem TakesCourse.exec_eq {s : State} {a : Act} (course : TakesCourse i h f opc wants waits) (r : Ready 1 h s a)
    (passes : checkAll s.hub.featAcc a (wants a) = none) (there : waits a = false) {x : Gen × List Put}
    (effect : ∀ {body}, Follows i f wants body → body (s.reads a 1).1 a s.spad = x) :
    exec i s = .next (((Claims.drawn s).putSpad s.focus.g .word (s.reads a 1).1.cross (s.reads a 1).1.place x.2).setCur
      ((a.setGen x.1).done 1 h s.focus.n)) := by
  obtain ⟨body, run, follows⟩ := course
  rw [run, vector_completes r passes there, effect follows]

end

/-- Settles O13: the three ends of the one course that every vector word takes. -/
theorem vectorWordsCheckAndComplete : Obligations.VectorWordsCheckAndComplete := by
  intro i s a h f opc wants waits hi r
  obtain ⟨body, run, -⟩ := takesCourse_of_vectorWord hi
  simp only [run]
  refine ⟨fun reg c bad => ?_, vector_waits r, fun passes there => ⟨_, _, vector_completes r passes there⟩⟩
  rw [vector_fails r bad, Nat.mul_comm reg, Nat.mul_comm c]
  rfl

/-- Settles O15: blind elements are the same in every order, and each elementwise word follows its entry. -/
theorem elementwiseWordsStoreEachElement : Obligations.ElementwiseWordsStoreEachElement :=
  ⟨fun R n m _ blind => R.walk_of_blind n m blind, fun _ _ _ _ _ _ _ _ _ hi he r passes there here =>
    (takesCourse_of_vectorWord hi).exec_eq r passes there (fun follows => follows.element he passes here)⟩

theorem rowWordsStoreEachRow : Claims.RowWordsStoreEachRow :=
  ⟨fun R n _ _ _ blind => R.rows_of_blind blind n, fun _ _ _ _ _ _ _ _ _ hi he r passes there here =>
    (takesCourse_of_vectorWord hi).exec_eq r passes there (fun follows => follows.row he passes here)⟩

/-! #### What a vector word leaves alone (R157, R158) -/

/-- The scratchpad `m'` differs from `m` in bytes of `D` only. -/
structure Keeps (D : Nat → Prop) (m m' : Sparse Byte) : Prop where
  canonical : m'.canonical 0 = true
  same : ∀ y, ¬ D y → m'.get 0 y = m.get 0 y

section
variable {D : Nat → Prop} {m m' m'' : Sparse Byte}

theorem Keeps.refl (h : m.canonical 0 = true) : Keeps D m m := ⟨h, fun _ _ => rfl⟩

theorem Keeps.trans (h : Keeps D m m') (h' : Keeps D m' m'') : Keeps D m m'' :=
  ⟨h'.canonical, fun y hy => (h'.same y hy).trans (h.same y hy)⟩

theorem sorted_of_canonical (h : m.canonical 0 = true) : m.sorted = true := (Bool.and_eq_true_iff.1 h).1

theorem keeps_put (h : m.canonical 0 = true) {x : Nat} (hx : D x) (v : Byte) : Keeps D m (m.put 0 x v) :=
  ⟨Sparse.canonical_put h x v, fun _ hy => Sparse.get_put_other (sorted_of_canonical h) v (fun e => hy (e ▸ hx))⟩

theorem keeps_putBytes (h : m.canonical 0 = true) {x : Nat} {bs : List Byte} (inside : ∀ y, x ≤ y → y < x + bs.length → D y) :
    Keeps D m (putBytes m x bs) := by
  refine ⟨canonical_putBytes h x bs, fun y hy => get_putBytes_other (sorted_of_canonical h) x bs ?_⟩
  by_contra within
  exact hy (inside y (by omega) (by omega))

theorem keeps_spadStore (h : m.canonical 0 = true) {F x : Nat} (inside : ∀ y, x ≤ y → y < x + fmtBytes F → D y) (hi : Bool)
    (code : Nat) : Keeps D m (spadStore m F hi x code) := by
  refine ⟨canonical_spadStore h F hi x code, fun y hy => get_spadStore_other h F hi x code ?_⟩
  by_contra within
  exact hy (inside y (by omega) (by omega))

end

/-- A write whose bytes lie in `D`. -/
structure Put.Inside (D : Nat → Prop) (p : Put) : Prop where
  bytes : ∀ y, p.at_ ≤ y → y < p.at_ + p.len → D y
  keeps : ∀ {m : Sparse Byte}, m.canonical 0 = true → Keeps D m (p.act m)

section
variable {D : Nat → Prop} {m : Sparse Byte} {p : Put}

theorem inside_putOf {x : Nat} {bs : List Byte} (inside : ∀ y, x ≤ y → y < x + bs.length → D y) : (putOf x bs).Inside D :=
  ⟨inside, fun h => keeps_putBytes h inside⟩

theorem inside_spadPut {F x : Nat} (hi : Bool) (code : Nat) (inside : ∀ y, x ≤ y → y < x + fmtBytes F → D y) :
    (spadPut F hi x code).Inside D :=
  ⟨inside, fun h => keeps_spadStore h inside hi code⟩

/-- The bytes of a crossing write that stand are bytes of the write (R163). -/
theorem Put.Inside.keeps_over (hp : p.Inside D) (h : m.canonical 0 = true) (c : Cell) : Keeps D m (c.over p m) := by
  unfold Cell.over
  generalize c.new.zipIdx = l
  induction l generalizing m with
  | nil => exact .refl h
  | cons e l ih =>
    rw [List.foldl_cons]
    split
    · next within =>
      simp only [Bool.and_eq_true, decide_eq_true_eq] at within
      have step : Keeps D m (m.put 0 (c.at_ + e.2) e.1) := keeps_put h (hp.bytes _ within.1 within.2) e.1
      exact step.trans (ih step.canonical)
    · exact ih h

theorem Put.Inside.keeps_under (hp : p.Inside D) (h : m.canonical 0 = true) (cross : List (Cell × Bool)) : Keeps D m (p.under m cross) := by
  induction cross with
  | nil => exact hp.keeps h
  | cons c cross ih =>
    rw [Put.under]
    split
    · exact ih.trans (hp.keeps_over ih.canonical c.1)
    · split
      · exact hp.keeps h
      · exact ih

/-- One write of an access, among the writes that crossed it, noted for the accesses that go on. -/
def putStep (src : SpadSrc) (cross : List (Cell × Bool)) (place : Nat) (st : Sparse Byte × List Cell) (e : Put × Nat) :
    Sparse Byte × List Cell :=
  let m := e.1.under st.1 (cross.take (digitAt place (cross.length + 1) e.2))
  (m, { src := src, at_ := e.1.at_, old := bytesAt st.1 e.1.at_ e.1.len, new := bytesAt m e.1.at_ e.1.len } :: st.2)

theorem putSpad_spad (s : State) (src : SpadSrc) (cross : List (Cell × Bool)) (place : Nat) (l : List Put) :
    (s.putSpad s.focus.g src cross place l).spad = (l.zipIdx.foldl (putStep src cross place) (s.spad, [])).1 := by
  simp only [State.spad, State.putSpad, State.modEng, eng_setEng_same, State.setEng_focus]
  rfl

theorem keeps_foldl_putStep (src : SpadSrc) (cross : List (Cell × Bool)) (place : Nat) {l : List (Put × Nat)}
    (hl : ∀ e ∈ l, e.1.Inside D) {st : Sparse Byte × List Cell} (h : st.1.canonical 0 = true) :
    Keeps D st.1 (l.foldl (putStep src cross place) st).1 := by
  induction l generalizing st with
  | nil => exact .refl h
  | cons e l ih =>
    have step : Keeps D st.1 (putStep src cross place st e).1 := (hl e List.mem_cons_self).keeps_under h _
    exact step.trans (ih (fun e' he' => hl e' (List.mem_cons_of_mem _ he')) step.canonical)

theorem keeps_putSpad {s : State} (h : s.spad.canonical 0 = true) (src : SpadSrc) (cross : List (Cell × Bool)) (place : Nat)
    {l : List Put} (hl : ∀ p ∈ l, p.Inside D) : Keeps D s.spad (s.putSpad s.focus.g src cross place l).spad := by
  rw [putSpad_spad]
  exact keeps_foldl_putStep (st := (s.spad, [])) src cross place (fun e he => hl _ ((List.mem_zipIdx' he).2 ▸ List.getElem_mem _)) h

end

/-! #### The elements of an index space (R151, R152, R157) -/

/-- An index of a space of four dimensions. -/
def InSpace (space ds : List Nat) : Prop :=
  ∃ i0 i1 i2 i3, ds = [i0, i1, i2, i3] ∧ i0 < space.getD 0 1 ∧ i1 < space.getD 1 1 ∧ i2 < space.getD 2 1 ∧ i3 < space.getD 3 1

theorem inSpace_digitsOf {e0 e1 e2 e3 n : Nat} (hn : n < sizeOf' [e0, e1, e2, e3]) : InSpace [e0, e1, e2, e3] (digitsOf [e0, e1, e2, e3] n) := by
  have size : sizeOf' [e0, e1, e2, e3] = e0 * e1 * e2 * e3 := by simp [sizeOf']
  rw [size] at hn
  have pos : 0 < e0 * e1 * e2 * e3 := by omega
  have pos2 : 0 < e0 * e1 * e2 := Nat.pos_of_mul_pos_right pos
  have pos1 : 0 < e0 * e1 := Nat.pos_of_mul_pos_right pos2
  exact ⟨_, _, _, _, rfl, Nat.mod_lt _ (Nat.pos_of_mul_pos_right pos1), Nat.mod_lt _ (Nat.pos_of_mul_pos_left pos1),
    Nat.mod_lt _ (Nat.pos_of_mul_pos_left pos2), Nat.div_lt_of_lt_mul hn⟩

theorem inSpace_shExts {r n : Nat} (hn : n < sizeOf' (shExts r)) : InSpace (shExts r) (digitsOf (shExts r) n) := inSpace_digitsOf hn

/-- The elements of a group of `n` along dimension 0. -/
theorem inSpace_of_group {e0 e1 e2 e3 n j : Nat} {ds : List Nat} (h : InSpace [e0 / n, e1, e2, e3] ds) (hj : j < n) :
    InSpace [e0, e1, e2, e3] ((n * ds.getD 0 0 + j) :: ds.tail) := by
  obtain ⟨i0, i1, i2, i3, rfl, h0, h1, h2, h3⟩ := h
  have group : i0 < e0 / n := h0
  have whole : n * (i0 + 1) ≤ e0 := (Nat.mul_le_mul_left n group).trans (Nat.mul_div_le e0 n)
  exact ⟨n * i0 + j, i1, i2, i3, rfl, show n * i0 + j < e0 by rw [Nat.mul_succ] at whole; omega, h1, h2, h3⟩

section
variable {D : Nat → Prop} {r : Nat} {ds : List Nat} (at_ : InSpace (shExts r) ds) (all : ∀ y, Claims.inTensor r y → D y)
include at_ all

/-- The bytes of a slot, or of an element. -/
theorem bytes_elem {y : Nat} (lo : elemAddr r ds ≤ y)
    (hi : y < elemAddr r ds + if shFmt r = 10 then 128 else fmtBytes (elemFmt (shFmt r))) : D y := by
  obtain ⟨i0, i1, i2, i3, rfl, h0, h1, h2, h3⟩ := at_
  exact all y ⟨i0, i1, i2, i3, h0, h1, h2, h3, .inl ⟨lo, hi⟩⟩

theorem inside_putCode (code : Nat) : (putCode r ds code).Inside D := by
  refine inside_spadPut _ _ (fun y lo hi => bytes_elem at_ all lo (Nat.lt_of_lt_of_le hi (Nat.add_le_add_left ?_ _)))
  split
  · next slot => rw [slot]; decide
  · exact Nat.le_refl _

theorem inside_scale (mx : isMx (shFmt r) = true) (b : Byte) : (putOf (scaleAddr r ds) [b]).Inside D := by
  refine inside_putOf fun y lo hi => ?_
  obtain rfl : y = scaleAddr r ds := by simp only [List.length_singleton] at hi; omega
  obtain ⟨i0, i1, i2, i3, rfl, h0, h1, h2, h3⟩ := at_
  exact all _ ⟨i0, i1, i2, i3, h0, h1, h2, h3, .inr ⟨mx, rfl⟩⟩

/-- The bytes of a CE4M3 slot. -/
theorem bytes_slot (slot : shFmt r = 10) (y : Nat) (lo : elemAddr r ds ≤ y) (hi : y < elemAddr r ds + 128) : D y :=
  bytes_elem at_ all lo (by rwa [if_pos slot])

end

/-! #### A CE4M3 block fits its slot (R75 to R78) -/

theorem packBits_length (n : Nat) (bits : List Bool) : (packBits n bits).length = n := by
  induction n generalizing bits with
  | zero => rfl
  | succ n ih => rw [packBits, List.length_cons, ih]

theorem ceBest_le_best (es : List Nat) (ps : List (Nat × Nat)) (best : Nat × Nat × Nat) : (ceBest es ps best).2.2 ≤ best.2.2 := by
  induction ps generalizing best with
  | nil => exact Nat.le_refl _
  | cons p ps ih =>
    rw [ceBest]
    refine (ih _).trans ?_
    split
    · next shorter => exact Nat.le_of_lt shorter
    · exact Nat.le_refl _

/-- The stream chosen is as short as that of every table and base. -/
theorem ceBest_le {es : List Nat} {ps : List (Nat × Nat)} {t b : Nat} (listed : (t, b) ∈ ps) (best : Nat × Nat × Nat) :
    (ceBest es ps best).2.2 ≤ (ceStream t b es).length := by
  induction ps generalizing best with
  | nil => cases listed
  | cons p ps ih =>
    rw [ceBest]
    obtain rfl | later := List.mem_cons.1 listed
    · refine (ceBest_le_best _ _ _).trans ?_
      dsimp only
      split
      · exact Nat.le_refl _
      · next longer => exact Nat.le_of_not_lt longer
    · exact ih later _

/-- Table 3 writes every exponent in four bits. -/
theorem ceStream_raw_length (b : Nat) (es : List Nat) : (ceStream 3 b es).length = 4 * es.length := by
  have raw : ∀ e, (ceString 3 b e).length = 4 := fun e => by simp [ceString, ceCodes]
  simp [ceStream, Function.comp_def, raw, Nat.mul_comm]

theorem ceEncode_length_le {codes : List Nat} (short : codes.length ≤ 64) : (ceEncode codes).length ≤ 128 := by
  have listed : (3, 0) ∈ (List.range 64).map (fun i => (i / 16, i % 16)) := List.mem_map.2 ⟨48, by decide, rfl⟩
  have bits := (ceBest_le (es := codes.map (fun c => c / 8 % 16)) listed (0, 0, 1000)).trans (ceStream_raw_length 0 _).le
  rw [List.length_map] at bits
  unfold ceEncode
  dsimp only
  generalize ceBest _ _ _ = best at bits ⊢
  obtain ⟨t, b, l⟩ := best
  dsimp only at bits ⊢
  simp only [List.length_append, toLE_length, List.length_map, List.length_range, packBits_length]
  omega

theorem blockSeen_length_le (src : Nat → Sparse Byte) (x : Nat) : (blockSeen src x).length ≤ 128 := by
  unfold blockSeen
  dsimp only
  split
  · exact (bytesAt_length (src 0) x 128).le
  · exact ceEncode_length_le (by simp)

/-! #### The destinations of each word (R157, R158) -/

/-- The scratchpad bytes of the destination tensors of a vector word. -/
def inDest (opc : Nat) (f : VForm) (a : Act) (x : Nat) : Prop :=
  Claims.inTensor (a.sh f.hd.toNat) x ∨
    (opc = 0x56 ∨ opc = 0x5F ∧ f.fn.getLsbD 0 = true ∨ opc = 0x60) ∧ Claims.inTensor (a.sh f.hc.toNat) x

/-- What the entry of the word `i` writes lies in `D`, in the form that the word has. -/
inductive Confined (i : Instr) (D : Nat → Prop) (a : Act) : Prop
  | element {e : Claims.Elementwise} (entry : Claims.elementwise i = some e) (here : e.here a = true)
      (inside : ∀ n < sizeOf' (e.space a), ∀ src b, ∀ p ∈ e.store a src (digitsOf (e.space a) n) b, p.Inside D)
  | row {e : Claims.Rowwise} (entry : Claims.rowwise i = some e) (here : e.here a = true)
      (inside : ∀ n < e.rows a, ∀ R m g now, ∀ p ∈ (e.item a R m n g now).2, p.Inside D)

section
variable {i : Instr} {opc acc : Nat} {f : VForm} {a : Act}

/-- A write of an element of HD. -/
theorem inside_HD {ds : List Nat} (at_ : InSpace (shExts (a.sh f.hd.toNat)) ds) (code : Nat) :
    (putCode (a.sh f.hd.toNat) ds code).Inside (inDest opc f a) :=
  inside_putCode at_ (fun _ => .inl) code

/-- A word that stores one element of HD at each of its indices. -/
theorem Confined.of_put {e : Claims.Elementwise} (entry : Claims.elementwise i = some e) (here : e.here a = true)
    (space : e.space a = shExts (a.sh f.hd.toNat)) (stores : ∀ src ds b, ∃ code, e.store a src ds b = Claims.put f a ds code) :
    Confined i (inDest opc f a) a := by
  refine .element entry here fun n hn src b p hp => ?_
  obtain ⟨code, store⟩ := stores src (digitsOf (e.space a) n) b
  rw [store, Claims.put, List.mem_singleton] at hp
  rw [space] at hn hp
  exact hp ▸ inside_HD (inSpace_shExts hn) code

/-! ##### Blocks (R74, R78, R166, R172) -/

section
variable {D : Nat → Prop} {x : Nat} (slot : ∀ y, x ≤ y → y < x + 128 → D y)
include slot

theorem inside_block {bs : List Byte} (short : bs.length ≤ 128) : (putOf x bs).Inside D :=
  inside_putOf fun y lo hi => slot y lo (by omega)

theorem inside_moveSlot {whole : List Byte} {on : List Bool} (short : whole.length ≤ 128) (len : on.length ≤ 64) :
    ∀ p ∈ moveSlot x whole on, p.Inside D := by
  intro p hp
  unfold moveSlot at hp
  split at hp
  · exact List.mem_singleton.1 hp ▸ inside_block slot short
  split at hp
  · obtain rfl := List.mem_singleton.1 hp
    refine ⟨slot, fun h => ?_⟩
    dsimp only
    generalize hc : List.map _ on.zipIdx = codes
    have short : (ceEncode codes).length ≤ 128 := ceEncode_length_le (by simpa [← hc] using len)
    exact keeps_putBytes h (fun y lo hi => slot y lo (by omega))
  · cases hp

end

theorem mxElems_length (c rm : Nat) (x : Int) (g : Gen) (vs : List Val) : (mxElems c rm x g vs).1.length = vs.length := by
  induction vs generalizing g with
  | nil => rfl
  | cons v vs ih => simp [mxElems, ih]

theorem mxQuant_length (c rm : Nat) (g : Gen) (vs : List Val) : (mxQuant c rm g vs).2.1.length = vs.length := by
  unfold mxQuant
  split
  · exact mxElems_length ..
  · exact List.length_map _

/-- The codes of a CE4M3 block are those of its values, one for each. -/
theorem roundAll_length (rm : Nat) (sat : Bool) (vs : List Val) (st : List Nat × Gen) :
    (vs.foldl (fun (st : List Nat × Gen) v =>
      let (r, g) := st.2.round 3 rm sat v
      (st.1 ++ [floatCode 3 r], g)) st).1.length = st.1.length + vs.length := by
  induction vs generalizing st with
  | nil => rfl
  | cons v vs ih =>
    rw [List.foldl_cons, ih]
    simp [Nat.add_assoc, Nat.add_comm 1]

theorem inside_packBlock {D : Nat → Prop} {d rm : Nat} {sat : Bool} {g : Gen} {ds : List Nat} {vs : List Val}
    (block : isBlock (shFmt d) = true) (all : ∀ y, Claims.inTensor d y → D y) (len : vs.length ≤ 64)
    (first : InSpace (shExts d) ds) (elems : ∀ j < vs.length, InSpace (shExts d) ((ds.getD 0 0 + j) :: ds.tail)) :
    ∀ p ∈ (packBlock (shFmt d) rm sat g d ds vs).2, p.Inside D := by
  intro p hp
  unfold packBlock at hp
  split at hp
  · next mx =>
    obtain rfl | elem := List.mem_cons.1 hp
    · exact inside_scale first all mx _
    · obtain ⟨e, he, rfl⟩ := List.mem_map.1 elem
      have index : e.2 < vs.length := mxQuant_length (shFmt d) rm g vs ▸ (List.mem_zipIdx' he).1
      exact inside_putCode (elems e.2 index) all e.1
  · next plain =>
    have slot : shFmt d = 10 := by
      simp only [isBlock, isMx, Bool.and_eq_true, decide_eq_true_eq] at block plain
      omega
    obtain rfl := List.mem_singleton.1 hp
    refine inside_block (bytes_slot first all slot) (ceEncode_length_le ?_)
    rw [roundAll_length]
    simpa using len

/-! ##### The words one by one -/

section
variable (h : Hdr)

theorem vmov_confined : Confined (.vmov h f) (inDest opc f a) a := by
  by_cases slot : Claims.cHD f a = 10
  · refine .row rfl (decide_eq_true slot) fun n hn R m g now => ?_
    have first : InSpace (shExts (a.sh f.hd.toNat)) _ := inSpace_of_group (j := 0) (inSpace_digitsOf hn) (by decide)
    exact inside_moveSlot (bytes_slot first (fun _ => .inl) slot) (blockSeen_length_le _ _) (by simp)
  · refine .element rfl (decide_eq_true slot) fun n hn src b p hp => ?_
    obtain value | scale := List.mem_append.1 hp
    · exact List.mem_singleton.1 value ▸ inside_HD (inSpace_shExts hn) _
    · split at scale
      · next mx => exact List.mem_singleton.1 scale ▸ inside_scale (inSpace_shExts hn) (fun _ => .inl) mx _
      · cases scale

theorem vcvt_confined : Confined (.vcvt h f) (inDest opc f a) a := by
  by_cases block : isBlock (Claims.cHD f a) = true
  · refine .row rfl block fun n hn R m g now => ?_
    refine inside_packBlock block (fun _ => .inl) ?_ ?_ ?_
    · rw [List.length_map, List.length_range]
      split <;> decide
    · exact inSpace_of_group (j := 0) (inSpace_digitsOf hn) (by split <;> decide)
    · intro j hj
      rw [List.length_map, List.length_range] at hj
      exact inSpace_of_group (inSpace_digitsOf hn) hj
  · exact .of_put rfl (by simpa using block) rfl (fun _ _ _ => ⟨_, rfl⟩)

theorem vscat_confined : Confined (.vscat h f) (inDest opc f a) a := by
  refine .element rfl rfl fun n hn src b p hp => ?_
  dsimp only at hp
  split at hp
  · next index =>
    have inside := inSpace_shExts (r := a.sh f.hd.toNat) ((Int.toNat_lt index.1).2 index.2)
    exact List.mem_singleton.1 hp ▸ inside_HD inside _
  · cases hp

/-- A complex word writes HD, and where it has two destinations HC, whose extents are those of HD (R178). -/
theorem complex_confined {pair acc' : Bool} (entry : Claims.elementwise i = some (Claims.complex h f pair acc'))
    (passes : checkAll acc a (cplxWants f pair a) = none) (second : pair = true → opc = 0x5F ∧ f.fn.getLsbD 0 = true ∨ opc = 0x60) :
    Confined i (inDest opc f a) a := by
  refine .element entry rfl fun n hn src b p hp => ?_
  cases pair with
  | false => exact List.mem_singleton.1 hp ▸ inside_HD (inSpace_shExts hn) _
  | true =>
    have extents : shExts (a.sh f.hc.toNat) = shExts (a.sh f.hd.toNat) := by
      have named : ({ reg := f.hc.toNat, fmt := fun c => c == 15, fits := fun x => shExts x == shExts (a.sh f.hd.toNat) } : Want) ∈
          cplxWants f true a := by simp [cplxWants]
      exact eq_of_beq (takes_of_checkAll passes named).2.1
    obtain real | imag := List.mem_append.1 hp
    · exact List.mem_singleton.1 real ▸ inside_HD (inSpace_shExts hn) _
    · refine List.mem_singleton.1 imag ▸ inside_putCode ?_ (fun y hy => .inr ⟨.inr (second rfl), hy⟩) _
      rw [extents]
      exact inSpace_shExts hn

theorem vred_confined : Confined (.vred h f) (inDest opc f a) a := by
  refine .row rfl rfl fun n hn R m g now p hp => ?_
  dsimp only [Claims.reduction] at hp
  split at hp
  · cases hp
  · exact List.mem_singleton.1 hp ▸ inside_HD (inSpace_shExts hn) _

/-- Each write of a scan is of an element that it has come to. -/
theorem mem_scanRow {R : Reads} {m now : Sparse Byte} {js : List Nat} {g : Gen} {l : List Put} {sum last : Option Val} {p : Put}
    (hp : p ∈ (Claims.scanRow f a R m now js g l sum last).2) :
    p ∈ l ∨ ∃ j ∈ js, ∃ code, p = putCode (a.sh f.hd.toNat) (digitsOf (shExts (a.sh f.ha.toNat)) j) code := by
  induction js generalizing g l sum last with
  | nil => exact .inl hp
  | cons j js ih =>
    rw [Claims.scanRow] at hp
    dsimp only at hp
    split at hp
    · obtain before | ⟨k, hk, found⟩ := ih hp
      · exact .inl before
      · exact .inr ⟨k, List.mem_cons_of_mem j hk, found⟩
    · obtain before | ⟨k, hk, found⟩ := ih hp
      · obtain before | new := List.mem_append.1 before
        · exact .inl before
        · exact .inr ⟨j, List.mem_cons_self, _, List.mem_singleton.1 new⟩
      · exact .inr ⟨k, List.mem_cons_of_mem j hk, found⟩

/-- Element `k` of row `n` of a space. -/
theorem row_lt {size e n k : Nat} (hn : n < size / max 1 e) (hk : k < e) : n * e + k < size := by
  rw [Nat.max_eq_right (by omega)] at hn
  calc n * e + k
    _ < (n + 1) * e := by rw [Nat.succ_mul]; omega
    _ ≤ size / e * e := Nat.mul_le_mul_right e hn
    _ ≤ size := Nat.div_mul_le_self size e

theorem vscan_confined (passes : checkAll acc a (vscanWants f a) = none) : Confined (.vscan h f) (inDest opc f a) a := by
  obtain ⟨-, fits, -⟩ := takes_of_checkAll passes List.mem_cons_self
  obtain ⟨-, -, source⟩ := takes_of_checkAll passes (List.mem_cons_of_mem _ List.mem_cons_self)
  have extents : shExts (a.sh f.hd.toNat) = shExts (a.sh f.ha.toNat) := by
    rw [source] at fits
    exact eq_of_beq fits
  refine .row rfl rfl fun n hn R m g now p hp => ?_
  obtain none | ⟨j, hj, code, rfl⟩ := mem_scanRow hp
  · cases none
  · obtain ⟨k, hk, rfl⟩ := List.mem_map.1 hj
    refine inside_HD ?_ code
    rw [extents]
    exact inSpace_shExts (row_lt hn (List.mem_range.1 hk))

/-- VQUANT writes a scale of HC for each group, and the elements of HD, whose extents are those of HA (R173). -/
theorem vquant_confined (passes : checkAll acc a (vquantWants f a) = none) : Confined (.vquant h f) (inDest 0x56 f a) a := by
  obtain ⟨-, fitsHD, -⟩ := takes_of_checkAll passes List.mem_cons_self
  obtain ⟨-, -, source⟩ := takes_of_checkAll passes (List.mem_cons_of_mem _ List.mem_cons_self)
  obtain ⟨-, fitsHC, -⟩ := takes_of_checkAll passes (List.mem_cons_of_mem _ (List.mem_cons_of_mem _ List.mem_cons_self))
  rw [source] at fitsHD fitsHC
  have extents : shExts (a.sh f.hd.toNat) = shExts (a.sh f.ha.toNat) := eq_of_beq fitsHD
  have scales : shExts (a.sh f.hc.toNat) = shExt (a.sh f.ha.toNat) 0 / (8 * 2 ^ (f.fn.toNat % 8)) :: (shExts (a.sh f.ha.toNat)).tail :=
    eq_of_beq fitsHC
  refine .row rfl rfl fun n hn R m g now p hp => ?_
  have group := inSpace_shExts hn
  obtain rfl | elem := List.mem_cons.1 hp
  · exact inside_putCode group (fun y hy => .inr ⟨.inl rfl, hy⟩) _
  · obtain ⟨j, hj, rfl⟩ := List.mem_map.1 elem
    rw [scales] at group
    refine inside_HD ?_ _
    rw [extents, scales]
    exact inSpace_of_group group (List.mem_range.1 hj)

end

/-- Every vector word whose checks pass writes its destinations only. -/
theorem confined_of_vectorWord {h : Hdr} {wants : Act → List Want} {waits : Act → Bool}
    (hi : Claims.vectorWord i = some (h, f, opc, wants, waits)) (passes : checkAll acc a (wants a) = none) :
    Confined i (inDest opc f a) a := by
  unfold Claims.vectorWord at hi
  split at hi <;> cases hi
  case h_1 => exact vmov_confined h
  case h_18 => exact vcvt_confined h
  case h_19 => exact vquant_confined h passes
  case h_20 => exact vred_confined h
  case h_21 => exact vscan_confined h passes
  case h_28 => exact complex_confined h rfl passes (fun pair => .inl ⟨rfl, pair⟩)
  case h_29 => exact complex_confined h rfl passes (fun _ => .inr rfl)
  case h_31 => exact vscat_confined h
  all_goals exact .of_put rfl rfl rfl (fun _ _ _ => ⟨_, rfl⟩)

end

theorem mem_elementBody {D : Nat → Prop} {f : VForm} {e : Claims.Elementwise} {a : Act}
    (inside : ∀ n < sizeOf' (e.space a), ∀ src b, ∀ p ∈ e.store a src (digitsOf (e.space a) n) b, p.Inside D) (R : Reads) (m : Sparse Byte) :
    ∀ p ∈ (elementBody f e R a m).2, p.Inside D := by
  intro p hp
  dsimp only [elementBody] at hp
  obtain ⟨n, hn, src, hp⟩ := Reads.mem_walk hp
  split at hp
  · cases hp
  · exact inside n hn src _ p hp

theorem mem_rowBody {D : Nat → Prop} {e : Claims.Rowwise} {a : Act}
    (inside : ∀ n < e.rows a, ∀ R m g now, ∀ p ∈ (e.item a R m n g now).2, p.Inside D) (R : Reads) (m : Sparse Byte) :
    ∀ p ∈ (rowBody e R a m).2, p.Inside D := by
  intro p hp
  obtain ⟨n, hn, g, now, hp⟩ := Reads.mem_rows hp
  exact inside n hn R m g now p hp

theorem setCur_spad (s : State) (a : Act) : (s.setCur a).spad = s.spad := by
  simp [State.setCur, State.setAct, State.spad, Engine.setAct]

/-- Settles O14: each word writes what its entry says, and that lies in its destinations. -/
theorem vectorWordsWriteOnlyTheirDestination : Obligations.VectorWordsWriteOnlyTheirDestination := by
  intro i s t a h f opc wants waits hi r canonical passes there run x notHD notHC
  have outside : ¬ inDest opc f a x := fun inside => inside.elim notHD (fun second => notHC second.1 second.2)
  have kept : ∀ {l : List Put} {cross place} {b : Act}, (∀ p ∈ l, p.Inside (inDest opc f a)) →
      exec i s = .next (((Claims.drawn s).putSpad s.focus.g .word cross place l).setCur b) →
      Sparse.get 0 t.spad x = Sparse.get 0 s.spad x := by
    intro l cross place b inside ends
    obtain rfl := Host.Outcome.next.inj (run.symm.trans ends)
    rw [setCur_spad]
    exact (keeps_putSpad (s := Claims.drawn s) canonical .word cross place inside).same x outside
  cases confined_of_vectorWord hi passes with
  | element entry here inside =>
    exact kept (mem_elementBody inside _ _) ((takesCourse_of_vectorWord hi).exec_eq r passes there
      (fun follows => follows.element entry passes here))
  | row entry here inside =>
    exact kept (mem_rowBody inside _ _) ((takesCourse_of_vectorWord hi).exec_eq r passes there
      (fun follows => follows.row entry passes here))

/-! #### Sums of integers (R166, R167, R174) -/

/-! ##### The exact integer of a value -/

theorem toInt_ofInt (v : Int) : (Val.ofInt v).toInt = v := by
  simp only [Val.ofInt, Val.toInt, Nat.div_one, decide_eq_true_eq]
  split <;> omega

theorem toInt_add_ofInt (down : Bool) (x y : Int) : ((Val.ofInt x).add down (.ofInt y)).toInt = x + y := by
  have exact : commonDen (decide (x < 0)) x.natAbs 1 (decide (y < 0)) y.natAbs 1 = (x, y, 1) := by
    simp only [commonDen, Nat.mod_one, if_true, Nat.div_one, Nat.mul_one, decide_eq_true_eq]
    refine Prod.ext ?_ (Prod.ext ?_ rfl)
    · dsimp only; split <;> omega
    · dsimp only; split <;> omega
  simp only [Val.ofInt, Val.add, exact]
  split
  · next zero => simp [Val.toInt, zero]
  · exact toInt_ofInt (x + y)

theorem toInt_plainZero (ints : Bool) (v : Val) : (plainZero ints v).toInt = v.toInt := by
  unfold plainZero
  split
  · next zero =>
    cases v <;> simp_all [Val.isZero, Val.toInt]
  · rfl

/-! ##### Elements in I32 -/

section
variable {m : Sparse Byte} {r : Nat} (i32 : shFmt r = 15)
include i32

theorem readVal_i32 (ds : List Nat) : readVal m r ds = .ofInt (signed 32 (readCode m r ds)) := by
  simp only [readVal, i32]
  rfl

theorem readCode_i32 (ds : List Nat) : readCode m r ds = ofLE (bytesAt m (elemAddr r ds) 4) := by
  simp only [readCode, i32]
  rfl

/-- An element reads back modulo 2^32. -/
theorem readCode_putCode (h : m.canonical 0 = true) (ds : List Nat) (code : Nat) :
    readCode ((putCode r ds code).act m) r ds = code % 2 ^ 32 := by
  have bytes := bytesAt_spadStore h 15 (decide (ds.getD 0 0 % 2 = 1)) (elemAddr r ds) code (by decide)
  rw [readCode_i32 i32, putCode, i32]
  exact (congrArg ofLE bytes).trans (ofLE_toLE 4 code)

end

theorem storeVal_i32 (rm b : Nat) (sat : Bool) (v : Val) :
    storeVal 15 rm sat true b v = wrapTo 32 (if sat then satTo 15 v.toInt else v.toInt) := rfl

theorem satTo_i32 (v : Int) : satTo 15 v = max (-(2 ^ 31)) (min (2 ^ 31 - 1) v) := rfl

theorem wrapTo_32_mod (v : Int) : ((wrapTo 32 v % 2 ^ 32 : Nat) : Int) = v % 2 ^ 32 := by
  rw [Int.natCast_emod]
  exact wrapTo_modEq 32 v

/-! ##### One element, or one row, that no write crosses -/

theorem Reads.walk_one (R : Reads) (m : Sparse Byte) (item : Nat → (Nat → Sparse Byte) → List Put) :
    R.walk 1 m item = item 0 (fun k => R.see m m k) := by
  simp [Reads.walk, shuffle, runItems, Nat.mod_one]

theorem Reads.rows_one (R : Reads) (m : Sparse Byte) (g : Gen) (item : Nat → Gen → Sparse Byte → Gen × List Put) :
    R.rows 1 m g item = item 0 g m := by
  simp [Reads.rows, shuffle, runItems, Nat.mod_one]

theorem putSpad_single {s : State} (src : SpadSrc) (place : Nat) (p : Put) :
    (s.putSpad s.focus.g src [] place [p]).spad = p.act s.spad := by
  rw [putSpad_spad]
  simp [putStep, Put.under]

theorem Reads.see_plain {R : Reads} {m : Sparse Byte} (h : m.canonical 0 = true) (uncrossed : R.cross = []) :
    (fun k => R.see m m k) = fun _ => m :=
  funext (Reads.see_uncrossed h uncrossed)

/-- A word without crossing writes that stores one element leaves it in the scratchpad. -/
theorem readCode_of_single {s t : State} {a : Act} {r place : Nat} {ds : List Nat} {code : Nat} (i32 : shFmt r = 15)
    (canonical : s.spad.canonical 0 = true)
    (ends : t = ((Claims.drawn s).putSpad s.focus.g .word [] place [putCode r ds code]).setCur a) :
    readCode t.spad r ds = code % 2 ^ 32 := by
  rw [ends, setCur_spad]
  exact (congrArg (readCode · r ds) (putSpad_single (s := Claims.drawn s) .word place _)).trans (readCode_putCode i32 canonical ds code)

/-- An elementwise word with one element, which is active. -/
theorem elementBody_single {f : VForm} {e : Claims.Elementwise} {R : Reads} {a : Act} {m : Sparse Byte}
    (space : e.space a = [1, 1, 1, 1]) (unmasked : f.mask.getLsbD 4 = false) (h : m.canonical 0 = true) (uncrossed : R.cross = []) :
    (elementBody f e R a m).2 = e.store a (fun _ => m) [0, 0, 0, 0] ((e.draws a 1).1.getD 0 0) := by
  simp only [elementBody, space]
  rw [show sizeOf' [1, 1, 1, 1] = 1 from rfl, Reads.walk_one, Reads.see_plain h uncrossed, unmasked]
  exact if_neg (by simp)

theorem bcast_zero (r : Nat) : bcast r [0, 0, 0, 0] = [0, 0, 0, 0] := by
  simp [bcast]

/-! ##### VADD of I32 (R166, R167) -/

/-- The exact sum of the two elements. -/
def sumOfIntegers (f : VForm) (a : Act) (m : Sparse Byte) : Int :=
  signed 32 (readCode m (a.sh f.ha.toNat) [0, 0, 0, 0]) + signed 32 (readCode m (a.sh f.hb.toNat) [0, 0, 0, 0])

/-- The word VADD, as an elementwise word. -/
def addition (h : Hdr) (f : VForm) : Claims.Elementwise :=
  Claims.real h f [f.ha.toNat, f.hb.toNat] (val2 (Val.add (f.rm == 3))) (cplx2 (· + ·))

theorem addition_store {h : Hdr} {f : VForm} {a : Act} (m : Sparse Byte) (b : Nat)
    (fmtD : shFmt (a.sh f.hd.toNat) = 15) (fmtA : shFmt (a.sh f.ha.toNat) = 15) (fmtB : shFmt (a.sh f.hb.toNat) = 15) :
    (addition h f).store a (fun _ => m) [0, 0, 0, 0] b = [putCode (a.sh f.hd.toNat) [0, 0, 0, 0]
      (wrapTo 32 (if f.sat then satTo 15 (sumOfIntegers f a m) else sumOfIntegers f a m))] := by
  have source : ∀ n, shFmt (a.sh n) = 15 → srcVal m [0, 0, 0, 0] (a.sh n) = .ofInt (signed 32 (readCode m (a.sh n) [0, 0, 0, 0])) :=
    fun n i32 => by rw [srcVal, bcast_zero, readVal_i32 i32]
  have ints : Claims.ints a [f.ha.toNat, f.hb.toNat] = true := by simp [Claims.ints, fmtA, fmtB, isInt]
  simp only [addition, Claims.real, Claims.put, Claims.cHD, fmtD, ints, srcVals, List.map_cons, List.map_nil, List.zipIdx_cons,
    List.zipIdx_nil, val2, source _ fmtA, source _ fmtB]
  rw [if_neg (by decide), storeVal_i32, toInt_plainZero, toInt_add_ofInt, sumOfIntegers]

theorem vectorAddOfSingleIntegers : Claims.VectorAddOfSingleIntegers := by
  intro h f s t a r canonical unmasked uncrossed passes single run
  obtain ⟨fmtD, extD⟩ := single f.hd (by simp)
  obtain ⟨fmtA, -⟩ := single f.ha (by simp)
  obtain ⟨fmtB, -⟩ := single f.hb (by simp)
  have there : Claims.arithWaits f [f.ha.toNat, f.hb.toNat] a = false := by
    simp [Claims.arithWaits, Claims.rounding, Claims.cHD, fmtD, fmtA, fmtB]
  have ends := (takesCourse_of_vectorWord (i := .vadd h f) rfl).exec_eq r passes there
    (x := elementBody f (addition h f) (s.reads a 1).1 a s.spad) (fun follows => follows.element rfl passes rfl)
  rw [uncrossed, elementBody_single (e := addition h f) extD unmasked canonical uncrossed, addition_store _ _ fmtD fmtA fmtB] at ends
  have stored := readCode_of_single fmtD canonical (Host.Outcome.next.inj (run.symm.trans ends))
  change _ = (if f.sat = true then max (-(2 ^ 31)) (min (2 ^ 31 - 1) (sumOfIntegers f a s.spad)) else sumOfIntegers f a s.spad) % 2 ^ 32
  rw [stored, wrapTo_32_mod, satTo_i32]

/-! ##### VRED of I32 (R174) -/

theorem exts_pos_of_shCheck {acc x : Nat} {w : Want} (good : shCheck acc w x = 0) : 0 < shExt x 0 := by
  by_contra empty
  unfold shCheck at good
  dsimp only at good
  split_ifs at good
  next extents _ _ _ =>
  have zero : (List.range (shRank x)).any (fun j => shExt x j = 0) = true :=
    List.any_eq_true.2 ⟨0, by simp [shRank], by simpa using empty⟩
  exact extents (by rw [zero]; rfl)

theorem accVal_i32 (rm b : Nat) (v : Val) : accVal 15 rm false b v = .ofInt (signed 32 (wrapTo 32 v.toInt)) := rfl

theorem accStep_i32 (rm : Nat) (c x : Int) (g : Gen) :
    accStep 0 15 rm false (some (.ofInt c), g) (.ofInt x) = (some (.ofInt (signed 32 (wrapTo 32 (c + x)))), g) := by
  simp only [accStep, show isFloat 15 = false from rfl, accVal_i32, toInt_add_ofInt, Bool.false_eq_true, if_false]

/-- The sum of a row starts at its first element. -/
theorem accStep_i32_first (rm : Nat) (x : Int) (g : Gen) :
    accStep 0 15 rm false (none, g) (.ofInt x) = accStep 0 15 rm false (some (.ofInt 0), g) (.ofInt x) := by
  rw [accStep_i32, Int.zero_add]
  simp only [accStep, show isFloat 15 = false from rfl, accVal_i32, toInt_ofInt, Bool.false_eq_true, if_false]

theorem foldl_accStep_i32 (rm : Nat) (xs : List Int) (c : Int) (g : Gen) :
    (xs.map .ofInt).foldl (accStep 0 15 rm false) (some (.ofInt c), g) = (some (.ofInt (accInt false c xs).1), g) := by
  induction xs generalizing c with
  | nil => rfl
  | cons x xs ih =>
    rw [List.map_cons, List.foldl_cons, accStep_i32, ih]
    rfl

theorem foldl_accStep_i32_first (rm : Nat) {xs : List Int} (nonempty : xs ≠ []) (g : Gen) :
    (xs.map .ofInt).foldl (accStep 0 15 rm false) (none, g) = (some (.ofInt (accInt false 0 xs).1), g) := by
  rw [← foldl_accStep_i32]
  cases xs with
  | nil => exact absurd rfl nonempty
  | cons x xs => rw [List.map_cons, List.foldl_cons, List.foldl_cons, accStep_i32_first]

/-- The integers that VRED sums. -/
def summands (f : VForm) (a : Act) (m : Sparse Byte) : List Int :=
  (List.range (shExt (a.sh f.ha.toNat) 0)).map (fun j => signed 32 (readCode m (a.sh f.ha.toNat) [j, 0, 0, 0]))

theorem digitsOf_single {e j : Nat} (h : j < e) : digitsOf [e] j = [j, 0, 0, 0] := by
  simp [digitsOf, Nat.mod_eq_of_lt h, Nat.div_eq_of_lt h]

theorem active_of_unmasked {f : VForm} (unmasked : f.mask.getLsbD 4 = false) (a : Act) (m : Sparse Byte) (ds : List Nat) :
    Claims.active f a m ds = true := by
  simp only [Claims.active, unmasked, Bool.not_false, Bool.true_or]

/-- A sum of I32 elements that is stored into I32 takes nothing from the generator. -/
theorem accStore_i32 {f : VForm} {d : Nat} (wraps : f.sat = false) (fmtD : shFmt d = 15) (ds : List Nat) (g : Gen) (x : Int) :
    accStore f 0 15 15 d ds g (.ofInt x) = (g, putCode d ds (wrapTo 32 x)) := by
  simp only [accStore, fmtD, wraps, show accRounds 0 15 15 15 = false from rfl, show accInts 0 15 15 = true from rfl, storeVal_i32,
    toInt_ofInt, Bool.false_eq_true, if_false]

section
variable {f : VForm} {a : Act} {R : Reads} {m : Sparse Byte} (unmasked : f.mask.getLsbD 4 = false) (fmtA : shFmt (a.sh f.ha.toNat) = 15)
include unmasked fmtA

/-- The values of a rank-1 I32 tensor that no mask covers. -/
theorem values_i32 : (List.range (shExt (a.sh f.ha.toNat) 0)).filterMap (fun j =>
      let ds := ((digitsOf [shExt (a.sh f.ha.toNat) 0] j).take 1 ++ [0, 0, 0, 0]).take 4
      if Claims.active f a m ds then some (readVal m (a.sh f.ha.toNat) ds) else none) = (summands f a m).map .ofInt := by
  rw [summands, List.map_map, ← List.filterMap_eq_map]
  refine List.filterMap_congr fun j hj => ?_
  rw [digitsOf_single (List.mem_range.1 hj)]
  dsimp only
  rw [if_pos (active_of_unmasked unmasked a m _)]
  exact congrArg some (readVal_i32 fmtA _)

/-- The one row of a sum over a rank-1 tensor. -/
theorem reduction_item_i32 (h : m.canonical 0 = true) (uncrossed : R.cross = []) (wraps : f.sat = false) (fmt : f.fmt = 15) (fn : f.fn = 0)
    (fmtD : shFmt (a.sh f.hd.toNat) = 15) (space : Claims.ofHD f a = [1, 1, 1, 1]) (extent : 0 < shExt (a.sh f.ha.toNat) 0) (g : Gen) :
    (Claims.reduction f).item a R m 0 g m =
      (g, [putCode (a.sh f.hd.toNat) [0, 0, 0, 0] (wrapTo 32 (accInt false 0 (summands f a m)).1)]) := by
  have op : f.fn.toNat / 4 % 8 = 0 := by rw [fn]; rfl
  have reduced : f.fn.toNat % 4 + 1 = 1 := by rw [fn]; rfl
  have acc : f.fmt.toNat = 15 := by rw [fmt]; rfl
  have inner : (shExts (a.sh f.ha.toNat)).take 1 = [shExt (a.sh f.ha.toNat) 0] := rfl
  have size : sizeOf' [shExt (a.sh f.ha.toNat) 0] = shExt (a.sh f.ha.toNat) 0 := Nat.one_mul _
  have plain : ∀ k, R.see m m k = m := Reads.see_uncrossed h uncrossed
  have nonempty : summands f a m ≠ [] := by simpa [summands] using Nat.ne_of_gt extent
  have values := values_i32 (m := m) unmasked fmtA
  dsimp only at values
  simp only [Claims.reduction, op, reduced, acc, inner, size, plain, space, wraps, fmtA,
    show digitsOf [1, 1, 1, 1] 0 = [0, 0, 0, 0] from rfl, values, foldl_accStep_i32_first f.rm.toNat nonempty, accStore_i32 wraps fmtD]

end

/-- VRED of a rank-1 tensor: HD holds one element, and HA at least one. -/
theorem extents_of_vredWants {acc : Nat} {f : VForm} {a : Act} (passes : checkAll acc a (vredWants f a) = none)
    (rank : shRank (a.sh f.ha.toNat) = 1) : shExts (a.sh f.hd.toNat) = [1, 1, 1, 1] ∧ 0 < shExt (a.sh f.ha.toNat) 0 := by
  obtain ⟨x, found, good⟩ := checkAll_eq_none.1 passes _ (List.mem_cons_of_mem _ List.mem_cons_self)
  obtain rfl := sh_of_shape found
  refine ⟨?_, exts_pos_of_shCheck good⟩
  have fits := (takes_of_checkAll passes List.mem_cons_self).2.1
  dsimp only at found fits
  have outer : ∀ j, shExt (a.sh f.ha.toNat) (j + (f.fn.toNat % 4 + 1)) = 1 := fun j => if_neg (by rw [rank]; omega)
  rw [found] at fits
  simp only [outer, List.all_eq_true, List.mem_range, decide_eq_true_eq] at fits
  simp only [shExts, List.range_succ_eq_map, List.range_zero, List.map_cons, List.map_nil]
  rw [fits 0 (by decide), fits 1 (by decide), fits 2 (by decide), fits 3 (by decide)]

theorem vectorSumOfIntegersWraps : Claims.VectorSumOfIntegersWraps := by
  intro h f s t a r canonical unmasked uncrossed wraps fmt fn passes fmtD fmtA rank run
  have there : accWaits f (f.fn.toNat / 4 % 8) f.fmt.toNat a = false := by
    simp [accWaits, accRounds, accInts, fmtD, fmt, fn, isFloat, isInt]
  obtain ⟨space, extent⟩ := extents_of_vredWants passes rank
  have row : (s.reads a 1).1.rows ((Claims.reduction f).rows a) s.spad a.gen ((Claims.reduction f).item a (s.reads a 1).1 s.spad) =
      (a.gen, [putCode (a.sh f.hd.toNat) [0, 0, 0, 0] (wrapTo 32 (accInt false 0 (summands f a s.spad)).1)]) := by
    rw [show (Claims.reduction f).rows a = 1 from congrArg sizeOf' space, Reads.rows_one,
      reduction_item_i32 unmasked fmtA canonical uncrossed wraps fmt fn fmtD space extent]
  have ends := (takesCourse_of_vectorWord (i := .vred h f) rfl).exec_eq r passes there
    (fun follows => (follows.row rfl passes rfl).trans row)
  rw [uncrossed] at ends
  have stored := readCode_of_single fmtD canonical (Host.Outcome.next.inj (run.symm.trans ends))
  calc (readCode t.spad (a.sh f.hd.toNat) [0, 0, 0, 0] : Int)
    _ = (accInt false 0 (summands f a s.spad)).1 % 2 ^ 32 := by rw [stored, wrapTo_32_mod]
    _ = (0 + (summands f a s.spad).sum) % 2 ^ 32 := accInt_modEq _ _
    _ = (summands f a s.spad).sum % 2 ^ 32 := by rw [Int.zero_add]

/-- Settles O38: the row words by the course that every vector word takes, the two sums as words of one element and of one row. -/
theorem vectorRowsAndSumsCompute : Obligations.VectorRowsAndSumsCompute :=
  ⟨vectorAddOfSingleIntegers, vectorSumOfIntegersWraps, rowWordsStoreEachRow⟩

end Sys2Proof.Machine

namespace Sys2Proof.Machine

/-! ### Barriers (R212, R214, R217) -/

/-! #### BarUpdate (R214) -/

section
variable {x : Bar} {da : Nat} {dp : Int}

/-- A barrier that has overrun ignores updates. -/
theorem Bar.update_of_overrun (overrun : x.overrun = true) : x.update da dp = x := if_pos overrun

theorem Bar.update_outside (sound : x.overrun = false) (out : x.expect < x.arr + da ∨ x.pend + dp < -(2 ^ 39) ∨ 2 ^ 39 ≤ x.pend + dp) :
    x.update da dp = { x with overrun := true } := by
  refine (if_neg (by simp [sound])).trans (if_pos ?_)
  simp only [Bool.or_eq_true, decide_eq_true_eq]
  omega

/-- Within its bounds the barrier takes the sums, and is checked for its last arrival. -/
theorem Bar.update_inside (sound : x.overrun = false) (arr : x.arr + da ≤ x.expect) (lo : -(2 ^ 39) ≤ x.pend + dp)
    (hi : x.pend + dp < 2 ^ 39) : x.update da dp =
      if x.arr + da = x.expect then
        if x.pend + dp = 0 then { x with phase := (x.phase + 1) % 2 ^ 32, arr := 0, pend := x.pend + dp }
        else if x.pend + dp < 0 then { x with arr := x.arr + da, pend := x.pend + dp, overrun := true }
        else { x with arr := x.arr + da, pend := x.pend + dp }
      else { x with arr := x.arr + da, pend := x.pend + dp } := by
  refine (if_neg (by simp [sound])).trans (if_neg ?_)
  simp only [Bool.or_eq_true, decide_eq_true_eq]
  omega

end

/-- The updates of one cycle join to their sums. -/
theorem Bar.foldl_join {x : Bar} {a : Nat} {p : Int} (due : x.due = some (a, p)) (us : List (Nat × Int)) :
    us.foldl (fun y u => y.join u.1 u.2) x =
      { x with due := some (a + (us.map (fun u => u.1)).sum, p + (us.map (fun u => u.2)).sum) } := by
  induction us generalizing x a p with
  | nil => simp [← due]
  | cons u us ih =>
    rw [List.foldl_cons, ih (a := a + u.1) (p := p + u.2) (by simp [Bar.join, due])]
    simp [Bar.join, Nat.add_assoc, Int.add_assoc]

/-- Summed and applied together, at the end of the cycle. -/
theorem Bar.settle_joined {x : Bar} (fresh : x.due = none) {us : List (Nat × Int)} (any : us ≠ []) :
    (us.foldl (fun y u => y.join u.1 u.2) x).settle = x.update (us.map (fun u => u.1)).sum (us.map (fun u => u.2)).sum := by
  obtain ⟨u, us, rfl⟩ := List.exists_cons_of_ne_nil any
  rw [List.foldl_cons, Bar.foldl_join (a := u.1) (p := u.2) (by simp [Bar.join, fresh])]
  simp [Bar.settle, Bar.join, ← fresh]

/-- Settles O11: the update by the bounds and the last arrival, and the joined updates as one update of their sums. -/
theorem barrierUpdateFollowsTheRule : Obligations.BarrierUpdateFollowsTheRule := by
  intro x da dp
  refine ⟨Bar.update_of_overrun, fun sound arr lo hi => ?_, Bar.update_outside, fun us any fresh => Bar.settle_joined fresh any⟩
  rw [Bar.update_inside sound arr lo hi]
  refine ⟨fun early => if_neg (by omega), fun last zero => ?_, fun last more => ?_, fun last less => ?_⟩
  · rw [if_pos last, if_pos zero, zero]
  · rw [if_pos last, if_neg (by omega), if_neg (by omega)]
  · rw [if_pos last, if_neg (by omega), if_pos less]

/-! #### CPYQ, BTEST and BWAIT (R212, R217) -/

theorem copyStatus_eq (E : Engine) : E.copyStatus =
    E.copySlots + 2 ^ 8 * (E.copies.filter (fun c => c.pages.any (fun p => p.held))).length + 2 ^ 16 * (E.copyNext % 2 ^ 11) := by
  rw [Engine.copyStatus, Nat.mul_comm _ (2 ^ 8), Nat.mul_comm _ (2 ^ 16)]

theorem wrapTo_eq (w : Nat) (v : Int) : wrapTo w v = (v % 2 ^ w).toNat := by rw [wrapTo, Nat.cast_pow, Nat.cast_ofNat]

section
variable (h : Hdr) (f : YForm) (s : State)

theorem exec_cpyq : exec (.cpyq h f) s = execCpyq h f s := rfl
theorem exec_btest : exec (.btest h f) s = execBtest h f s := rfl
theorem exec_btestS : exec (.btestS h f) s = execBtestS h f s := rfl
theorem exec_btestP : exec (.btestP h f) s = execBtestP h f s := rfl
theorem exec_bwait : exec (.bwait h f) s = execBwait h f s := rfl

end

/-- A word that writes a number to D. -/
theorem issue_wn {q d v : Nat} {h : Hdr} {s : State} {a : Act} {body : State → Act → Res} (r : Ready q h s a)
    (effect : body s a = .ok (s.setCur (a.wn d v))) : issue q h body s = .next (s.setCur ((a.wn d v).done q h s.focus.n)) :=
  issue_onAct r effect (Act.wn_faults ..) (Act.wn_tc ..) (Act.wn_ts ..) (Act.wn_ta ..)

/-- A word that writes predicate D. -/
theorem issue_wp {q d : Nat} {v : Bool} {h : Hdr} {s : State} {a : Act} {body : State → Act → Res} (r : Ready q h s a)
    (effect : body s a = .ok (s.setCur (a.wp d v))) : issue q h body s = .next (s.setCur ((a.wp d v).done q h s.focus.n)) :=
  issue_onAct r effect rfl rfl rfl rfl

theorem copyAndBarrierQueriesReadTheirState : Claims.CopyAndBarrierQueriesReadTheirState := by
  intro h f s a E b tgt
  rw [exec_cpyq, exec_btest, exec_btestS, exec_btestP]
  refine ⟨fun r => ?_, fun r => ⟨issue_wp r ?_, ?_, ?_⟩⟩
  · rw [← copyStatus_eq]
    exact issue_wn r (by simp only [onAct, E])
  · simp only [onAct, E, b, tgt]
  · rw [Nat.mul_comm (2 ^ 32), Nat.mul_comm (2 ^ 48)]
    exact issue_wn r (by simp only [onAct, E, b])
  · have flag : (if b.overrun then 2 ^ 63 else 0) = bit b.overrun * 2 ^ 63 := by cases b.overrun <;> rfl
    rw [flag, ← wrapTo_eq]
    exact issue_wn r (by simp only [onAct, E, b])

/-- BWAIT: the three states of its barrier. -/
theorem barrierWaitCompletesWaitsOrFaults : Claims.BarrierWaitCompletesWaitsOrFaults := by
  intro h f s a r b
  rw [exec_bwait, execBwait]
  refine ⟨fun sound there => issue_keep r ?_ r.runs rfl rfl, fun sound early => issue_waits r ?_, fun overrun => issue_raises r ?_⟩
  · exact (if_neg (by simp [b, sound])).trans (if_pos there)
  · exact (if_neg (by simp [b, sound])).trans (if_neg (by simp [b, early]))
  · rw [Nat.mul_comm 256, ← wrapTo_eq]
    exact if_pos overrun

/-- Settles O34: the queries write what they read, and BWAIT goes by the state of its barrier. -/
theorem copyAndBarrierWordsReadTheirState : Obligations.CopyAndBarrierWordsReadTheirState :=
  ⟨copyAndBarrierQueriesReadTheirState, barrierWaitCompletesWaitsOrFaults⟩

end Sys2Proof.Machine

namespace Sys2Proof.Machine

/-! ### ATOM (R196) -/

/-! #### A rounded value has a code of its format's width (R55, R65, R67) -/

theorem pow2_cast (e : Int) : ((pow2 e).1 : ℚ) = 2 ^ e * (pow2 e).2 := by
  by_cases h : 0 ≤ e
  · obtain ⟨k, rfl⟩ := Int.eq_ofNat_of_zero_le h
    simp [pow2_of_nonneg h]
  · obtain ⟨k, hk⟩ := Int.eq_ofNat_of_zero_le (show 0 ≤ -e by omega)
    obtain rfl : e = -(k : Int) := by omega
    simp [pow2_of_neg (not_le.1 h)]

theorem two_pow_log2_le {n : Nat} (h : n ≠ 0) : (2 : ℚ) ^ (n.log2 : Int) ≤ n := by
  exact_mod_cast Nat.log2_self_le h

theorem lt_two_pow_log2 (n : Nat) : (n : ℚ) < 2 ^ (n.log2 + 1 : Int) := by
  exact_mod_cast Nat.lt_log2_self

/-- The exponent of a positive fraction. -/
theorem floorLog2_bounds {n d : Nat} (hn : n ≠ 0) (hd : d ≠ 0) :
    (2 : ℚ) ^ floorLog2 n d * d ≤ n ∧ (n : ℚ) < 2 ^ (floorLog2 n d + 1) * d := by
  have two : (2 : ℚ) ≠ 0 := two_ne_zero
  generalize hk : (n.log2 : Int) - d.log2 = k
  have below : (2 : ℚ) ^ (k - 1) * d ≤ n := calc
    (2 : ℚ) ^ (k - 1) * d ≤ 2 ^ (k - 1) * 2 ^ (d.log2 + 1 : Int) := by gcongr; exact (lt_two_pow_log2 d).le
    _ = 2 ^ (n.log2 : Int) := by rw [← zpow_add₀ two]; congr 1; omega
    _ ≤ n := two_pow_log2_le hn
  have above : (n : ℚ) < 2 ^ (k + 1) * d := calc
    (n : ℚ) < 2 ^ (n.log2 + 1 : Int) := lt_two_pow_log2 n
    _ = 2 ^ (k + 1) * 2 ^ (d.log2 : Int) := by rw [← zpow_add₀ two]; congr 1; omega
    _ ≤ 2 ^ (k + 1) * d := by gcongr; exact two_pow_log2_le hd
  have test : n * (pow2 k).2 < (pow2 k).1 * d ↔ (n : ℚ) < 2 ^ k * d := by
    have pos : (0 : ℚ) < (pow2 k).2 := by exact_mod_cast pow2_snd_pos k
    rw [← Nat.cast_lt (α := ℚ), Nat.cast_mul, Nat.cast_mul, pow2_cast, mul_right_comm, mul_lt_mul_iff_left₀ pos]
  simp only [floorLog2, hk, test]
  split
  · next less => exact ⟨below, by simpa using less⟩
  · next more => exact ⟨not_lt.1 more, above⟩

/-- A quotient by `2^e` as the code of a value takes it. -/
theorem scaled_div_lt {n d m : Nat} {e : Int} (h : (n : ℚ) < 2 ^ e * d * m) : n * (pow2 e).2 / (d * (pow2 e).1) < m := by
  refine Nat.div_lt_of_lt_mul ?_
  have pos : (0 : ℚ) < (pow2 e).2 := by exact_mod_cast pow2_snd_pos e
  rw [← Nat.cast_lt (α := ℚ)]
  push_cast
  calc (n : ℚ) * (pow2 e).2 < 2 ^ e * d * m * (pow2 e).2 := by gcongr
    _ = d * (pow2 e).1 * m := by rw [pow2_cast]; ring

/-- The value has a code in float format `f`, if it lies on its grid: a finite one is at most the greatest. -/
def Val.inRange (f : Nat) : Val → Prop
  | .fin _ n d => d ≠ 0 ∧ n ≤ maxFinite f * d
  | _ => True

theorem roundGrid_den {f mode bits : Nat} {x : Val} {s : Bool} {n d : Nat} (h : roundGrid f mode bits x = .fin s n d) : d ≠ 0 := by
  unfold roundGrid at h
  split at h
  · dsimp only at h
    split at h
    · cases h; decide
    · rw [scale_fin_one] at h
      cases h
      exact (pow2_snd_pos _).ne'
  · next v nonfin => exact absurd h (nonfin _ _ _)

theorem inRange_roundTo {f : Nat} (hf : f ≤ 5) (mode : Nat) (sat : Bool) (bits : Nat) (x : Val) : (roundTo f mode sat bits x).inRange f := by
  unfold roundTo
  split
  · split <;> simp [Val.inRange]
  · split_ifs with e4m3 _ e2m1
    · subst e4m3; simp [Val.inRange, maxFinite]
    · trivial
    · subst e2m1; simp [Val.inRange, maxFinite]
    · simp [Val.inRange]
    · trivial
  · next grid =>
    split_ifs with fits
    · exact ⟨roundGrid_den grid, fits⟩
    · simp [Val.inRange]
    · trivial
    · trivial

theorem signCode_add_lt {f E m : Nat} (s : Bool) (hE : E < 2 ^ expBits f) (hm : m < 2 ^ mantBits f) :
    signCode f s + E * 2 ^ mantBits f + m < 2 ^ (mantBits f + expBits f + 1) := by
  have sign : signCode f s ≤ 2 ^ (mantBits f + expBits f) := by unfold signCode; split <;> simp
  have rest : (E + 1) * 2 ^ mantBits f ≤ 2 ^ (mantBits f + expBits f) := by
    rw [Nat.pow_add, Nat.mul_comm (2 ^ mantBits f)]
    gcongr
    omega
  rw [Nat.succ_mul] at rest
  rw [Nat.pow_succ]
  omega

theorem canonNan_lt {f : Nat} (hf : f ≤ 5) : canonNan f < 2 ^ fmtWidth f := by
  interval_cases f <;> decide

theorem maxFinite_lt {f : Nat} (hf : f ≤ 5) : maxFinite f < 2 ^ (2 ^ expBits f - biasOf f) := by
  interval_cases f <;> decide

theorem biasOf_lt {f : Nat} (hf : f ≤ 5) : biasOf f < 2 ^ expBits f := by
  interval_cases f <;> decide

/-- The exponent of a value in range fits its field. -/
theorem floorLog2_add_bias_lt {f n d : Nat} (hf : f ≤ 5) (hn : n ≠ 0) (hd : d ≠ 0) (fits : n ≤ maxFinite f * d) :
    floorLog2 n d + biasOf f < (2 ^ expBits f : Nat) := by
  have bias := biasOf_lt hf
  have pos : (0 : ℚ) < d := by exact_mod_cast Nat.pos_of_ne_zero hd
  have small : (2 : ℚ) ^ floorLog2 n d < 2 ^ ((2 ^ expBits f - biasOf f : Nat) : Int) := by
    refine lt_of_mul_lt_mul_right ?_ pos.le
    calc (2 : ℚ) ^ floorLog2 n d * d ≤ n := (floorLog2_bounds hn hd).1
      _ ≤ maxFinite f * d := by exact_mod_cast fits
      _ < 2 ^ ((2 ^ expBits f - biasOf f : Nat) : Int) * d := by
        gcongr
        exact_mod_cast maxFinite_lt hf
  have := (zpow_lt_zpow_iff_right₀ one_lt_two).1 small
  omega

theorem floatCode_lt {f : Nat} (hf : f ≤ 5) {x : Val} (fits : x.inRange f) : floatCode f x < 2 ^ fmtWidth f := by
  cases x with
  | nan => exact canonNan_lt hf
  | inf s =>
    rw [floatCode_inf, fmtWidth_of_float hf]
    exact signCode_add_lt (m := 0) s (Nat.sub_lt (by positivity) one_pos) (by positivity)
  | fin s n d =>
    obtain ⟨hd, small⟩ := fits
    rw [fmtWidth_of_float hf]
    by_cases hn : n = 0
    · subst hn
      simpa [floatCode, signCode] using signCode_add_lt (f := f) (E := 0) (m := 0) s (by positivity) (by positivity)
    obtain ⟨-, above⟩ := floorLog2_bounds hn hd
    have two : (2 : ℚ) ≠ 0 := two_ne_zero
    by_cases sub : floorLog2 n d < 1 - (biasOf f : Int)
    · have frac : (n : ℚ) < 2 ^ (1 - (biasOf f : Int) - mantBits f) * d * (2 ^ mantBits f : Nat) := calc
        (n : ℚ) < 2 ^ (floorLog2 n d + 1) * d := above
        _ ≤ 2 ^ (1 - (biasOf f : Int)) * d := by gcongr <;> [norm_num; omega]
        _ = 2 ^ (1 - (biasOf f : Int) - mantBits f) * d * (2 ^ mantBits f : Nat) := by
          rw [mul_right_comm, Nat.cast_pow, Nat.cast_ofNat, ← zpow_natCast, ← zpow_add₀ two, sub_add_cancel]
      have := signCode_add_lt (E := 0) s (by positivity) (scaled_div_lt frac)
      simpa [floatCode, hn, sub, signCode] using this
    · have frac : (n : ℚ) < 2 ^ (floorLog2 n d - mantBits f) * d * (2 ^ (mantBits f + 1) : Nat) := by
        refine above.trans_eq ?_
        rw [mul_right_comm, Nat.cast_pow, Nat.cast_ofNat, ← zpow_natCast, ← zpow_add₀ two]
        congr 2
        push_cast
        ring
      have mant := scaled_div_lt frac
      have field := floorLog2_add_bias_lt hf hn hd small
      rw [Nat.pow_succ] at mant
      have := signCode_add_lt (f := f) (E := (floorLog2 n d + biasOf f).toNat)
        (m := n * (pow2 (floorLog2 n d - mantBits f)).2 / (d * (pow2 (floorLog2 n d - mantBits f)).1) - 2 ^ mantBits f) s (by omega)
        (by have : 0 < 2 ^ mantBits f := by positivity
            omega)
      simpa [floatCode, hn, sub, signCode] using this

/-! #### The word that an atomic writes, and the one that it gives (R196) -/

theorem signed_eq {w : Nat} (n : Nat) (hw : 0 < w) : signed w n = (BitVec.ofNat w n).toInt := by
  have low : signed w n = signed w (n % 2 ^ w) := by simp only [signed, Nat.mod_mod]
  have bits := signed_toNat (BitVec.ofNat w n) hw
  rwa [BitVec.toNat_ofNat, ← low, BitVec.setWidth_eq] at bits

theorem atomNew_eq {op w old b cmp v : Nat} (hw : 0 < w) (word : Claims.atomWord op w old b cmp = some v) :
    atomNew op w old b cmp = v := by
  unfold Claims.atomWord at word
  split at word <;> cases word
  case h_2 | h_3 => simp [atomNew, signed_eq _ hw, BitVec.sle]
  case h_4 => exact Nat.min_def
  case h_5 => exact (Nat.max_comm old b).trans Nat.max_def
  all_goals rfl

/-- The new word of an integer atomic, and of FADD on F32, has the width of the old one. -/
theorem atomWord_lt {op w old b cmp v : Nat} (hold : old < 2 ^ w) (hb : b < 2 ^ w) (float : op = 10 → w = 32)
    (word : Claims.atomWord op w old b cmp = some v) : v < 2 ^ w := by
  unfold Claims.atomWord at word
  split at word <;> cases word
  case h_1 => exact Nat.mod_lt _ (by positivity)
  case h_6 => exact Nat.and_lt_two_pow _ hb
  case h_7 => exact Nat.or_lt_two_pow hold hb
  case h_8 => exact Nat.xor_lt_two_pow hold hb
  case h_9 => exact hb
  case h_11 =>
    rw [float rfl]
    exact floatCode_lt (f := 0) (by decide) (inRange_roundTo (by decide) ..)
  all_goals split <;> assumption

theorem ofLE_lt (l : List Byte) : ofLE l < 2 ^ (8 * l.length) := by
  induction l with
  | nil => decide
  | cons b l ih =>
    have := b.isLt
    rw [ofLE, List.length_cons, Nat.mul_succ, Nat.pow_add]
    omega

theorem readLE_lt (m : Sparse Byte) (a n : Nat) : readLE m a n < 2 ^ (8 * n) := by
  simpa [readLE] using ofLE_lt (bytesAt m a n)

/-- The formats of ATOM: integers of 32 and 64 bits, and F32. -/
theorem fmtWidth_of_atom {F : Nat} (h : F = 0 ∨ [15, 16, 20, 21].contains F = true) : fmtWidth F = 32 ∨ fmtWidth F = 64 := by
  obtain rfl | h := h
  · exact .inl rfl
  · simp only [List.contains_eq_mem, List.mem_cons, List.not_mem_nil, or_false, decide_eq_true_eq] at h
    obtain rfl | rfl | rfl | rfl := h <;> simp [fmtWidth]

theorem atomReg_eq {F : Nat} (h : F = 0 ∨ [15, 16, 20, 21].contains F = true) (old : Nat) : BitVec.ofNat 64 (atomReg F old) =
    if F = 15 then (BitVec.ofNat 32 old).signExtend 64 else BitVec.ofNat 64 old := by
  obtain rfl | h := h
  · rfl
  · simp only [List.contains_eq_mem, List.mem_cons, List.not_mem_nil, or_false, decide_eq_true_eq] at h
    obtain rfl | rfl | rfl | rfl := h
    · calc BitVec.ofNat 64 (wrapTo 64 (signed 32 old))
        _ = BitVec.ofInt 64 (BitVec.ofNat 32 old).toInt := by rw [ofNat_wrapTo, signed_eq _ (by decide)]
    · calc BitVec.ofNat 64 (wrapTo 64 (signed 64 old))
        _ = BitVec.ofInt 64 (BitVec.ofNat 64 old).toInt := by rw [ofNat_wrapTo, signed_eq _ (by decide)]
        _ = BitVec.ofNat 64 old := BitVec.ofInt_toInt
    · rfl
    · rfl

theorem exec_atom (h : Hdr) (f : MForm) (s : State) : exec (.atom h f) s = execAtom h f s := rfl

/-- Settles O8: the word is written whole, and has the width of the format. -/
theorem scratchpadAtomicsReadModifyWrite : Obligations.ScratchpadAtomicsReadModifyWrite := by
  intro h f s a v r canonical kind w ad old ok word
  have sorted : s.spad.sorted = true := (Bool.and_eq_true_iff.1 canonical).1
  have format : f.fmt.toNat = 0 ∨ [15, 16, 20, 21].contains f.fmt.toNat = true := kind.symm.imp (fun k => by rw [k.1]; rfl) And.left
  have bits : 8 * (w / 8) = w := by obtain width | width := fmtWidth_of_atom format <;> simp [w, width]
  have wide : 0 < w := by obtain width | width := fmtWidth_of_atom format <;> simp [w, width]
  have float : f.mode.toNat % 16 = 10 → w = 32 := fun op => by
    obtain ⟨-, int⟩ | ⟨f32, -⟩ := kind
    · omega
    · simp only [w, f32]; rfl
  have fits : v < 2 ^ w := atomWord_lt (bits ▸ readLE_lt s.spad ad (w / 8)) (Nat.mod_lt _ (by positivity)) float word
  refine ⟨[putOf ad (toLE (w / 8) v)], ?_, ?_, fun x outside => ?_⟩
  · rw [exec_atom, execAtom, ← atomReg_eq format]
    refine issue_put r ?_ rfl rfl (Act.wn_faults ..) (Act.wn_tc ..) (Act.wn_ts ..) (Act.wn_ta ..)
    exact (checkSpad_passes ok).trans (by rw [← atomNew_eq wide word]; rfl)
  · rw [setSpad_spad]
    refine (readLE_writeLE sorted ad (w / 8) v).trans ?_
    rw [bits, Nat.mod_eq_of_lt fits]
  · rw [setSpad_spad]
    exact get_writeLE_other sorted ad (w / 8) v outside

end Sys2Proof.Machine

namespace Sys2Proof.Machine

/-! ### CINV and PREF (R193 to R197) -/

/-! #### What a translation leaves: the effects on their way, and every activation -/

theorem snoop_works (s : State) (a n : Nat) (w : Bool) : (s.snoop a n w).works = s.works := by
  have drained : ∀ (u : State) (p gr : Nat), (u.drainBridge p gr).works = u.works := by
    intro u p gr
    unfold State.drainBridge
    split
    · exact advance_works _ _
    · rfl
  simp only [State.snoop]
  split
  · exact (drained _ _ _).trans (drained _ _ _)
  · rfl

theorem takeBack_works (s : State) (a n : Nat) (w : Bool) : (s.takeBack a n w).works = s.works := by
  simp only [State.takeBack]
  split
  · exact ((coverRecall_works _ _ _).trans (recallFrom_works _ _ _)).trans (snoop_works s a n w)
  · exact snoop_works s a n w

theorem wrBytes_works (s : State) (a : Nat) (bs : List Byte) : (s.wrBytes a bs).works = s.works := rfl

theorem showSwitch_works (s : State) (sw : Nat) : (s.showSwitch sw).works = s.works := ite_works (wrBytes_works s _ _) rfl

theorem hopFault_works (s : State) (info : Nat) : (s.hopFault info).works = s.works := showSwitch_works _ _

theorem setAD_works (s : State) (a e : Nat) (need : Need) : (s.setAD a e need).works = s.works := by
  have killed : ∀ u : State, (u.killResv a 8).works = u.works := by
    intro u
    simp only [State.killResv]
    split <;> rfl
  unfold State.setAD
  split
  · rfl
  · calc (((s.takeBack a 8 true).killResv a 8).wr a 8 (e + adBits e need) |>.advance [a / 128]).works
      _ = (((s.takeBack a 8 true).killResv a 8).wr a 8 (e + adBits e need)).works := advance_works _ _
      _ = ((s.takeBack a 8 true).killResv a 8).works := rfl
      _ = s.works := (killed _).trans (takeBack_works s a 8 true)

theorem walk_works (s : State) (via : Option (Nat × Nat)) (o fuel lvl t : Nat) (u : List Nat) :
    (s.walk via o fuel lvl t u).2.works = s.works := by
  induction fuel generalizing s lvl t u with
  | zero => rfl
  | succ fuel ih =>
    simp only [State.walk]
    split
    · exact hopFault_works s _
    · split_ifs
      · exact takeBack_works s _ _ _
      · exact takeBack_works s _ _ _
      · exact takeBack_works s _ _ _
      · exact (ih _ _ _ _).trans (takeBack_works s _ _ _)

theorem translate0_works (s : State) (ctx : Nat) (need : Need) (o : Nat) (via : Option (Nat × Nat)) :
    (s.translate0 ctx need o via).2.works = s.works := by
  have walked := walk_works s via o 4 0 (s.ctx ctx).ptRoot []
  simp only [State.translate0]
  split_ifs
  · rfl
  · split
    · next h => rwa [h] at walked
    · next h => rwa [h] at walked
    · next h =>
      rw [h] at walked
      split_ifs
      case neg => exact (setAD_works _ _ _ _).trans walked
      all_goals exact walked

theorem translate_works (s : State) (ctx : Nat) (need : Need) (va n : Nat) (via : Option (Nat × Nat)) :
    (s.translate ctx need va n via).2.works = s.works := by
  simp only [State.translate]
  split_ifs
  case pos => exact translate0_works s ctx need _ via
  all_goals rfl

theorem cur_of_works {s t : State} (works : t.works = s.works) (kept : t.standing = s.standing) : t.cur = s.cur := by
  rw [State.cur, State.cur, focus_of_standing kept, act_of_works works]

theorem modEng_works (s : State) (g : Nat) {f : Engine → Engine} (slots : ∀ E, (f E).slots = E.slots) :
    (s.modEng g f).works = s.works := by
  have act : (s.modEng g f).act = s.act := by
    funext j k
    by_cases same : j = g
    · subst same
      simp [State.act, State.modEng, Engine.act, Engine.slot, slots]
    · simp only [State.act, State.modEng, eng_setEng_other s _ same]
  exact congrArg (Prod.mk s.inflight) act

/-! #### The lines of a cache (R15, R184) -/

section
variable (d sets ways x : Nat) (l : List Nat)

/-- The lines that share the set of `x`. -/
def setOf (sets x : Nat) (l : List Nat) : List Nat := l.filter (fun y => y % sets == x % sets)

/-- What `lineIn` makes of the list: nothing new, one line more, or one line in the place of another of its set. -/
theorem lineIn_cases : (x ∈ l ∧ lineIn d sets ways x l = l) ∨
    ((setOf sets x l).length < ways ∧ lineIn d sets ways x l = x :: l) ∨
    (ways ≤ (setOf sets x l).length ∧
      lineIn d sets ways x l = x :: l.filter (fun y => y != (setOf sets x l).getD (d % ways) 0)) := by
  unfold lineIn
  dsimp only
  split_ifs with there room
  · exact .inl ⟨by simpa using there, rfl⟩
  · exact .inr (.inl ⟨room, rfl⟩)
  · exact .inr (.inr ⟨not_lt.1 room, rfl⟩)

theorem mem_lineIn_self : x ∈ lineIn d sets ways x l := by
  obtain ⟨there, new⟩ | ⟨-, new⟩ | ⟨-, new⟩ := lineIn_cases d sets ways x l <;> simp [*]

variable {d sets ways x l} {y : Nat}

theorem eq_or_mem_of_mem_lineIn (hy : y ∈ lineIn d sets ways x l) : y = x ∨ y ∈ l := by
  obtain ⟨-, new⟩ | ⟨-, new⟩ | ⟨-, new⟩ := lineIn_cases d sets ways x l <;> rw [new] at hy
  · exact .inr hy
  · exact List.mem_cons.1 hy
  · exact (List.mem_cons.1 hy).imp_right List.mem_of_mem_filter

/-- The line that gives way in a full set is one of the set. -/
theorem victim_mem_setOf (hw : 0 < ways) (full : ways ≤ (setOf sets x l).length) :
    (setOf sets x l).getD (d % ways) 0 ∈ setOf sets x l := by
  rw [List.getD_eq_getElem _ _ ((Nat.mod_lt d hw).trans_le full)]
  exact List.getElem_mem _

theorem mem_lineIn_of_other_set (hw : 0 < ways) (hy : y ∈ l) (other : y % sets ≠ x % sets) : y ∈ lineIn d sets ways x l := by
  obtain ⟨-, new⟩ | ⟨-, new⟩ | ⟨full, new⟩ := lineIn_cases d sets ways x l <;> rw [new]
  · exact hy
  · exact List.mem_cons_of_mem _ hy
  · refine List.mem_cons_of_mem _ (List.mem_filter.2 ⟨hy, bne_iff_ne.2 fun victim => other ?_⟩)
    have := (List.mem_filter.1 (victim ▸ victim_mem_setOf (d := d) hw full)).2
    exact eq_of_beq this

/-- A set does not outgrow its ways. -/
theorem length_setOf_lineIn (hw : 0 < ways) (fits : (setOf sets x l).length ≤ ways) :
    (setOf sets x (lineIn d sets ways x l)).length ≤ ways := by
  obtain ⟨-, new⟩ | ⟨room, new⟩ | ⟨full, new⟩ := lineIn_cases d sets ways x l <;> rw [new]
  · exact fits
  · rw [setOf, List.filter_cons_of_pos (by simp), List.length_cons]
    exact room
  · rw [setOf, List.filter_cons_of_pos (by simp), List.length_cons, List.filter_comm]
    have victim := victim_mem_setOf (d := d) hw full
    exact (List.length_filter_lt_length_iff_exists.2 ⟨_, victim, by simp⟩).trans_le fits

end

theorem setOf_one (x : Nat) (l : List Nat) : setOf 1 x l = l := by simp [setOf, Nat.mod_one]

/-- R184: the data cache of an engine has 16 sets of four granules. -/
theorem cacheData_keeps_its_sets (v : State) (g gr : Nat) :
    let old := (v.eng g).dcache
    let new := ((v.cacheData g gr).eng g).dcache
    let set := fun (l : List Nat) => (l.filter (fun x => x % 16 = gr % 16)).length
    gr ∈ new ∧ (∀ x, x ∈ new → x = gr ∨ x ∈ old) ∧ (∀ x, x ∈ old → x % 16 ≠ gr % 16 → x ∈ new) ∧ (set old ≤ 4 → set new ≤ 4) := by
  intro old new set
  have line : new = lineIn v.draw.1 16 4 gr old := congrArg Engine.dcache (eng_setEng_same _ _ _)
  rw [line]
  exact ⟨mem_lineIn_self .., fun x => eq_or_mem_of_mem_lineIn, fun x => mem_lineIn_of_other_set (by decide),
    length_setOf_lineIn (by decide)⟩

/-- R15: the cluster cache holds 4,096 lines. -/
theorem cacheCluster_keeps_its_size (v : State) (c gr : Nat) :
    let old := (v.cluster c).l2
    let new := ((v.cacheCluster c gr).cluster c).l2
    gr ∈ new ∧ (∀ x, x ∈ new → x = gr ∨ x ∈ old) ∧ (old.length ≤ 4096 → new.length ≤ 4096) := by
  intro old new
  have line : new = lineIn v.draw.1 1 4096 gr old := by
    simp [new, old, State.cacheCluster, State.modCluster, State.cluster, State.setCluster, State.draw]
  have size := length_setOf_lineIn (d := v.draw.1) (sets := 1) (ways := 4096) (x := gr) (l := old) (by decide)
  rw [setOf_one, setOf_one] at size
  rw [line]
  exact ⟨mem_lineIn_self .., fun x => eq_or_mem_of_mem_lineIn, size⟩

/-! #### The words -/

/-- A word whose effect leaves an activation in focus with the same tokens and no fault, and the word in focus where it stands. -/
theorem issue_leaves {q : Nat} {h : Hdr} {s t : State} {a b : Act} {body : State → Act → Res} (r : Ready q h s a)
    (effect : body s a = .ok t) (cur : t.cur = some b) (kept : t.standing = s.standing) (faults : b.faults = a.faults)
    (tc : b.tc = a.tc) (ts : b.ts = a.ts) (ta : b.ta = a.ta) : issue q h body s = .next (t.setCur (b.done q h s.focus.n)) := by
  have fits : b.fits q h t.focus.n = true := by rw [focus_of_standing kept, fits_congr tc ts ta]; exact r.fits
  have now : pushesNow h t = true := by rw [pushesNow, sameCycle_of_standing kept]; exact r.now
  rw [issue_ready r, effect]
  simp only
  rw [← retire_setCur_self cur, retire_calm (faults.trans r.calm) fits now, focus_of_standing kept]

section
variable {h : Hdr} {f : MForm} {s t : State} {a : Act}

theorem exec_cinvLine : exec (.cinvLine h f) s = execCinvLine h f s := rfl
theorem exec_cinvAll : exec (.cinvAll h f) s = execCinvAll h f s := rfl
theorem exec_cinvI : exec (.cinvI h f) s = execCinvI h f s := rfl
theorem exec_pref : exec (.pref h f) s = execPref h f s := rfl

/-- CINV and its forms: an effect on the caches of the engine in focus. -/
theorem issue_caches {q : Nat} {caches : Act → Engine → Engine} (slots : ∀ E, (caches a E).slots = E.slots) (r : Ready q h s a) :
    issue q h (fun s a => .ok (s.modEng s.focus.g (caches a))) s =
      .next ((s.modEng s.focus.g (caches a)).setCur (a.done q h s.focus.n)) :=
  issue_leaves r rfl ((cur_of_works (modEng_works s _ slots) rfl).trans r.runs) rfl rfl rfl rfl rfl

theorem cacheData_works (v : State) (g gr : Nat) : (v.cacheData g gr).works = v.works := modEng_works v.draw.2 g fun _ => rfl

/-- A fetch leaves the activation in focus. -/
theorem execPref_fetches {p k : Nat} {u : List Nat} {v : State} (r : Ready 0 h s a)
    (ok : s.translate a.ctx .r (baseAddr f a) 1 s.via = (.ok (.dpa p k) u, t))
    (free : (t.setCur (a.addUses u)).recall (s.focus.g / 16) a.ctx (128 * (p / 128)) 128 false false = some v) :
    execPref h f s = .next ((if bitOf f.mode.toNat 0 then v.cacheCluster (s.focus.g / 16) (p / 128)
      else v.cacheData s.focus.g (p / 128)).setCur ((a.addUses u).done 0 h s.focus.n)) := by
  have translated : t.standing = s.standing := by simpa [ok] using translate_standing s a.ctx .r (baseAddr f a) 1 s.via
  have kept : v.standing = s.standing := (recall_standing free).trans translated
  have cur : v.cur = some (a.addUses u) := (cur_of_works (recall_works free) (recall_standing free)).trans (cur_setCur _ _)
  have effect : ∀ w, w = (if bitOf f.mode.toNat 0 then v.cacheCluster (s.focus.g / 16) (p / 128) else v.cacheData s.focus.g (p / 128)) →
      w.works = v.works ∧ w.standing = v.standing := by
    rintro w rfl
    split
    · exact ⟨rfl, rfl⟩
    · exact ⟨cacheData_works _ _ _, rfl⟩
  obtain ⟨works, standing⟩ := effect _ rfl
  refine issue_leaves r ?_ ((cur_of_works works standing).trans cur) (standing.trans kept) rfl rfl rfl rfl
  simp only [ok, State.fetchLine, free]

theorem execPref_leaves_out {p k : Nat} {u : List Nat} (r : Ready 0 h s a)
    (ok : s.translate a.ctx .r (baseAddr f a) 1 s.via = (.ok (.dpa p k) u, t))
    (busy : (t.setCur (a.addUses u)).recall (s.focus.g / 16) a.ctx (128 * (p / 128)) 128 false false = none) :
    execPref h f s = .next (t.setCur ((a.addUses u).done 0 h s.focus.n)) := by
  have translated : t.standing = s.standing := by simpa [ok] using translate_standing s a.ctx .r (baseAddr f a) 1 s.via
  refine issue_put r ?_ (focus_of_standing translated) (sameCycle_of_standing translated) rfl rfl rfl rfl
  simp only [ok, State.fetchLine, busy]

/-- Nothing of the device is at the address. -/
theorem execPref_idle {x : XRes} (r : Ready 0 h s a) (answer : s.translate a.ctx .r (baseAddr f a) 1 s.via = (x, t))
    (away : ∀ p k u, x ≠ .ok (.dpa p k) u) : execPref h f s = .next (t.setCur (a.done 0 h s.focus.n)) := by
  have translated : t.standing = s.standing := by simpa [answer] using translate_standing s a.ctx .r (baseAddr f a) 1 s.via
  have works : t.works = s.works := by simpa [answer] using translate_works s a.ctx .r (baseAddr f a) 1 s.via
  refine issue_leaves r ?_ ((cur_of_works works translated).trans r.runs) translated rfl rfl rfl rfl
  rw [answer]
  split
  · next here => exact absurd (congrArg Prod.fst here) (away _ _ _)
  · next here => rw [← (Prod.mk.inj here).2]

end

/-- Settles O10: the words act on the caches alone, PREF by what its translation gives, and a cache keeps its sets. -/
theorem cacheWordsComplete : Obligations.CacheWordsComplete := by
  intro h f s a r
  rw [exec_cinvLine, exec_cinvAll, exec_cinvI, exec_pref, ← bitOf_toNat]
  exact ⟨issue_caches (fun _ => rfl) r, issue_caches (fun _ => rfl) r, issue_caches (fun _ => rfl) r,
    fun p k u t ok => ⟨fun v => execPref_fetches r ok, execPref_leaves_out r ok⟩, fun x t bad => execPref_idle r bad nofun,
    fun w o u t far => execPref_idle r far nofun, cacheData_keeps_its_sets, cacheCluster_keeps_its_size⟩

end Sys2Proof.Machine

namespace Sys2Proof.Machine

/-! ### Copies (R199 to R210, R219, R411, R470) -/

theorem exec_copySectorIssue (g i : Nat) (s : State) : exec (.copySectorIssue g i) s = execCopySectorIssue g i s := rfl
theorem exec_copySectorLand (g i j code : Nat) (data : List Byte) (s : State) :
    exec (.copySectorLand g i j code data) s = execCopySectorLand g i j code data s := rfl
theorem exec_copyPageReplay (g i : Nat) (s : State) : exec (.copyPageReplay g i) s = execCopyPageReplay g i s := rfl

/-! #### Which sector issues (R207, R209) -/

/-- Whether the engine works on a copy does not tell how far its granules reach. -/
theorem Copy.run_working (c : Copy) (w : Bool) (k : Nat × Nat) (fuel n : Nat) :
    ({ c with working := w } : Copy).run k fuel n = c.run k fuel n := by
  induction fuel generalizing n with
  | zero => rfl
  | succ fuel ih => rw [Copy.run, Copy.run, ih]; rfl

theorem Copy.sector_working (c : Copy) (w : Bool) : ({ c with working := w } : Copy).sector = c.sector := by
  rw [Copy.sector, Copy.sector, Copy.run_working]; rfl

section
variable {s : State} {g i : Nat} {c : Copy} (here : (s.eng g).copies[i]? = some c)
include here

/-- At most four copies of an engine are worked on at once. -/
theorem execCopySectorIssue_full (idle : c.working = false) (full : 4 ≤ ((s.eng g).copies.filter (fun x => x.working)).length) :
    execCopySectorIssue g i s = .next s := by
  simp only [execCopySectorIssue, here]
  exact if_pos (by simp [idle, full])

theorem execCopySectorIssue_go {r : SecRef} {d : Copy} (current : (s.eng g).ctx = some c.ctx)
    (room : c.working = true ∨ ((s.eng g).copies.filter (fun x => x.working)).length < 4)
    (next : (c.replay = [] ∧ c.issuing = true ∧ r = c.sector ∧
        d = { c with working := true, next := c.next + max 1 r.len, sectors := c.sectors + 1 }) ∨
      (∃ rest, c.replay = r :: rest ∧ d = { c with working := true, replay := rest })) :
    execCopySectorIssue g i s = .next (s.issueSector g i d r) := by
  have free : ¬ ((s.eng g).ctx ≠ some c.ctx || (!c.working && 4 ≤ ((s.eng g).copies.filter (fun x => x.working)).length)) = true := by
    obtain working | few := room
    · simp [current, working]
    · simp [current, Nat.not_le.2 few]
  simp only [execCopySectorIssue, here]
  refine (if_neg free).trans ?_
  split
  · next found =>
    obtain ⟨fresh, -⟩ | ⟨rest, again, rfl⟩ := next
    · cases found.symm.trans fresh
    · cases found.symm.trans again
      rfl
  · next found =>
    obtain ⟨-, issuing, rfl, rfl⟩ | ⟨rest, again, -⟩ := next
    · rw [Copy.sector_working]
      refine if_pos ?_
      exact issuing
    · cases found.symm.trans again

end

/-! #### The issue of a sector (R209, R411, R470) -/

theorem xlatePieces_standing (s : State) (g ctx : Nat) (need : Need) (l : List (Nat × Nat)) :
    (s.xlatePieces g ctx need l).2.standing = s.standing := by
  induction l generalizing s with
  | nil => rfl
  | cons x l ih =>
    obtain ⟨va, n⟩ := x
    have translated := translate_standing s ctx need va n (some (g / 16, g % 16))
    simp only [State.xlatePieces]
    split
    · next h => rwa [h] at translated
    · next t h =>
      rw [h] at translated
      have rest := ih t
      split
      · exact (hopFault_standing _ _).trans translated
      · split
        · next h => rw [h] at rest; exact rest.trans translated
        · next h => rw [h] at rest; exact rest.trans translated

/-- The bytes of a sector on a side, where it is global. -/
def Copy.side (d : Copy) (source : Bool) (r : SecRef) : List (Nat × Nat) := if d.global source then d.pieces source r else []

/-- The ticket of a sector at the shaper of its engine, and the state with it (R470). -/
def State.shapeSector (s : State) (g ctx : Nat) (x y : List Seg) : Nat × State :=
  s.shape (engineSource g) ctx tcBulk (2 + payloadFlits (((x ++ y).map (fun z => z.n)).sum))

theorem shapeSector_standing (s : State) (g ctx : Nat) (x y : List Seg) : (s.shapeSector g ctx x y).2.standing = s.standing :=
  shape_standing ..

section
variable {s t v : State} {g i : Nat} {d : Copy} {r : SecRef} {k : Skip} {x y : List Seg} {u w : List Nat}

theorem issueSector_of_bad_source (bad : s.xlatePieces g d.ctx .r (d.side true r) = (.error k, t)) :
    s.issueSector g i d r = t.putCopy g i (t.skip d r { k with info := d.sectorAt true r }) := by
  rw [Copy.side] at bad
  simp only [State.issueSector, bad]

variable (src : s.xlatePieces g d.ctx .r (d.side true r) = (.ok (x, u), t))
include src

theorem issueSector_of_bad_destination (bad : t.xlatePieces g d.ctx .w (d.side false r) = (.error k, v)) :
    s.issueSector g i d r = v.putCopy g i (v.skip d r { k with info := d.sectorAt false r }) := by
  rw [Copy.side] at src bad
  simp only [State.issueSector, src, bad]

variable (dst : t.xlatePieces g d.ctx .w (d.side false r) = (.ok (y, w), v))
include dst

theorem issueSector_of_marked {z : Seg} (marked : v.segMarked y = some z) : s.issueSector g i d r =
    v.putCopy g i (v.skip d r { code := 8, info := d.sectorAt false r, page := v.pageAt d.ctx z.va }) := by
  rw [Copy.side] at src dst
  simp only [State.issueSector, src, dst, marked]

theorem issueSector_flies (unmarked : v.segMarked y = none) (plain : v.segBlocks x = []) : s.issueSector g i d r =
    (v.shapeSector g d.ctx x y).2.putCopy g i { d with flying := d.flying ++
      [{ ref := r, src := x, dst := y, uses := u ++ w, since := s.hubTime, ticket := (v.shapeSector g d.ctx x y).1 }] } := by
  have read := xlatePieces_standing s g d.ctx .r (d.side true r)
  have written := xlatePieces_standing t g d.ctx .w (d.side false r)
  rw [src] at read
  rw [dst] at written
  have time : (v.shapeSector g d.ctx x y).2.hubTime = s.hubTime :=
    hubTime_of_standing ((shapeSector_standing ..).trans (written.trans read))
  rw [Copy.side] at src dst
  rw [State.shapeSector] at time ⊢
  simp only [State.issueSector, src, dst, unmarked, plain, List.isEmpty_nil, if_true, time]

end

/-! #### The landing of a sector (R201, R207, R219) -/

/-- The sector as its hosts' windows stand now (R386). -/
def Sector.ported (f : Sector) (s : State) : Sector :=
  { f with src := f.src.map (fun x => { x with tgt := s.rePort x.va x.tgt x.port }),
           dst := f.dst.map (fun x => { x with tgt := s.rePort x.va x.tgt x.port }) }

theorem firstSome_eq_none {α β : Type} {p : α → Option β} {l : List α} (all : ∀ x, p x = none) : firstSome p l = none := by
  induction l with
  | nil => rfl
  | cons x l ih => rw [firstSome, all, ih]; rfl

theorem findsBad_of_sound {s : State} (sound : s.badBits = []) (a n row x : Nat) : s.findsBad a n row x = none := by
  rw [State.findsBad, sound]; rfl

section
variable {s : State} {g i j code : Nat} {data : List Byte} {c : Copy} {f : Sector} (here : (s.eng g).copies[i]? = some c)
  (flying : c.flying[j]? = some f)
include here flying

theorem execCopySectorLand_waits (waits : s.sectorHeld g c.ctx (f.ported s) = true ∨ s.unshaped f.ticket = false) :
    execCopySectorLand g i j code data s = .next s := by
  simp only [execCopySectorLand, here, flying]
  exact if_pos (by simpa [Sector.ported] using waits)

theorem execCopySectorLand_lands {t u : State} (free : s.sectorHeld g c.ctx (f.ported s) = false) (out : s.unshaped f.ticket = true)
    (sound : s.badBits = []) (near : ((f.ported s).src ++ (f.ported s).dst).any Seg.isRemote = false)
    (present : ((f.ported s).src ++ (f.ported s).dst).any s.segGone = false)
    (read : (s.modEng g (fun e => { e with copies := modifyAt e.copies i (fun _ => { c with flying := dropAt c.flying j }) })).recallSegs
      (g / 16) c.ctx false (f.ported s).src = .ok t)
    (written : t.recallSegs (g / 16) c.ctx true (f.ported s).dst = .ok u) (unmarked : u.segMarked (f.ported s).dst = none) :
    execCopySectorLand g i j code data s = .next (u.landSector g i { c with flying := dropAt c.flying j } (f.ported s) data) := by
  unfold Sector.ported at *
  simp only [execCopySectorLand, here, flying]
  rw [if_neg (by simp [free, out]), if_neg (by simp [near]), if_neg (by simp [present]), firstSome_eq_none fun x => ?_]
  · simp only [read, written, unmarked]
  · split
    · exact findsBad_of_sound (by simpa using sound) ..
    · rfl

end

/-- The order of writes that none crosses is theirs. -/
theorem putSpad_uncrossed (s : State) (g : Nat) (src : SpadSrc) (place : Nat) (l : List Put) :
    s.putSpad g src [] place l = s.putSpad g src [] 0 l := by
  simp [State.putSpad]

/-- A sector read from memory and written to the scratchpad of its engine, whose words have written nothing since the copy started. -/
theorem landSector_to_scratchpad {u : State} {g i : Nat} {d : Copy} {f : Sector} {data : List Byte} (fromMem : d.global true = true)
    (toSpad : d.global false = false) (one : d.mcast = false) (counted : d.bar ≠ 127) (unread : f.data = none)
    (near : f.src.any Seg.isRemote = false) (current : (u.eng g).ctx = some d.ctx)
    (uncrossed : (u.eng g).crossing (d.since.getD (g % 16) (u.eng g).past.length) (fun _ x => x == .word) = [])
    {bs : List Byte} {t : State} (read : ({ u with free := u.free + 2 } : State).segBytes g d.ctx [] f.src = (bs, t))
    (same : t.eng g = u.eng g) : u.landSector g i d f data =
      ((t.putSpad g (.copy d.slot d.id) [] 0
          (((List.range f.ref.len).map (fun k => d.writes (fun _ => segByte f.src bs) (f.ref.first + k))).map unitPut)).barUpdate
        g d.bar 0 (-((d.landed f.ref g).1 : Int))).putCopy g i { d with halves := (d.landed f.ref g).2 } := by
  have drawn : u.draw.2.draw.2 = { u with free := u.free + 2 } := rfl
  simp only [State.landSector, fromMem, toSpad, one, unread, near, Bool.false_eq_true, if_true, if_false, drawn, read, State.landOn, same,
    current, uncrossed, if_neg counted, putSpad_uncrossed _ g _ (Prod.fst _)]

/-! #### The replay of a page (R210) -/

theorem modifyAt_congr {α : Type} {l : List α} {i : Nat} {x : α} {f f' : α → α} (here : l[i]? = some x) (same : f x = f' x) :
    modifyAt l i f = modifyAt l i f' := by
  induction l generalizing i with
  | nil => rfl
  | cons y l ih =>
    cases i with
    | zero => obtain rfl := Option.some.inj here; rw [modifyAt, modifyAt, same]
    | succ i => rw [modifyAt, modifyAt, ih here]

theorem execCopyPageReplay_go {s : State} {g i k : Nat} {c : Copy} {p : HeldPage} (here : (s.eng g).copies[i]? = some c)
    (asked : posOf (fun (p : HeldPage) => p.asked && p.held) c.pages = some k) (page : c.pages[k]? = some p)
    (current : (s.eng g).ctx = some c.ctx) (replay : c.replay = []) (flying : c.flying = []) (issued : c.issuing = false) :
    execCopyPageReplay g i s = .next (s.modEng g (fun e => { e with copies := modifyAt e.copies i (fun d =>
      { d with replay := p.sectors, pages := dropAt d.pages k }) })) := by
  simp only [execCopyPageReplay, here, asked]
  rw [if_pos (by simp [current, replay, flying, issued])]
  simp only [State.modEng]
  rw [modifyAt_congr here (f' := fun d => { d with replay := p.sectors, pages := dropAt d.pages k }) (by simp [page])]

/-- Settles O22: the sector that is next, its issue by its translations and its granules, its landing, and the replay of a page. -/
theorem copiesMoveTheirSectors : Obligations.CopiesMoveTheirSectors := by
  intro s g i c here
  simp only [exec_copySectorIssue, exec_copySectorLand, exec_copyPageReplay]
  refine ⟨fun r d current room next => ?issue, fun _ _ _ _ => rfl, execCopySectorIssue_full here, ?land, ?spad,
    fun k p => execCopyPageReplay_go here⟩
  case issue =>
    rw [execCopySectorIssue_go here current room next]
    refine ⟨fun k t bad => congrArg _ (issueSector_of_bad_source bad), fun x u t src =>
      ⟨fun k v bad => congrArg _ (issueSector_of_bad_destination src bad), fun y w v dst => ⟨fun z marked => ?_, fun unmarked plain => ?_⟩⟩⟩
    · exact congrArg _ (issueSector_of_marked src dst marked)
    · exact congrArg _ (issueSector_flies src dst unmarked plain)
  case land =>
    rintro j code data f f' flying rfl
    exact ⟨execCopySectorLand_waits here flying, fun t u => execCopySectorLand_lands here flying⟩
  case spad =>
    intro u d f data fromMem toSpad one counted unread near current uncrossed same
    exact landSector_to_scratchpad fromMem toSpad one counted unread near current uncrossed rfl same

end Sys2Proof.Machine

namespace Sys2Proof.Machine

/-! ### Matrix words (R222, R224, R230, R232, R235 to R242) -/

/-! #### The common course (R222, R236) -/

section
variable {h : Hdr} {opc : Nat} {gate : Option Nat} {wants : List Want} {op : Act → Except Nat MxOp} {s : State} {a : Act}
  (r : Ready 1 h s a)
include r

theorem mxIssue_fails {reg c : Nat} (bad : checkAll s.hub.featAcc a wants = some (reg, c)) :
    mxIssue h opc gate wants op s = .next (s.raiseCur (checkCode c) (opc + 256 * reg + 4096 * c) 0 0 0) := by
  rw [Nat.mul_comm 256, Nat.mul_comm 4096]
  exact issue_raises r (by rw [bad]; rfl)

variable (passes : checkAll s.hub.featAcc a wants = none)
include passes

theorem mxIssue_beyond {info : Nat} (beyond : op a = .error info) :
    mxIssue h opc gate wants op s = .next (s.raiseCur 3 info 0 0 0) :=
  issue_raises r (by rw [passes, beyond]; rfl)

variable {o : MxOp} (named : op a = .ok o)
include named

theorem mxIssue_defers (free : s.mxUsed s.focus.g < 16) (room : a.deferred.length < 64) : mxIssue h opc gate wants op s =
    .next (s.setCur ((Claims.withEffect s a (.matrix { op := o, ctx := a.ctx, gate := gate }) []).done 1 h s.focus.n)) := by
  refine (issue_defers r rfl rfl ?_).trans (congrArg _ (if_pos room))
  simp only [passes, named]
  exact if_pos free

theorem mxIssue_waits (full : 16 ≤ s.mxUsed s.focus.g) (others : a.mxReserved < 16) :
    mxIssue h opc gate wants op s = .next (s.noteWait 1) := by
  refine issue_waits r ?_
  simp only [passes, named]
  rw [if_neg (Nat.not_lt.mpr full), if_neg (Nat.not_le.mpr others)]

theorem mxIssue_overflows (full : 16 ≤ s.mxUsed s.focus.g) (own : 16 ≤ a.mxReserved) :
    mxIssue h opc gate wants op s = .next (s.raiseCur 6 (opc + 4096) 0 0 0) := by
  refine issue_raises r ?_
  simp only [passes, named]
  rw [if_neg (Nat.not_lt.mpr full), if_pos own]
  rfl

end

/-! #### What each word names (R235 to R242) -/

theorem gateOf_fn (f : TForm) : gateOf f.fn.toNat = Claims.gate f := by
  rw [gateOf, Claims.gate, bitOf_toNat]

/-- The scales of an MST: 16 elements, or one for all of them (R240). -/
theorem mstScale_eq (f : TForm) :
    ({ reg := f.hs.toNat, fmt := fun c => [0, 1, 2, 6].contains c,
       fits := fun r => shExts r == [16, 1, 1, 1] || shExts r == [1, 1, 1, 1] } : Want) =
    { reg := f.hs.toNat, fmt := fun c => c ∈ [0, 1, 2, 6], fits := fun r => shExts r = [16, 1, 1, 1] ∨ shExts r = [1, 1, 1, 1] } := by
  congr 1
  · funext c
    exact List.contains_eq_mem _ _
  · funext r
    simp only [beq_eq_decide, Bool.decide_or]

/-- MCFG within its limit, or the info word of the limit that its value breaks (R242). -/
theorem execMcfg_eq (h : Hdr) (f : TForm) (limit : Nat → Bool) (op : Nat → MxOp) (s : State) : execMcfg h f limit op s =
    mxIssue h 0x76 none [] (fun a => if limit (a.ug (f.fn.toNat % 64)) then .ok (op (a.ug (f.fn.toNat % 64)))
      else .error (0x76 + 256 * (f.fn.toNat / 64) + 65536 * (a.ug (f.fn.toNat % 64) % 2 ^ 48))) s := by
  simp only [execMcfg, Nat.mul_comm 256, Nat.mul_comm 65536]

/-- A matrix word is the common course, with the checks and the command that its entry names. -/
theorem exec_of_matrixWord {i : Instr} {a : Act} {h : Hdr} {opc : Nat} {gate : Option Nat} {wants : List Want} {named : Except Nat MxOp}
    (hi : Claims.matrixWord a i = some (h, opc, gate, wants, named)) (s : State) :
    ∃ op : Act → Except Nat MxOp, exec i s = mxIssue h opc gate wants op s ∧ op a = named := by
  unfold Claims.matrixWord at hi
  split at hi <;> cases hi
  case h_1 f =>
    rw [← gateOf_fn, ← bitOf_toNat]
    exact ⟨fun a => .ok (.mldb f.ws.toNat f.fb.toNat (bitOf f.fn.toNat 0) (a.sh f.ha.toNat) (a.sh f.hs.toNat)), rfl, rfl⟩
  case h_2 f =>
    rw [← gateOf_fn, ← bitOf_toNat]
    exact ⟨fun a => .ok (.mma f.acc.toNat f.ws.toNat (a.sh f.ha.toNat) (a.sh f.hs.toNat) f.fa.toNat f.fb.toNat f.rm.toNat f.sat
      (bitOf f.fn.toNat 0)), rfl, rfl⟩
  case h_3 f =>
    rw [← gateOf_fn, ← bitOf_toNat, ← bitOf_toNat]
    exact ⟨fun a => .ok (.mmac f.acc.toNat f.ws.toNat (a.sh f.ha.toNat) f.fa.toNat f.fb.toNat f.sat (bitOf f.fn.toNat 0)
      (bitOf f.fn.toNat 1)), rfl, rfl⟩
  case h_4 f =>
    rw [← gateOf_fn]
    exact ⟨fun _ => .ok (.mzero f.acc.toNat (f.fn.toNat % 32 + 1)), rfl, rfl⟩
  case h_5 f =>
    rw [← gateOf_fn, ← mstScale_eq]
    simp only [← bitOf_toNat]
    exact ⟨fun a => .ok (.mst f.acc.toNat (a.sh f.ha.toNat) (a.sh f.hs.toNat) f.fa.toNat f.fb.toNat f.rm.toNat f.sat
      (bitOf f.fn.toNat 0) (bitOf f.fn.toNat 1) (bitOf f.fn.toNat 2) (bitOf f.fn.toNat 3)), rfl, rfl⟩
  case h_6 f => exact ⟨fun _ => .ok (.mbar (f.fn.toNat % 128) (f.fn.toNat / 128)), rfl, rfl⟩
  case h_7 f =>
    refine ⟨_, execMcfg_eq h f (fun v => 1 ≤ v && v ≤ 15) .weight s, ?_⟩
    simp only [Bool.and_eq_true, decide_eq_true_eq]
  case h_8 f =>
    refine ⟨_, execMcfg_eq h f (fun v => v % 128 ≤ 95) (fun v => .gate (f.fn.toNat / 64 - 1) (v % 128) (v / 2 ^ 32)) s, ?_⟩
    simp only [decide_eq_true_eq]
  case h_9 f => exact ⟨_, execMcfg_eq h f (fun _ => true) (fun v => .clrsat (v % 2 ^ 32)) s, rfl⟩

/-- Settles O16: every matrix word is one course, by its checks, its limit and the queue entries that are free. -/
theorem matrixWordsReserveAnEntry : Obligations.MatrixWordsReserveAnEntry := by
  intro i s a h opc gate wants named hi r
  obtain ⟨op, run, rfl⟩ := exec_of_matrixWord hi s
  rw [run]
  exact ⟨fun _ _ bad => mxIssue_fails r bad, fun passes => ⟨fun _ beyond => mxIssue_beyond r passes beyond, fun _ ok =>
    ⟨mxIssue_defers r passes ok, mxIssue_waits r passes ok, mxIssue_overflows r passes ok⟩⟩⟩

end Sys2Proof.Machine

namespace Sys2Proof.Machine

/-! ### Completion of matrix commands (R237, R238, R240, R241, R243, R244) -/

/-! #### What the reads of a command see (R244) -/

theorem Reads.at_uncrossed {R : Reads} (uncrossed : R.cross = []) (m : Sparse Byte) (k : Nat) : R.at m k = m := by
  simp [Reads.at, Reads.see, uncrossed]

theorem Reads.at_seen {R : Reads} {m : Sparse Byte} (canonical : Sparse.canonical 0 m = true) (k x : Nat) :
    Claims.seenAt R m x (Sparse.get 0 (R.at m k) x) :=
  (Reads.shows_see canonical k).seen x

/-! #### The end of each kind of command -/

theorem mxRetire_eq (s : State) (u i : Nat) : s.mxRetire u i = s.setRunning u (fun l => l.take i ++ l.drop (i + 1)) := by
  simp only [State.mxRetire, dropAt_eq_eraseIdx, List.eraseIdx_eq_take_drop_succ]

theorem exec_mldbComplete (u i : Nat) (s : State) : exec (.mldbComplete u i) s = execMldbComplete u i s := rfl
theorem exec_mmaComplete (u i : Nat) (s : State) : exec (.mmaComplete u i) s = execMmaComplete u i s := rfl
theorem exec_mstComplete (u i : Nat) (s : State) : exec (.mstComplete u i) s = execMstComplete u i s := rfl
theorem exec_mbarPost (u i : Nat) (s : State) : exec (.mbarPost u i) s = execMbarPost u i s := rfl

section
variable {s : State} {u i : Nat} {r : Running} (done : s.mxDone u i = some r)
include done

/-- A load of raw elements, or of an MX format with its scales (R237). -/
theorem execMldbComplete_raw {ws fb ha hs : Nat} {major : Bool} (op : r.cmd.op = .mldb ws fb major ha hs) (raw : fb ≠ 10) :
    execMldbComplete u i s = .next (
      let src := (s.mxReads r.eng r.cmd).1.at (s.eng r.eng).spad
      ((s.mxReads r.eng r.cmd).2.mxRetire u i).modWSlot u ws (fun w => { w with
        data := loadRaw src fb major ha w.data, side := if isMx fb then loadScales src (mxK fb) hs w.side else w.side, ready := true })) := by
  simp only [execMldbComplete, done, op]
  exact if_neg raw

/-- A load of CE4M3 blocks that fit in the slot (R237). -/
theorem execMldbComplete_blocks {ws ha hs : Nat} {major : Bool} {d : Sparse Byte} (op : r.cmd.op = .mldb ws 10 major ha hs)
    (fits : loadBlocks ((s.mxReads r.eng r.cmd).1.at (s.eng r.eng).spad) (shBase ha) 24 0 0 (s.wslot u ws).data = some d) :
    execMldbComplete u i s = .next (((s.mxReads r.eng r.cmd).2.mxRetire u i).modWSlot u ws (fun w =>
      { w with data := d, ready := true })) := by
  simp only [execMldbComplete, done, op, if_true, fits]

/-- CE4M3 blocks that exceed the slot leave it not valid (R237). -/
theorem execMldbComplete_exceeds {ws ha hs : Nat} {major : Bool} (op : r.cmd.op = .mldb ws 10 major ha hs)
    (exceeds : loadBlocks ((s.mxReads r.eng r.cmd).1.at (s.eng r.eng).spad) (shBase ha) 24 0 0 (s.wslot u ws).data = none) :
    execMldbComplete u i s = .next ((((s.mxReads r.eng r.cmd).2.mxRetire u i).modWSlot u ws (fun w =>
      { w with valid := false })).mxReject r.eng r.cmd 3 ws 0 0) := by
  simp only [execMldbComplete, done, op, if_true, exceeds]

theorem execMmaComplete_mma {acc ws ha hs fa fb rm : Nat} {sat z : Bool} (op : r.cmd.op = .mma acc ws ha hs fa fb rm sat z) :
    execMmaComplete u i s = .next (((s.mxReads r.eng r.cmd).2.mxRetire u i).modMx r.eng (fun x =>
      x.mma ((s.mxReads r.eng r.cmd).1.at (s.eng r.eng).spad) (s.wslot u ws) acc ha hs fa rm sat z)) := by
  simp only [execMmaComplete, done, op]

theorem execMmaComplete_mmac {acc ws ha fa fb : Nat} {sat z cj : Bool} (op : r.cmd.op = .mmac acc ws ha fa fb sat z cj) :
    execMmaComplete u i s = .next (((s.mxReads r.eng r.cmd).2.mxRetire u i).modMx r.eng (fun x =>
      x.mmac ((s.mxReads r.eng r.cmd).1.at (s.eng r.eng).spad) (s.wslot u ws) acc ha fa sat z cj)) := by
  simp only [execMmaComplete, done, op]

/-- The elements that are not stored yet are, and with Z the tiles are cleared (R240). -/
theorem execMstComplete_stores {acc ha hs fa fb rm : Nat} {sat z tr c sc : Bool}
    (op : r.cmd.op = .mst acc ha hs fa fb rm sat z tr c sc) :
    execMstComplete u i s = .next (
      let R := (s.mxReads r.eng r.cmd).1
      (((s.mxReads r.eng r.cmd).2.mxRetire u i).putSpad r.eng .matrix R.cross R.place
        (storeTile (s.eng r.eng).mx R (s.eng r.eng).spad acc ha hs fa fb rm sat tr c sc
          ((List.range 256).filter (fun k => !r.stored.contains k)))).modMx r.eng
        (fun x => { x with acc := if z then zeroTiles x.acc acc (if c then 2 else 1) else x.acc })) := by
  simp only [execMstComplete, done, op]
  cases z <;> rfl

/-- An MBAR arrives, sets OVERRUN, or is rejected where the engine of its barrier runs another context (R241). -/
theorem execMbarPost_posts {b x : Nat} (op : r.cmd.op = .mbar b x) :
    execMbarPost u i s = .next (
      let dst := 8 * u + (r.eng % 8 ^^^ x)
      let t := s.mxRetire u i
      if (s.eng dst).ctx ≠ some r.cmd.ctx then t.mxReject r.eng r.cmd 20 b 0 0
      else if r.late then t.modEng dst (fun e => e.setBar b { e.bar b with overrun := true })
      else t.barUpdate dst b 1 0) := by
  simp only [execMbarPost, done, op]
  split
  · rfl
  · split <;> rfl

end

/-- Settles O17: what each kind of command does at its end, once it has left the unit. -/
theorem matrixCommandsComplete : Obligations.MatrixCommandsComplete := by
  refine ⟨fun s g c k => ⟨fun uncrossed => Reads.at_uncrossed uncrossed _ k, fun canonical => Reads.at_seen canonical k, rfl⟩, ?_⟩
  intro s u i r done
  simp only [exec_mldbComplete, exec_mmaComplete, exec_mstComplete, exec_mbarPost, ← mxRetire_eq]
  refine ⟨fun ws fb major ha hs op => execMldbComplete_raw done op,
    fun ws major ha hs op => ⟨fun d => execMldbComplete_blocks done op, execMldbComplete_exceeds done op⟩,
    fun acc ws ha hs fa fb rm sat z => execMmaComplete_mma done, fun acc ws ha fa fb sat z cj => execMmaComplete_mmac done,
    fun acc ha hs fa fb rm sat z tr c sc => execMstComplete_stores done, fun b x op => ?mbar⟩
  case mbar =>
    rw [execMbarPost_posts done op]
    refine ⟨fun here sound => ?arrives, fun here late => ?overruns, fun away => congrArg _ (if_pos away)⟩
    case arrives => exact congrArg _ ((if_neg (not_not.mpr here)).trans (if_neg (by simp [sound])))
    case overruns => exact congrArg _ ((if_neg (not_not.mpr here)).trans (if_pos late))

end Sys2Proof.Machine

namespace Sys2Proof.Machine

/-! ### The arbiter of a matrix unit, and granted commands (R225, R226, R237 to R239, R241, R242, R247, R248, R253) -/

/-! #### Engines and units read back -/

section
variable (s : State) (g u w : Nat)

@[simp] theorem unitOf_add {e : Nat} (he : e < 8) : unitOf (8 * u + e) = u := by
  unfold unitOf
  omega

@[simp] theorem unit_setUnit_same (x : MxUnit) : (s.setUnit u x).unit u = x := Sparse.get_set_same _ _ _ _
@[simp] theorem eng_setUnit (x : MxUnit) : (s.setUnit u x).eng g = s.eng g := rfl
@[simp] theorem unit_modEng (f : Engine → Engine) : (s.modEng g f).unit u = s.unit u := rfl

@[simp] theorem mx_modMx_same (f : Mx → Mx) : ((s.modMx g f).eng g).mx = f (s.eng g).mx := by
  simp [State.modMx, State.modEng]
@[simp] theorem unit_modMx (f : Mx → Mx) : (s.modMx g f).unit u = s.unit u := rfl

theorem modMx_modMx (f f' : Mx → Mx) : (s.modMx g f).modMx g f' = s.modMx g (fun m => f' (f m)) := by
  simp [State.modMx, State.modEng]

theorem modMx_congr {f f' : Mx → Mx} (same : f (s.eng g).mx = f' (s.eng g).mx) : s.modMx g f = s.modMx g f' := by
  simp only [State.modMx, State.modEng, same]

@[simp] theorem running_setRunning (f : List Running → List Running) :
    ((s.setRunning u f).unit u).running = f (s.unit u).running := by
  simp [State.setRunning]
@[simp] theorem wslot_setRunning (f : List Running → List Running) : (s.setRunning u f).wslot u w = s.wslot u w := by
  simp [State.wslot, State.setRunning]

@[simp] theorem wslot_modWSlot_same (f : WSlot → WSlot) : (s.modWSlot u w f).wslot u w = f (s.wslot u w) := by
  simp [State.wslot, State.modWSlot, Sparse.upd]
@[simp] theorem running_modWSlot (f : WSlot → WSlot) : ((s.modWSlot u w f).unit u).running = (s.unit u).running := by
  simp [State.modWSlot]

end

/-! #### Fault records leave engines and units alone (R401) -/

/-- The engines and the matrix units. -/
def State.computing (s : State) : Sparse Engine × Sparse MxUnit := (s.engines, s.units)

theorem eng_of_computing {s t : State} (h : t.computing = s.computing) (g : Nat) : t.eng g = s.eng g :=
  congrArg (fun x => x.1.get {} g) h
theorem unit_of_computing {s t : State} (h : t.computing = s.computing) (u : Nat) : t.unit u = s.unit u :=
  congrArg (fun x => x.2.get {} u) h

section
variable (s : State)

theorem bumpGen_computing (l : List (Nat × Nat)) : (s.bumpGen l).computing = s.computing := by
  induction l generalizing s with
  | nil => rfl
  | cons e l ih => exact ih _

theorem wrBytes_computing (a : Nat) (bs : List Byte) : (s.wrBytes a bs).computing = s.computing := rfl

theorem drainBridge_computing (p gr : Nat) : (s.drainBridge p gr).computing = s.computing := by
  unfold State.drainBridge
  split
  · exact bumpGen_computing _ _
  · rfl

theorem snoop_computing (a n : Nat) (w : Bool) : (s.snoop a n w).computing = s.computing := by
  simp only [State.snoop]
  split
  · exact (drainBridge_computing _ _ _).trans (drainBridge_computing _ _ _)
  · rfl

theorem wrHome_computing (a n v : Nat) : (s.wrHome a n v).computing = s.computing := by
  have killed : ∀ t : State, (t.killResv a n).computing = t.computing := by
    intro t
    simp only [State.killResv]
    split <;> rfl
  exact (killed _).trans (snoop_computing s a n true)

theorem sendFut_computing (src : Source) (ctx h : Nat) (op : FutOp) : (s.sendFut src ctx h op).computing = s.computing := by
  have shaped : ∀ cls flits, (s.shape src ctx cls flits).2.computing = s.computing := by
    intro cls flits
    simp only [State.shape]
    split <;> rfl
  exact shaped _ _

theorem append_computing (ctx : Nat) (r : Rec) : (s.append ctx r).computing = s.computing := by
  have noted : ∀ (t : State) (c : Prop) [Decidable c] (v : Nat), (if c then t.raiseVec v else t).computing = t.computing := by
    intro t c _ v
    split <;> rfl
  have rung : ∀ (t : State) (bell v : Nat),
      (if bell = 0 then t else t.sendFut .hub ctx bell (.resolve v)).computing = t.computing := by
    intro t bell v
    split
    · rfl
    · exact sendFut_computing t _ _ _ _
  simp only [State.append]
  split
  · rfl
  · split
    · rw [noted, rung, wrHome_computing, wrBytes_computing]
    · exact wrHome_computing s _ _ _

@[simp] theorem eng_append (ctx g : Nat) (r : Rec) : (s.append ctx r).eng g = s.eng g := eng_of_computing (append_computing s ctx r) g
@[simp] theorem unit_append (ctx u : Nat) (r : Rec) : (s.append ctx r).unit u = s.unit u :=
  unit_of_computing (append_computing s ctx r) u

end

/-! #### Pick (R225) -/

section
variable (s : State) (u : Nat)

theorem candidate_iff {e : Nat} : (s.headReady u e && decide (0 < (s.eng (8 * u + e)).mx.credit)) = true ↔ Claims.candidate s u e := by
  rw [Bool.and_eq_true, decide_eq_true_eq, Claims.candidate]

theorem mxPick_eq_some_iff {e : Nat} : s.mxPick u = some e ↔ Claims.picked s u e := by
  simp only [State.mxPick, List.find?_eq_some_iff_getElem, List.length_map, List.length_range, List.getElem_map, List.getElem_range,
    Bool.not_eq_true', ← Bool.not_eq_true, candidate_iff]
  exact ⟨fun ⟨ready, i, hi, here, first⟩ => ⟨i, hi, here, ready, first⟩, fun ⟨i, hi, here, ready, first⟩ => ⟨ready, i, hi, here, first⟩⟩

theorem mxPick_eq_none_iff : s.mxPick u = none ↔ ∀ j, j < 8 → ¬ Claims.candidate s u j := by
  have reached : ∀ j, j < 8 → ((s.unit u).p + (j + 8 - (s.unit u).p % 8) % 8) % 8 = j := by omega
  simp only [State.mxPick, List.find?_eq_none, List.forall_mem_map, List.mem_range, candidate_iff]
  exact ⟨fun idle j hj => reached j hj ▸ idle _ (Nat.mod_lt _ (by decide)), fun idle i _ => idle _ (Nat.mod_lt _ (by decide))⟩

theorem mxChoose_of_picked {e : Nat} (first : Claims.picked s u e) : s.mxChoose u = some (s, e) := by
  simp only [State.mxChoose, (mxPick_eq_some_iff s u).mpr first]

/-- With no candidate every credit is its weight before the pick (R225). -/
theorem mxChoose_of_reloaded {e : Nat} (idle : ∀ j, j < 8 → ¬ Claims.candidate s u j) (first : Claims.picked (s.mxReload u) u e) :
    s.mxChoose u = some (s.mxReload u, e) := by
  simp only [State.mxChoose, (mxPick_eq_none_iff s u).mpr idle, (mxPick_eq_some_iff _ u).mpr first, Option.map_some]

/-- Where there is a candidate, the engine chosen is picked. -/
theorem mxChoose_of_candidate {j : Nat} (hj : j < 8) (ready : Claims.candidate s u j) :
    ∃ e, s.mxChoose u = some (s, e) ∧ Claims.picked s u e := by
  obtain ⟨e, first⟩ := Option.ne_none_iff_exists'.mp (fun idle => (mxPick_eq_none_iff s u).mp idle j hj ready)
  have first := (mxPick_eq_some_iff s u).mp first
  exact ⟨e, mxChoose_of_picked s u first, first⟩

theorem queue_mxReload (g : Nat) : ((s.mxReload u).eng g).mx.queue = (s.eng g).mx.queue := by
  refine List.foldlRecOn (motive := fun (t : State) => (t.eng g).mx.queue = (s.eng g).mx.queue) _ _ rfl (fun t kept e _ => ?_)
  by_cases here : g = 8 * u + e
  · subst here
    simpa [State.modEng] using kept
  · simpa [State.modEng, eng_setEng_other _ _ here] using kept

end

/-! #### MATRIX_GRANT (R225, R237, R246, R248) -/

theorem exec_matrixGrant (g : Nat) (s : State) : exec (.matrixGrant g) s = execMatrixGrant g s := rfl

theorem valid_dropSlot (s : State) {g ws fb ha hs : Nat} {major : Bool} {op : MxOp} (load : op = .mldb ws fb major ha hs) :
    ((s.dropSlot g op).wslot (unitOf g) ws).valid = false := by
  subst load
  simp [State.dropSlot]

theorem dropSlot_of_no_load (s : State) (g : Nat) {op : MxOp} (other : ∀ ws fb major ha hs, op ≠ .mldb ws fb major ha hs) :
    s.dropSlot g op = s := by
  cases op with
  | mldb ws fb major ha hs => exact absurd rfl (other ws fb major ha hs)
  | _ => rfl

section
variable {s : State} {u e : Nat} {c : MxCmd} {rest : List MxCmd} (he : e < 8) (queue : (s.eng (8 * u + e)).mx.queue = c :: rest)
include he queue

omit he in
theorem execMatrixGrant_rejects (overrun : s.gateOverrun (8 * u + e) c = true) : execMatrixGrant (8 * u + e) s =
    .next (((s.modMx (8 * u + e) (fun m => { m with queue := rest, last := some c.op })).dropSlot (8 * u + e) c.op).mxReject
      (8 * u + e) c 12 ((s.eng (8 * u + e)).mx.gate (c.gate.getD 0)).1 0 (c.gate.getD 0)) := by
  have popped := modMx_congr s (8 * u + e) (f := fun m => { m with queue := m.queue.drop 1, last := some c.op })
    (f' := fun m => { m with queue := rest, last := some c.op }) (by simp [queue])
  simp only [execMatrixGrant, queue, overrun, if_true, popped]

variable (sound : s.gateOverrun (8 * u + e) c = false)
include sound

theorem execMatrixGrant_grants {t : State} (chosen : s.mxChoose u = some (t, e)) (kept : (t.eng (8 * u + e)).mx.queue = c :: rest) :
    execMatrixGrant (8 * u + e) s =
      .next ((Claims.granted t u e c rest).mxStart (8 * u + e) (Claims.acquired s (8 * u + e) c)) := by
  have popped := modMx_congr t (8 * u + e) (f := fun m => { m with queue := m.queue.drop 1, credit := m.credit - 1, last := some c.op })
    (f' := fun m => { m with credit := m.credit - 1, queue := rest, last := some c.op }) (by simp [kept])
  have own : e = (8 * u + e) % 8 := by omega
  simp only [execMatrixGrant, queue, sound, Bool.false_eq_true, if_false, unitOf_add u he, chosen, if_pos own, modMx_modMx, popped]
  rfl

theorem execMatrixGrant_stays {t : State} {f : Nat} (chosen : s.mxChoose u = some (t, f)) (other : f ≠ e) :
    execMatrixGrant (8 * u + e) s = .next s := by
  have others : f ≠ (8 * u + e) % 8 := by omega
  simp only [execMatrixGrant, queue, sound, Bool.false_eq_true, if_false, unitOf_add u he, chosen, if_neg others]

end

theorem theArbiterGrantsInTurn : Claims.TheArbiterGrantsInTurn := by
  intro s u e c rest he queue
  simp only [exec_matrixGrant]
  refine ⟨fun overrun => ⟨execMatrixGrant_rejects queue overrun, fun ws fb major ha hs load => ?dropped, dropSlot_of_no_load s _⟩,
    fun sound => ⟨fun first => ?granted, fun idle first => ?reloaded, fun other ⟨j, hj, ready⟩ => ?stays⟩⟩
  case dropped =>
    have dropped := valid_dropSlot s (g := 8 * u + e) load
    rwa [unitOf_add u he] at dropped
  case granted => exact execMatrixGrant_grants he queue sound (mxChoose_of_picked s u first) queue
  case reloaded =>
    exact execMatrixGrant_grants he queue sound (mxChoose_of_reloaded s u idle first) ((queue_mxReload s u _).trans queue)
  case stays =>
    obtain ⟨f, chosen, first⟩ := mxChoose_of_candidate s u hj ready
    refine execMatrixGrant_stays he queue sound chosen ?_
    rintro rfl
    exact other first

/-! #### The tiles that MZERO clears (R239) -/

theorem Sparse.find_cons_of_ne {α : Type} {j k : Nat} {v : α} {m : Sparse α} (later : Sparse.sortedFrom (j + 1) m = true) (other : k ≠ j) :
    Sparse.find ((j, v) :: m) k = m.find k := by
  rw [Sparse.find, if_neg other]
  split
  · exact (Sparse.find_sortedFrom later (by omega)).symm
  · rfl

/-- Entries left out by their keys read as unlisted. -/
theorem Sparse.find_filter_keys {α : Type} {lo : Nat} {m : Sparse α} (h : Sparse.sortedFrom lo m = true) (p : Nat → Bool) (k : Nat) :
    Sparse.find (m.filter (fun e => p e.1)) k = if p k then m.find k else none := by
  induction m generalizing lo with
  | nil => simp
  | cons e m ih =>
    obtain ⟨j, v⟩ := e
    simp only [Sparse.sortedFrom, Bool.and_eq_true, decide_eq_true_eq] at h
    obtain ⟨-, later⟩ := h
    by_cases here : k = j
    · subst here
      by_cases kept : p k = true
      · simp [kept, Sparse.find]
      · rw [List.filter_cons, if_neg kept, ih later, if_neg kept, if_neg kept]
    · rw [Sparse.find_cons_of_ne later here, ← ih later, List.filter_cons]
      split
      · exact Sparse.find_cons_of_ne (Sparse.sortedFrom_filter later _) here
      · rfl

theorem get_zeroTiles {acc : Sparse (BitVec 32)} (h : acc.sorted = true) (a n : Nat) {tile row col : Nat} (hr : row < 16) (hc : col < 16) :
    (zeroTiles acc a n).get 0 (256 * tile + 16 * row + col) =
      if a ≤ tile ∧ tile < a + n then 0 else acc.get 0 (256 * tile + 16 * row + col) := by
  have cleared : (256 * tile + 16 * row + col < 256 * a || 256 * (a + n) ≤ 256 * tile + 16 * row + col) =
      !decide (a ≤ tile ∧ tile < a + n) := by
    rw [Bool.eq_iff_iff]
    simp
    omega
  simp only [Sparse.get, zeroTiles, Sparse.find_filter_keys h (fun k => k < 256 * a || 256 * (a + n) ≤ k), cleared]
  by_cases inside : a ≤ tile ∧ tile < a + n
  · simp [inside]
  · simp [inside]

/-! #### What each command does at its grant (R237 to R239, R241, R242, R253) -/

section
variable {s : State} {g : Nat} {c : MxCmd}

theorem mxStart_mzero {a n : Nat} (op : c.op = .mzero a n) : s.mxStart g c = s.modMx g (fun m => { m with acc := zeroTiles m.acc a n }) := by
  simp only [State.mxStart, op]

theorem mxStart_weight {v : Nat} (op : c.op = .weight v) : s.mxStart g c = s.modMx g (fun m => { m with weight := v }) := by
  simp only [State.mxStart, op]

theorem mxStart_gate {i b t : Nat} (op : c.op = .gate i b t) :
    s.mxStart g c = s.modMx g (fun m => { m with gates := m.gates.set i (b, t) }) := by
  simp only [State.mxStart, op]

theorem mxStart_clrsat {v : Nat} (op : c.op = .clrsat v) :
    s.mxStart g c = s.modMx g (fun m => { m with satm := m.satm &&& ~~~(BitVec.ofNat 32 v) }) := by
  simp only [State.mxStart, op]

theorem mxStart_mldb {ws fb ha hs : Nat} {major : Bool} (op : c.op = .mldb ws fb major ha hs) : s.mxStart g c =
    (s.modWSlot (unitOf g) ws (fun w => { w with valid := true, ctx := c.ctx, fmt := fb, major := major, ready := false })).setRunning
      (unitOf g) (fun l => l ++ [{ eng := g, cmd := c }]) := by
  simp only [State.mxStart, op]

theorem mxStart_mbar {b x : Nat} (op : c.op = .mbar b x) : s.mxStart g c =
    (s.setRunning (unitOf g) (fun l => l ++ [{ eng := g, cmd := c, late := (s.eng g).mx.rejSince }])).modMx g
      (fun m => { m with rejSince := false }) := by
  simp only [State.mxStart, op]

/-- The record of a rejection in which no gate is named (R253). -/
theorem mxReject_ungated (s : State) (g : Nat) (c : MxCmd) (code what tag : Nat) : s.mxReject g c code what tag 0 =
    (s.modMx g (fun m => { m with rej := true, rejSince := true })).append c.ctx
      { code := code, src := 2, who := g / 16 + g % 16 * 2 ^ 10,
        info := c.op.opc + g % 16 * 256 + what % 128 * 2 ^ 12 + c.op.acc * 2 ^ 19 + tag * 2 ^ 24 } := by
  rw [State.mxReject, Nat.zero_mul, Nat.add_zero]

/-- The weight slot that a command multiplies by, and the format it asks for (R238). -/
def MxOp.weights : MxOp → Option (Nat × Nat)
  | .mma _ ws _ _ _ fb _ _ _ | .mmac _ ws _ _ fb _ _ _ => some (ws, fb)
  | _ => none

/-- A multiplication runs where its slot is valid, of its context and of its format (R238). -/
theorem mxStart_weights {ws fb : Nat} (op : c.op.weights = some (ws, fb)) : s.mxStart g c =
    if (s.wslot (unitOf g) ws).valid = true ∧ (s.wslot (unitOf g) ws).ctx = c.ctx ∧ (s.wslot (unitOf g) ws).fmt = fb then
      s.setRunning (unitOf g) (fun l => l ++ [{ eng := g, cmd := c }])
    else s.mxReject g c 4 ws (s.wslot (unitOf g) ws).ctx 0 := by
  have start : s.mxStart g c = if ((s.wslot (unitOf g) ws).valid && decide ((s.wslot (unitOf g) ws).ctx = c.ctx) &&
      decide ((s.wslot (unitOf g) ws).fmt = fb)) = true then s.setRunning (unitOf g) (fun l => l ++ [{ eng := g, cmd := c }])
      else s.mxReject g c 4 ws (s.wslot (unitOf g) ws).ctx 0 := by
    unfold MxOp.weights at op
    split at op <;> cases op
    · next here => simp only [State.mxStart, here]
    · next here => simp only [State.mxStart, here]
  simpa only [Bool.and_eq_true, decide_eq_true_eq, and_assoc] using start

theorem mxStart_runs {ws fb : Nat} (op : c.op.weights = some (ws, fb)) (fits : (s.wslot (unitOf g) ws).valid = true ∧
    (s.wslot (unitOf g) ws).ctx = c.ctx ∧ (s.wslot (unitOf g) ws).fmt = fb) :
    s.mxStart g c = s.setRunning (unitOf g) (fun l => l ++ [{ eng := g, cmd := c }]) :=
  (mxStart_weights op).trans (if_pos fits)

theorem mxStart_rejects {ws fb : Nat} (op : c.op.weights = some (ws, fb)) (unfit : ¬ ((s.wslot (g / 8) ws).valid = true ∧
    (s.wslot (g / 8) ws).ctx = c.ctx ∧ (s.wslot (g / 8) ws).fmt = fb)) :
    s.mxStart g c = s.mxReject g c 4 ws (s.wslot (g / 8) ws).ctx 0 :=
  (mxStart_weights op).trans (if_neg unfit)

end

theorem grantedCommandsAct : Claims.GrantedCommandsAct := by
  intro s g c
  refine ⟨fun a n op sorted => ?mzero, fun v op => ?weight, fun i b t op => ?gate, fun v k op hk => ?clrsat,
    fun ws fb major ha hs op => ?mldb, fun acc ws ha hs fa fb rm sat z cj op => ?mul, fun b x op => ?mbar⟩
  case mzero =>
    rw [mxStart_mzero op, mx_modMx_same]
    exact ⟨fun tile row col hr hc => get_zeroTiles sorted a n hr hc, rfl⟩
  case weight =>
    rw [mxStart_weight op, mx_modMx_same]
    exact ⟨rfl, rfl⟩
  case gate =>
    rw [mxStart_gate op, mx_modMx_same]
    exact ⟨Sparse.get_set_same _ _ _ _, fun j hj => Sparse.get_set_other _ _ _ hj⟩
  case clrsat =>
    rw [mxStart_clrsat op, mx_modMx_same]
    rw [BitVec.getLsbD_and, BitVec.getLsbD_not, BitVec.getLsbD_ofNat, decide_eq_true hk, Bool.true_and, Bool.true_and]
  case mldb =>
    rw [mxStart_mldb op]
    simp [unitOf]
  case mul =>
    have weights : c.op.weights = some (ws, fb) := by
      obtain op | op := op <;> rw [op] <;> rfl
    refine ⟨fun fits => ?runs, fun unfit => ?rejects⟩
    case runs =>
      rw [mxStart_runs weights fits]
      exact running_setRunning s (unitOf g) _
    case rejects =>
      rw [mxStart_rejects weights unfit, mxReject_ungated, eng_append, mx_modMx_same, unit_append, unit_modMx]
      exact ⟨rfl, rfl, rfl, rfl⟩
  case mbar =>
    rw [mxStart_mbar op]
    simp [unitOf]

/-- Settles O39: the arbiter's choice, and what each kind of command does at its grant. -/
theorem theUnitGrantsAndActs : Obligations.TheUnitGrantsAndActs := ⟨theArbiterGrantsInTurn, grantedCommandsAct⟩

end Sys2Proof.Machine

namespace Sys2Proof.Machine

/-! ### MIGRATE, LRW and the operands of the words that end a segment (R289, R293, R349, R355) -/

/-! #### The end of an activation (R48, R263) -/

section
variable (s : State)

/-- A refill of an inbox frees and takes no slot. -/
@[simp] theorem refill_act (g j k : Nat) : (s.refill g).act j k = s.act j k := by
  have slots : ∀ E : Engine, E.slots = (s.eng g).slots → (s.setEng g E).act j k = s.act j k := by
    intro E kept
    by_cases same : j = g
    · subst same
      simp [State.act, Engine.act, Engine.slot, kept]
    · simp [State.act, eng_setEng_other s E same]
  simp only [State.refill]
  split
  · split
    · split
      · exact slots _ rfl
      · rfl
    · rfl
  · rfl

@[simp] theorem endAct_act (g k : Nat) : (s.endAct g k).act g k = none := by
  rw [State.endAct, State.freeEntry, refill_act]
  simp [State.act, State.modEng, Engine.act, Engine.slot, Engine.freeSlot]

end

/-- A word whose activation has ended leaves no queue behind it. -/
theorem retire_endAct {s : State} {g k : Nat} (here : s.focus.g = g ∧ s.focus.k = k) (q : Nat) (h : Hdr) :
    (s.endAct g k).retire q h = s.endAct g k := by
  obtain ⟨rfl, rfl⟩ := here
  have focus : (s.endAct s.focus.g s.focus.k).focus = s.focus := focus_of_standing (endAct_standing s _ _)
  have ended : (s.endAct s.focus.g s.focus.k).cur = none := by
    rw [State.cur, focus]
    exact endAct_act s _ _
  simp only [State.retire, ended]

/-! #### The course of a word that ends its activation (R35) -/

@[simp] theorem incJoins_standing (s : State) (src : Source) (ctx : Nat) (all l : List Nat) :
    (s.incJoins src ctx all l).standing = s.standing := by
  induction l generalizing s with
  | nil => rfl
  | cons j l ih => exact (ih _).trans (sendFut_standing s _ _ _ _)

section
variable {q : Nat} {h : Hdr} {inline : Bool} {s v t : State} {a : Act} {held : List Nat}
  {check : State → Act → Except Res (List Nat × State)} {ready : State → Act → Bool} {done : State → Act → List Nat → State}

/-- The place of a word that may commit is not the inline region, but for EXIT (R35). -/
theorem ends_notInline (e : Claims.Ends q h inline s a) : (!inline && decide (inlineBase ≤ s.focus.pc)) = false := by
  obtain rfl | low := e.place
  · rfl
  · rw [decide_eq_false (Nat.not_le.2 low), Bool.and_false]

/-- The word's own check refuses. -/
theorem commitWord_refuses {code info addr reason share : Nat} (e : Claims.Ends q h inline s a)
    (bad : check s a = .error (.raise t code info addr reason share)) :
    commitWord q h inline check ready done s = .next (t.raiseCur code info addr reason share) := by
  obtain ⟨ta, tc, ts⟩ := e.drained
  have place := ends_notInline e
  refine issue_raises e.toReady ?_
  simp [e.fresh, e.alone, place, ta, tc, ts, bad]

/-- Nothing holds the word back: its effects are performed, its own effect follows, and the activation ends. -/
theorem commitWord_ends {u : State} (e : Claims.Ends q h inline s a) (ok : check s a = .ok (held, v)) (here : v.standing = s.standing)
    (joined : (Claims.setOut v a).joining s.focus.g = false) (all : Claims.performed v a = (t, [])) (settled : ready t a = true)
    (ends : done t a held = u.endAct t.focus.g t.focus.k) (kept : u.standing = t.standing) :
    commitWord q h inline check ready done s = .next (u.endAct t.focus.g t.focus.k) := by
  obtain ⟨ta, tc, ts⟩ := e.drained
  have place := ends_notInline e
  have focus : v.focus = s.focus := focus_of_standing here
  simp only [Claims.performed, Claims.setOut, focus] at all joined
  rw [commitWord, issue_ready e.toReady]
  have left : u.focus.g = t.focus.g ∧ u.focus.k = t.focus.k := by rw [focus_of_standing kept]; exact ⟨rfl, rfl⟩
  simp [e.fresh, e.alone, place, ta, tc, ts, ok, joined, all, settled, ends, retire_endAct left]

end

/-- The channel in OBJ of a word that ends its activation, as the field that it is. -/
theorem objChannel_eq (n : Nat) : fieldOf n 6 4 = n / 16 % 8 := by norm_num [fieldOf]

/-- The address of the device whose home gives MIGRATE its cluster (R289); a peer's address has none. -/
def Target.own : Target → Nat
  | .dpa p _ => p
  | .remote _ _ => 0

/-- MIGRATE to an address that translates: the continuation goes to the cluster of the address's home. -/
theorem execMigrate_sends {h : Hdr} {f : YForm} {s v t : State} {a : Act} {tg : Target} {u : List Nat} {c : Nat} {m : Msg}
    (e : Claims.Ends 2 h false s a) (low : a.ug f.a.toNat < 2 ^ 49)
    (found : s.translate a.ctx .r (a.ug f.a.toNat) 1 s.via = (.ok tg u, v))
    (joined : (Claims.setOut v a).joining s.focus.g = false) (all : Claims.performed v a = (t, []))
    (cluster : c = migrateCluster ((homeOf tg.own).getD 0) (a.ug f.a.toNat))
    (record : m = t.contRecord a (liveSet f) (f.obj.toNat / 16 % 8) (targetOf (16 * c))) :
    execMigrate h f s = .next ((t.inject (engineSource t.focus.g) a.ctx ((engineSource t.focus.g).agentRoute c) 0 tcMsg 4
      m.target (.migrated m)).endAct t.focus.g t.focus.k) := by
  have window : ¬ 2 ≤ a.ug f.a.toNat / 2 ^ 48 := by omega
  have here : v.standing = s.standing := by simpa [found] using translate_standing s a.ctx .r (a.ug f.a.toNat) 1 s.via
  unfold execMigrate
  refine commitWord_ends (held := [c]) e ?check here joined all rfl ?sends (inject_standing t _ _ _ _ _ _ _ _)
  case check =>
    rw [if_neg window, found, cluster]
    cases tg <;> rfl
  case sends =>
    rw [record]
    simp only [objChannel_eq, List.headD_cons]

theorem migrateSendsTheContinuation : Claims.MigrateSendsTheContinuation := by
  intro h f s a e va low tg u v t found joined all
  have course := execMigrate_sends e low found joined all rfl rfl
  cases tg <;> exact course

theorem lrwFilesItsRequest : Claims.LrwFilesItsRequest := by
  intro h f s a e va v n live even low p key u w t found joined all
  have window : va / 2 ^ 48 = 0 := Nat.div_eq_of_lt low
  have here : w.standing = s.standing := by simpa [found] using translate_standing s a.ctx .rw va n s.via
  change execLrw h f s = _
  unfold execLrw
  refine commitWord_ends (held := [p, key] ++ u) e ?check here joined all rfl rfl rfl
  simp only [va, v, n] at live even window found
  simp only [live, even, window, found]
  rfl

/-- The info word of a dynamic ILLEGAL_OPERAND, as R6 writes it. -/
theorem infoV_eq (opc v : Nat) : infoV opc v = opc + 65536 * (v % 2 ^ 48) := by rw [infoV, Nat.mul_comm]

section
variable {h : Hdr} {f : MForm} {s t : State} {a : Act} (e : Claims.Ends 0 h false s a)
include e

theorem execLrw_shape (dead : (liveOf (a.ug f.b.toNat)).ok = false) :
    execLrw h f s = .next (s.raiseCur 3 (infoV 0x12 (a.ug f.b.toNat)) 0 0 0) := by
  refine commitWord_refuses e ?_
  simp only [dead]
  rfl

variable (live : (liveOf (a.ug f.b.toNat)).ok = true)
include live

theorem execLrw_misaligned (odd : baseAddr f a % (fmtWidth f.fmt.toNat / 8) ≠ 0) :
    execLrw h f s = .next (s.raiseCur 10 (baseAddr f a) (baseAddr f a) 0 0) := by
  refine commitWord_refuses e ?_
  simp only [live, ne_eq, odd]
  rfl

variable (even : baseAddr f a % (fmtWidth f.fmt.toNat / 8) = 0)
include even

theorem execLrw_outside (high : 2 ^ 48 ≤ baseAddr f a) :
    execLrw h f s = .next (s.raiseCur 3 (infoV 0x12 (baseAddr f a)) 0 0 0) := by
  have window : baseAddr f a / 2 ^ 48 ≠ 0 := by omega
  refine commitWord_refuses e ?_
  simp only [live, even, ne_eq, window]
  rfl

theorem execLrw_untranslated {x : XFault} (low : baseAddr f a < 2 ^ 48)
    (bad : s.translate a.ctx .rw (baseAddr f a) (fmtWidth f.fmt.toNat / 8) s.via = (.bad x, t)) :
    execLrw h f s = .next (t.raiseCur x.code (if x.code = 15 then x.info else baseAddr f a) (baseAddr f a) x.reason x.share) := by
  have window : baseAddr f a / 2 ^ 48 = 0 := Nat.div_eq_of_lt low
  refine commitWord_refuses e ?_
  simp only [live, even, window, bad]
  rfl

end

theorem endingWordsCheckTheirOperands : Claims.EndingWordsCheckTheirOperands := by
  intro s a h f x
  refine ⟨fun e stale => ?await, fun e stale => ?tacq, fun e high => ?migrateHigh, fun e low y v bad => ?migrateBad, ?lrw⟩
  case await =>
    change execAwait h f s = _
    refine commitWord_refuses e ?_
    simp only [stale]
    rfl
  case tacq =>
    change execTacq h f s = _
    refine commitWord_refuses e ?_
    simp only [stale]
    rfl
  case migrateHigh =>
    have window : 2 ≤ a.ug f.a.toNat / 2 ^ 48 := by omega
    change execMigrate h f s = _
    refine commitWord_refuses e ?_
    simp only [window, if_true, Res.fail]
  case migrateBad =>
    have window : ¬ 2 ≤ a.ug f.a.toNat / 2 ^ 48 := by omega
    change execMigrate h f s = _
    refine commitWord_refuses e ?_
    simp only [window, if_false, bad, Res.xlate]
  case lrw =>
    intro va v n e
    rw [← infoV_eq, ← infoV_eq]
    exact ⟨execLrw_shape e, execLrw_misaligned e, execLrw_outside e, fun live even low y w => execLrw_untranslated e live even low⟩

/-- Settles O41: each word is the course of a word that ends its activation, by what its own check answers. -/
theorem migrationAndReservationRequests : Obligations.MigrationAndReservationRequests :=
  ⟨migrateSendsTheContinuation, lrwFilesItsRequest, endingWordsCheckTheirOperands⟩

end Sys2Proof.Machine

namespace Sys2Proof.Machine

/-! ### Arrivals at a cluster (R257, R262, R263, R272 to R277, R289, R291, R294) -/

/-! #### Messages (R257, R263, R279) -/

/-- What an arrival notes of a message changes no engine, and neither does the end of the cluster's idleness. -/
theorem noteArrival_engines (s : State) (m : Msg) : (s.noteArrival m).engines = s.engines := by
  unfold State.noteArrival
  split <;> rfl

theorem active_engines (s : State) (c : Nat) : (s.active c).engines = s.engines := by
  unfold State.active
  split <;> rfl

theorem eng_noteArrival_active (s : State) (m : Msg) (c g : Nat) : ((s.noteArrival m).active c).eng g = s.eng g := by
  rw [State.eng, State.eng, active_engines, noteArrival_engines]

theorem handlerOk_eq_false_iff (s : State) (m : Msg) : s.handlerOk m = false ↔
    m.kind = 0 ∧ (s.rd ((s.ctx m.ctx).handlerTab + 8 * m.handler) 8).testBit 63 = false := by
  rw [State.handlerOk, bitOf_eq_testBit, Bool.or_eq_false_iff, bne_eq_false_iff_eq]

/-- The checks of an arrival in their order, and where a message that passes them is queued. -/
theorem accept_eq_arrived (s : State) (c : Nat) (e : Option Nat) (m : Msg) : s.accept c e m = Claims.arrived s c e m := by
  have source : (m.kind = 3 || 6 ≤ m.src) = true ↔ m.kind = 3 ∨ 6 ≤ m.src := by simp
  have port : (actEngine m.target / 16 ≠ c || e.any (fun e => actEngine m.target % 16 != e)) = true ↔
      actEngine m.target / 16 ≠ c ∨ (e.isSome = true ∧ e ≠ some (actEngine m.target % 16)) := by
    cases e with
    | none => simp
    | some j => simp [eq_comm (a := j)]
  have fails : ∀ b : Bool, (!b) = true ↔ b = false := fun b => by rw [Bool.not_eq_true']
  have room : ∀ (n : Nat) (waits : Bool), (decide (n < 64) && !waits) = true ↔ n < 64 ∧ waits = false := fun n waits => by simp
  refine if_congr source rfl (if_congr port rfl (if_congr (fails _) rfl (if_congr (fails _) rfl
    (if_congr ((fails _).trans (handlerOk_eq_false_iff s m)) rfl ?queued))))
  case queued =>
    simp only [State.enqueue, eng_noteArrival_active]
    exact if_congr (room _ _) rfl rfl

section
variable {s : State} {i sw port : Nat} {p : Packet} (first : s.packetFirst i = some p) (place : p.place = .endpoint sw port)
include first place

theorem execMessageArrival_takes {m : Msg} {u : State} (body : p.body = .msg m) (ends : sw < 1024) (unit : port < 16 ∨ port = 20)
    (awake : (s.cluster sw).gated = false) (released : (s.dropPacket i).released p.src p.ctx p.cover sw false = some u) :
    execMessageArrival i s = .next (u.accept sw (if port = 20 then none else some port) m) := by
  simp [execMessageArrival, first, place, body, ends, unit, awake, released]

theorem execMessageArrival_waits {m : Msg} (body : p.body = .msg m) (ends : sw < 1024) (unit : port < 16 ∨ port = 20)
    (awake : (s.cluster sw).gated = false) (held : (s.dropPacket i).released p.src p.ctx p.cover sw false = none) :
    execMessageArrival i s = .next s := by
  simp [execMessageArrival, first, place, body, ends, unit, awake, held]

theorem execMessageArrival_misrouted {m : Msg} (body : p.body = .msg m) (nobody : 1024 ≤ sw ∨ (16 ≤ port ∧ port ≠ 20)) :
    execMessageArrival i s = .next ((s.dropPacket i).deadLetter m.sctx m.ctx (msgInfo 2 m.target)) := by
  have ends : ¬ (sw < 1024 ∧ (port < 16 ∨ port = 20)) := by omega
  simp [execMessageArrival, first, place, body, ends]

theorem execMessageArrival_routeFault {x y : Nat} {m : Msg}
    (body : p.body = .routeFault x y (.msg m) ∨ p.body = .routeFault x y (.migrated m)) :
    execMessageArrival i s = .next ((s.dropPacket i).deadLetter m.sctx m.ctx (msgInfo 10 m.target)) := by
  obtain body | body := body <;> simp [execMessageArrival, first, place, body]

theorem execMessageArrival_futureRouteFault {x y h : Nat} {op : FutOp} (body : p.body = .routeFault x y (.future h op)) :
    execMessageArrival i s = .next ((s.dropPacket i).deadLetter p.ctx p.ctx (futInfo 10 h)) := by
  simp [execMessageArrival, first, place, body]

theorem execMessageArrival_migrated {m : Msg} {u : State} (body : p.body = .migrated m) (awake : (s.cluster sw).gated = false)
    (released : (s.dropPacket i).released p.src p.ctx p.cover sw false = some u) :
    execMessageArrival i s = .next (u.placeMigrated sw m) := by
  simp [execMessageArrival, first, place, body, awake, released]

end

theorem placeMigrated_here {s : State} {c g : Nat} {m : Msg}
    (least : s.leastLoaded (((List.range 16).map (fun e => 16 * c + e)).filter (fun g => (s.eng g).ctx == some m.ctx)) = some g) :
    s.placeMigrated c m = s.accept c none (m.setWord 0 (setField m.hdr 53 50 (g % 16))) := by
  simp only [State.placeMigrated, least]

theorem placeMigrated_elsewhere {s : State} {c g : Nat} {m : Msg}
    (nobody : ((List.range 16).map (fun e => 16 * c + e)).filter (fun g => (s.eng g).ctx == some m.ctx) = [])
    (least : s.leastLoaded ((List.range 16).map (fun e => 16 * c + e)) = some g) :
    s.placeMigrated c m = s.accept c none ((m.withStatus 5).setWord 0 (setField (m.withStatus 5).hdr 53 50 (g % 16))) := by
  simp only [State.placeMigrated, nobody, least, State.leastLoaded, Option.getD_some]

theorem messagesArrive : Claims.MessagesArrive := by
  intro s i sw port p first place t
  refine ⟨fun m u body ends unit awake released => ?taken, fun m body ends unit awake held => ?held, fun m body nobody => ?misrouted,
    fun x y m body => ?routeFault, fun x y h op body => ?futureRouteFault, fun m u body awake released => ?migrated,
    fun u m => ⟨fun g least => ?here, fun nobody g least => ?elsewhere⟩⟩
  case taken => exact (execMessageArrival_takes first place body ends unit awake released).trans (by rw [accept_eq_arrived])
  case held => exact execMessageArrival_waits first place body ends unit awake held
  case misrouted => exact execMessageArrival_misrouted first place body nobody
  case routeFault => exact execMessageArrival_routeFault first place body
  case futureRouteFault => exact execMessageArrival_futureRouteFault first place body
  case migrated => exact execMessageArrival_migrated first place body awake released
  case here => rw [placeMigrated_here least, accept_eq_arrived]
  case elsewhere => rw [placeMigrated_elsewhere nobody least, accept_eq_arrived]

/-! #### Future operations (R272, R274, R275, R277, R291, R294) -/

/-- The operation is a bind, whose release is one of PKG (R370). -/
def FutOp.binds : FutOp → Bool
  | .bind _ _ => true
  | _ => false

theorem FutOp.binds_iff (op : FutOp) : op.binds = true ↔ ∃ pq r, op = .bind pq r := by
  cases op <;> simp [FutOp.binds]

/-- What follows the agent's answer: the state after the operation, or, where it has to wait for a granule, the wish for it. -/
def State.futAnswered (s : State) : Except Nat State → State
  | .ok t => t
  | .error gr => s.wantPt gr

/-- An operation's release is one of PKG where it binds, or where a waiter of the future stands in another cluster. -/
theorem wide_eq {s : State} {h ctx : Nat} {op : FutOp} {wide : Bool}
    (w : wide = true ↔ (∃ pq r, op = .bind pq r) ∨ ∃ f, s.findFut h ctx = some f ∧ f.farWaiter (hCluster h) = true) :
    (op.binds || (s.findFut h ctx).any (fun f => f.farWaiter (hCluster h))) = wide := by
  rw [Bool.eq_iff_iff, w, Bool.or_eq_true, FutOp.binds_iff, Option.any_eq_true]

section
variable {s : State} {i h sw port : Nat} {op : FutOp} {p : Packet} (first : s.packetFirst i = some p) (body : p.body = .future h op)
  (place : p.place = .endpoint sw port) (awake : (s.cluster (hCluster h)).gated = false)
include first body place awake

theorem execFutureOperation_gone (gone : (s.ctx p.ctx).exists = false) : execFutureOperationArrival i s = .next (s.dropPacket i) := by
  simp [execFutureOperationArrival, first, body, place, awake, gone]

variable {wide : Bool} (lives : (s.ctx p.ctx).exists = true)
  (w : wide = true ↔ (∃ pq r, op = .bind pq r) ∨ ∃ f, s.findFut h p.ctx = some f ∧ f.farWaiter (hCluster h) = true)
include lives w

/-- An operation for a context that exists waits for what its release covers, and then has the answer of its agent. -/
theorem execFutureOperation_lives : execFutureOperationArrival i s =
    .next (((s.dropPacket i).released p.src p.ctx p.cover (hCluster h) wide).elim s (fun u => s.futAnswered (u.applyFut p h op))) := by
  have isWide := wide_eq w
  cases op <;> simp only [FutOp.binds] at isWide <;> simp only [execFutureOperationArrival, first, body, place, awake, lives, isWide]
  all_goals
    cases (s.dropPacket i).released p.src p.ctx p.cover (hCluster h) wide with
    | none => rfl
    | some u =>
      simp only [Option.elim]
      cases u.applyFut p h _ <;> rfl

theorem execFutureOperation_waits (held : (s.dropPacket i).released p.src p.ctx p.cover (hCluster h) wide = none) :
    execFutureOperationArrival i s = .next s := by
  rw [execFutureOperation_lives first body place awake lives w, held, Option.elim]

variable {u : State} (released : (s.dropPacket i).released p.src p.ctx p.cover (hCluster h) wide = some u)
include released

theorem execFutureOperation_applies {v : State} (applied : u.applyFut p h op = .ok v) : execFutureOperationArrival i s = .next v := by
  rw [execFutureOperation_lives first body place awake lives w, released, Option.elim, applied, State.futAnswered]

theorem execFutureOperation_wants {gr : Nat} (applied : u.applyFut p h op = .error gr) :
    execFutureOperationArrival i s = .next (s.wantPt gr) := by
  rw [execFutureOperation_lives first body place awake lives w, released, Option.elim, applied, State.futAnswered]

end

section
variable {s : State} {p : Packet} {h : Nat} {f : Fut}

theorem state_beq_live (live : f.state = .live) : (f.state == .live) = true := by rw [live, beq_self_eq_true]

theorem applyFut_stale (op : FutOp) (gone : s.findFut h p.ctx = none) :
    s.applyFut p h op = .ok (s.deadLetter p.ctx p.ctx (futInfo 8 h)) := by
  simp only [State.applyFut, gone]

variable (found : s.findFut h p.ctx = some f)
include found

theorem applyFut_free : s.applyFut p h .free = .ok (s.freeFut h) := by
  simp only [State.applyFut, found]

theorem applyFut_lapsed {op : FutOp} (lapsed : f.state = .lapsed) (keeps : op ≠ .free) :
    s.applyFut p h op = .ok (s.deadLetter p.ctx p.ctx (futInfo 6 h)) := by
  cases op with
  | free => exact absurd rfl keeps
  | resolve v => simp [State.applyFut, found, lapsed]
  | dec n flt => simp [State.applyFut, found, lapsed]
  | inc n => simp [State.applyFut, found, lapsed]
  | bind pq r => simp [State.applyFut, found, lapsed]

variable (live : f.state = .live)
include live

theorem applyFut_resolve (v : Nat) :
    s.applyFut p h (.resolve v) = .ok ((s.coverFut p.src p.ctx p.cover h).resolveFut h (some v)) := by
  simp [State.applyFut, found, live]

theorem applyFut_dec (n : Nat) (flt : Bool) :
    s.applyFut p h (.dec n flt) = .ok ((s.coverFut p.src p.ctx p.cover h).decFut h n flt) := by
  simp [State.applyFut, found, live]

theorem applyFut_inc (n : Nat) :
    s.applyFut p h (.inc n) = .ok (s.setFut h { f with count := signed 32 (wrapTo 32 (f.count + n)) }) := by
  simp [State.applyFut, found, live]

section
variable {pq : Nat} {r : List Byte}

theorem applyFut_bind_ok {w : State} (appended : (s.setFut h { f with pq := some pq }).callAppend p.ctx r = .ok w) :
    s.applyFut p h (.bind pq r) = .ok w := by
  simp [State.applyFut, found, state_beq_live live, appended]

theorem applyFut_bind_fails {w : State} (full : (s.setFut h { f with pq := some pq }).callAppend p.ctx r = .fails w) :
    s.applyFut p h (.bind pq r) = .ok ((w.lapseFut h 3).deadLetter p.ctx p.ctx (futInfo 7 h)) := by
  simp [State.applyFut, found, state_beq_live live, full]

theorem applyFut_bind_waits {gr : Nat} (waits : (s.setFut h { f with pq := some pq }).callAppend p.ctx r = .wait gr) :
    s.applyFut p h (.bind pq r) = .error gr := by
  simp [State.applyFut, found, state_beq_live live, waits]

end
end

theorem futureOperationsArrive : Claims.FutureOperationsArrive := by
  intro s i h sw port op p first body place awake t ev
  refine ⟨execFutureOperation_gone first body place awake, fun lives wide w =>
    ⟨execFutureOperation_waits first body place awake lives w, fun u released => ?_⟩⟩
  have applies : ∀ {v}, u.applyFut p h op = .ok v → exec ev s = .next v :=
    execFutureOperation_applies first body place awake lives w released
  refine ⟨fun gone => applies (applyFut_stale op gone), fun f found => ⟨?free, fun lapsed keeps => ?lapsed, fun live => ⟨?resolve, ?dec,
    fun pq r hop => ⟨?bound, ?full, ?waits⟩, ?inc⟩⟩⟩
  case free =>
    rintro rfl
    exact applies (applyFut_free found)
  case lapsed => exact applies (applyFut_lapsed found lapsed keeps)
  case resolve =>
    rintro v rfl
    exact applies (applyFut_resolve found live v)
  case dec =>
    rintro n flt rfl
    exact applies (applyFut_dec found live n flt)
  case bound =>
    subst hop
    exact fun x appended => applies (applyFut_bind_ok found live appended)
  case full =>
    subst hop
    exact fun x full => applies (applyFut_bind_fails found live full)
  case waits =>
    subst hop
    exact fun gr waits =>
      execFutureOperation_wants first body place awake lives w released (applyFut_bind_waits found live waits)
  case inc =>
    rintro n rfl
    exact applies (applyFut_inc found live n)

/-! #### Deadlines of waiters (R276, R294) -/

theorem waiterDeadlinesPass : Claims.WaiterDeadlinesPass := by
  intro s c ix i d w f h here due past live ended
  have passes : (!w.deadline.any (fun d => d ≤ s.hubTime) || f.state != .live || s.sameCycle) = false := by
    simp [due, past, live, ended]
  simp only [f] at here passes
  have course : execWaiterDeadline c ix i s = .next (if w.lapse then s.lapseFut h 1
      else (s.setFut h { f with waiters := dropAt f.waiters i }).deliver c f.ctx w 1 f.value) := by
    simp only [execWaiterDeadline, here, passes]
    cases w.lapse <;> rfl
  exact ⟨fun lapses => course.trans (by rw [if_pos lapses]), fun stays => course.trans (by rw [stays]; rfl)⟩

/-- Settles O50: what arrives at a cluster's endpoint, what its agent performs, and the deadlines of the waiters there. -/
theorem messagesAndFutureOperationsArrive : Obligations.MessagesAndFutureOperationsArrive :=
  ⟨messagesArrive, futureOperationsArrive, waiterDeadlinesPass⟩

end Sys2Proof.Machine

namespace Sys2Proof.Machine

open Host (Outcome)

/-! ### The extension words of the harts (R309 to R313) -/

/-- The hart in focus may execute a word (R309). -/
def XPerm.admits (p : XPerm) (s : State) : Prop :=
  s.feat p.feature = true ∧ ((Claims.me s).mode = .u → p.user (Claims.me s) = true) ∧
    (p.server = true → s.isServer s.focus.hart = true)

theorem XPerm.admits_iff (p : XPerm) (s : State) : p.admits s ↔
    ((Claims.me s).mode == .u && !p.user (Claims.me s) || p.server && !s.isServer s.focus.hart || !s.feat p.feature) = false := by
  simp only [XPerm.admits, Bool.or_eq_false_iff, Bool.and_eq_false_imp, Bool.not_eq_false', beq_iff_eq]
  tauto

/-- The state after a word, by what it did (R310, R313): one that completes writes its status and, with `toRd`, its register, which holds
the status or, with `isData`, data. -/
def XOut.after (o : XOut) (s : State) (f : HForm) (isData : Bool) (toRd : Bool := true) : State :=
  match o with
  | .done t st d => t.modHart s.focus.hart (fun H =>
      (if toRd then ({ H with xst := st } : Hart).setX f.d.toNat (d.getD (if isData then 0 else st)) else { H with xst := st }).nextPc 4)
  | .trap t => t
  | .wait t => t
  | .held t => t.modHart s.focus.hart (fun H => H.nextPc 4)

section
variable {p : XPerm} {f : HForm} {s : State} {acts isData toRd : Bool} {body : Nat → Hart → State → XOut}
  (runs : (Claims.me s).run = .run)
include runs

theorem extension_refused (h : ¬ p.admits s) :
    extension p acts isData toRd f body s = .next (s.modHart s.focus.hart (fun H => H.trap 2 0)) := by
  rw [XPerm.admits_iff, Bool.not_eq_false] at h
  simp only [Claims.me] at runs h
  simp only [extension, runs, h, bne_self_eq_false, Bool.false_eq_true, if_false, if_true]

variable (admitted : p.admits s)
include admitted

theorem extension_noContext (h : (s.ctx (Claims.me s).ctx).exists = false) :
    extension p true isData true f body s = .next (Claims.completed s s f 11 (if isData then 0 else 11)) := by
  rw [XPerm.admits_iff] at admitted
  simp only [Claims.me] at runs admitted h
  simp only [extension, runs, admitted, h, bne_self_eq_false, Bool.false_eq_true, if_false, Bool.not_false, Bool.and_self, if_true]
  rfl

variable (lives : acts = true → (s.ctx (Claims.me s).ctx).exists = true)
include lives

/-- A word that goes has the outcome of its body. -/
theorem extension_goes (body : Nat → Hart → State → XOut) :
    extension p acts isData toRd f body s = .next ((body s.focus.hart (Claims.me s) s).after s f isData toRd) := by
  have ctx : (acts && !(s.ctx (Claims.me s).ctx).exists) = false := by
    cases acts
    · rfl
    · simp [lives rfl]
  rw [XPerm.admits_iff] at admitted
  simp only [Claims.me] at runs admitted ctx
  simp only [extension, runs, admitted, ctx, bne_self_eq_false, Bool.false_eq_true, if_false, Claims.me]
  cases body s.focus.hart (s.hart s.focus.hart) s <;> rfl

end

/-- A bit of CL_SEDGE_UCTL as the words read it and as their rows name it. -/
theorem uctlBit (k : Nat) : (fun H : Hart => bitOf H.uctl k) = fun H => H.uctl.testBit k := funext fun _ => bitOf_eq_testBit _ k

/-- Each extension word has the course of R309 to R313, with the permissions of its row, and one that acts for the context writes its
register. -/
theorem exec_hartWord {i : Instr} {f : HForm} {user : Hart → Bool} {server : Bool} {feature : Nat} {acts : Bool}
    (row : Claims.hartWord i = some (f, user, server, feature, acts)) :
    ∃ (puser : Hart → Bool) (toRd : Bool) (body : Nat → Hart → State → XOut), puser = user ∧ (acts = true → toRd = true) ∧
      ∀ s, exec i s = extension { user := puser, server := server, feature := feature } acts (Claims.givesData i) toRd f body s := by
  unfold Claims.hartWord at row
  split at row <;> cases row
  case h_1 => exact ⟨_, true, _, uctlBit 0, fun _ => rfl, execXsend.eq_def f⟩
  case h_2 => exact ⟨_, true, _, uctlBit 1, fun _ => rfl, execXfres.eq_def f⟩
  case h_3 => exact ⟨_, true, _, uctlBit 1, fun _ => rfl, execXfdec.eq_def f⟩
  case h_4 md => exact ⟨_, true, _, uctlBit 1, fun _ => rfl, execXftest.eq_def f md⟩
  case h_5 nx => exact ⟨_, true, _, uctlBit 1, fun _ => rfl, execXfwait.eq_def f nx⟩
  case h_6 => exact ⟨_, true, _, uctlBit 2, fun _ => rfl, execXfrestok.eq_def f⟩
  case h_7 => exact ⟨_, true, _, uctlBit 2, fun _ => rfl, execXcqpop.eq_def f⟩
  case h_8 kind => exact ⟨_, false, _, rfl, nofun, execXfence.eq_def f kind⟩
  case h_9 k => exact ⟨_, true, _, rfl, nofun, execXcapset.eq_def f k⟩
  case h_10 => exact ⟨_, true, _, rfl, nofun, execXcapclr.eq_def f⟩
  case h_11 => exact ⟨_, true, _, rfl, fun _ => rfl, execXcpyr.eq_def f⟩
  case h_12 => exact ⟨_, true, _, rfl, fun _ => rfl, viewRegister.eq_def f⟩
  case h_13 => exact ⟨_, true, _, rfl, fun _ => rfl, viewRegister.eq_def f⟩
  case h_14 => exact ⟨_, true, _, rfl, fun _ => rfl, viewRegister.eq_def f⟩

theorem mayExecute_iff {s : State} {i : Instr} {f : HForm} {user : Hart → Bool} {server : Bool} {feature : Nat} {acts : Bool}
    (row : Claims.hartWord i = some (f, user, server, feature, acts)) :
    Claims.mayExecute s i ↔ XPerm.admits { user := user, server := server, feature := feature } s := by
  constructor
  · rintro ⟨_, _, _, _, _, row', may⟩
    cases row.symm.trans row'
    exact may
  · exact fun may => ⟨f, user, server, feature, acts, row, may⟩

/-- Settles O20: every extension word has one course, by its permission and the context it acts for. -/
theorem hartWordsNeedTheirModeAndContext : Obligations.HartWordsNeedTheirModeAndContext := by
  intro i s f user server feature acts row runs
  obtain ⟨_, toRd, body, rfl, writes, course⟩ := exec_hartWord row
  rw [mayExecute_iff row, course]
  refine ⟨extension_refused runs, fun may acting gone => ?_⟩
  obtain rfl := writes acting
  subst acting
  exact extension_noContext runs may gone

/-- The outcome of a word that goes is that of its body, when its course has the permissions of its row. -/
theorem exec_of_goes {s : State} {i : Instr} (goes : Claims.HartGoes s i) {f : HForm} {user : Hart → Bool} {server : Bool}
    {feature : Nat} {acts : Bool} (row : Claims.hartWord i = some (f, user, server, feature, acts)) {puser : Hart → Bool}
    (same : puser = user) {isData toRd : Bool} {body : Nat → Hart → State → XOut}
    (word : exec i s = extension { user := puser, server := server, feature := feature } acts isData toRd f body s) :
    exec i s = .next ((body s.focus.hart (Claims.me s) s).after s f isData toRd) := by
  subst same
  refine word.trans (extension_goes goes.runs ((mayExecute_iff row).mp goes.may) (fun acting => ?_) body)
  subst acting
  exact goes.live f puser server feature row

end Sys2Proof.Machine

namespace Sys2Proof.Machine

open Host (Outcome)

/-! ### The future words of the harts (R318, R320, R370 to R372, R417) -/

/-! #### What a release at PKG leaves (R370, R417) -/

/-- The effects on their way, memory, the clusters and the contexts. -/
def State.shared (s : State) : List InFlight × List Host.Cell × Sparse Cluster × Sparse Ctx := (s.inflight, s.mem, s.clusters, s.ctxs)

theorem inflight_of_shared {s t : State} (h : t.shared = s.shared) : t.inflight = s.inflight := congrArg (fun x => x.1) h
theorem mem_of_shared {s t : State} (h : t.shared = s.shared) : t.mem = s.mem := congrArg (fun x => x.2.1) h
theorem clusters_of_shared {s t : State} (h : t.shared = s.shared) : t.clusters = s.clusters := congrArg (fun x => x.2.2.1) h

theorem bumpGen_shared (s : State) (l : List (Nat × Nat)) : (s.bumpGen l).shared = s.shared := by
  induction l generalizing s with
  | nil => rfl
  | cons e l ih => exact ih _

theorem bumpGen_tenures (s : State) (l : List (Nat × Nat)) : (s.bumpGen l).tenures = s.tenures := by
  induction l generalizing s with
  | nil => rfl
  | cons e l ih => exact ih _

theorem advance_tenures (s : State) (grans : List Nat) : (s.advance grans).tenures = s.tenures := bumpGen_tenures _ _

theorem flush_shared (s : State) (p : Tenure → Bool) (grans : List Nat) : (s.flush p grans).shared = s.shared := by
  simp only [State.flush]
  split
  · rfl
  · exact bumpGen_shared _ _

theorem flushes_shared (s : State) (p : Tenure → Bool) (l : List Nat) : (l.foldl (fun t g => t.flush p [g]) s).shared = s.shared := by
  induction l generalizing s with
  | nil => rfl
  | cons g l ih => exact (ih _).trans (flush_shared s p [g])

theorem homeward_shared (s : State) (o : Seer) : (s.homeward o).shared = s.shared := flushes_shared _ _ _

section
variable {s : State} {p : Tenure → Bool}

/-- A tenure after the write-back of a granule comes from one that has at most that granule more. -/
theorem tenures_flush {g : Nat} {x : Tenure} (hx : x ∈ (s.flush p [g]).tenures) (hp : p x = true) :
    ∃ y ∈ s.tenures, p y = true ∧ ∀ k ∈ x.dirty, k ∈ y.dirty ∧ k ≠ g := by
  simp only [State.flush] at hx
  split at hx
  case isTrue clean =>
    refine ⟨x, hx, hp, fun k hk => ⟨hk, ?_⟩⟩
    rintro rfl
    have unwritten : ∀ t ∈ s.tenures, p t = true → k ∉ t.dirty := by simpa using clean
    exact unwritten x hx hp hk
  case isFalse =>
    rw [advance_tenures] at hx
    obtain ⟨y, hy, rfl⟩ := List.mem_map.mp hx
    have named : p y = true := by
      by_cases h : p y = true
      · exact h
      · rwa [if_neg h] at hp
    exact ⟨y, hy, named, fun k hk => by simpa [named] using hk⟩

theorem tenures_flushes {l : List Nat} {x : Tenure} (hx : x ∈ (l.foldl (fun t g => t.flush p [g]) s).tenures) (hp : p x = true) :
    ∃ y ∈ s.tenures, p y = true ∧ ∀ k ∈ x.dirty, k ∈ y.dirty ∧ k ∉ l := by
  induction l generalizing s with
  | nil => exact ⟨x, hx, hp, fun k hk => ⟨hk, List.not_mem_nil⟩⟩
  | cons g l ih =>
    obtain ⟨y, hy, py, sub⟩ := ih hx
    obtain ⟨z, hz, pz, less⟩ := tenures_flush hy py
    refine ⟨z, hz, pz, fun k hk => ?_⟩
    obtain ⟨ky, kl⟩ := sub k hk
    obtain ⟨kz, kg⟩ := less k ky
    exact ⟨kz, by simp [kg, kl]⟩

/-- Nothing of the tenures that `p` names is left to be written home. -/
theorem writeBack_clean {x : Tenure} (hx : x ∈ (s.writeBack p).tenures) (hp : p x = true) : x.dirty = [] := by
  obtain ⟨y, hy, py, sub⟩ := tenures_flushes hx hp
  refine List.eq_nil_iff_forall_not_mem.mpr fun k hk => ?_
  obtain ⟨ky, kl⟩ := sub k hk
  refine kl (List.mem_eraseDups.mpr (List.mem_flatten.mpr ⟨y.dirty, List.mem_map.mpr ⟨y, ?_, rfl⟩, ky⟩))
  exact List.mem_filter.mpr ⟨hy, py⟩

end

theorem homeward_clean {s : State} {o : Seer} {x : Tenure} (hx : x ∈ (s.homeward o).tenures) (hc : x.cl = o.cl) (hctx : x.ctx = o.ctx) :
    x.dirty = [] :=
  writeBack_clean (p := fun t => t.cl == o.cl && t.ctx == o.ctx) hx (by simp [hc, hctx])

/-! #### The entry of a future (R272, R273) -/

/-- Whether an entry is spilled stands in the cluster. -/
theorem fut_spilled (s : State) (hd : Nat) : (s.fut hd).spilled = ((s.cluster (hCluster hd)).futs.get {} (hIndex hd)).spilled := by
  unfold State.fut State.futAt
  dsimp only
  split <;> rfl

theorem fut_spilled_of_clusters {s t : State} (h : t.clusters = s.clusters) (hd : Nat) : (t.fut hd).spilled = (s.fut hd).spilled := by
  simp only [fut_spilled, State.cluster, h]

theorem setFut_inflight (s : State) (hd : Nat) (f : Fut) : (s.setFut hd f).inflight = s.inflight := by
  unfold State.setFut
  dsimp only
  split <;> rfl

theorem setFut_tenures (s : State) (hd : Nat) (f : Fut) : (s.setFut hd f).tenures = s.tenures := by
  unfold State.setFut
  dsimp only
  split <;> rfl

theorem setFut_mem {f : Fut} (resident : f.spilled = false) (s : State) (hd : Nat) : (s.setFut hd f).mem = s.mem := by
  simp [State.setFut, resident]

section
variable (s : State) (src : Source) (ctx cover hd : Nat)

theorem coverFut_inflight : (s.coverFut src ctx cover hd).inflight = s.inflight := by
  unfold State.coverFut
  split
  · split
    · exact setFut_inflight _ _ _
    · rfl
  · rfl

theorem coverFut_tenures : (s.coverFut src ctx cover hd).tenures = s.tenures := by
  unfold State.coverFut
  split
  · split
    · exact setFut_tenures _ _ _
    · rfl
  · rfl

theorem coverFut_mem (resident : (s.fut hd).spilled = false) : (s.coverFut src ctx cover hd).mem = s.mem := by
  unfold State.coverFut
  split
  · dsimp only
    split
    · exact setFut_mem (by exact resident) _ _
    · rfl
  · rfl

end

/-! #### The release of an update (R370 to R372) -/

section
variable {s : State} {h ctx cover c : Nat} {wide : Bool}

theorem released_near (near : h / 4 = c) : s.released (.hart h) ctx cover c false =
    some (s.completeFor (fun f => f.before (hartSeer h ctx) cover) (2 ^ c)) := by
  simp [State.released, Source.seer, hartSeer, near]

theorem released_far (far : h / 4 ≠ c ∨ wide = true) : s.released (.hart h) ctx cover c wide =
    if s.inflight.any (fun f => f.before (hartSeer h ctx) cover && !f.tgt.isRemote) then none else some (s.homeward (hartSeer h ctx)) := by
  have beyond : ((hartSeer h ctx).cl = c && !wide) = false := by
    obtain far | far := far <;> simp [hartSeer, far]
  simp only [State.released, Source.seer, beyond, Bool.false_eq_true, if_false]

end

theorem hartUpdatesAreReleases : Claims.HartUpdatesAreReleases := by
  intro s h ctx hd c far covered
  have wide : far ↔ h / 4 ≠ c ∨ (s.findFut hd ctx).any (fun x => x.farWaiter c) = true := by
    rw [Option.any_eq_true]
  have before : ∀ f : InFlight, f.before (hartSeer h ctx) s.nextId = true ↔ covered f := fun f => by simp [InFlight.before, covered]
  refine ⟨fun hfar held => ?held, fun hfar free => ?home, fun hnear => ?near⟩
  case held =>
    obtain ⟨f, hf, hcov, near⟩ := held
    have waits : s.inflight.any (fun f => f.before (hartSeer h ctx) s.nextId && !f.tgt.isRemote) = true :=
      List.any_eq_true.mpr ⟨f, hf, by simp [(before f).mpr hcov, near]⟩
    rw [Claims.signalled, released_far (wide.mp hfar), if_pos waits]
    rfl
  case home =>
    have done : s.inflight.any (fun f => f.before (hartSeer h ctx) s.nextId && !f.tgt.isRemote) = false := by
      refine List.any_eq_false.mpr fun f hf hb => ?_
      rw [Bool.and_eq_true] at hb
      simp [free f hf ((before f).mp hb.1)] at hb
    have kept := homeward_shared s (hartSeer h ctx)
    refine ⟨_, by rw [Claims.signalled, released_far (wide.mp hfar), done, if_neg Bool.false_ne_true]; rfl, ?_, fun resident => ?_, ?_⟩
    · exact (coverFut_inflight _ _ _ _ _).trans (inflight_of_shared kept)
    · exact (coverFut_mem _ _ _ _ _ ((fut_spilled_of_clusters (clusters_of_shared kept) hd).trans resident)).trans (mem_of_shared kept)
    · intro x hx hcl hctx
      rw [coverFut_tenures] at hx
      exact homeward_clean hx hcl hctx
  case near =>
    obtain ⟨same, narrow⟩ : h / 4 = c ∧ (s.findFut hd ctx).any (fun x => x.farWaiter c) = false := by
      rw [wide, not_or, not_not, Bool.not_eq_true] at hnear
      exact hnear
    refine ⟨_, by rw [Claims.signalled, narrow, released_near same]; rfl, fun resident => ?_, ?_⟩
    · exact coverFut_mem _ _ _ _ _ ((fut_spilled_of_clusters rfl hd).trans resident)
    · exact coverFut_inflight _ _ _ _ _

/-! #### The agent of a future (R318, R371) -/

section
variable {s : State} {h hd : Nat} (H : Hart) (f : Option Fut → State → XOut)

theorem askAgent_null (null : hGen hd = 0) : s.askAgent h H hd f = .done s 9 none := by
  simp [State.askAgent, null]

theorem updateAgent_null (null : hGen hd = 0) : s.updateAgent h H hd f = .done s 9 none := askAgent_null H _ null

variable (there : Claims.reachable s h hd)
include there

theorem askAgent_reachable : s.askAgent h H hd f = f (s.findFut hd H.ctx) s := by
  obtain ⟨gen, awake, arrived, route⟩ := there
  simp [State.askAgent, gen, awake, arrived, route]

theorem updateAgent_waits (held : Claims.signalled s h H.ctx hd = none) : s.updateAgent h H hd f = .wait s := by
  rw [Claims.signalled, Option.map_eq_none_iff] at held
  simp only [State.updateAgent, askAgent_reachable H _ there, held]

theorem updateAgent_signalled {t : State} (sent : Claims.signalled s h H.ctx hd = some t) :
    s.updateAgent h H hd f = f (s.findFut hd H.ctx) t := by
  rw [Claims.signalled, Option.map_eq_some_iff] at sent
  obtain ⟨u, released, rfl⟩ := sent
  simp only [State.updateAgent, askAgent_reachable H _ there, released]

theorem acquireAgent_waits (held : s.farRelease hd (h / 4) = true) : s.acquireAgent h H hd f = .wait s := by
  simp [State.acquireAgent, askAgent_reachable H _ there, held]

theorem acquireAgent_asks (free : s.farRelease hd (h / 4) = false) : s.acquireAgent h H hd f = f (s.findFut hd H.ctx) s := by
  simp [State.acquireAgent, askAgent_reachable H _ there, free]

end

/-! #### XFRES and XFDEC (R318) -/

section
variable {s : State} {f : HForm}

theorem exec_xfres (goes : Claims.HartGoes s (.xfres f)) :
    let H := Claims.me s
    let hd := H.xr f.a.toNat % 2 ^ 32
    exec (.xfres f) s = .next ((s.updateAgent s.focus.hart H hd (fun x t => t.resolveAt H.ctx hd (H.xr f.b.toNat) x)).after s f false) :=
  exec_of_goes goes rfl (uctlBit 1) (execXfres.eq_def f s)

theorem exec_xfdec (goes : Claims.HartGoes s (.xfdec f)) :
    let H := Claims.me s
    let hd := H.xr f.a.toNat % 2 ^ 32
    let n := H.xr f.b.toNat
    exec (.xfdec f) s = .next ((if !decAmount n then .done s 9 none else
      s.updateAgent s.focus.hart H hd (fun x t => t.decAt H.ctx hd n x) : XOut).after s f false) :=
  exec_of_goes goes rfl (uctlBit 1) (execXfdec.eq_def f s)

end

theorem decAmount_iff (n : Nat) : decAmount n = true ↔ 0 < n ∧ n < 2 ^ 31 := by
  simp [decAmount, Nat.pos_iff_ne_zero]

/-- The record of an update that finds no live future, and its status. -/
theorem noFuture_after (s t : State) (f : HForm) (ctx hd reason status : Nat) :
    (t.noFuture ctx hd reason status).after s f false = Claims.completed s (t.deadLetter ctx ctx (futInfo reason hd)) f status status := rfl

section
variable (s : State) (ctx hd n : Nat) {x : Fut}

theorem resolveAt_live (live : x.state = .live) : s.resolveAt ctx hd n (some x) = .done (s.resolveFut hd (some n)) 0 none := by
  simp [State.resolveAt, live]

theorem resolveAt_lapsed (gone : x.state ≠ .live) : s.resolveAt ctx hd n (some x) = s.noFuture ctx hd 6 4 := by
  simp [State.resolveAt, gone]

theorem decAt_live (live : x.state = .live) : s.decAt ctx hd n (some x) = .done (s.decFut hd n false) 0 none := by
  simp [State.decAt, live]

theorem decAt_lapsed (gone : x.state ≠ .live) : s.decAt ctx hd n (some x) = s.noFuture ctx hd 6 4 := by
  simp [State.decAt, gone]

end

theorem hartResolvesAndDecrements : Claims.HartResolvesAndDecrements := by
  intro f s h H hd v
  refine ⟨fun goes => ?resolve, fun goes => ?decrement⟩
  case resolve =>
    rw [exec_xfres goes]
    refine ⟨fun null => ?_, fun there held => ?_, fun there t sent => ?_⟩
    · rw [updateAgent_null _ _ null]
      rfl
    · rw [updateAgent_waits _ _ there held]
      rfl
    · rw [updateAgent_signalled _ _ there sent]
      refine ⟨fun x found live => ?_, fun x found gone => ?_, fun stale => ?_⟩
      · rw [found, resolveAt_live _ _ _ _ live]
        rfl
      · rw [found, resolveAt_lapsed _ _ _ _ gone, noFuture_after]
      · rw [stale]
        rfl
  case decrement =>
    rw [exec_xfdec goes]
    refine ⟨fun bad => ?_, fun pos small there t sent => ?_⟩
    · by_cases amount : decAmount (H.xr f.b.toNat) = true
      · obtain ⟨pos, small⟩ := (decAmount_iff _).mp amount
        have null : hGen hd = 0 := by
          obtain null | zero | large := bad
          · exact null
          · omega
          · omega
        rw [amount, Bool.not_true, if_neg Bool.false_ne_true, updateAgent_null _ _ null]
        rfl
      · rw [Bool.not_eq_true] at amount
        rw [amount, Bool.not_false, if_pos rfl]
        rfl
    · rw [(decAmount_iff _).mpr ⟨pos, small⟩, Bool.not_true, if_neg Bool.false_ne_true, updateAgent_signalled _ _ there sent]
      refine ⟨fun x found live => ?_, fun x found gone => ?_, fun stale => ?_⟩
      · rw [found, decAt_live _ _ _ _ live]
        rfl
      · rw [found, decAt_lapsed _ _ _ _ gone, noFuture_after]
      · rw [stale]
        rfl

/-! #### XFTEST and XFWAIT (R318, R320) -/

/-- What XFTEST gives of an entry, by its mode (R318). -/
def Fut.tested (x : Fut) (md : BitVec 2) (v : Nat) : Nat :=
  match md.toNat with
  | 0 => bit (reached x.phase (v % 2 ^ 32) && x.state == .live)
  | 1 => x.value
  | 2 => x.counts
  | _ => x.flags

theorem Fut.tested_eq (x : Fut) (md : BitVec 2) (v : Nat) : x.tested md v =
    if md = 0 then (if reached x.phase (v % 2 ^ 32) = true ∧ x.state = .live then 1 else 0)
    else if md = 1 then x.value else if md = 2 then x.counts else x.flags := by
  have modes : md = 0 ∨ md = 1 ∨ md = 2 ∨ md = 3 := by revert md; decide
  obtain rfl | rfl | rfl | rfl := modes
  · simp [Fut.tested, bit]
  all_goals rfl

/-- What XFTEST does at the agent (R318). -/
def State.testAt (s : State) (md : BitVec 2) (v : Nat) (x : Option Fut) : XOut :=
  match x with
  | none => .done s 3 none
  | some x => .done s 0 (some (x.tested md v))

/-- The phase that XFWAIT waits for: the next one, or that of its operand (R320). -/
def Fut.waitTarget (x : Fut) (nx : BitVec 1) (v : Nat) : Nat := if nx = 1 then (x.phase + 1) % 2 ^ 32 else v % 2 ^ 32

/-- The waiter that XFWAIT files for hart `h`: operand `v` holds the time-out in its high half, where 0 is none (R320). -/
def State.hartWaiter (s : State) (h target v : Nat) : Waiter :=
  { hart := some h, target := target, deadline := if v / 2 ^ 32 = 0 then none else some (s.hubTime + v / 2 ^ 32) }

/-- What XFWAIT does at the agent with the entry that its handle names (R320). -/
def State.waitAt (s : State) (h hd rd v : Nat) (nx : BitVec 1) (x : Option Fut) : XOut :=
  match x with
  | none => .done s 3 none
  | some x =>
    if x.state = .lapsed then .done s 4 none
    else if reached x.phase (x.waitTarget nx v) then .done (s.modHart h (fun H => { H with xval := x.value })) 0 none
    else
      match s.fileWaiter hd (s.hartWaiter h (x.waitTarget nx v) v) with
      | none => .done s 12 none
      | some t => .held (t.modHart h (fun H => { H with run := .wait hd rd }))

section
variable (s : State) (h hd rd v : Nat) (nx : BitVec 1) {x : Fut}

theorem waitAt_lapsed (lapsed : x.state = .lapsed) : s.waitAt h hd rd v nx (some x) = .done s 4 none := by
  simp only [State.waitAt, if_pos lapsed]

variable (stays : x.state ≠ .lapsed)
include stays

theorem waitAt_reached (met : reached x.phase (x.waitTarget nx v) = true) :
    s.waitAt h hd rd v nx (some x) = .done (s.modHart h (fun H => { H with xval := x.value })) 0 none := by
  simp only [State.waitAt, if_neg stays, met, if_true]

variable (ahead : reached x.phase (x.waitTarget nx v) = false)
include ahead

theorem waitAt_files {t : State} (filed : s.fileWaiter hd (s.hartWaiter h (x.waitTarget nx v) v) = some t) :
    s.waitAt h hd rd v nx (some x) = .held (t.modHart h (fun H => { H with run := .wait hd rd })) := by
  simp only [State.waitAt, if_neg stays, ahead, Bool.false_eq_true, if_false, filed]

theorem waitAt_full (full : s.fileWaiter hd (s.hartWaiter h (x.waitTarget nx v) v) = none) :
    s.waitAt h hd rd v nx (some x) = .done s 12 none := by
  simp only [State.waitAt, if_neg stays, ahead, Bool.false_eq_true, if_false, full]

end

section
variable {s : State} {f : HForm}

theorem exec_xftest {md : BitVec 2} (goes : Claims.HartGoes s (.xftest f md)) :
    let H := Claims.me s
    let hd := H.xr f.a.toNat % 2 ^ 32
    exec (.xftest f md) s = .next ((s.acquireAgent s.focus.hart H hd (fun x t => t.testAt md (H.xr f.b.toNat) x)).after s f true) :=
  exec_of_goes goes rfl (uctlBit 1) (execXftest.eq_def f md s)

theorem exec_xfwait {nx : BitVec 1} (goes : Claims.HartGoes s (.xfwait f nx)) :
    let H := Claims.me s
    let hd := H.xr f.a.toNat % 2 ^ 32
    exec (.xfwait f nx) s = .next ((s.acquireAgent s.focus.hart H hd (fun x t =>
      t.waitAt s.focus.hart hd f.d.toNat (H.xr f.b.toNat) nx x)).after s f false) :=
  exec_of_goes goes rfl (uctlBit 1) (execXfwait.eq_def f nx s)

end

theorem hartTestsAndWaits : Claims.HartTestsAndWaits := by
  intro f md nx s h H hd v
  refine ⟨fun goes there held => ?held, fun goes there free => ?test, fun goes there free => ?wait⟩
  case held =>
    rw [exec_xftest goes, acquireAgent_waits _ _ there held]
    rfl
  case test =>
    rw [exec_xftest goes, acquireAgent_asks _ _ there free]
    refine ⟨fun stale => ?_, fun x found => ?_⟩
    · rw [stale]
      rfl
    · rw [found, ← Fut.tested_eq]
      rfl
  case wait =>
    rw [exec_xfwait goes, acquireAgent_asks _ _ there free]
    refine ⟨fun stale => by rw [stale]; rfl, fun x found => ?_⟩
    rw [found]
    intro target w
    refine ⟨fun lapsed => ?_, fun stays met => ?_, fun stays ahead => ⟨fun t filed => ?_, fun full => ?_⟩⟩
    · rw [waitAt_lapsed _ _ _ _ _ _ lapsed]
      rfl
    · rw [waitAt_reached _ _ _ _ _ _ stays met]
      rfl
    · rw [waitAt_files _ _ _ _ _ _ stays ahead filed]
      rfl
    · rw [waitAt_full _ _ _ _ _ _ stays ahead full]
      rfl

/-- Settles O43: what an update releases, then each word by what the agent answers. -/
theorem hartFutureWords : Obligations.HartFutureWords :=
  ⟨hartResolvesAndDecrements, hartTestsAndWaits, hartUpdatesAreReleases⟩

end Sys2Proof.Machine

namespace Sys2Proof.Machine

open Host (Outcome)

/-! ### The messages and tokens of the harts (R310, R314, R317, R319) -/

/-! #### Memory operands (R310) -/

section
variable {s t u : State} {h va k align : Nat} {ps : List Piece} {bs : List Byte}

section
variable {f : List Piece → State → XOut}

theorem checkOperand_misaligned (bad : va % align ≠ 0) :
    s.checkOperand h va k align f = .trap (s.modHart h (fun H => H.trap 4 va)) := by
  simp [State.checkOperand, bad]

theorem checkOperand_fails {e : HFault} (aligned : va % align = 0) (access : s.hartAccess h hLoad va k = (.error e, t)) :
    s.checkOperand h va k align f = .trap (t.hartFault h hLoad e) := by
  simp [State.checkOperand, aligned, access]

theorem checkOperand_passes (aligned : va % align = 0) (access : s.hartAccess h hLoad va k = (.ok ps, t)) :
    s.checkOperand h va k align f = f ps t := by
  simp [State.checkOperand, aligned, access]

end

variable {f : List Byte → State → XOut}

theorem readOperand_ok (read : s.hartRead h ps = .ok bs t) : s.readOperand h va ps f = f bs t := by
  simp only [State.readOperand, read]

theorem fetched_iff : Claims.fetched s h va k align = some (bs, u) ↔
    va % align = 0 ∧ ∃ ps t, s.hartAccess h hLoad va k = (.ok ps, t) ∧ t.hartRead h ps = .ok bs u := by
  unfold Claims.fetched
  constructor
  · intro read
    split at read
    · cases read
    · rename_i aligned
      split at read
      · split at read
        · cases read
          exact ⟨not_not.mp aligned, _, _, ‹_›, ‹_›⟩
        · cases read
      · cases read
  · rintro ⟨aligned, ps, t, access, read⟩
    simp [aligned, access, read]

theorem operand_fetched (read : Claims.fetched s h va k align = some (bs, u)) : s.operand h va k align f = f bs u := by
  obtain ⟨aligned, ps, t, access, got⟩ := fetched_iff.mp read
  rw [State.operand, checkOperand_passes aligned access, readOperand_ok got]

end

/-! #### XSEND (R314) -/

/-- What XSEND does with the image and the route that it has read (R314). -/
def State.sendImage (s : State) (h : Nat) (H : Hart) (img rt : List Byte) : XOut :=
  let m : Msg := { words := Claims.wordsOf 16 img }
  let server := s.isServer h
  if m.kind = 3 || (m.kind = 1 && !(server && H.mode != .u)) || (m.ctx ≠ H.ctx && !server) then .done s 9 none
  else
    let m := m.setWord 0 (setField (setField m.hdr 23 16 H.ctx) 26 24 1)
    let s := if actEngine m.target / 16 = h / 4 then s else s.markRelease (hartSeer h H.ctx) (hartObs h)
    .done (s.inject (.hart h) H.ctx (ofLE rt) 0 tcMsg 4 m.target (.msg m)) 0 none

theorem exec_xsend {s : State} {f : HForm} (goes : Claims.HartGoes s (.xsend f)) :
    let h := s.focus.hart
    let H := Claims.me s
    let va := H.xr f.a.toNat
    let vr := H.xr f.b.toNat
    exec (.xsend f) s = .next ((s.checkOperand h va 128 128 (fun ps t => t.checkOperand h vr 16 16 (fun qs t =>
      t.readOperand h va ps (fun img t => t.readOperand h vr qs (fun rt t => t.sendImage h H img rt))))).after s f false) :=
  exec_of_goes goes rfl (uctlBit 0) (execXsend.eq_def f s)

theorem actEngine_cluster (t : Nat) : actEngine t / 16 = t / 2 ^ 14 % 2 ^ 10 := by
  simp only [actEngine, fieldOf]
  omega

section
variable (s : State) (h : Nat) (H : Hart) (img rt : List Byte)

/-- The kind and the context of the message allow the hart to send it (R314). -/
def State.maySend (m : Msg) : Prop :=
  m.kind ≠ 3 ∧ (m.kind = 1 → s.isServer h = true ∧ H.mode ≠ .u) ∧ (m.ctx = H.ctx ∨ s.isServer h = true)

theorem maySend_iff (m : Msg) : s.maySend h H m ↔
    (m.kind = 3 || (m.kind = 1 && !(s.isServer h && H.mode != .u)) || (m.ctx ≠ H.ctx && !s.isServer h)) = false := by
  simp only [State.maySend, Bool.or_eq_false_iff, Bool.and_eq_false_imp, decide_eq_false_iff_not, decide_eq_true_eq, Bool.not_eq_false',
    Bool.and_eq_true, bne_iff_ne, and_assoc]
  tauto

theorem sendImage_illegal (illegal : ¬ s.maySend h H { words := Claims.wordsOf 16 img }) : s.sendImage h H img rt = .done s 9 none := by
  rw [maySend_iff, Bool.not_eq_false] at illegal
  simp only [State.sendImage, illegal, if_true]

theorem sendImage_legal (legal : s.maySend h H { words := Claims.wordsOf 16 img }) :
    let ws := Claims.wordsOf 16 img
    let m : Msg := { words := setField (setField (ws.headD 0) 23 16 H.ctx) 26 24 1 :: ws.tail }
    let t := if m.target / 2 ^ 14 % 2 ^ 10 = h / 4 then s else s.markRelease (hartSeer h H.ctx) (hartObs h)
    s.sendImage h H img rt = .done (t.inject (.hart h) H.ctx (ofLE rt) 0 tcMsg 4 m.target (.msg m)) 0 none := by
  rw [maySend_iff] at legal
  intro ws m
  simp only [State.sendImage, legal, Bool.false_eq_true, if_false, actEngine_cluster]
  rfl

end

theorem xsendInjectsItsMessage : Claims.XsendInjectsItsMessage := by
  intro f s goes h H va vr
  rw [exec_xsend goes]
  refine ⟨fun bad => ?_, fun aligned e t fails => ?_, fun aligned ps t passes => ⟨fun bad => ?_, fun aligned' e u fails => ?_⟩,
    fun aligned aligned' ps qs img rt s1 s2 s3 u passes passes' read read' => ?_⟩
  · rw [checkOperand_misaligned bad]
    rfl
  · rw [checkOperand_fails aligned fails]
    rfl
  · rw [checkOperand_passes aligned passes, checkOperand_misaligned bad]
    rfl
  · rw [checkOperand_passes aligned passes, checkOperand_fails aligned' fails]
    rfl
  · rw [checkOperand_passes aligned passes, checkOperand_passes aligned' passes', readOperand_ok read, readOperand_ok read']
    intro ws w0 legal m t
    have may : legal ↔ u.maySend h H { words := Claims.wordsOf 16 img } := Iff.rfl
    rw [may]
    refine ⟨fun yes => ?_, fun no => ?_⟩
    · rw [sendImage_legal u _ _ _ _ yes]
      rfl
    · rw [sendImage_illegal u _ _ _ _ no]
      rfl

/-! #### The injections that wait (R317) -/

theorem bumpGen_injects (s : State) (l : List (Nat × Nat)) : (s.bumpGen l).injects = s.injects := by
  induction l generalizing s with
  | nil => rfl
  | cons e l ih => exact ih _

theorem drainBridge_injects (s : State) (p gr : Nat) : (s.drainBridge p gr).injects = s.injects := by
  unfold State.drainBridge
  split
  · exact bumpGen_injects _ _
  · rfl

theorem snoop_injects (s : State) (a n : Nat) (w : Bool) : (s.snoop a n w).injects = s.injects := by
  simp only [State.snoop]
  split
  · exact (drainBridge_injects _ _ _).trans (drainBridge_injects _ _ _)
  · rfl

theorem killResv_injects (s : State) (a n : Nat) : (s.killResv a n).injects = s.injects := by
  simp only [State.killResv]
  split <;> rfl

theorem wrHome_injects (s : State) (a n v : Nat) : (s.wrHome a n v).injects = s.injects :=
  (killResv_injects _ _ _).trans (snoop_injects s a n true)

/-! #### XFRESTOK (R317, R319) -/

/-- A hart whose word has reserved its tokens waits until they are visible. -/
def XOut.injecting (h rd : Nat) : XOut → XOut
  | .held t => .held (t.modHart h (fun H => { H with run := .inject rd }))
  | r => r

/-- The reply block of a word is read: its header, then all of it (R319). -/
def State.readReply (s : State) (h va : Nat) (k : Nat → List Byte → State → XOut) : XOut :=
  s.operand h va 16 8 (fun hdr t =>
    if 4096 < ofLE ((hdr.drop 8).take 2) then .done t 9 none else
    t.checkOperand h va (16 + 4 * ofLE ((hdr.drop 8).take 2)) 8 (fun ps t =>
      t.readOperand h va ps (fun blk t => k (ofLE (hdr.take 8)) (blk.drop 16) t)))

theorem exec_xfrestok {s : State} {f : HForm} (goes : Claims.HartGoes s (.xfrestok f)) :
    let h := s.focus.hart
    let H := Claims.me s
    let hd := H.xr f.a.toNat % 2 ^ 32
    exec (.xfrestok f) s = .next ((s.readReply h (H.xr f.b.toNat) (fun value toks t => t.updateAgent h H hd (fun x t =>
      (t.injectAt H.ctx hd value toks (some h) none x).injecting h f.d.toNat))).after s f false) :=
  exec_of_goes goes rfl (uctlBit 2) (execXfrestok.eq_def f s)

theorem readReply_replyBlock {s w : State} {va value : Nat} {toks : List Byte} (read : Claims.replyBlock s va = some (value, toks, w))
    (k : Nat → List Byte → State → XOut) : s.readReply s.focus.hart va k = k value toks w := by
  unfold Claims.replyBlock at read
  dsimp only at read
  split at read
  case h_1 hdr t header =>
    obtain ⟨aligned, -⟩ := fetched_iff.mp header
    split at read
    · cases read
    · rename_i small
      split at read
      · rename_i ps u access
        split at read
        · rename_i blk w' got
          cases read
          rw [State.readReply, operand_fetched header, if_neg small, checkOperand_passes aligned access, readOperand_ok got]
        · cases read
      · cases read
  case h_2 => cases read

/-- The ring of a queue has no room for `n` more tokens (R317). -/
def PrefillQ.lacks (q : PrefillQ) (n : Nat) : Prop :=
  2 ^ q.log < (q.resv + 2 ^ 32 - q.head) % 2 ^ 32 ∨ 2 ^ q.log - (q.resv + 2 ^ 32 - q.head) % 2 ^ 32 < n

theorem queue_formed {q : PrefillQ} (ring : q.ring % 128 = 0) (low : 4 ≤ q.log) (high : q.log ≤ 24) :
    (q.ring % 128 ≠ 0 || q.log < 4 || 24 < q.log) = false := by
  simp [ring, low, high]

section
variable (s : State) (ctx hd value : Nat) (toks : List Byte) (who conn : Option Nat) {x : Fut}

theorem injectAt_lapsed (gone : x.state ≠ .live) : s.injectAt ctx hd value toks who conn (some x) = s.noFuture ctx hd 6 4 := by
  simp only [State.injectAt, if_pos gone]

variable (live : x.state = .live)
include live

theorem injectAt_unbound (unbound : x.pq = none) : s.injectAt ctx hd value toks who conn (some x) = .done s 6 none := by
  simp [State.injectAt, live, unbound]

variable {n : Nat} (bound : x.pq = some n)
include bound

theorem injectAt_noQueue (beyond : (s.ctx ctx).pqCnt ≤ n) : s.injectAt ctx hd value toks who conn (some x) = .done s 9 none := by
  simp [State.injectAt, live, bound, beyond]

variable (within : n < (s.ctx ctx).pqCnt)
include within

theorem injectAt_malformed
    (bad : (s.prefillQ ctx n).ring % 128 ≠ 0 ∨ (s.prefillQ ctx n).log < 4 ∨ 24 < (s.prefillQ ctx n).log) :
    s.injectAt ctx hd value toks who conn (some x) = .done s 9 none := by
  have malformed : ((s.prefillQ ctx n).ring % 128 ≠ 0 || (s.prefillQ ctx n).log < 4 || 24 < (s.prefillQ ctx n).log) = true := by
    simpa [or_assoc] using bad
  simp only [State.injectAt, live, bound, malformed, not_le.mpr within, ne_eq, not_true_eq_false, if_false, if_true]

variable (ring : (s.prefillQ ctx n).ring % 128 = 0) (low : 4 ≤ (s.prefillQ ctx n).log) (high : (s.prefillQ ctx n).log ≤ 24)
include ring low high

theorem injectAt_full (full : (s.prefillQ ctx n).lacks (toks.length / 4)) :
    s.injectAt ctx hd value toks who conn (some x) = .done s 5 none := by
  have formed := queue_formed ring low high
  rw [PrefillQ.lacks] at full
  simp only [State.injectAt, live, bound, formed, not_le.mpr within, ne_eq, not_true_eq_false, Bool.false_eq_true, if_false,
    Bool.or_eq_true, decide_eq_true_eq, if_pos full]

theorem injectAt_reserves (room : ¬ (s.prefillQ ctx n).lacks (toks.length / 4)) {ps : List (Nat × Nat × Nat)} {us : List Nat}
    {t1 t : State} (pieces : s.ringPieces ctx ((s.prefillQ ctx n).pieces (s.prefillQ ctx n).resv (toks.length / 4)) = (.ok (ps, us), t1))
    (written : t1.writeTokens ctx ps toks = some t) :
    let j : Inject := { ctx := ctx, q := n, start := (s.prefillQ ctx n).resv, ntok := toks.length / 4, h := hd, value := value,
                        hart := who, uses := us, conn := conn }
    s.injectAt ctx hd value toks who conn (some x) =
      .held { t.wrHome ((s.prefillQ ctx n).at0 + 16) 4 ((j.start + j.ntok) % 2 ^ 32) with injects := t.injects ++ [j] } := by
  have formed := queue_formed ring low high
  rw [PrefillQ.lacks] at room
  simp only [State.injectAt, live, bound, formed, not_le.mpr within, ne_eq, not_true_eq_false, Bool.false_eq_true, if_false,
    Bool.or_eq_true, decide_eq_true_eq, if_neg room, pieces, written, wrHome_injects]

end

theorem hartInjectsTokens : Claims.HartInjectsTokens := by
  intro f s goes h H hd value toks w u read there sent
  rw [exec_xfrestok goes, readReply_replyBlock read, updateAgent_signalled _ _ there sent]
  refine ⟨fun x n found live bound within => ?bound, fun x n found live bound beyond => ?_, fun x found live unbound => ?_,
    fun x found gone => ?_, fun stale => ?_⟩
  case bound =>
    rw [found]
    intro q ntok used
    refine ⟨fun ring low high inside room ps us t1 t pieces written => ?_, fun ring low high full => ?_, fun bad => ?_⟩
    · have fits : ¬ q.lacks ntok := not_or.mpr ⟨not_lt.mpr inside, not_lt.mpr room⟩
      rw [injectAt_reserves u H.ctx hd value toks _ none live bound within ring low high fits pieces written]
      rfl
    · rw [injectAt_full u H.ctx hd value toks _ none live bound within ring low high full]
      rfl
    · rw [injectAt_malformed u H.ctx hd value toks _ none live bound within bad]
      rfl
  · rw [found, injectAt_noQueue u H.ctx hd value toks _ _ live bound beyond]
    rfl
  · rw [found, injectAt_unbound u H.ctx hd value toks _ _ live unbound]
    rfl
  · rw [found, injectAt_lapsed u H.ctx hd value toks _ _ gone]
    rfl
  · rw [stale]
    rfl

/-! #### PREFILL_TAIL_ADVANCE (R317, R319, R426) -/

/-- A hart that waits in XFRESTOK goes on with its status (R319). -/
def Hart.injected (H : Hart) (st : Nat) : Hart :=
  match H.run with
  | .inject rd => { H with run := .run, xst := st }.setX rd st
  | _ => H

section
variable {s : State} {i : Nat} {j : Inject} (here : s.injects[i]? = some j)
include here

theorem execPrefillTailAdvance_early (early : (s.prefillQ j.ctx j.q).tail ≠ j.start) : execPrefillTailAdvance i s = .next s := by
  simp only [execPrefillTailAdvance, here, if_pos early]

/-- The state in which TAIL has advanced past the injection's tokens. -/
def State.tailPast (s : State) (i : Nat) (j : Inject) : State :=
  ({ s with injects := dropAt s.injects i } : State).wrHome ((s.prefillQ j.ctx j.q).at0 + 12) 4 ((j.start + j.ntok) % 2 ^ 32)

variable (turn : (s.prefillQ j.ctx j.q).tail = j.start)
include turn

theorem execPrefillTailAdvance_reset (reset : j.reset = true) : execPrefillTailAdvance i s = .next (s.tailPast i j) := by
  simp only [execPrefillTailAdvance, here, if_neg (not_not.mpr turn), reset, if_true]
  rfl

section
variable (stands : j.reset = false) {st : Nat} {u : State} (ends : (s.tailPast i j).endInject j = (st, u))
include stands ends

theorem execPrefillTailAdvance_endpoint (remote : j.hart = none) : execPrefillTailAdvance i s = .next (u.reply j.h st) := by
  simp only [State.tailPast] at ends
  simp only [execPrefillTailAdvance, here, if_neg (not_not.mpr turn), stands, Bool.false_eq_true, if_false, ends, remote]

theorem execPrefillTailAdvance_hart {k : Nat} (waits : j.hart = some k) :
    execPrefillTailAdvance i s = .next (u.modHart k (fun H => H.injected st)) := by
  simp only [State.tailPast] at ends
  simp only [execPrefillTailAdvance, here, if_neg (not_not.mpr turn), stands, Bool.false_eq_true, if_false, ends, waits]
  rfl

end
end

theorem endInject_eq {t u : State} {j : Inject} {st : Nat}
    (found : ((∃ x, t.findFut j.h j.ctx = some x ∧ x.state = .live) ∧ st = 0 ∧ u = t.resolveFut j.h (some j.value)) ∨
      ((∃ x, t.findFut j.h j.ctx = some x ∧ x.state ≠ .live) ∧ st = 4 ∧ u = t.deadLetter j.ctx j.ctx (futInfo 6 j.h)) ∨
      (t.findFut j.h j.ctx = none ∧ st = 3 ∧ u = t.deadLetter j.ctx j.ctx (futInfo 8 j.h))) : t.endInject j = (st, u) := by
  obtain ⟨⟨x, found, live⟩, rfl, rfl⟩ | ⟨⟨x, found, gone⟩, rfl, rfl⟩ | ⟨stale, rfl, rfl⟩ := found
  · simp only [State.endInject, found, if_pos live]
  · simp only [State.endInject, found, if_neg gone]
  · simp only [State.endInject, stale]

theorem theTailAdvances : Claims.TheTailAdvances := by
  intro i j s here
  refine ⟨execPrefillTailAdvance_early here, fun turn => ⟨execPrefillTailAdvance_reset here turn, fun st u stands found => ?_⟩⟩
  have ends := endInject_eq found
  exact ⟨execPrefillTailAdvance_endpoint here turn stands ends, fun k => execPrefillTailAdvance_hart here turn stands ends⟩

/-- Settles O42: XSEND and XFRESTOK by their operands and what they find, and the tail by the injection's turn. -/
theorem hartMessagesAndTokens : Obligations.HartMessagesAndTokens :=
  ⟨xsendInjectsItsMessage, hartInjectsTokens, theTailAdvances⟩

end Sys2Proof.Machine

namespace Sys2Proof.Machine

open Host (Outcome)

/-! ### Calls, fences, capabilities and replays of the harts (R321 to R324) -/

/-! #### XCQPOP (R321) -/

/-- XCQPOP takes the oldest record of the call queue to the pieces of its destination (R321). -/
def State.popCall (s : State) (h ctx : Nat) (ps : List Piece) : XOut :=
  let q := s.callQ ctx
  if !q.formed || q.head = q.tail then .done s 8 none else
  match s.translate ctx .r (q.slot q.head) 64 with
  | (.bad x, t) => .done (t.structFault ctx (q.slot q.head) x) 8 none
  | (.ok (.remote _ _) _, t) => .done t 8 none
  | (.ok (.dpa a key) _, t) =>
    match t.recall hubParty ctx a 64 false false with
    | none => .wait s
    | some t =>
      match (t.readKeyed a 64 key).2.hartWrite h ps (t.readKeyed a 64 key).1 with
      | none => .wait (s.wantAll ps)
      | some t => .done (t.wrHome ((t.ctx ctx).cqDesc + 8) 4 ((q.head + 1) % 2 ^ 32)) 0 none

theorem exec_xcqpop {s : State} {f : HForm} (goes : Claims.HartGoes s (.xcqpop f)) :
    let h := s.focus.hart
    let H := Claims.me s
    let va := H.xr f.a.toNat
    exec (.xcqpop f) s = .next ((if va % 64 ≠ 0 then .trap (s.modHart h (fun H => H.trap 6 va)) else
      match s.hartAccess h hStore va 64 with
      | (.error e, t) => .trap (t.hartFault h hStore e)
      | (.ok ps, t) => t.popCall h H.ctx ps : XOut).after s f false) :=
  exec_of_goes goes rfl (uctlBit 2) (execXcqpop.eq_def f s)

section
variable (s : State) (h ctx : Nat) (ps : List Piece)

theorem popCall_empty (empty : (s.callQ ctx).formed = false ∨ (s.callQ ctx).head = (s.callQ ctx).tail) :
    s.popCall h ctx ps = .done s 8 none := by
  have nothing : (!(s.callQ ctx).formed || (s.callQ ctx).head = (s.callQ ctx).tail) = true := by simpa using empty
  simp only [State.popCall, nothing, if_true]

theorem popCall_pops {a key : Nat} {use : List Nat} {u v w : State} (formed : (s.callQ ctx).formed = true)
    (holds : (s.callQ ctx).head ≠ (s.callQ ctx).tail)
    (found : s.translate ctx .r ((s.callQ ctx).slot (s.callQ ctx).head) 64 = (.ok (.dpa a key) use, u))
    (taken : u.recall hubParty ctx a 64 false false = some v)
    (written : (v.readKeyed a 64 key).2.hartWrite h ps (v.readKeyed a 64 key).1 = some w) :
    s.popCall h ctx ps = .done (w.wrHome ((w.ctx ctx).cqDesc + 8) 4 (((s.callQ ctx).head + 1) % 2 ^ 32)) 0 none := by
  have one : (!(s.callQ ctx).formed || (s.callQ ctx).head = (s.callQ ctx).tail) = false := by simp [formed, holds]
  simp only [State.popCall, one, Bool.false_eq_true, if_false, found, taken, written]

end

theorem xcqpopTakesTheOldestCall : Claims.XcqpopTakesTheOldestCall := by
  intro f s goes h H va
  rw [exec_xcqpop goes]
  refine ⟨fun bad => ?_, fun aligned ps t passes => ?_⟩
  · rw [if_pos bad]
    rfl
  · rw [if_neg (not_not.mpr aligned), passes]
    refine ⟨fun empty => ?_, fun formed holds a key use u v w found taken written => ?_⟩
    · exact congrArg (fun x => Outcome.next (XOut.after x s f false)) (popCall_empty t h H.ctx ps empty)
    · exact congrArg (fun x => Outcome.next (XOut.after x s f false)) (popCall_pops t h H.ctx ps formed holds found taken written)

/-! #### XFENCE (R322, R370) -/

section
variable {s : State}

/-- The scope is one of CLU, PKG and POD, or names a scope register (R322). -/
def State.fenceScope (s : State) (sc : Nat) : Bool := (1 ≤ sc && sc ≤ 3) || (8 ≤ sc && sc < 16 && s.feat 16)

theorem fenceScope_iff (sc : Nat) : s.fenceScope sc = true ↔ (1 ≤ sc ∧ sc ≤ 3) ∨ (8 ≤ sc ∧ sc < 16 ∧ s.feat 16 = true) := by
  simp [State.fenceScope, and_assoc]

/-- The kinds of fence that release are the odd ones (R322). -/
theorem fence_releases : ∀ kind : BitVec 2, kind ≠ 0 → kind ≠ 2 → kind.toNat % 2 ≠ 0 := by decide

/-- What XFENCE does with the scope `sc` (R322, R370). -/
def State.fenceOut (s : State) (h ctx sc : Nat) (kind : BitVec 2) : XOut :=
  let o := hartSeer h ctx
  if kind = 0 || !s.fenceScope sc then .trap (s.modHart h (fun H => H.trap 2 0))
  else if kind.toNat % 2 = 0 then .done s 0 none
  else if s.relWaits (.hart h) o (s.fenceLevel o.cl ctx sc) (s.fenceMask o.cl ctx sc) then .wait s
  else .done (s.releaseFor o (s.fenceLevel o.cl ctx sc) (s.fenceMask o.cl ctx sc)) 0 none

/-- XFENCE writes its status, and no register (R322). -/
theorem exec_xfence {f : HForm} {kind : BitVec 2} (goes : Claims.HartGoes s (.xfence f kind)) :
    exec (.xfence f kind) s = .next ((s.fenceOut s.focus.hart (Claims.me s).ctx f.b.toNat kind).after s f false false) :=
  exec_of_goes goes rfl rfl (execXfence.eq_def f kind s)

section
variable (h ctx : Nat) {sc : Nat} {kind : BitVec 2}

theorem fenceOut_illegal (bad : kind = 0 ∨ s.fenceScope sc = false) :
    s.fenceOut h ctx sc kind = .trap (s.modHart h (fun H => H.trap 2 0)) := by
  have refused : (kind = 0 || !s.fenceScope sc) = true := by simpa using bad
  simp only [State.fenceOut, refused, if_true]

variable (named : kind ≠ 0) (scope : s.fenceScope sc = true)
include named scope

theorem fence_legal : (kind = 0 || !s.fenceScope sc) = false := by
  simp only [scope, decide_eq_false named, Bool.not_true, Bool.or_self]

theorem fenceOut_acquire (acq : kind = 2) : s.fenceOut h ctx sc kind = .done s 0 none := by
  subst acq
  simp [State.fenceOut, scope]

variable (rel : kind ≠ 2)
include rel

theorem fenceOut_waits
    (waits : s.relWaits (.hart h) (hartSeer h ctx) (s.fenceLevel (h / 4) ctx sc) (s.fenceMask (h / 4) ctx sc) = true) :
    s.fenceOut h ctx sc kind = .wait s := by
  have goesOn := fence_legal named scope
  have odd := fence_releases kind named rel
  simp only [hartSeer] at waits
  simp only [State.fenceOut, goesOn, Bool.false_eq_true, if_false, if_neg odd, hartSeer, waits, if_true]

theorem fenceOut_releases
    (free : s.relWaits (.hart h) (hartSeer h ctx) (s.fenceLevel (h / 4) ctx sc) (s.fenceMask (h / 4) ctx sc) = false) :
    s.fenceOut h ctx sc kind = .done (s.releaseFor (hartSeer h ctx) (s.fenceLevel (h / 4) ctx sc) (s.fenceMask (h / 4) ctx sc)) 0 none := by
  have goesOn := fence_legal named scope
  have odd := fence_releases kind named rel
  simp only [hartSeer] at free
  simp only [State.fenceOut, goesOn, Bool.false_eq_true, if_false, if_neg odd, hartSeer, free]

end
end

/-- A release at PKG waits for what its observer has seen and which is not at its home; one at POD for all that it has seen. -/
theorem relWaits_pkg {s : State} {src : Source} {o : Seer} {e : InFlight} (mask : Nat) (flies : e ∈ s.inflight) (seen : e.seen o = true)
    (near : e.tgt.isRemote = false) : s.relWaits src o 2 mask = true := by
  have waits : (s.inflight.filter (fun f => f.seen o)).any (fun f => !f.tgt.isRemote) = true :=
    List.any_eq_true.mpr ⟨e, List.mem_filter.mpr ⟨flies, seen⟩, by simp [near]⟩
  simp only [State.relWaits, waits, Bool.true_or]

theorem relWaits_pod {s : State} {src : Source} {o : Seer} {e : InFlight} (mask : Nat) (flies : e ∈ s.inflight) (seen : e.seen o = true) :
    s.relWaits src o 3 mask = true := by
  have waits : (s.inflight.filter (fun f => f.seen o)).isEmpty = false :=
    List.isEmpty_eq_false_iff_exists_mem.mpr ⟨e, List.mem_filter.mpr ⟨flies, seen⟩⟩
  simp only [State.relWaits, waits, Bool.not_false, Bool.true_or]

/-! #### XCAPSET and XCAPCLR (R305, R323) -/

/-- The capability that XCAPSET writes: its KEY is 0 without MEM_ENC (R23). -/
def capWord (enc : Bool) (lo hi : Nat) : Nat := (if enc then lo else lo % 2 ^ 52) + (hi % 2 ^ 48 + 2 ^ 48) * 2 ^ 64

/-- The bounds of a capability are aligned and in order, and its reserved bits are 0 (R305, R323). -/
def capFormed (lo hi : Nat) : Prop :=
  lo % 128 = 0 ∧ hi % 128 = 0 ∧ lo % 2 ^ 48 < hi % 2 ^ 48 ∧ lo / 2 ^ 51 % 2 = 0 ∧ hi / 2 ^ 49 = 0

/-- The check that XCAPSET makes of them. -/
def capRefused (lo hi : Nat) : Bool :=
  lo % 128 ≠ 0 || hi % 128 ≠ 0 || hi % 2 ^ 48 ≤ lo % 2 ^ 48 || bitOf lo 51 || fieldOf hi 63 49 ≠ 0

theorem capFormed_iff {lo hi : Nat} (word : hi < 2 ^ 64) : capFormed lo hi ↔ capRefused lo hi = false := by
  have top : fieldOf hi 63 49 = hi / 2 ^ 49 := by
    simp only [fieldOf]
    omega
  have bit51 : bitOf lo 51 = false ↔ lo / 2 ^ 51 % 2 = 0 := by
    rw [bitOf, beq_eq_false_iff_ne]
    omega
  simp only [capFormed, capRefused, top, Bool.or_eq_false_iff, decide_eq_false_iff_not, not_not, not_le, bit51, and_assoc]

theorem Hart.xr_lt (H : Hart) (r : Nat) : H.xr r < 2 ^ 64 := by
  unfold Hart.xr
  split
  · decide
  · exact BitVec.isLt _

/-- The capability registers after `n` of them have been looked at: those of the mask have VALID cleared (R323). -/
def clearCaps (mask : Nat) (caps : Sparse Nat) (n : Nat) : Sparse Nat :=
  (List.range n).foldl (fun caps i => if bitOf mask i then caps.put 0 i (setField (caps.get 0 i) 112 112 0) else caps) caps

theorem clearCaps_succ (mask : Nat) (caps : Sparse Nat) (n : Nat) : clearCaps mask caps (n + 1) =
    if bitOf mask n then (clearCaps mask caps n).put 0 n (setField ((clearCaps mask caps n).get 0 n) 112 112 0)
    else clearCaps mask caps n := by
  simp only [clearCaps, List.range_succ, List.foldl_append, List.foldl_cons, List.foldl_nil]

theorem clearCaps_sorted (mask : Nat) {caps : Sparse Nat} (h : caps.sorted = true) (n : Nat) : (clearCaps mask caps n).sorted = true := by
  induction n with
  | zero => exact h
  | succ n ih =>
    rw [clearCaps_succ]
    split
    · exact Sparse.sorted_put ih _ _
    · exact ih

theorem get_clearCaps (mask : Nat) {caps : Sparse Nat} (h : caps.sorted = true) (n k : Nat) : (clearCaps mask caps n).get 0 k =
    if k < n ∧ bitOf mask k = true then setField (caps.get 0 k) 112 112 0 else caps.get 0 k := by
  induction n with
  | zero => simp [clearCaps]
  | succ n ih =>
    have sorted := clearCaps_sorted mask h n
    rw [clearCaps_succ]
    obtain rfl | other := eq_or_ne k n
    · by_cases named : bitOf mask k = true
      · rw [if_pos named, Sparse.get_put_same sorted, ih, if_neg (fun c => lt_irrefl k c.1), if_pos ⟨Nat.lt_succ_self k, named⟩]
      · rw [if_neg named, ih, if_neg (fun c => named c.2), if_neg (fun c => named c.2)]
    · have seen : k < n + 1 ↔ k < n := by omega
      simp only [seen]
      rw [← ih]
      split
      · exact Sparse.get_put_other sorted _ other
      · rfl

section
variable {s : State} {f : HForm}

theorem exec_xcapset {i : BitVec 4} (goes : Claims.HartGoes s (.xcapset f i)) :
    let h := s.focus.hart
    let H := Claims.me s
    let lo := H.xr f.a.toNat
    let hi := H.xr f.b.toNat
    exec (.xcapset f i) s = .next ((if capRefused lo hi then .done s 9 none
      else .done (s.setHart h { H with caps := H.caps.put 0 i.toNat (capWord (s.feat 13) lo hi) }) 0 none : XOut).after s f false) :=
  exec_of_goes goes rfl rfl (execXcapset.eq_def f i s)

theorem exec_xcapclr (goes : Claims.HartGoes s (.xcapclr f)) :
    let H := Claims.me s
    exec (.xcapclr f) s = .next (Claims.completed s
      (s.setHart s.focus.hart { H with caps := clearCaps (H.xr f.a.toNat) H.caps 16 }) f 0 0) :=
  exec_of_goes goes rfl rfl (execXcapclr.eq_def f s)

end

/-! #### XCPYR (R324) -/

theorem exec_xcpyr {s : State} {f : HForm} (goes : Claims.HartGoes s (.xcpyr f)) :
    let H := Claims.me s
    let lo := H.xr f.a.toNat
    let hi := H.xr f.b.toNat
    let g := lo / 2 ^ 20 % 2 ^ 10 * 16 + lo / 2 ^ 16 % 16
    let mine := fun (c : Copy) => c.ctx == H.ctx && c.id == lo % 2 ^ 16
    let this := fun (p : HeldPage) => p.held && p.page == hi
    exec (.xcpyr f) s = .next ((if (s.eng g).copies.any (fun c => mine c && c.pages.any this) then
        .done (s.modEng g (fun e => { e with copies := e.copies.map (fun c =>
          if mine c then { c with pages := c.pages.map (fun p => if this p then { p with asked := true } else p) } else c) })) 0 none
      else .done s 10 none : XOut).after s f false) :=
  exec_of_goes goes rfl rfl (execXcpyr.eq_def f s)

theorem fencesCapabilitiesAndReplays : Claims.FencesCapabilitiesAndReplays := by
  intro f kind i s h H lo hi sc
  refine ⟨fun goes => ⟨fun named scope => ?fence, fun bad => ?illegal⟩, fun goes => ?set, fun goes sorted => ?clear,
    fun goes => ?replay⟩
  case fence =>
    have scope' := (fenceScope_iff sc).mpr scope
    rw [exec_xfence goes]
    refine ⟨fun acq => ?_, fun rel free => ?_, fun rel waits => ?_, fun rel pkg ⟨e, flies, seen, near⟩ => ?_,
      fun rel pod ⟨e, flies, seen⟩ => ?_⟩
    · rw [fenceOut_acquire _ _ named scope' acq]
      rfl
    · rw [fenceOut_releases _ _ named scope' rel free]
      rfl
    · rw [fenceOut_waits _ _ named scope' rel waits]
      rfl
    · have lvl : s.fenceLevel (h / 4) H.ctx sc = 2 := by rw [pkg]; rfl
      have waits := relWaits_pkg (src := .hart h) (s.fenceMask (h / 4) H.ctx sc) flies seen near
      rw [fenceOut_waits _ _ named scope' rel (lvl.symm ▸ waits)]
      rfl
    · have lvl : s.fenceLevel (h / 4) H.ctx sc = 3 := by rw [pod]; rfl
      have waits := relWaits_pod (src := .hart h) (s.fenceMask (h / 4) H.ctx sc) flies seen
      rw [fenceOut_waits _ _ named scope' rel (lvl.symm ▸ waits)]
      rfl
  case illegal =>
    rw [← fenceScope_iff, Bool.not_eq_true] at bad
    rw [exec_xfence goes, fenceOut_illegal _ _ bad]
    rfl
  case set =>
    intro ok
    have formed : ok ↔ capRefused lo hi = false := capFormed_iff (H.xr_lt f.b.toNat)
    rw [exec_xcapset goes]
    refine ⟨fun good sorted => ⟨{ H with caps := H.caps.put 0 i.toNat (capWord (s.feat 13) lo hi) }, ?_, fun k => ?_, rfl⟩,
      fun bad => ?_⟩
    · rw [if_neg (Bool.eq_false_iff.mp (formed.mp good))]
      rfl
    · have rising := Sparse.sorted_of_canonical sorted
      by_cases named : k = i.toNat
      · subst named
        rw [if_pos rfl]
        simp only [Hart.cap, Sparse.get_put_same rising, capWord, Nat.mul_comm]
      · have kept := Sparse.get_put_other (d := 0) rising (capWord (s.feat 13) lo hi) named
        rw [if_neg named]
        exact kept
    · rw [formed, Bool.not_eq_false] at bad
      rw [if_pos bad]
      rfl
  case clear =>
    refine ⟨_, exec_xcapclr goes, rfl, fun k small => ?_⟩
    have cleared := get_clearCaps lo (Sparse.sorted_of_canonical sorted) 16 k
    simp only [small, true_and, bitOf_eq_testBit] at cleared
    exact cleared
  case replay =>
    rw [exec_xcpyr goes]
    exact ⟨fun held => by rw [if_pos held]; rfl, fun gone => by rw [if_neg (Bool.eq_false_iff.mp gone)]; rfl⟩

/-- Settles O44: each word by its operands, and what it finds. -/
theorem hartCallsFencesAndCapabilities : Obligations.HartCallsFencesAndCapabilities :=
  ⟨xcqpopTakesTheOldestCall, fencesCapabilitiesAndReplays⟩

end Sys2Proof.Machine

namespace Sys2Proof.Machine

open Host (Outcome)

/-! ### XVREG (R325, R408 to R410) -/

/-- What XVREG does with its block, by the block's OP (R408). -/
def State.viewOp (s : State) (ctx : Nat) (r : RegBlock) : XOut :=
  match r.op with
  | 0 => s.register ctx r
  | 1 => s.unregister ctx r
  | 2 => s.retry ctx r
  | _ => .done s 9 none

theorem exec_xvreg {f : HForm} {i : Instr} {s : State} (word : i = .xvreg f ∨ i = .xvregUnregister f ∨ i = .xvregRetry f)
    (goes : Claims.HartGoes s i) :
    let H := Claims.me s
    exec i s = .next ((s.operand s.focus.hart (H.xr f.a.toNat) 64 64 (fun bs t => t.viewOp H.ctx { w := Claims.wordsOf 8 bs })).after
      s f true) := by
  obtain rfl | rfl | rfl := word
  all_goals exact exec_of_goes goes rfl rfl (viewRegister.eq_def f s)

theorem exec_xvreg_block {f : HForm} {i : Instr} {s t : State} {r : RegBlock}
    (word : i = .xvreg f ∨ i = .xvregUnregister f ∨ i = .xvregRetry f) (goes : Claims.HartGoes s i)
    (block : Claims.regBlock s f = some (r, t)) : exec i s = .next ((t.viewOp (Claims.me s).ctx r).after s f true) := by
  obtain ⟨⟨bs, u⟩, read, same⟩ := Option.map_eq_some_iff.mp block
  cases same
  rw [exec_xvreg word goes, operand_fetched read]

/-! #### A number that the context does not use (R409) -/

theorem freeViewNum_spec {used : List Nat} (room : used.length < 1023) (start : Nat) :
    1 ≤ freeViewNum used start ∧ freeViewNum used start ≤ 1023 ∧ freeViewNum used start ∉ used := by
  have distinct : ((List.range 1023).map (fun k => (start + k) % 1023 + 1)).Nodup :=
    List.nodup_range.map_on fun j hj k hk same => by
      rw [List.mem_range] at hj hk
      omega
  unfold freeViewNum
  generalize chosen : ((List.range 1023).map (fun k => (start + k) % 1023 + 1)).find? (fun n => !used.contains n) = c
  cases c with
  | none =>
    have taken : ((List.range 1023).map (fun k => (start + k) % 1023 + 1)) ⊆ used := fun n hn => by
      simpa using List.find?_eq_none.mp chosen n hn
    have := (distinct.subperm taken).length_le
    simp only [List.length_map, List.length_range] at this
    omega
  | some n =>
    obtain ⟨k, -, rfl⟩ := List.mem_map.mp (List.mem_of_find?_eq_some chosen)
    have unused := List.find?_some chosen
    refine ⟨?_, ?_, by simpa using unused⟩
    · simp
    · simp only [Option.getD_some]
      omega

/-! #### OP 0 (R409) -/

/-- The frames of a view's master, and those of its view and scale areas, which a registration latches (R409). -/
def View.masterFrames (v : View) : List Nat := rowFrames v.master v.mstride (64 * v.ncb * v.mw) (32 * v.nrb)
def View.ownFrames (v : View) : List Nat :=
  ((if v.kind = 3 then [] else rowFrames v.vbase v.vstride v.viewRows.2 v.viewRows.1) ++
    (if v.kind = 0 then rowFrames v.sbase v.sstride (2 * v.ncb) (32 * v.nrb) else [])).eraseDups

/-- The view with its frames latched. -/
def View.latched (v : View) (mf wf : List (Nat × Nat × Nat)) : View := { v with frames := (mf ++ wf).eraseDups }

section
variable {s : State} {ctx : Nat} {r : RegBlock}

theorem register_refused (bad : r.formed = false ∨ s.feat (kindFeature (r.view ctx).kind) = false ∨ s.roomFor (r.view ctx) = false) :
    s.register ctx r = .done s 9 none := by
  by_cases formed : r.formed = true
  · by_cases feature : s.feat (kindFeature (r.view ctx).kind) = true
    · have room : s.roomFor (r.view ctx) = false := by simpa [formed, feature] using bad
      simp only [State.register, formed, feature, room, Bool.not_true, Bool.not_false, Bool.false_eq_true, if_false, if_true]
    · simp only [State.register, formed, feature, Bool.not_true, Bool.not_false, Bool.false_eq_true, if_false, if_true]
  · simp only [State.register, formed, Bool.not_false, if_true]

variable (formed : r.formed = true) (feature : s.feat (kindFeature (r.view ctx).kind) = true) (room : s.roomFor (r.view ctx) = true)
  {mf wf : List (Nat × Nat × Nat)} {t1 t2 : State} (master : s.latch ctx .r (r.view ctx).masterFrames = (some mf, t1))
  (own : t1.latch ctx .w (r.view ctx).ownFrames = (some wf, t2))
include formed feature room master own

theorem register_clashes (clash : t2.clashes ((r.view ctx).latched mf wf) = true) : s.register ctx r = .done t2 9 none := by
  simp only [View.masterFrames, View.ownFrames, View.latched] at master own clash
  simp only [State.register, formed, feature, room, master, own, clash, Bool.not_true, Bool.false_eq_true, if_false, if_true]

theorem register_registers (clear : t2.clashes ((r.view ctx).latched mf wf) = false)
    (few : (t2.views.filter (fun x => x.ctx == ctx)).length < 1023) :
    ∃ num, 1 ≤ num ∧ num ≤ 1023 ∧ (∀ x ∈ t2.views, x.ctx = ctx → x.num ≠ num) ∧
      s.register ctx r = .done (({ t2 with free := t2.free + 1, views := t2.views ++ [{ (r.view ctx).latched mf wf with num := num }] } :
        State).firstVersions t2.views.length (List.range (r.view ctx).nb)) 0 (some num) := by
  have short : ((t2.views.filter (fun x => x.ctx == ctx)).map (fun x => x.num)).length < 1023 := by simpa using few
  obtain ⟨least, most, unused⟩ := freeViewNum_spec short (Config.freeNat t2.free)
  refine ⟨_, least, most, fun x hx mine same => unused ?_, ?_⟩
  · rw [← same]
    exact List.mem_map.mpr ⟨x, List.mem_filter.mpr ⟨hx, by simp [mine]⟩, rfl⟩
  · simp only [View.masterFrames, View.ownFrames, View.latched] at master own clear
    simp only [State.register, formed, feature, room, master, own, clear, Bool.not_true, Bool.false_eq_true, if_false, State.draw,
      View.latched]
    generalize freeViewNum _ _ = num
    rfl

end

/-! #### OP 1 and OP 2 (R410) -/

section
variable {s : State} {ctx : Nat} {r : RegBlock}

theorem unregister_unknown (unknown : posOf (fun (v : View) => v.ctx == ctx && v.num == r.word 0 % 2 ^ 10) s.views = none) :
    s.unregister ctx r = .done s 9 none := by
  simp only [State.unregister, unknown]

variable {k : Nat} {v : View} (found : posOf (fun (v : View) => v.ctx == ctx && v.num == r.word 0 % 2 ^ 10) s.views = some k)
  (here : s.views[k]? = some v)
include found here

theorem unregister_ends (idle : v.blocks.any (fun b => b.2.running.isSome) = false) : s.unregister ctx r =
    .done ((if v.kind = 3 then s else (List.range v.nb).foldl (fun t b => t.settleBlock v b) s).dropView k) 0
      (some (r.word 0 % 2 ^ 10)) := by
  simp only [State.unregister, found, here, idle, Bool.false_eq_true, if_false]

variable (one : fieldOf (r.word 0) 39 10 ≠ 2 ^ 30 - 1)
include one

theorem retry_beyond (beyond : v.nb ≤ fieldOf (r.word 0) 39 10) : s.retry ctx r = .done s 9 none := by
  simp only [State.retry, found, here, if_neg one, if_pos beyond]

theorem retry_block (within : fieldOf (r.word 0) 39 10 < v.nb) : s.retry ctx r =
    .done (s.modBlock k (fieldOf (r.word 0) 39 10) (fun x => { x with pending := true })) 0 (some (r.word 0 % 2 ^ 10)) := by
  simp only [State.retry, found, here, if_neg one, if_neg (not_le.mpr within)]

end

/-- Settles O21: the block is read, and its OP does what R409 and R410 say. -/
theorem xvregRegistersEndsAndRetries : Obligations.XvregRegistersEndsAndRetries := by
  intro f i s t r word goes block ctx n
  have course := exec_xvreg_block word goes block
  refine ⟨fun op => ?register, fun op => ?unregister, fun op k v found here => ?retry⟩
  case register =>
    have run : t.viewOp ctx r = t.register ctx r := by simp only [State.viewOp, op]
    rw [course, run]
    refine ⟨fun bad => ?_, fun formed feature room mf wf t1 t2 master own => ⟨fun clash => ?_, fun clear few => ?_⟩⟩
    · rw [register_refused bad]
      rfl
    · rw [register_clashes formed feature room master own clash]
      rfl
    · obtain ⟨num, least, most, unused, registered⟩ := register_registers formed feature room master own clear few
      exact ⟨num, least, most, unused, by rw [registered]; rfl⟩
  case unregister =>
    have run : t.viewOp ctx r = t.unregister ctx r := by simp only [State.viewOp, op]
    rw [course, run]
    refine ⟨fun unknown => ?_, fun k v found here idle => ?_⟩
    · rw [unregister_unknown unknown]
      rfl
    · rw [unregister_ends found here idle]
      rfl
  case retry =>
    have run : t.viewOp ctx r = t.retry ctx r := by simp only [State.viewOp, op]
    rw [course, run]
    refine ⟨fun within one => ?_, fun beyond one => ?_⟩
    · rw [retry_block found here one within]
      rfl
    · rw [retry_beyond found here one beyond]
      rfl

end Sys2Proof.Machine

namespace Sys2Proof.Machine

open Host (Outcome)

/-! ### The standard accesses of the harts (R297 to R299, R306, R370, R385) -/

/-! #### Accesses that release (R370, R417) -/

/-- The access is a release at PKG: an AMO, LR or SC with rl, or a FENCE with W before it (R370). -/
def accessReleases (op v : Nat) : Bool :=
  if op % 32 = 19 then bitOf v 4 else decide (4 ≤ op % 32 ∧ op % 32 ≤ 14) && bitOf op 6

/-- The state in which an access begins: one that releases has brought home what the party has written (R417). -/
def State.beginAccess (s : State) (h op v : Nat) : State :=
  if accessReleases op v then s.homeward (hartSeer h (s.hart h).ctx) else s

theorem accessReleases_plain {op : Nat} (kind : op % 32 < 4) (v : Nat) : accessReleases op v = false := by
  have fence : op % 32 ≠ 19 := by omega
  have atomic : ¬ (4 ≤ op % 32 ∧ op % 32 ≤ 14) := by omega
  simp [accessReleases, fence, atomic]

theorem beginAccess_plain {op : Nat} (kind : op % 32 < 4) (s : State) (h v : Nat) : s.beginAccess h op v = s := by
  rw [State.beginAccess, accessReleases_plain kind, if_neg Bool.false_ne_true]

/-- What an access that releases waits for, by its kind (R370). -/
theorem accessFree_iff (op v : Nat) (waits : Bool) : (accessReleases op v && waits) = false ↔
    (4 ≤ op % 32 ∧ op % 32 ≤ 14 → bitOf op 6 = false ∨ waits = false) ∧
    (op % 32 = 19 → bitOf v 4 = false ∨ waits = false) := by
  rw [Bool.and_eq_false_iff]
  by_cases fence : op % 32 = 19
  · simp [accessReleases, fence]
  · by_cases atomic : 4 ≤ op % 32 ∧ op % 32 ≤ 14 <;> simp [accessReleases, fence, atomic]

/-! #### Each kind of access (R306) -/

/-- An access that is neither a fetch nor a load or store. -/
theorem access_above {k : Nat} (above : 4 ≤ k) : ¬ k = 0 ∧ (decide (k = 1) || decide (k = 2)) = false ∧ ¬ k = 3 := by
  refine ⟨by omega, ?_, by omega⟩
  rw [Bool.or_eq_false_iff, decide_eq_false_iff_not, decide_eq_false_iff_not]
  omega

section
variable {s : State} {h op va n v rd : Nat}

theorem execHartMemoryAccess_waits (held : (accessReleases op v && s.hartRelWaits h 2) = true) :
    execHartMemoryAccess h op va n v rd s = .next s := by
  simp only [accessReleases, Bool.decide_and] at held
  simp only [execHartMemoryAccess, held, Bool.or_true, if_true]

variable (hh : h < 4096) (runs : (s.hart h).run = .run) (free : (accessReleases op v && s.hartRelWaits h 2) = false)
include hh runs free

/-- The model's check that an access may begin, and the state in which it does. -/
theorem access_begins : ((s.hart h).run != .run || decide (4096 ≤ h) || ((if op % 32 = 19 then bitOf v 4
      else decide (4 ≤ op % 32) && decide (op % 32 ≤ 14) && bitOf op 6) && s.hartRelWaits h 2)) = false ∧
    (if (if op % 32 = 19 then bitOf v 4 else decide (4 ≤ op % 32) && decide (op % 32 ≤ 14) && bitOf op 6) = true then
      s.homeward (hartSeer h (s.hart h).ctx) else s) = s.beginAccess h op v := by
  simp only [State.beginAccess, accessReleases, Bool.decide_and] at free ⊢
  simp [runs, hh, free]

section
variable (kind : op % 32 = 0) (size : n ∈ [2, 4]) {t : State}
include kind size

theorem execHartMemoryAccess_fetch_fails {e : HFault} (access : (s.beginAccess h op v).hartAccess h hFetch va n = (.error e, t)) :
    execHartMemoryAccess h op va n v rd s = .next (t.hartFault h hFetch e) := by
  obtain ⟨go, begun⟩ := access_begins hh runs free
  have sized : (decide (n ≠ 2) && decide (n ≠ 4)) = false := by simpa [or_iff_not_imp_left] using size
  simp only [execHartMemoryAccess, go, begun, Bool.false_eq_true, if_false, if_pos kind, sized, access]

theorem execHartMemoryAccess_fetch_passes {ps : List Piece} (access : (s.beginAccess h op v).hartAccess h hFetch va n = (.ok ps, t)) :
    execHartMemoryAccess h op va n v rd s = .next t := by
  obtain ⟨go, begun⟩ := access_begins hh runs free
  have sized : (decide (n ≠ 2) && decide (n ≠ 4)) = false := by simpa [or_iff_not_imp_left] using size
  simp only [execHartMemoryAccess, go, begun, Bool.false_eq_true, if_false, if_pos kind, sized, access]

end

theorem execHartMemoryAccess_load (kind : op % 32 = 1 ∨ op % 32 = 2) (size : n ∈ [1, 2, 4, 8]) :
    execHartMemoryAccess h op va n v rd s = .next ((s.beginAccess h op v).hartLoad h va n rd (op % 32 == 2)) := by
  obtain ⟨go, begun⟩ := access_begins hh runs free
  have data : ¬ op % 32 = 0 := by omega
  have load : (decide (op % 32 = 1) || decide (op % 32 = 2)) = true := by simpa using kind
  have sized : (decide (n = 1) || decide (n = 2) || decide (n = 4) || decide (n = 8)) = true := by simpa [or_assoc] using size
  simp only [execHartMemoryAccess, go, begun, Bool.false_eq_true, if_false, if_neg data, load, sized, if_true]

theorem execHartMemoryAccess_store (kind : op % 32 = 3) (size : n ∈ [1, 2, 4, 8]) :
    execHartMemoryAccess h op va n v rd s = .next ((s.beginAccess h op v).hartStore h va n v) := by
  obtain ⟨go, begun⟩ := access_begins hh runs free
  have data : ¬ op % 32 = 0 := by omega
  have store : (decide (op % 32 = 1) || decide (op % 32 = 2)) = false := by simp [kind]
  have sized : (decide (n = 1) || decide (n = 2) || decide (n = 4) || decide (n = 8)) = true := by simpa [or_assoc] using size
  simp only [execHartMemoryAccess, go, begun, Bool.false_eq_true, if_false, if_neg data, store, if_pos kind, sized, if_true]

section
variable (above : 4 ≤ op % 32)
include above

section
variable (atomic : op % 32 ≤ 14) (size : n ∈ [4, 8])
include atomic size

theorem execHartMemoryAccess_misaligned (bad : va % n ≠ 0) : execHartMemoryAccess h op va n v rd s =
    .next ((s.beginAccess h op v).modHart h (fun H => H.trap (if op % 32 = 13 then 4 else 6) va)) := by
  obtain ⟨go, begun⟩ := access_begins hh runs free
  obtain ⟨k0, k12, k3⟩ := access_above above
  have sized : (decide (n ≠ 4) && decide (n ≠ 8)) = false := by simpa [or_iff_not_imp_left] using size
  simp only [execHartMemoryAccess, go, begun, Bool.false_eq_true, if_false, if_neg k0, k12, if_neg k3, if_pos atomic, sized, if_pos bad]

theorem execHartMemoryAccess_atomic (aligned : va % n = 0) :
    execHartMemoryAccess h op va n v rd s = .next ((s.beginAccess h op v).hartAmo h (op % 32) va n v rd) := by
  obtain ⟨go, begun⟩ := access_begins hh runs free
  obtain ⟨k0, k12, k3⟩ := access_above above
  have sized : (decide (n ≠ 4) && decide (n ≠ 8)) = false := by simpa [or_iff_not_imp_left] using size
  simp only [execHartMemoryAccess, go, begun, Bool.false_eq_true, if_false, if_neg k0, k12, if_neg k3, if_pos atomic, sized,
    if_neg (not_not.mpr aligned)]

end

section
variable (low : 15 ≤ op % 32) (high : op % 32 ≤ 18)
include low high

theorem execHartMemoryAccess_block_illegal (illegal : (s.hart h).cboLegal (op % 32) = false) :
    execHartMemoryAccess h op va n v rd s = .next ((s.beginAccess h op v).modHart h (fun H => H.trap 2 0)) := by
  obtain ⟨go, begun⟩ := access_begins hh runs free
  obtain ⟨k0, k12, k3⟩ := access_above above
  have block : ¬ op % 32 ≤ 14 := by omega
  simp only [execHartMemoryAccess, go, begun, Bool.false_eq_true, if_false, if_neg k0, k12, if_neg k3, if_neg block, if_pos high, illegal]

theorem execHartMemoryAccess_block (legal : (s.hart h).cboLegal (op % 32) = true) :
    execHartMemoryAccess h op va n v rd s = .next ((s.beginAccess h op v).hartCbo h (op % 32) va) := by
  obtain ⟨go, begun⟩ := access_begins hh runs free
  obtain ⟨k0, k12, k3⟩ := access_above above
  have block : ¬ op % 32 ≤ 14 := by omega
  simp only [execHartMemoryAccess, go, begun, Bool.false_eq_true, if_false, if_neg k0, k12, if_neg k3, if_neg block, if_pos high, legal,
    if_true]

end

theorem execHartMemoryAccess_fence (kind : op % 32 = 19) :
    execHartMemoryAccess h op va n v rd s = .next ((s.beginAccess h op v).hartDone h 4 0 none) := by
  obtain ⟨go, begun⟩ := access_begins hh runs free
  obtain ⟨k0, k12, k3⟩ := access_above above
  have fence : ¬ op % 32 ≤ 14 ∧ ¬ op % 32 ≤ 18 := by omega
  simp only [execHartMemoryAccess, go, begun, Bool.false_eq_true, if_false, if_neg k0, k12, if_neg k3, if_neg fence.1, if_neg fence.2]
  rw [if_pos kind]

end
end

/-! #### What an access comes to -/

/-- A load or store is 2 or 4 bytes long, as the device draws it (log 33). -/
theorem stdLen_eq (s : State) : ∃ len, (len = 2 ∨ len = 4) ∧ s.stdLen = (len, { s with free := s.free + 1 }) := by
  by_cases even : Config.freeNat s.free % 2 = 0
  · exact ⟨4, .inr rfl, by simp only [State.stdLen, State.draw, even, reduceIte]⟩
  · exact ⟨2, .inl rfl, by simp only [State.stdLen, State.draw, even, reduceIte]⟩

theorem hartDone_value (s : State) (h len rd v : Nat) : s.hartDone h len rd (some v) = Claims.went s h rd v len := rfl
theorem hartDone_none (s : State) (h len rd : Nat) : s.hartDone h len rd none = Claims.went s h 0 0 len := rfl

section
variable {s t u : State} {h va n rd : Nat} {e : HFault} {ps : List Piece} {bs : List Byte}

section
variable {need : HNeed} {flash : Bool} {f : List Byte → List Piece → State → Option State}

theorem hartThen_fails (access : s.hartAccess h need va n flash = (.error e, t)) :
    s.hartThen h need va n flash f = t.hartFault h need e := by
  simp only [State.hartThen, access]

theorem hartThen_reads (access : s.hartAccess h need va n flash = (.ok ps, t)) (read : t.hartRead h ps = .ok bs u) :
    s.hartThen h need va n flash f = (f bs ps u).getD (s.wantAll ps) := by
  simp only [State.hartThen, access, read]

end

section
variable {sx : Bool}

theorem hartLoad_fails (access : s.hartAccess h hLoad va n (s.mayFlash h) = (.error e, t)) :
    s.hartLoad h va n rd sx = t.hartFault h hLoad e := hartThen_fails access

theorem hartLoad_reads (access : s.hartAccess h hLoad va n (s.mayFlash h) = (.ok ps, t)) (read : t.hartRead h ps = .ok bs u) :
    ∃ len, (len = 2 ∨ len = 4) ∧
      s.hartLoad h va n rd sx = Claims.went { u with free := u.free + 1 } h rd (hartExtend sx n (ofLE bs)) len := by
  obtain ⟨len, either, drawn⟩ := stdLen_eq u
  refine ⟨len, either, (hartThen_reads access read).trans ?_⟩
  simp only [drawn, Option.getD_some, hartDone_value]

end

section
variable {v : Nat}

theorem hartStore_fails (access : s.hartAccess h hStore va n (s.mayFlash h) = (.error e, t)) :
    s.hartStore h va n v = t.hartFault h hStore e := by
  simp only [State.hartStore, access]

variable (access : s.hartAccess h hStore va n (s.mayFlash h) = (.ok ps, t))
include access

theorem hartStore_waits (held : t.hartWrite h ps (toLE n v) = none) : s.hartStore h va n v = s.wantAll ps := by
  simp only [State.hartStore, access, held]

theorem hartStore_writes (written : t.hartWrite h ps (toLE n v) = some u) : ∃ len, (len = 2 ∨ len = 4) ∧
    s.hartStore h va n v = Claims.went { u with free := u.free + 1 } h 0 0 len := by
  obtain ⟨len, either, drawn⟩ := stdLen_eq u
  exact ⟨len, either, by simp only [State.hartStore, access, written, drawn, hartDone_none]⟩

end

/-! ##### AMO, LR and SC -/

section
variable {op v : Nat}

theorem hartAmo_fails (access : s.hartAccess h (if op = 13 then hLr else hBoth) va n = (.error e, t)) :
    s.hartAmo h op va n v rd = t.hartFault h (if op = 13 then hLr else hBoth) e := hartThen_fails access

theorem hartAmo_swaps (kind : op ≤ 12) (access : s.hartAccess h hBoth va n = (.ok ps, t)) (read : t.hartRead h ps = .ok bs u)
    {w : State} (written : u.hartWrite h ps (toLE n (amoNew op (8 * n) (ofLE bs) v)) = some w) :
    s.hartAmo h op va n v rd = Claims.went w h rd (hartExtend true n (ofLE bs)) 4 := by
  have other : op ≠ 13 ∧ op ≠ 14 := by omega
  rw [← if_neg (c := op = 13) (t := hLr) (e := hBoth) other.1] at access
  refine (hartThen_reads access read).trans ?_
  simp only [if_neg other.1, if_neg other.2, written, Option.map_some, Option.getD_some, hartDone_value]

variable {p : Piece} {r : List Piece}

theorem hartAmo_reserves (access : s.hartAccess h hLr va n = (.ok (p :: r), t)) (read : t.hartRead h (p :: r) = .ok bs u) :
    s.hartAmo h 13 va n v rd =
      Claims.went (u.modHart h (fun H => { H with resv := some p.pa })) h rd (hartExtend true n (ofLE bs)) 4 :=
  hartThen_reads (f := fun _ _ _ => some _) access read

section
variable (access : s.hartAccess h hBoth va n = (.ok (p :: r), t)) (read : t.hartRead h (p :: r) = .ok bs u)
include access read

theorem hartAmo_conditional_fails (kind : op = 14) (gone : ¬ ((u.hart h).resv = some p.pa ∧ u.draw.1 % 2 = 0)) :
    s.hartAmo h op va n v rd =
      Claims.went (({ u with free := u.free + 1 } : State).modHart h (fun H => { H with resv := none })) h rd 1 4 := by
  subst kind
  have fails : (decide ((u.draw.2.hart h).resv = some p.pa) && decide (u.draw.1 % 2 = 0)) = false := by
    rw [← Bool.decide_and, decide_eq_false_iff_not]
    exact gone
  refine (hartThen_reads access read).trans ?_
  simp only [Nat.reduceEqDiff, if_false, if_true, List.map_cons, List.headD_cons, fails, Bool.false_eq_true, Option.getD_some,
    hartDone_value]
  rfl

theorem hartAmo_conditional_writes (kind : op = 14) (held : (u.hart h).resv = some p.pa ∧ u.draw.1 % 2 = 0) {w : State}
    (written : u.draw.2.hartWrite h (p :: r) (toLE n v) = some w) :
    s.hartAmo h op va n v rd = Claims.went (w.modHart h (fun H => { H with resv := none })) h rd 0 4 := by
  subst kind
  have holds : (decide ((u.draw.2.hart h).resv = some p.pa) && decide (u.draw.1 % 2 = 0)) = true := by
    rw [← Bool.decide_and, decide_eq_true_iff]
    exact held
  refine (hartThen_reads access read).trans ?_
  simp only [Nat.reduceEqDiff, if_false, if_true, List.map_cons, List.headD_cons, holds, written, Option.map_some, Option.getD_some,
    hartDone_value]

end
end

/-! ##### Cache-block words -/

section
variable {op : Nat}

theorem hartCbo_fails (access : s.hartAccess h (if op = 15 then hStore else hCbo) (va / (if op = 15 then 64 else 128) *
      (if op = 15 then 64 else 128)) (if op = 15 then 64 else 128) = (.error e, t)) :
    s.hartCbo h op va = t.hartFault h (if op = 15 then hStore else hCbo) { e with va := va } := by
  simp only [State.hartCbo, access]

theorem hartCbo_acts (access : s.hartAccess h (if op = 15 then hStore else hCbo) (va / (if op = 15 then 64 else 128) *
      (if op = 15 then 64 else 128)) (if op = 15 then 64 else 128) = (.ok ps, t))
    (done : (if op = 15 then t.hartWrite h ps (toLE 64 0) else t.hartClean h op ps) = some u) :
    s.hartCbo h op va = Claims.went u h 0 0 4 := by
  simp only [State.hartCbo, access, done, hartDone_none]

end
end

/-! #### The standard accesses (R306) -/

section
variable {k va n : Nat}

/-- Only a load or store reaches the flash tier (R385). -/
def flashReach (s : State) (h k : Nat) : Bool := if 1 ≤ k ∧ k ≤ 3 then s.mayFlash h else false

theorem flashReach_data {s : State} {h : Nat} (low : 1 ≤ k) (high : k ≤ 3) : flashReach s h k = s.mayFlash h := if_pos ⟨low, high⟩

theorem flashReach_other {s : State} {h : Nat} (other : 4 ≤ k) : flashReach s h k = false := if_neg (by omega)

theorem sized_fetch (sized : Claims.sized k va n) (kind : k = 0) : n ∈ [2, 4] := by
  obtain ⟨-, size⟩ | ⟨low, -⟩ | ⟨low, -⟩ := sized
  · exact size
  all_goals omega

theorem sized_data (sized : Claims.sized k va n) (low : 1 ≤ k) (high : k ≤ 3) : n ∈ [1, 2, 4, 8] := by
  obtain ⟨zero, -⟩ | ⟨-, -, size⟩ | ⟨low, -⟩ := sized
  · omega
  · exact size
  · omega

theorem sized_atomic (sized : Claims.sized k va n) (low : 4 ≤ k) : k ≤ 14 ∧ n ∈ [4, 8] ∧ va % n = 0 := by
  obtain ⟨zero, -⟩ | ⟨-, high, -⟩ | ⟨-, rest⟩ := sized
  · omega
  · omega
  · exact rest

theorem need_load (kind : k = 1 ∨ k = 2) : Claims.need k = hLoad := by
  obtain rfl | rfl := kind <;> rfl

theorem need_atomic (low : 4 ≤ k) : Claims.need k = if k = 13 then hLr else hBoth := by
  have above : ¬ k = 0 ∧ ¬ k ≤ 2 ∧ ¬ k = 3 := by omega
  simp only [Claims.need, if_neg above.1, if_neg above.2.1, if_neg above.2.2]

end

section
variable {h op va n v rd : Nat} {s t : State} (hh : h < 4096) (runs : (s.hart h).run = .run)
  (free : (accessReleases op v && s.hartRelWaits h 2) = false)
include hh runs free

variable (sized : Claims.sized (op % 32) va n)
include sized

/-- An access that fails raises its exception. -/
theorem access_fails {e : HFault}
    (access : (s.beginAccess h op v).hartAccess h (Claims.need (op % 32)) va n (flashReach s h (op % 32)) = (.error e, t)) :
    execHartMemoryAccess h op va n v rd s = .next (t.hartFault h (Claims.need (op % 32)) e) := by
  obtain kind | kind | kind | low : op % 32 = 0 ∨ (op % 32 = 1 ∨ op % 32 = 2) ∨ op % 32 = 3 ∨ 4 ≤ op % 32 := by omega
  · simp only [kind] at access ⊢
    exact execHartMemoryAccess_fetch_fails hh runs free kind (sized_fetch sized kind) access
  · have begun := beginAccess_plain (show op % 32 < 4 by omega) s h v
    rw [need_load kind, flashReach_data (by omega) (by omega), begun] at access
    rw [need_load kind, execHartMemoryAccess_load hh runs free kind (sized_data sized (by omega) (by omega)), begun,
      hartLoad_fails access]
  · have begun := beginAccess_plain (show op % 32 < 4 by omega) s h v
    simp only [kind, begun] at access ⊢
    rw [execHartMemoryAccess_store hh runs free kind (sized_data sized (by omega) (by omega)), begun, hartStore_fails access]
    rfl
  · obtain ⟨high, size, aligned⟩ := sized_atomic sized low
    rw [need_atomic low, flashReach_other low] at access
    rw [need_atomic low, execHartMemoryAccess_atomic hh runs free low high size aligned, hartAmo_fails access]

variable {ps : List Piece}
  (access : (s.beginAccess h op v).hartAccess h (Claims.need (op % 32)) va n (flashReach s h (op % 32)) = (.ok ps, t))
include access

theorem access_fetches (kind : op % 32 = 0) : execHartMemoryAccess h op va n v rd s = .next t := by
  simp only [kind] at access
  exact execHartMemoryAccess_fetch_passes hh runs free kind (sized_fetch sized kind) access

theorem access_loads (kind : op % 32 = 1 ∨ op % 32 = 2) {bs : List Byte} {u : State} (read : t.hartRead h ps = .ok bs u) :
    ∃ len, (len = 2 ∨ len = 4) ∧ execHartMemoryAccess h op va n v rd s =
      .next (Claims.went { u with free := u.free + 1 } h rd (hartExtend (op % 32 == 2) n (ofLE bs)) len) := by
  have begun := beginAccess_plain (show op % 32 < 4 by omega) s h v
  rw [need_load kind, flashReach_data (by omega) (by omega), begun] at access
  obtain ⟨len, either, loaded⟩ := hartLoad_reads (rd := rd) (sx := op % 32 == 2) access read
  refine ⟨len, either, ?_⟩
  rw [execHartMemoryAccess_load hh runs free kind (sized_data sized (by omega) (by omega)), begun, loaded]

section
variable (kind : op % 32 = 3)
include kind

/-- A store's access as HART_MEMORY_ACCESS makes it. -/
theorem access_store : s.hartAccess h hStore va n (s.mayFlash h) = (.ok ps, t) ∧
    execHartMemoryAccess h op va n v rd s = .next (s.hartStore h va n v) := by
  have begun := beginAccess_plain (show op % 32 < 4 by omega) s h v
  simp only [kind, begun] at access
  exact ⟨access, by rw [execHartMemoryAccess_store hh runs free kind (sized_data sized (by omega) (by omega)), begun]⟩

theorem access_stores {u : State} (written : t.hartWrite h ps (toLE n v) = some u) : ∃ len, (len = 2 ∨ len = 4) ∧
    execHartMemoryAccess h op va n v rd s = .next (Claims.went { u with free := u.free + 1 } h 0 0 len) := by
  obtain ⟨passed, run⟩ := access_store (rd := rd) hh runs free sized access kind
  obtain ⟨len, either, stored⟩ := hartStore_writes passed written
  exact ⟨len, either, by rw [run, stored]⟩

theorem access_store_waits (held : t.hartWrite h ps (toLE n v) = none) :
    execHartMemoryAccess h op va n v rd s = .next ((s.beginAccess h op v).wantAll ps) := by
  obtain ⟨passed, run⟩ := access_store (rd := rd) hh runs free sized access kind
  rw [run, hartStore_waits passed held, beginAccess_plain (by omega)]

end

section
variable {bs : List Byte} {u : State} (read : t.hartRead h ps = .ok bs u)
include read

theorem access_swaps (low : 4 ≤ op % 32) (high : op % 32 ≤ 12) {w : State}
    (written : u.hartWrite h ps (toLE n (amoNew (op % 32) (8 * n) (ofLE bs) v)) = some w) :
    execHartMemoryAccess h op va n v rd s = .next (Claims.went w h rd (hartExtend true n (ofLE bs)) 4) := by
  obtain ⟨top, size, aligned⟩ := sized_atomic sized low
  rw [need_atomic low, if_neg (by omega), flashReach_other low] at access
  rw [execHartMemoryAccess_atomic hh runs free low top size aligned, hartAmo_swaps high access read written]

end

section
variable {p : Piece} {r : List Piece} (first : ps = p :: r) {bs : List Byte} {u : State} (read : t.hartRead h ps = .ok bs u)
include first read

theorem access_reserves (kind : op % 32 = 13) : execHartMemoryAccess h op va n v rd s =
    .next (Claims.went (u.modHart h (fun H => { H with resv := some p.pa })) h rd (hartExtend true n (ofLE bs)) 4) := by
  subst first
  have low : 4 ≤ op % 32 := by omega
  obtain ⟨top, size, aligned⟩ := sized_atomic sized low
  rw [need_atomic low, if_pos kind, flashReach_other low] at access
  rw [execHartMemoryAccess_atomic hh runs free low top size aligned, kind, hartAmo_reserves access read]

/-- SC without its reservation fails; with it, it fails or writes, by a draw of the device. -/
theorem access_conditional (kind : op % 32 = 14) :
    let fails := Claims.went (({ u with free := u.free + 1 } : State).modHart h (fun H => { H with resv := none })) h rd 1 4
    ((u.hart h).resv ≠ some p.pa → execHartMemoryAccess h op va n v rd s = .next fails) ∧
    ((u.hart h).resv = some p.pa → ∀ w, ({ u with free := u.free + 1 } : State).hartWrite h ps (toLE n v) = some w →
      execHartMemoryAccess h op va n v rd s = .next fails ∨ execHartMemoryAccess h op va n v rd s =
        .next (Claims.went (w.modHart h (fun H => { H with resv := none })) h rd 0 4)) := by
  subst first
  have low : 4 ≤ op % 32 := by omega
  obtain ⟨top, size, aligned⟩ := sized_atomic sized low
  rw [need_atomic low, if_neg (by omega), flashReach_other low] at access
  rw [execHartMemoryAccess_atomic hh runs free low top size aligned]
  refine ⟨fun gone => ?_, fun held w written => ?_⟩
  · rw [hartAmo_conditional_fails access read kind (fun c => gone c.1)]
  · by_cases even : u.draw.1 % 2 = 0
    · exact .inr (by rw [hartAmo_conditional_writes access read kind ⟨held, even⟩ written])
    · exact .inl (by rw [hartAmo_conditional_fails access read kind (fun c => even c.2)])

end

end

theorem hartAccessesComplete : Claims.HartAccessesComplete := by
  intro h op va n v rd s hh runs ev k fl free
  have begins : free ↔ (accessReleases op v && s.hartRelWaits h 2) = false := (accessFree_iff op v _).symm
  rw [begins]
  refine ⟨fun held => execHartMemoryAccess_waits (Bool.eq_true_of_not_eq_false held), fun free => ?_⟩
  refine ⟨fun e t sized access => access_fails hh runs free sized access, fun ps t sized access => ?passes,
    fun low high size bad => execHartMemoryAccess_misaligned hh runs free low high (by simpa using size) bad,
    fun low high => ⟨execHartMemoryAccess_block_illegal hh runs free (by omega) low high, fun legal => ?block⟩,
    fun kind => execHartMemoryAccess_fence hh runs free (by omega) kind⟩
  case passes =>
    exact ⟨access_fetches hh runs free sized access, fun bs u kind => access_loads hh runs free sized access kind,
      fun u kind => access_stores hh runs free sized access kind, access_store_waits hh runs free sized access,
      fun low high bs u w read => access_swaps hh runs free sized access read low high,
      fun kind p r bs u first read => access_reserves hh runs free sized access first read kind,
      fun kind p r bs u first read => access_conditional hh runs free sized access first read kind⟩
  case block =>
    have run := execHartMemoryAccess_block (va := va) (n := n) (rd := rd) hh runs free (show 4 ≤ op % 32 by omega) low high legal
    exact ⟨fun e t access => run.trans (congrArg Outcome.next (hartCbo_fails access)), fun ps t u access =>
      ⟨fun kind written => run.trans (congrArg Outcome.next (hartCbo_acts access ((if_pos kind).trans written))),
       fun kind cleaned => run.trans (congrArg Outcome.next (hartCbo_acts access ((if_neg kind).trans cleaned)))⟩⟩

end Sys2Proof.Machine

namespace Sys2Proof.Machine

open Host (Outcome)

/-! ### Accesses of the harts to the flash tier (R298, R385) -/

/-! #### The pieces of an access -/

theorem cutRun_head {n : Nat} (pos : 0 < n) (k a : Nat) : ∃ m r, cutRun (k + 1) a n = (a, m) :: r := by
  rw [cutRun, if_neg pos.ne']
  exact ⟨_, _, rfl⟩

/-- Translation keeps the pieces of an access: their virtual addresses and lengths. -/
theorem hartPieces_ok {s t : State} {h : Nat} {H : Hart} {need : HNeed} {l : List (Nat × Nat)} {ps : List Piece}
    (found : s.hartPieces h H need l = (.ok ps, t)) : ps.map (fun p => (p.va, p.n)) = l := by
  induction l generalizing s ps t with
  | nil =>
    cases found
    rfl
  | cons e l ih =>
    obtain ⟨va, k⟩ := e
    simp only [State.hartPieces] at found
    split at found
    · cases found
    · split at found
      · cases found
      · rename_i rest
        cases found
        rw [List.map_cons, ih rest]

/-- The checks keep the pieces: their physical addresses and lengths. -/
theorem checkPieces_ok {H : Hart} {caps flash : Bool} {need : HNeed} {prev : Option (Nat × Nat)} {ps qs : List Piece}
    (passed : H.checkPieces caps flash need prev ps = .ok qs) : qs.map (fun p => (p.pa, p.n)) = ps.map (fun p => (p.pa, p.n)) := by
  induction ps generalizing prev qs with
  | nil =>
    cases passed
    rfl
  | cons p ps ih =>
    have go : ∀ {key : Nat} {rest : Except HFault (List Piece)} {prev' : Option (Nat × Nat)},
        H.checkPieces caps flash need prev' ps = rest → (match rest with
          | .error f => .error f
          | .ok ps => .ok ({ p with key := key } :: ps)) = Except.ok qs →
        qs.map (fun p => (p.pa, p.n)) = (p :: ps).map (fun p => (p.pa, p.n)) := by
      rintro key (f | rest) prev' checked same
      · cases same
      · cases same
        rw [List.map_cons, List.map_cons, ih checked]
    simp only [Hart.checkPieces] at passed
    split at passed
    · cases passed
    · split at passed
      · exact go rfl passed
      · split at passed
        · exact go rfl passed
        · split at passed
          · exact go rfl passed
          · cases passed

theorem checkPieces_refuses {H : Hart} {caps : Bool} {need : HNeed} {p : Piece} {ps : List Piece} (outside : inDram p.pa p.n = false) :
    H.checkPieces caps false need none (p :: ps) = .error { cause := need.accessFault, va := p.va } := by
  simp [Hart.checkPieces, outside]

theorem inDram_of_inFlash {a n : Nat} (flash : inFlash a n = true) : inDram a n = false := by
  simp only [inFlash, inDram, Bool.and_eq_true, decide_eq_true_eq, decide_eq_false_iff_not] at flash ⊢
  omega

theorem inFlash_of_le {a m n : Nat} (flash : inFlash a n = true) (less : m ≤ n) : inFlash a m = true := by
  simp only [inFlash, Bool.and_eq_true, decide_eq_true_eq] at flash ⊢
  omega

section
variable {s t u : State} {h va k : Nat} {need : HNeed} {ps qs : List Piece}

/-- An access that passes has the pieces that its checks gave. -/
theorem hartAccess_ok {flash : Bool} (access : s.hartAccess h need va k flash = (.ok qs, u))
    (found : s.hartPieces h (s.hart h) need (cutRun (k / 128 + 2) va k) = (.ok ps, t)) :
    qs.map (fun p => (p.pa, p.n)) = ps.map (fun p => (p.pa, p.n)) := by
  simp only [State.hartAccess, found] at access
  split at access
  · cases access
  · rename_i checked
    split at access
    · cases access
    · split at access
      · cases access
      · cases access
        exact checkPieces_ok checked

/-- An access to the flash tier by a hart that does not reach it is an access fault at its first piece. -/
theorem hartAccess_refused {p : Piece} {r : List Piece}
    (found : s.hartPieces h (s.hart h) need (cutRun (k / 128 + 2) va k) = (.ok (p :: r), t)) (outside : inDram p.pa p.n = false) :
    s.hartAccess h need va k false = (.error { cause := need.accessFault, va := p.va }, t) := by
  simp only [State.hartAccess, found, checkPieces_refuses outside]

end

/-! #### Reads and writes at the flash controller (R385) -/

section
variable {s : State} {h : Nat} {ps : List Piece} (flash : ∀ p ∈ ps, inFlash p.pa p.n = true)
include flash

theorem hartRead_flash : s.hartRead h ps = .ok (ps.map (fun p => bytesAt s.mem p.pa p.n)).flatten s := by
  induction ps with
  | nil => rfl
  | cons p ps ih =>
    have one : s.hartRead1 h p = .ok (bytesAt s.mem p.pa p.n) s := by
      simp only [State.hartRead1, flash p List.mem_cons_self, if_true]
    simp only [State.hartRead, one, ih (fun q hq => flash q (List.mem_cons_of_mem p hq)), List.map_cons, List.flatten_cons]

theorem hartAdmit_flash : s.hartAdmit h ps = some s := by
  induction ps with
  | nil => rfl
  | cons p ps ih =>
    simp only [State.hartAdmit, flash p List.mem_cons_self, if_true]
    exact ih (fun q hq => flash q (List.mem_cons_of_mem p hq))

theorem hartChunks_flash (bs : List Byte) : ∀ x ∈ hartChunks ps bs, inFlash x.a x.bs.length = true := by
  induction ps generalizing bs with
  | nil => exact fun x hx => absurd hx List.not_mem_nil
  | cons p ps ih =>
    intro x hx
    obtain rfl | hx := List.mem_cons.mp hx
    · exact inFlash_of_le (flash p List.mem_cons_self) (List.length_take_le _ _)
    · exact ih (fun q hq => flash q (List.mem_cons_of_mem p hq)) _ x hx

end

theorem foldl_wrBytes_free (xs : List Chunk1) (s : State) : (xs.foldl (fun t x => t.wrBytes x.a x.bs) s).free = s.free := by
  induction xs generalizing s with
  | nil => rfl
  | cons x xs ih => exact (ih _).trans (State.wrBytes_free s x.a x.bs)

/-- A write of nothing changes nothing. -/
theorem writeAll_nil (s : State) (w : Writer) : s.writeAll w [] = s := by
  have kept : s.hostBack.filter (fun e => !([] : List Nat).contains e.1) = s.hostBack := List.filter_eq_self.mpr fun _ _ => rfl
  change ({ s with hostBack := s.hostBack.filter (fun e => !([] : List Nat).contains e.1) } : State) = s
  rw [kept]

theorem hartWrite_flash {s : State} {h : Nat} {ps : List Piece} (flash : ∀ p ∈ ps, inFlash p.pa p.n = true) (bs : List Byte) :
    s.hartWrite h ps bs = some ((hartChunks ps bs).foldl (fun t x => t.wrBytes x.a x.bs) s) := by
  have there := hartChunks_flash flash bs
  have served : (hartChunks ps bs).filter (fun x => inFlash x.a x.bs.length) = hartChunks ps bs := List.filter_eq_self.mpr there
  have others : (hartChunks ps bs).filter (fun x => !inFlash x.a x.bs.length) = [] :=
    List.filter_eq_nil_iff.mpr fun x hx => by simp [there x hx]
  simp only [State.hartWrite, hartAdmit_flash flash, served, others, writeAll_nil]

/-! #### FLASH_ACCESS (R385) -/

section
variable {h op va n v rd : Nat} {s t : State} {ps : List Piece} (hh : h < 4096) (runs : (s.hart h).run = .run) (size : n ∈ [1, 2, 4, 8])
  (kind : op ∈ [1, 2, 3]) (found : s.hartPieces h (s.hart h) (if op = 3 then hStore else hLoad) (cutRun 2 va n) = (.ok ps, t))
  (flash : ∀ p ∈ ps, inFlash p.pa p.n = true)
include hh runs size kind found flash

/-- An access to the flash tier is a load or store of its hart. -/
theorem execFlashAccess_eq : execFlashAccess h op va n v rd s =
    .next (if op = 3 then s.hartStore h va n v else s.hartLoad h va n rd (op == 2)) := by
  have go : ((s.hart h).run != .run || decide (4096 ≤ h) || !(decide (op = 1) || decide (op = 2) || decide (op = 3)) ||
      !(decide (n = 1) || decide (n = 2) || decide (n = 4) || decide (n = 8))) = false := by
    have kinds : op = 1 ∨ op = 2 ∨ op = 3 := by simpa using kind
    have sizes : n = 1 ∨ n = 2 ∨ n = 4 ∨ n = 8 := by simpa using size
    have op1 : (decide (op = 1) || decide (op = 2) || decide (op = 3)) = true := by simpa [or_assoc] using kinds
    have n1 : (decide (n = 1) || decide (n = 2) || decide (n = 4) || decide (n = 8)) = true := by simpa [or_assoc] using sizes
    simp [runs, hh, op1, n1]
  have all : ps.all (fun p => inFlash p.pa p.n) = true := List.all_eq_true.mpr flash
  simp only [execFlashAccess, go, found, all, Bool.false_eq_true, if_false, if_true]

/-- A hart that does not reach the flash tier takes the access fault. -/
theorem execFlashAccess_refused (bars : s.mayFlash h = false) : execFlashAccess h op va n v rd s =
    .next (t.hartFault h (if op = 3 then hStore else hLoad) { cause := if op = 3 then 7 else 5, va := va }) := by
  have small : n / 128 + 2 = 2 ∧ 0 < n := by
    simp only [List.mem_cons, List.not_mem_nil, or_false] at size
    omega
  obtain ⟨m, r, head⟩ := cutRun_head small.2 1 va
  obtain ⟨p, ps, rfl⟩ : ∃ p ps', ps = p :: ps' := by
    have same := hartPieces_ok found
    rw [head] at same
    exact List.exists_cons_of_ne_nil (fun nil => by simp [nil] at same)
  have first : p.va = va := by
    have same := hartPieces_ok found
    rw [head, List.map_cons] at same
    exact congrArg Prod.fst (List.head_eq_of_cons_eq same)
  have refused := hartAccess_refused (k := n) (by rwa [small.1]) (inDram_of_inFlash (flash p List.mem_cons_self))
  rw [first, ← bars] at refused
  rw [execFlashAccess_eq hh runs size kind found flash]
  by_cases store : op = 3
  · simp only [if_pos store] at refused ⊢
    rw [hartStore_fails refused]
    rfl
  · simp only [if_neg store] at refused ⊢
    rw [hartLoad_fails refused]
    rfl

/-- A hart that reaches the flash tier reads or writes its bytes. -/
theorem execFlashAccess_served (may : s.mayFlash h = true) {qs : List Piece} {u : State}
    (access : s.hartAccess h (if op = 3 then hStore else hLoad) va n true = (.ok qs, u)) : ∃ len, (len = 2 ∨ len = 4) ∧
    execFlashAccess h op va n v rd s = .next (
      if op = 3 then Claims.went { (hartChunks qs (toLE n v)).foldl (fun t x => t.wrBytes x.a x.bs) u with free := u.free + 1 } h 0 0 len
      else Claims.went { u with free := u.free + 1 } h rd
        (hartExtend (op == 2) n (ofLE ((qs.map (fun p => bytesAt u.mem p.pa p.n)).flatten))) len) := by
  have small : n / 128 + 2 = 2 := by
    simp only [List.mem_cons, List.not_mem_nil, or_false] at size
    omega
  have same := hartAccess_ok access (ps := ps) (t := t) (by rwa [small])
  have there : ∀ q ∈ qs, inFlash q.pa q.n = true := fun q hq => by
    obtain ⟨p, hp, eq⟩ := List.mem_map.mp (same ▸ List.mem_map_of_mem hq)
    obtain ⟨pa, len⟩ := Prod.mk.inj eq
    rw [← pa, ← len]
    exact flash p hp
  rw [← may] at access
  rw [execFlashAccess_eq hh runs size kind found flash]
  by_cases store : op = 3
  · simp only [if_pos store] at access ⊢
    obtain ⟨len, either, stored⟩ := hartStore_writes access (hartWrite_flash there _)
    exact ⟨len, either, by rw [stored, foldl_wrBytes_free]⟩
  · simp only [if_neg store] at access ⊢
    obtain ⟨len, either, loaded⟩ := hartLoad_reads (rd := rd) (sx := op == 2) access (hartRead_flash there)
    exact ⟨len, either, by rw [loaded]⟩

end

theorem flashAccessesComplete : Claims.FlashAccessesComplete := by
  intro h op va n v rd s t ps hh runs size kind need found flash
  refine ⟨fun bars => execFlashAccess_refused hh runs size kind found flash ?_, fun server above feature qs u access =>
    execFlashAccess_served hh runs size kind found flash ?_ access⟩
  · obtain other | user | absent := bars
    · simp [State.mayFlash, other]
    · simp [State.mayFlash, user]
    · simp [State.mayFlash, absent]
  · simp [State.mayFlash, server, above, feature]

/-- Settles O45: each kind of access by its checks and what it reads and writes, and those to the flash tier as loads and stores. -/
theorem hartAndFlashAccessesComplete : Obligations.HartAndFlashAccessesComplete :=
  ⟨hartAccessesComplete, flashAccessesComplete⟩

end Sys2Proof.Machine
